-- ==== Sys2Proof/Word.lean ====
section
/-! DEFINITION. The word types of the LNV-4768 (R5, R9, R147): a slice is 4 bits, a memory byte 8, a register or instruction word 64. -/
namespace Sys2Proof

/-- One 4-bit slice of a thread's register file. -/
abbrev Nib := BitVec 4
/-- One byte of memory. -/
abbrev Byte := BitVec 8
/-- A 64-bit quad: an address, a temporary, an instruction word. -/
abbrev Word := BitVec 64

end Sys2Proof
end

