-- ==== Sys2Proof/Machine/Bits.lean ====
section
/-! DEFINITION. Bit fields, extension, saturation and byte order on natural numbers (R5, R54). -/
namespace Sys2Proof.Machine

/-- Bits [lo + n - 1 : lo] of x. -/
def bits (x lo n : Nat) : Nat := x / 2 ^ lo % 2 ^ n
/-- Bit i of x. -/
def bitAt (x i : Nat) : Bool := bits x i 1 == 1
/-- The low n bits (Low of R54). -/
def low (n x : Nat) : Nat := x % 2 ^ n
/-- x with bits [lo + n - 1 : lo] replaced by v. -/
def setBits (x lo n v : Nat) : Nat := x - bits x lo n * 2 ^ lo + low n v * 2 ^ lo
/-- A Boolean as a bit. -/
def b2n (b : Bool) : Nat := if b then 1 else 0
/-- The signed value of an n-bit two's complement pattern. -/
def toS (n x : Nat) : Int := if 2 * low n x < 2 ^ n then (low n x : Int) else (low n x : Int) - (2 : Int) ^ n
/-- The n-bit pattern of an integer, modulo 2^n. -/
def ofI (n : Nat) (i : Int) : Nat := (i % (2 : Int) ^ n).toNat
/-- Sign extension of a w-bit pattern to n bits. -/
def sextTo (w n x : Nat) : Nat := ofI n (toS w x)
/-- A value clamped to a range. -/
def clampI (lo hi i : Int) : Int := if i < lo then lo else if hi < i then hi else i
/-- Sat of R54: the n-bit pattern of i clamped to the signed or unsigned n-bit range. -/
def satTo (n : Nat) (signed : Bool) (i : Int) : Nat :=
  if signed then ofI n (clampI (-((2 : Int) ^ (n - 1))) ((2 : Int) ^ (n - 1) - 1) i)
  else ofI n (clampI 0 ((2 : Int) ^ n - 1) i)
/-- Number of ones among the low n bits. -/
def popc : Nat → Nat → Nat
  | 0, _ => 0
  | n + 1, x => x % 2 + popc n (x / 2)
/-- Number of zeros below the lowest one among the low n bits; n when there is none. -/
def ctz : Nat → Nat → Nat
  | 0, _ => 0
  | n + 1, x => if x % 2 = 1 then 0 else ctz n (x / 2) + 1
/-- The low n bits in reverse order. -/
def brev : Nat → Nat → Nat
  | 0, _ => 0
  | n + 1, x => x % 2 * 2 ^ n + brev n (x / 2)
/-- Number of zeros above the highest one among the low n bits; n when there is none. -/
def clz (n x : Nat) : Nat := ctz n (brev n x)
/-- The bytes of x, least significant first (R5). -/
def leBytes : Nat → Nat → List Byte
  | 0, _ => []
  | n + 1, x => BitVec.ofNat 8 x :: leBytes n (x / 256)
/-- The number whose bytes, least significant first, are given (R5). -/
def ofLe : List Byte → Nat
  | [] => 0
  | b :: r => b.toNat + 256 * ofLe r
/-- The number whose n-bit digits, least significant first, are given. -/
def ofDigits (n : Nat) : List Nat → Nat
  | [] => 0
  | d :: r => low n d + 2 ^ n * ofDigits n r
/-- The first c digits of n bits each of x, least significant first. -/
def digits (n : Nat) : Nat → Nat → List Nat
  | 0, _ => []
  | c + 1, x => low n x :: digits n c (x / 2 ^ n)
/-- The bits set in the low n bits of x, ascending. -/
def setBitsOf (n x : Nat) : List Nat := (List.range n).filter (bitAt x)
/-- A 64-bit word of a number. -/
def wd (x : Nat) : Word := BitVec.ofNat 64 x
/-- Slices(width) of Table 01-6. -/
def codeSlices (c : Nat) : Nat := [1, 2, 3, 4, 6, 8, 12, 16].getD c 1
/-- Bits(width) of Table 01-6. -/
def codeBits (c : Nat) : Nat := 4 * codeSlices c
/-- The signed difference of two extended 50-bit clocks (R232). -/
def clkDiff (a b : Nat) : Int := toS 50 (ofI 50 ((a : Int) - b))
/-- Whether extended clock a lies below b (R232). -/
def clkLt (a b : Nat) : Bool := clkDiff a b < 0
/-- The greater of two extended clocks (R232). -/
def clkMax (a b : Nat) : Nat := if clkLt a b then b else a
/-- The first element of a list that passes a test, with the list without it. -/
def takeFirst {α : Type} (p : α → Bool) : List α → Option (α × List α)
  | [] => none
  | a :: r => if p a then some (a, r) else (takeFirst p r).map fun x => (x.1, a :: x.2)
/-- The element with the least measure; the earlier one on a tie. -/
def minBy {α : Type} (lt : α → α → Bool) : List α → Option α
  | [] => none
  | a :: r => match minBy lt r with
    | none => some a
    | some b => if lt b a then some b else some a
/-- Insertion of an element before the first greater one. -/
def insertBy {α : Type} (lt : α → α → Bool) (a : α) : List α → List α
  | [] => [a]
  | b :: r => if lt a b then a :: b :: r else b :: insertBy lt a r
/-- Stable sort. -/
def sortBy {α : Type} (lt : α → α → Bool) : List α → List α
  | [] => []
  | a :: r => insertBy (fun x y => !lt y x) a (sortBy lt r)

/-- CRC-32C, one byte (R178). -/
def crcBits : Nat → Nat → Nat
  | 0, c => c
  | n + 1, c => crcBits n (if c % 2 = 1 then Nat.xor (c / 2) 0x82F63B78 else c / 2)
def crcByte (c : Nat) (b : Byte) : Nat := crcBits 8 (Nat.xor c b.toNat)
/-- CRC-32C of bytes. -/
def crc32c (b : List Byte) : Nat := Nat.xor (b.foldl crcByte 0xFFFFFFFF) 0xFFFFFFFF

end Sys2Proof.Machine
end

