-- ==== Sys2Proof/Syntax.lean ====
section
/-! DEFINITION. The syntax of Fretor: the operand fields and word formats of 01 and 02, and one constructor of Instr for every row of the opcode table. A row of the table that is no instruction word is an event: a step of the machine that an outside party or the hardware itself brings about. -/
namespace Sys2Proof

/-- The suffix of an integer family (Table 02-2). -/
inductive IType where
  | s8 | z8 | s16 | z16 | s32 | z32 | s64 | z64
deriving DecidableEq, Repr
/-- The type of a float family (R43). -/
inductive FType where
  | f64 | f32 | f16 | bf16
deriving DecidableEq, Repr
/-- A scope (R44). -/
inductive Scope where
  | thread | team | core | cluster | stack | package | pod
deriving DecidableEq, Repr
/-- A type of cvt (R49). -/
inductive CvtType where
  | f64 | f32 | f16 | bf16 | e4m3 | e5m2 | e2m1 | sint
deriving DecidableEq, Repr
/-- The element type of dot (Table 02-6). -/
inductive DotType where
  | f16 | bf16 | s8 | e4m3 | e5m2
deriving DecidableEq, Repr
/-- The half type of dsmul (Table 02-6). -/
inductive HalfType where
  | f16 | bf16
deriving DecidableEq, Repr
/-- The vector type of dist (R52). -/
inductive DistType where
  | f16 | bf16 | s8 | ds8
deriving DecidableEq, Repr
/-- The operator tag of chup (Table 02-9). -/
inductive ChTag where
  | addS32 | addS64 | addF32 | addF64 | addBf16x2 | addF16x2 | addQ32 | minS32
  | minZ32 | minF32 | maxS32 | maxZ32 | maxF32 | and | or | xor
deriving DecidableEq, Repr

/-- An operand field (R17): slice start and width code, special code and width code, index register, offset and width code, or an immediate. -/
inductive Operand where
  | slice (start : BitVec 10) (w : BitVec 3)
  | special (code : BitVec 10) (w : BitVec 3)
  | indexed (x : BitVec 2) (off : BitVec 8) (w : BitVec 3)
  | imm (v : BitVec 13)
deriving DecidableEq, Repr
/-- The guard field (R13). -/
structure Guard where
  neg : Bool
  pred : BitVec 5
deriving DecidableEq, Repr
/-- The guard and the stall or counter field, which Formats A, L and J share (R9). -/
structure Hdr where
  guard : Guard
  sc : BitVec 3
deriving DecidableEq, Repr
/-- The modifier word (Table 01-3). -/
structure Modifier where
  c : Operand
  sat : Bool
  clamp : BitVec 2
  negA : Bool
  absA : Bool
  negB : Bool
  absB : Bool
  negC : Bool
  absC : Bool
  scale : BitVec 6
  round : BitVec 3
deriving DecidableEq, Repr
/-- A predicate destination field (Table 03-3). -/
structure PDst where
  pa : BitVec 5
  pb : BitVec 5
  cond : BitVec 5
deriving DecidableEq, Repr
/-- A predicate source field (Table 03-4); its bits [14:6] are zero in a legal word. -/
structure PSrc where
  neg : Bool
  pred : BitVec 5
deriving DecidableEq, Repr
/-- Format A without a modifier (Table 01-1). -/
structure FmtA where
  hdr : Hdr
  d : Operand
  a : Operand
  b : Operand
deriving DecidableEq, Repr
/-- Format A of an instruction that a modifier word may follow (R14, R15). -/
structure FmtM where
  hdr : Hdr
  d : Operand
  a : Operand
  b : Operand
  mod : Option Modifier
deriving DecidableEq, Repr
/-- Format A with predicate destinations and integer sources (R57). -/
structure FmtP where
  hdr : Hdr
  d : PDst
  a : Operand
  b : Operand
deriving DecidableEq, Repr
/-- Format A with predicate destinations, sources and a possible modifier (fcmp). -/
structure FmtPM where
  hdr : Hdr
  d : PDst
  a : Operand
  b : Operand
  mod : Option Modifier
deriving DecidableEq, Repr
/-- Format A with predicate destinations and two predicate sources (R73). -/
structure FmtQ where
  hdr : Hdr
  d : PDst
  a : PSrc
  b : PSrc
deriving DecidableEq, Repr
/-- Format A of pmov: one predicate source. -/
structure FmtR where
  hdr : Hdr
  d : PDst
  a : PSrc
  b : Operand
deriving DecidableEq, Repr
/-- Format A of lvote: a predicate source and a possible modifier (R117). -/
structure FmtVM where
  hdr : Hdr
  d : Operand
  a : PSrc
  b : Operand
  mod : Option Modifier
deriving DecidableEq, Repr
/-- Format L (R11). -/
structure FmtL where
  hdr : Hdr
  d : Operand
  imm : BitVec 30
deriving DecidableEq, Repr
/-- Format J (Table 01-2). -/
structure FmtJ where
  hdr : Hdr
  link : BitVec 5
  off : BitVec 40
deriving DecidableEq, Repr
/-- The trailer (Table 01-4). -/
structure FmtT where
  len : BitVec 5
  wait : BitVec 8
  yld : Bool
  pub0 : Operand
  pub1 : Operand
deriving DecidableEq, Repr

/-- A run of bytes, lowest address first. -/
abbrev Bytes := List Byte
/-- The quads of a packet, descriptor or record, first quad first. -/
abbrev Quads := List Word
/-- A unit with a completion counter (Table 06-7), by its number in State. -/
inductive UnitRef where
  | team (n : Nat) | launch (n : Nat) | graph (n : Nat) | leg (n : Nat) | job (n : Nat)
deriving DecidableEq, Repr
/-- What a trap carries (Tables 23-1, 23-2). -/
structure TrapInfo where
  cls : Nat
  code : Nat
  addr : Word
  det1 : Word
  det2 : Word
  det3 : Word
  pos : Word
  mid : Bool
deriving DecidableEq, Repr

/-- A request to a page walker (R419, R421): serving stack, context, address, access (1 read, 2 write, 4 fetch), source bit of Table 23-5. -/
structure WalkReq where
  stack : Nat
  ctx : Nat
  va : Word
  acc : Nat
  src : Nat
deriving DecidableEq, Repr
/-- An access of the guest die on the coherent port: the packet it belongs to (queue and ticket) and the sector's physical address (R375, R381). -/
structure GuestAcc where
  q : Nat
  ticket : Nat
  pa : Nat
deriving DecidableEq, Repr
/-- The guest packets, by queue and ticket, that a guest die returns unperformed (R377). -/
abbrev GuestTickets := List (Nat × Nat)
/-- The hello message of a guest die, with the digest of its image (R369), and the lanes on which its link trained (R368). -/
structure Hello where
  queues : Nat
  version : Nat
  digest : Nat
  lanes : Nat
deriving DecidableEq, Repr
/-- The seal of a packet (R449). -/
structure Seal where
  tag : Nat
  seqn : Nat
  domain : Nat
  epoch : Nat
deriving DecidableEq, Repr
/-- What the check of R243 asks of the issuing team, as it stood when the packet was made: its stack, package and pod floors, and its acquired-from table as tags and serials (R241, R242). -/
structure TeamView where
  stack : Nat
  package : Nat
  pod : Nat
  acquired : List (Nat × Nat)
deriving DecidableEq, Repr
/-- A fabric packet (Table 19-3). The issuing tenant, team tag and stamp, and the team's view, which R243, R316 and R425 need at the target, stand beside the header (log entry 9), and so does `via`, one more than the table key of the global link that the source has chosen for it (R353), 0 for none. -/
structure Packet where
  kind : Nat
  src : Nat
  dst : Nat
  bytes : Nat
  status : Nat
  sealed : Option Seal
  va : Nat
  tag : Nat
  op : Nat
  ext : Nat
  payload : Bytes
  tenant : Nat
  team : Nat
  stamp : Nat
  view : TeamView
  via : Nat := 0
deriving DecidableEq, Repr
/-- A flit as it crosses a link (Table 19-2): the CRC in its bytes 248 to 251, its returns for lanes 0 to 7, and its packet area: packets, or the words of a census (its eight counts), a replay request (the seq it names) or an identification (device and link number). -/
structure Flit where
  crc : Nat
  kind : Nat
  seq : Nat
  ack : Nat
  ret : List Nat
  packets : List Packet
  info : List Nat
deriving DecidableEq, Repr
/-- The eight counts of a census flit (R352). -/
abbrev Counts := List Nat
/-- A phase completion on its way down (R328): handle, phase, completion word and the floor it carries. -/
structure PhaseDelivery where
  handle : Word
  phase : Nat
  word : Word
  floor : Nat
deriving DecidableEq, Repr
/-- A phaser allocation (R325): the record of Table 17-3 and where the handle goes; q is the queue, or none for a management command. -/
structure PhaserAlloc where
  record : Nat
  q : Option Nat
  addr : Word
deriving DecidableEq, Repr
/-- The engine queues of a team (R187). -/
inductive EngineQueue where
  | matrix | copy | converter | guest
deriving DecidableEq, Repr
/-- A command under a signature: its command count, the digest of its message and the signature (R444, R445). -/
structure Signed where
  count : Nat
  msg : Nat
  sig : Nat
deriving DecidableEq, Repr
/-- A queue descriptor (R429). -/
structure QueueDesc where
  base : Nat
  inHost : Bool
  z : Nat
  tenant : Nat
  ctx : Nat
  job : Nat
  priv : Bool
  cap : Nat
deriving DecidableEq, Repr
/-- The four quads of a context descriptor, least significant first (Table 24-8). -/
abbrev CtxWrite := Quads
/-- The budgets of a tenant (Table 24-7). -/
structure BudgetVals where
  cores : Nat
  bandwidth : Nat
  power : Nat
deriving DecidableEq, Repr
/-- What the trust core meets at a start (R445, R453, R454): whether the firmware and the section digests check, the image's digest, version and signature, and the configuration it carries: device number, pod, the devices present, guest queues with base and entries of their rings (R370), the switch ports of each device's uplinks (R323), slot tables by table key with control word and entries (R355), the address of the context table (R430), queue descriptors (R429), budgets (R439) and fault rings by stack (R442); with them the lanes on which the host link trained (R427). -/
structure StartInput where
  firmwareOk : Bool
  digestsOk : Bool
  image : Nat
  version : Nat
  sig : Nat
  devno : Nat
  inPod : Bool
  present : List Nat
  guestQueues : List (Nat × Nat × Nat)
  guestDigest : Nat
  uplinks : List (Nat × List (Nat × Nat))
  slotTables : List (Nat × Word × Quads)
  ctxTable : Nat
  queues : List (Nat × QueueDesc)
  budgets : List (Nat × BudgetVals)
  faultRings : List (Nat × Nat)
  hostLanes : Nat
deriving DecidableEq, Repr
/-- A domain command (R446): domain, members, epoch, the secret unwrapped for this member, tenants bound and physical ranges assigned. -/
structure DomainCmd where
  domain : Nat
  members : List Nat
  epoch : Nat
  secret : Nat
  tenants : List Nat
  ranges : List (Nat × Nat)
deriving DecidableEq, Repr
/-- A revocation (R452): domain, removed devices, new secret. -/
structure RevokeCmd where
  domain : Nat
  removed : List Nat
  secret : Nat
deriving DecidableEq, Repr
/-- Where a soft error of the SRAM arrays stands (R456): a thread's slice quad, a scratchpad word, accumulator word, second-level line or other array word. -/
inductive SramPlace where
  | slices (th first : Nat) | scratchpad (team off : Nat) | accumulator (team slot row col : Nat)
  | line (pa : Nat) | serviceGroup (cluster : Nat) | other
deriving DecidableEq, Repr
/-- A soft error and whether it can be corrected. -/
structure SramError where
  place : SramPlace
  unc : Bool
deriving DecidableEq, Repr


/-- The instruction words and the events of spec/opcode_table.json, one constructor a row. -/
inductive Instr where
  | iadd (t : IType) (f : FmtM)
  | isub (t : IType) (f : FmtM)
  | imul (t : IType) (f : FmtM)
  | imulh (t : IType) (f : FmtA)
  | imad (t : IType) (f : FmtM)
  | idiv (t : IType) (f : FmtA)
  | irem (t : IType) (f : FmtA)
  | imin (t : IType) (f : FmtA)
  | imax (t : IType) (f : FmtA)
  | iabs (t : IType) (f : FmtM)
  | ineg (t : IType) (f : FmtM)
  | icmp (t : IType) (f : FmtP)
  | sxt (f : FmtA)
  | zxt (f : FmtA)
  | mov (f : FmtA)
  | movi (f : FmtL)
  | lea (f : FmtA)
  | isel (f : FmtM)
  | shl (f : FmtA)
  | shr (f : FmtA)
  | sar (f : FmtA)
  | rot (f : FmtA)
  | land (f : FmtA)
  | lor (f : FmtA)
  | lxor (f : FmtA)
  | landn (f : FmtA)
  | popc (f : FmtA)
  | clz (f : FmtA)
  | ctz (f : FmtA)
  | brev (f : FmtA)
  | bfxS (f : FmtM)
  | bfxZ (f : FmtM)
  | bfi (f : FmtM)
  | ffcs (f : FmtA)
  | plset (f : FmtA)
  | perm (f : FmtA)
  | pset (f : FmtP)
  | pand (f : FmtQ)
  | por (f : FmtQ)
  | pxor (f : FmtQ)
  | pmov (f : FmtR)
  | bra (f : FmtJ)
  | brx (f : FmtA)
  | call (f : FmtJ)
  | ret (f : FmtA)
  | exit (f : FmtA)
  | task (f : FmtA)
  | yield (f : FmtA)
  | winb (f : FmtL)
  | nop (f : FmtA)
  | trail (f : FmtT)
  | ldRlx (f : FmtA)
  | stRlx (f : FmtA)
  | ldSc (f : FmtA)
  | stSc (f : FmtA)
  | ldx (f : FmtA)
  | ldAcq (sco : Scope) (f : FmtA)
  | stRel (sco : Scope) (f : FmtA)
  | spill (f : FmtA)
  | fill (f : FmtA)
  | pf (f : FmtA)
  | sbind (f : FmtA)
  | fadd (f : FType) (f : FmtM)
  | fsub (f : FType) (f : FmtM)
  | fmul (f : FType) (f : FmtM)
  | fma (f : FType) (f : FmtM)
  | fms (f : FType) (f : FmtM)
  | fnma (f : FType) (f : FmtM)
  | fmin (f : FType) (f : FmtM)
  | fmax (f : FType) (f : FmtM)
  | fcmp (f : FType) (f : FmtPM)
  | fdiv (f : FType) (f : FmtM)
  | fsqrt (f : FType) (f : FmtM)
  | frcp (f : FType) (f : FmtM)
  | frsq (f : FType) (f : FmtM)
  | fexp2 (f : FType) (f : FmtM)
  | flog2 (f : FType) (f : FmtM)
  | fsin (f : FType) (f : FmtM)
  | fcos (f : FType) (f : FmtM)
  | ftanh (f : FType) (f : FmtM)
  | fsig (f : FType) (f : FmtM)
  | fclass (f : FType) (f : FmtM)
  | fround (f : FType) (f : FmtM)
  | cvt (td : CvtType) (ts : CvtType) (f : FmtM)
  | pack (f : FmtM)
  | unpack (f : FmtM)
  | lshf (f : FmtM)
  | lbcast (f : FmtM)
  | lrot (f : FmtM)
  | lvote (f : FmtVM)
  | lredAdd (f : FType) (f : FmtM)
  | lredMin (f : FType) (f : FmtM)
  | lredMax (f : FType) (f : FmtM)
  | lscanAdd (f : FType) (f : FmtM)
  | lscanMin (f : FType) (f : FmtM)
  | lscanMax (f : FType) (f : FmtM)
  | dot (dt : DotType) (f : FmtM)
  | dsmul (h : HalfType) (f : FmtM)
  | mma (f : FmtA)
  | mwait (f : FmtA)
  | mrow (f : FmtA)
  | macc (f : FmtA)
  | mzero (f : FmtA)
  | cpy (f : FmtA)
  | cpy2d (f : FmtA)
  | cpyg (f : FmtA)
  | cvq (f : FmtA)
  | cvd (f : FmtA)
  | pinit (f : FmtA)
  | pwait (f : FmtA)
  | prelRelease (f : FmtA)
  | prelLeave (f : FmtA)
  | prelJoin (f : FmtA)
  | pphase (f : FmtA)
  | cbpass (f : FmtA)
  | cbwait (f : FmtA)
  | qfence (f : FmtA)
  | gsub (f : FmtA)
  | gwait (f : FmtA)
  | atmAdd (f : FmtA)
  | atmMinS (f : FmtA)
  | atmMinZ (f : FmtA)
  | atmMaxS (f : FmtA)
  | atmMaxZ (f : FmtA)
  | atmAnd (f : FmtA)
  | atmOr (f : FmtA)
  | atmXor (f : FmtA)
  | atmExch (f : FmtA)
  | atmCas (f : FmtA)
  | atmCas128 (f : FmtA)
  | atmBfi (f : FmtA)
  | atmFfcs (f : FmtA)
  | atmPlset (f : FmtA)
  | atmAddFloat (f : FType) (f : FmtA)
  | atmMinFloat (f : FType) (f : FmtA)
  | atmMaxFloat (f : FType) (f : FmtA)
  | redAdd (f : FmtA)
  | redMinS (f : FmtA)
  | redMinZ (f : FmtA)
  | redMaxS (f : FmtA)
  | redMaxZ (f : FmtA)
  | redAnd (f : FmtA)
  | redOr (f : FmtA)
  | redXor (f : FmtA)
  | redAddFloat (f : FType) (f : FmtA)
  | chup (g : ChTag) (f : FmtA)
  | chfl (f : FmtA)
  | fence (f : FmtA)
  | sfence (f : FmtA)
  | bar (f : FmtA)
  | barw (f : FmtA)
  | twait (f : FmtA)
  | map (f : FmtA)
  | unmap (f : FmtA)
  | wopen (f : FmtA)
  | wclose (f : FmtA)
  | phreg (f : FmtA)
  | phleave (f : FmtA)
  | phsig (f : FmtA)
  | phsigb (f : FmtA)
  | phany (f : FmtA)
  | phwait (f : FmtA)
  | phtry (f : FmtA)
  | phget (f : FmtA)
  | fld (f : FmtA)
  | fst (f : FmtA)
  | fatm (f : FmtA)
  | bulk (f : FmtA)
  | acset (f : FmtA)
  | acwait (f : FmtA)
  | ffence (f : FmtA)
  | trap (f : FmtA)
  | rfx (f : FmtA)
  | brk (f : FmtA)
  | sysrd (f : FmtA)
  | syswr (f : FmtA)
  | tlbinv (f : FmtA)
  | cacheopClean (f : FmtA)
  | cacheopFlush (f : FmtA)
  | cacheopDrop (f : FmtA)
  | cacheopZero (f : FmtA)
  | cacheopL1all (f : FmtA)
  | cacheopL2all (f : FmtA)
  | cancel (f : FmtA)
  | topk (f : FmtA)
  | kmerge (f : FmtA)
  | skim (f : FmtA)
  | kfilt (f : FmtP)
  | distL2 (v : DistType) (f : FmtA)
  | distIp (v : DistType) (f : FmtA)
  | distCos (v : DistType) (f : FmtA)
  | variableLatencyCompletion (th : Nat) (dc : Nat)
  | trapEntry (th : Nat) (trp : TrapInfo)
  | heldRelease (th : Nat)
  | yieldExpiry (th : Nat)
  | taskBind (team : Nat)
  | faultReplay (th : Nat)
  | censusSend (link : Nat)
  | preemptionEntry (team : Nat)
  | preemptionTimeout (team : Nat)
  | teamSave (team : Nat)
  | teamResume (team : Nat)
  | faultTimeout (stack : Nat) (ticket : Nat)
  | floorReport (node : Nat)
  | belayBeat (node : Nat)
  | identificationTimeout (link : Nat)
  | peerAckTimeout (dev : Nat) (line : Nat)
  | snoopTimeout (sector : Nat)
  | guestFaultDeadline (q : Nat) (ticket : Nat)
  | guestFaultCompletionTimeout (q : Nat) (ticket : Nat)
  | preemptAckTimeout (pid : Nat)
  | fabricRead (p : Packet)
  | fabricWrite (p : Packet)
  | fabricAtomic (p : Packet)
  | bulkPiece (p : Packet)
  | fabricInvalidate (p : Packet)
  | fabricMergeRecall (p : Packet)
  | drainMarker (p : Packet)
  | readResponse (p : Packet)
  | atomicResponse (p : Packet)
  | writeAcknowledgement (p : Packet)
  | invalidateAcknowledgement (p : Packet)
  | partialPacket (p : Packet)
  | sendQueueDepart (dest : Nat)
  | slotTableSwitch (link : Nat)
  | linkRetire (link : Nat)
  | belayNodeCycle (node : Nat)
  | nodeForward (node : Nat)
  | completionDelivery (d : PhaseDelivery)
  | boundSignalRelease (bid : Nat)
  | phaserFree (handle : Word)
  | stageAddition (team : Nat) (cmd : Nat)
  | pinitEffect (team : Nat) (cmd : Nat)
  | mmaGroupRetire (team : Nat)
  | engineCommandCompletion (team : Nat) (eq : EngineQueue)
  | acwaitTimeout (th : Nat) (oid : Nat)
  | ffenceTimeout (th : Nat) (oid : Nat)
  | queueFetch (q : Nat)
  | queueRetryRead (q : Nat)
  | queueStall (q : Nat)
  | waitPoll (launch : Nat)
  | mirrorWrite (unit : UnitRef)
  | placementPreempt (launch : Nat)
  | fixedLatencyWriteback (th : Nat)
  | pickerCycle
  | teamPlacement
  | hostCancel (unit : UnitRef)
  | preemptionRequest (team : Nat)
  | pageWalk (req : WalkReq)
  | faultAnswer (ans : Word)
  | scPerform
  | epochAdvance
  | deviceLost (dev : Nat)
  | readShared (core : Nat) (line : Nat)
  | readOwn (core : Nat) (line : Nat)
  | upgrade (core : Nat) (line : Nat)
  | join (core : Nat) (line : Nat) (tag : ChTag) (sigma : Int)
  | invalidate (core : Nat) (line : Nat)
  | recall (core : Nat) (line : Nat) (keep : Bool)
  | mergeRecall (core : Nat) (line : Nat)
  | wbreq (core : Nat) (line : Nat)
  | wbgrant (core : Nat) (line : Nat)
  | wbData (core : Nat) (line : Nat)
  | hostMemRead (pa : Nat) (n : Nat) (keep : Bool)
  | hostMemWrite (pa : Nat) (data : Bytes) (own : Bool)
  | hostWriteback (sector : Nat) (data : Bytes)
  | bisnpResponse (sector : Nat) (inv : Bool) (data : Bytes)
  | rdcurr (g : GuestAcc)
  | rdshared (g : GuestAcc)
  | rdown (g : GuestAcc)
  | rdownnodata (g : GuestAcc)
  | itomwr (g : GuestAcc) (data : Bytes)
  | wrcur (g : GuestAcc) (data : Bytes)
  | cleanevict (g : GuestAcc)
  | cleanevictnodata (g : GuestAcc)
  | dirtyevict (g : GuestAcc) (data : Bytes)
  | clflush (g : GuestAcc)
  | guestUnsupportedRequest (pa : Nat)
  | guestSnoopResponse (sector : Nat) (inv : Bool) (data : Bytes)
  | guestCompletion (q : Nat) (ticket : Nat) (result : Word) (code : Nat) (reason : Nat)
  | translate (q : Nat) (ticket : Nat) (va : Word) (acc : Nat)
  | guestFault (q : Nat) (ticket : Nat) (addr : Word) (acc : Nat) (fatal : Bool)
  | shootdownAck (sid : Nat)
  | preemptAck (pid : Nat) (saved : GuestTickets)
  | gateViolation (tenant : Nat)
  | hello (h : Hello)
  | guestOtherMessage
  | flitReceive (link : Nat) (flit : Flit)
  | replayRequest (link : Nat) (seq : Nat)
  | census (link : Nat) (counts : Counts)
  | identification (link : Nat) (dev : Nat) (plink : Nat)
  | slotStart
  | dataTimeStart
  | dataTimeEnd
  | drainReturn (dest : Nat) (path : Nat)
  | retireNotice (link : Nat) (seq : Nat)
  | uplinkFailover
  | phaserAllocation (a : PhaserAlloc)
  | kick (q : Nat) (v : Word)
  | kickRestart (q : Nat) (v : Word)
  | launchPacket (q : Nat) (entry : Quads)
  | legMark (q : Nat) (mirror : Word)
  | badPacket (q : Nat) (idx : Nat)
  | gateClose (tenant : Nat) (power : Bool)
  | gateOpen (tenant : Nat)
  | evheadWrite (v : Word)
  | bar0OtherAccess (off : Nat) (isWrite : Bool)
  | deviceStart (st : StartInput)
  | functionReady (bit : Nat)
  | startFailure (reason : Nat)
  | queueDescriptorInstall (c : Signed) (q : Nat) (d : QueueDesc)
  | contextDescriptorWrite (c : Signed) (ctx : Nat) (d : CtxWrite)
  | tenantContextMapWrite (c : Signed) (tenant : Nat) (v : Word)
  | budgetSet (c : Signed) (tenant : Nat) (b : BudgetVals)
  | slotTableInstall (c : Signed) (link : Nat) (ctl : Word) (entries : Quads)
  | faultRingSet (c : Signed) (stack : Nat) (addr : Nat)
  | domainCommand (c : Signed) (d : DomainCmd)
  | revocation (c : Signed) (d : RevokeCmd)
  | rootRotation (c : Signed) (vendor : Bool) (root : Nat)
  | counterClear (c : Signed)
  | retentionSleep (c : Signed)
  | retentionWake
  | anchorSiteReset
  | linkRestore (link : Nat)
  | attestationRequest (nonce : Nat) (domain : Nat)
  | sramError (x : SramError)
  | serviceGroupRestart (cluster : Nat)
  | belayNodeFailure (node : Nat)
  | hostSnoop (line : Nat)
  | hbm4eError (line : Nat) (word : Nat) (unc : Bool)
deriving DecidableEq, Repr

end Sys2Proof
end

