-- ==== Sys2Proof/Machine/Number.lean ====
section
/-! DEFINITION. Number formats, exact arithmetic, the one rounding, minimum and maximum, Churn operators (04, 08, 12). -/
namespace Sys2Proof.Machine

/-! ### Formats and values (R164 to R168) -/

/-- A float format: exponent and fraction widths and bias (Table 08-1). -/
structure Fmt where
  eb : Nat
  fb : Nat
  bias : Nat
deriving DecidableEq, Repr
def fmtF64 : Fmt := ⟨11, 52, 1023⟩
def fmtF32 : Fmt := ⟨8, 23, 127⟩
def fmtF16 : Fmt := ⟨5, 10, 15⟩
def fmtBf16 : Fmt := ⟨8, 7, 127⟩
def fmtE5m2 : Fmt := ⟨5, 2, 15⟩
def fmtE4m3 : Fmt := ⟨4, 3, 7⟩
def fmtE2m1 : Fmt := ⟨2, 1, 1⟩
def Fmt.width (f : Fmt) : Nat := f.eb + f.fb + 1
def ftFmt : FType → Fmt
  | .f64 => fmtF64
  | .f32 => fmtF32
  | .f16 => fmtF16
  | .bf16 => fmtBf16
/-- A value: NaN, an infinity, or (−1)^neg × m × 2^e, where m = 0 is a signed zero. -/
inductive FVal where
  | nan | inf (neg : Bool) | fin (neg : Bool) (m : Nat) (e : Int)
deriving DecidableEq, Repr
/-- The largest finite pattern without its sign. -/
def Fmt.maxFin (f : Fmt) : Nat :=
  if f = fmtE4m3 then 0x7E else if f = fmtE2m1 then 7 else (2 ^ f.eb - 1) * 2 ^ f.fb - 1
/-- The value of a pattern (R164, R165). -/
def decF (f : Fmt) (x : Nat) : FVal :=
  let s := bitAt x (f.eb + f.fb)
  let e := bits x f.fb f.eb
  let m := bits x 0 f.fb
  if f.maxFin < bits x 0 (f.eb + f.fb) then
    if m = 0 && f != fmtE4m3 then .inf s else .nan
  else if e = 0 then .fin s m (1 - (f.bias : Int) - f.fb)
  else .fin s (2 ^ f.fb + m) ((e : Int) - f.bias - f.fb)
/-- The canonical NaN (R95); +0 in e2m1. -/
def Fmt.nan (f : Fmt) : Nat :=
  if f = fmtE4m3 then 0x7F else if f = fmtE2m1 then 0 else (2 ^ f.eb - 1) * 2 ^ f.fb + 2 ^ (f.fb - 1)
/-- The infinity of a format that has one. -/
def Fmt.infBits (f : Fmt) : Nat := (2 ^ f.eb - 1) * 2 ^ f.fb
def Fmt.sign (f : Fmt) (s : Bool) (x : Nat) : Nat := b2n s * 2 ^ (f.eb + f.fb) + x
/-- Number of bits of m. -/
def bitLen (m : Nat) : Nat := if m = 0 then 0 else Nat.log2 m + 1
/-- m × 2^k for a signed k, cut below the point. -/
def shiftI (m : Nat) (k : Int) : Nat := if k < 0 then m / 2 ^ (-k).toNat else m * 2 ^ k.toNat
/-- The exponent of the least bit that a rounding to a format keeps of m × 2^e. -/
def Fmt.ulpExp (f : Fmt) (m : Nat) (e : Int) : Int := max (e + bitLen m - (f.fb + 1)) (1 - (f.bias : Int) - f.fb)
/-- Whether a rounding goes up in magnitude: lo is the kept part, rem of 2^sh the part cut off (Table 08-3, R97). -/
def roundUp (mode r : Nat) (neg : Bool) (lo rem sh : Nat) : Bool :=
  if rem = 0 then false
  else match mode with
    | 1 => false
    | 2 => !neg
    | 3 => neg
    | 4 => 2 ^ sh ≤ 2 * rem
    | 5 => if neg then (2 ^ sh - rem) * 2 ^ 24 / 2 ^ sh ≤ r else r < rem * 2 ^ 24 / 2 ^ sh
    | _ => 2 ^ sh < 2 * rem || (2 * rem == 2 ^ sh && lo % 2 == 1)
/-- The magnitude rounded at an exponent. -/
def roundAt (mode r : Nat) (neg : Bool) (m : Nat) (e u : Int) : Nat :=
  if u ≤ e then m * 2 ^ (e - u).toNat
  else
    let sh := (u - e).toNat
    let lo := m / 2 ^ sh
    lo + b2n (roundUp mode r neg lo (m % 2 ^ sh) sh)
/-- The pattern of a magnitude mant × 2^u that is a multiple of the least subnormal, without a sign; it may lie beyond the largest finite one. -/
def Fmt.pack (f : Fmt) (mant : Nat) (u : Int) : Nat :=
  if mant < 2 ^ f.fb then mant
  else
    let up := b2n (2 ^ (f.fb + 1) ≤ mant)
    let ex := (u - (1 - (f.bias : Int) - f.fb)).toNat + 1 + up
    ex * 2 ^ f.fb + (mant / 2 ^ up - 2 ^ f.fb)
/-- m × 2^e compared with the largest finite magnitude. -/
def Fmt.beyond (f : Fmt) (m : Nat) (e : Int) : Bool :=
  match decF f f.maxFin with
  | .fin _ m' e' => decide (shiftI m' (e' - min e e') < shiftI m (e - min e e'))
  | _ => false
/-- What replaces an overflow or an infinity in a destination type (Table 04-8). -/
def Fmt.over (f : Fmt) (mode : Nat) (sat : Bool) (neg source : Bool) : Nat :=
  if f = fmtE4m3 then (if sat then f.sign neg f.maxFin else f.nan)
  else if f = fmtE2m1 then f.sign neg f.maxFin
  else if sat || (!source && (mode == 1 || (mode == 2 && neg) || (mode == 3 && !neg))) then f.sign neg f.maxFin
  else f.sign neg f.infBits
/-- Round(e, type, mode) with the destination's rules for overflow, infinities, NaN and sat (R96 to R98, R110, R171); r is the draw of mode 5. -/
def roundF (f : Fmt) (mode r : Nat) (sat : Bool) (v : FVal) : Nat :=
  match v with
  | .nan => f.nan
  | .inf s => f.over mode sat s true
  | .fin s m e =>
    if m = 0 then f.sign s 0
    else
      let mode := if mode = 5 && f.beyond m e then 0 else mode
      let u := f.ulpExp m e
      let x := f.pack (roundAt mode r s m e u) u
      if f.maxFin < x then f.over mode sat s false else f.sign s x
/-- Whether a rounding into a format replaces the value by a bound, an infinity or NaN. -/
def Fmt.replaced (f : Fmt) (mode : Nat) (v : FVal) : Bool :=
  match v with
  | .fin s m e => m != 0 && (let mode := if mode = 5 && f.beyond m e then 0 else mode
      let u := f.ulpExp m e
      decide (f.maxFin < f.pack (roundAt mode 0 s m e u) u))
  | _ => true

/-! ### Exact arithmetic -/

def FVal.neg : FVal → FVal
  | .nan => .nan
  | .inf s => .inf !s
  | .fin s m e => .fin (!s) m e
def FVal.abs : FVal → FVal
  | .nan => .nan
  | .inf _ => .inf false
  | .fin _ m e => .fin false m e
def FVal.isNan : FVal → Bool
  | .nan => true
  | _ => false
def FVal.isFin : FVal → Bool
  | .fin _ _ _ => true
  | _ => false
/-- A finite value times 2^k (R98). -/
def FVal.scale (k : Int) : FVal → FVal
  | .fin s m e => .fin s m (e + k)
  | v => v
/-- The exact product (R101). -/
def FVal.mul (a b : FVal) : FVal :=
  match a, b with
  | .nan, _ => .nan
  | _, .nan => .nan
  | .inf s, .inf t => .inf (s != t)
  | .inf s, .fin t m _ => if m = 0 then .nan else .inf (s != t)
  | .fin s m _, .inf t => if m = 0 then .nan else .inf (s != t)
  | .fin s m e, .fin t n f => .fin (s != t) (m * n) (e + f)
/-- The exact sum; an exact zero of unlike terms is −0 only when rounding down (R98). -/
def FVal.add (down : Bool) (a b : FVal) : FVal :=
  match a, b with
  | .nan, _ => .nan
  | _, .nan => .nan
  | .inf s, .inf t => if s = t then .inf s else .nan
  | .inf s, .fin _ _ _ => .inf s
  | .fin _ _ _, .inf t => .inf t
  | .fin s m e, .fin t n f =>
    let u := min e f
    let x := m * 2 ^ (e - u).toNat
    let y := n * 2 ^ (f - u).toNat
    if s = t then .fin s (x + y) u
    else if x = y then .fin down 0 u
    else if y < x then .fin s (x - y) u
    else .fin t (y - x) u
/-- Bits below the result that division and root keep before the sticky bit. -/
def guardBits : Nat := 160
/-- The quotient with a sticky bit (R103). -/
def FVal.div (a b : FVal) : FVal :=
  match a, b with
  | .nan, _ => .nan
  | _, .nan => .nan
  | .inf _, .inf _ => .nan
  | .inf s, .fin t _ _ => .inf (s != t)
  | .fin s _ _, .inf t => .fin (s != t) 0 0
  | .fin s m e, .fin t n f =>
    if n = 0 then (if m = 0 then .nan else .inf (s != t))
    else
      let k := bitLen n + guardBits
      let q := m * 2 ^ k / n
      .fin (s != t) (2 * q + b2n (m * 2 ^ k % n != 0)) (e - f - k - 1)
/-- The integer square root, bit by bit from bit n − 1 down. -/
def isqrt (x : Nat) : Nat → Nat → Nat
  | 0, r => r
  | n + 1, r => let r' := r + 2 ^ n; isqrt x n (if r' * r' ≤ x then r' else r)
/-- The square root with a sticky bit (R103). -/
def FVal.sqrt (a : FVal) : FVal :=
  match a with
  | .nan => .nan
  | .inf s => if s then .nan else .inf false
  | .fin s m e =>
    if m = 0 then .fin s 0 e
    else if s then .nan
    else
      let k := 2 * guardBits + (e % 2).toNat
      let x := m * 2 ^ k
      let r := isqrt x (bitLen x / 2 + 1) 0
      .fin false (2 * r + b2n (r * r != x)) ((e - k) / 2 - 1)
/-- The exact value of an integer; zero is +0 (R109). -/
def FVal.ofInt (i : Int) : FVal := .fin (i < 0) i.natAbs 0
/-- The order of two numbers that are not NaN, −0 and +0 equal: a < b. -/
def FVal.lt (a b : FVal) : Bool :=
  match a, b with
  | .nan, _ => false
  | _, .nan => false
  | .inf s, .inf t => s && !t
  | .inf s, _ => s
  | _, .inf t => !t
  | .fin s m e, .fin t n f =>
    let u := min e f
    let x : Int := (if s then -1 else 1) * (m * 2 ^ (e - u).toNat : Nat)
    let y : Int := (if t then -1 else 1) * (n * 2 ^ (f - u).toNat : Nat)
    decide (x < y)
def FVal.eqv (a b : FVal) : Bool := !a.isNan && !b.isNan && !a.lt b && !b.lt a
def FVal.signed : FVal → Bool
  | .inf s => s
  | .fin s _ _ => s
  | .nan => false
/-- The order of R102, −0 below +0. -/
def FVal.below (a b : FVal) : Bool := a.lt b || (a.eqv b && a.signed && !b.signed)
/-- The value rounded to an integer by a mode (R171). -/
def roundInt (mode r : Nat) (v : FVal) : Int :=
  match v with
  | .fin s m e => let n : Int := (roundAt mode r s m e 0 : Nat); if s then -n else n
  | _ => 0

/-! ### Patterns -/

/-- Lesser or greater of two patterns of a format (R102). -/
def minMaxF (f : Fmt) (mx : Bool) (x y : Nat) : Nat :=
  let a := decF f x
  let b := decF f y
  if a.isNan then (if b.isNan then f.nan else y)
  else if b.isNan then x
  else if mx then (if a.below b then y else x) else (if b.below a then y else x)
/-- The sum of two patterns, rounded once (R184, R255). -/
def addF (f : Fmt) (mode : Nat) (x y : Nat) : Nat := roundF f mode 0 false ((decF f x).add (mode = 3) (decF f y))
/-- The clamp of R98. -/
def clampF (f : Fmt) (c y : Nat) : Nat :=
  let one := f.bias * 2 ^ f.fb
  if c = 0 then y
  else if (decF f y).isNan then 0
  else match c with
    | 1 => minMaxF f false (minMaxF f true y 0) one
    | 2 => minMaxF f false (minMaxF f true y (f.sign true one)) one
    | _ => minMaxF f false (minMaxF f true y (f.sign true f.maxFin)) f.maxFin
/-- absX, then negX, on a pattern (R14, R98). -/
def signMod (f : Fmt) (ab ng : Bool) (x : Nat) : Nat :=
  let w := f.eb + f.fb
  let x := if ab then low w x else x
  if ng then (if bitAt x w then low w x else x + 2 ^ w) else x
/-- One step of the generator, and its 24-bit draw (R97). -/
def drawNext (g : Nat) : Nat × Nat :=
  let g := Nat.xor g (low 64 (g * 2 ^ 13))
  let g := Nat.xor g (g / 2 ^ 7)
  let g := Nat.xor g (low 64 (g * 2 ^ 17))
  (g, bits g 40 24)
/-- The state of a generator started from a seed (R97, R202). -/
def seedOf (g : Nat) : Nat := if low 64 g = 0 then 1 else low 64 g
/-- The factor of R97 and R202. -/
def golden : Nat := 0x9E3779B97F4A7C15

/-! ### q32 (R169, R170) and ds8 (R168) -/

/-- Q32Of(x, σ, mode), as a 64-bit pattern. -/
def q32Of (v : FVal) (sigma : Int) (mode : Nat) : Nat :=
  match v with
  | .nan => 0
  | .inf s => if s then 2 ^ 63 else 2 ^ 63 - 1
  | v => satTo 64 true (roundInt mode 0 (v.scale (32 - sigma)))
/-- The value of a ds8 byte in units of 2^−7. -/
def ds8Units (x : Nat) : Int :=
  (if bitAt x 7 then -1 else 1) * (2 ^ (7 - bits x 4 3) : Nat) + (if bitAt x 3 then -1 else 1) * (2 ^ (7 - bits x 0 3) : Nat)
def decDs8 (x : Nat) : FVal := (FVal.ofInt (ds8Units x)).scale (-7)

/-! ### Churn operators (Tables 02-9, 12-3) -/

/-- Width of an element of a tag's line, and of the parts of a packed element. -/
def tagParts : ChTag → Nat
  | .addS64 | .addF64 | .addQ32 | .and | .or | .xor => 64
  | .addBf16x2 | .addF16x2 => 16
  | _ => 32
/-- The lesser or greater of two integer patterns. -/
def minMaxI (w : Nat) (signed mx : Bool) (x y : Nat) : Nat :=
  let lt := if signed then decide (toS w x < toS w y) else decide (x < y)
  if mx then (if lt then y else x) else (if lt then x else y)
/-- One part of two elements combined under a tag (R184, R261). -/
def churnPart : ChTag → Nat → Nat → Nat
  | .addS32, x, y => low 32 (x + y)
  | .addS64, x, y | .addQ32, x, y => low 64 (x + y)
  | .addF32, x, y => addF fmtF32 0 x y
  | .addF64, x, y => addF fmtF64 0 x y
  | .addBf16x2, x, y => addF fmtBf16 0 x y
  | .addF16x2, x, y => addF fmtF16 0 x y
  | .minS32, x, y => minMaxI 32 true false x y
  | .minZ32, x, y => minMaxI 32 false false x y
  | .minF32, x, y => minMaxF fmtF32 false x y
  | .maxS32, x, y => minMaxI 32 true true x y
  | .maxZ32, x, y => minMaxI 32 false true x y
  | .maxF32, x, y => minMaxF fmtF32 true x y
  | .and, x, y => Nat.land x y
  | .or, x, y => Nat.lor x y
  | .xor, x, y => Nat.xor x y
/-- Two runs of n bits combined part by part. -/
def churnBits (g : ChTag) (n x y : Nat) : Nat :=
  let w := tagParts g
  ofDigits w (List.zipWith (churnPart g) (digits w (n / w) x) (digits w (n / w) y))
/-- Op(g, x, y) of R288 on one line of 128 bytes. -/
def churnLine (g : ChTag) (x y : List Byte) : List Byte := leBytes 128 (churnBits g 1024 (ofLe x) (ofLe y))
/-- The identity of one part (Table 12-3). -/
def churnId : ChTag → Nat
  | .addF32 => 2 ^ 31
  | .addF64 => 2 ^ 63
  | .addBf16x2 | .addF16x2 => 2 ^ 15
  | .minS32 => 0x7FFFFFFF
  | .minZ32 => 0xFFFFFFFF
  | .minF32 => 0x7F800000
  | .maxS32 => 0x80000000
  | .maxF32 => 0xFF800000
  | .and => 2 ^ 64 - 1
  | _ => 0
/-- The identity line of a tag (Table 12-3). -/
def churnIdentity (g : ChTag) : List Byte :=
  leBytes 128 (ofDigits (tagParts g) (List.replicate (1024 / tagParts g) (churnId g)))

end Sys2Proof.Machine
end

