-- ==== Sys2Proof/Machine/Flags.lean ====
section
/-! DEFINITION. Conditions and classes: what compares, predicate instructions and fclass compute (R61, R73, R104, R105). The part keeps no flags. -/
namespace Sys2Proof.Machine

/-- A condition of icmp on two prepared sources (Table 03-6). -/
def icmpCond (c : Nat) (a b : Int) : Bool :=
  match c with
  | 0 => a == b
  | 1 => a != b
  | 2 => decide (a < b)
  | 3 => decide (a ≤ b)
  | 4 => decide (b < a)
  | _ => decide (b ≤ a)
/-- A condition of fcmp on two values (Table 04-5). -/
def fcmpCond (c : Nat) (a b : FVal) : Bool :=
  let un := a.isNan || b.isNan
  match c with
  | 0 => !un && a.eqv b
  | 1 => !un && !a.eqv b
  | 2 => !un && a.lt b
  | 3 => !un && !b.lt a
  | 4 => !un && b.lt a
  | 5 => !un && !a.lt b
  | 6 => un || a.eqv b
  | 7 => un || !a.eqv b
  | 8 => un || a.lt b
  | 9 => un || !b.lt a
  | 10 => un || b.lt a
  | 11 => un || !a.lt b
  | 12 => !un
  | _ => un
/-- The class mask of a pattern (R105). -/
def classOf (f : Fmt) (x : Nat) : Nat :=
  let e := bits x f.fb f.eb
  let m := bits x 0 f.fb
  let s := bitAt x (f.eb + f.fb)
  if e = 2 ^ f.eb - 1 then
    if m = 0 then (if s then 2 ^ 2 else 2 ^ 9) else if bitAt m (f.fb - 1) then 2 ^ 1 else 2 ^ 0
  else if e = 0 then
    if m = 0 then (if s then 2 ^ 5 else 2 ^ 6) else if s then 2 ^ 4 else 2 ^ 7
  else if s then 2 ^ 3 else 2 ^ 8

end Sys2Proof.Machine
end

