-- ==== Sys2Proof/Machine/Form.lean ====
section
/-! DEFINITION. The illegal-form conditions that the fields of a word decide (R40), instruction by instruction: operand kinds, special codes, width codes, immediates, unused fields, order codes and modifier fields. -/
namespace Sys2Proof.Machine

/-! ### Operand fields -/

/-- The special operand zero at width code 0, the value 0x20C0 of an unused field (R53). -/
def opZero : Operand := .special 0x18 0
/-- Width of an operand field in bits; an immediate has no width of its own and counts as 64 (R18). -/
def fieldBits : Operand → Nat
  | .slice _ w => codeBits w.toNat
  | .special _ w => codeBits w.toNat
  | .indexed _ _ w => codeBits w.toNat
  | .imm _ => 64
/-- The width code of an operand field. -/
def fieldCode : Operand → Nat
  | .slice _ w => w.toNat
  | .special _ w => w.toNat
  | .indexed _ _ w => w.toNat
  | .imm _ => 7
def isImm : Operand → Bool
  | .imm _ => true
  | _ => false
/-- Legal as a register source: anything but an immediate or an unassigned special code (Tables 01-5, 01-7). -/
def srcOk : Operand → Bool
  | .special c _ => c.toNat ≤ 0x1B
  | .imm _ => false
  | _ => true
/-- Legal as source B. -/
def srcBOk (o : Operand) : Bool := isImm o || srcOk o
/-- Legal as a destination. -/
def dstOk : Operand → Bool
  | .special c _ => c.toNat ≤ 0x18
  | .imm _ => false
  | _ => true
/-- A field that the instruction does not use. -/
def unused (o : Operand) : Bool := o == opZero
/-- Names consecutive quads: kind slice or indexed with width code 7 (R186, R256). -/
def quadsOk : Operand → Bool
  | .slice _ w => w == 7
  | .indexed _ _ w => w == 7
  | _ => false
/-- The signed value of an immediate field. -/
def immOf : Operand → Option Int
  | .imm v => some (toS 13 v.toNat)
  | _ => none
/-- An immediate between two bounds. -/
def immIn (lo hi : Int) (o : Operand) : Bool :=
  match immOf o with
  | some v => lo ≤ v && v ≤ hi
  | none => false
/-- An immediate of a list. -/
def immOneOf (l : List Int) (o : Operand) : Bool :=
  match immOf o with
  | some v => l.contains v
  | none => false
/-- Loads and stores move 1, 2, 4 or 8 bytes (R83, R309). -/
def memWidth (o : Operand) : Bool := [1, 3, 5, 7].contains (fieldCode o)
/-- An address operand whose low field bits carry an order code of a list (R250). -/
def orderOk (l : List Nat) (o : Operand) : Bool := srcOk o && l.contains (fieldCode o)
/-- A predicate destination field: two different predicates or a discard, and a condition below a bound (R57). -/
def pdstOk (n : Nat) (d : PDst) : Bool := (d.pa != d.pb || d.pa == 31) && d.cond.toNat < n
/-- A phaser handle operand (R297). -/
def handleOk (o : Operand) : Bool := srcOk o && fieldCode o == 7

/-! ### Elements (R93, R94) -/

/-- Element width of a float type. -/
def ftBits : FType → Nat
  | .f64 => 64
  | .f32 => 32
  | .f16 => 16
  | .bf16 => 16
/-- Whether Bits(D) holds a whole number of elements. -/
def elemsOk (w : Nat) (d : Operand) : Bool := w ≤ fieldBits d && fieldBits d % w == 0
/-- A source of an element-wise instruction: as wide as D, or one element wide. -/
def elemSrc (w : Nat) (d o : Operand) : Bool := srcOk o && (fieldBits o == fieldBits d || fieldBits o == w)
/-- Source B of an element-wise instruction. -/
def elemSrcB (w : Nat) (d o : Operand) : Bool := isImm o || elemSrc w d o
/-- Two-source element-wise form. -/
def elem2 (w : Nat) (d a b : Operand) : Bool := dstOk d && elemsOk w d && elemSrc w d a && elemSrcB w d b
/-- One-source element-wise form. -/
def elem1 (w : Nat) (d a b : Operand) : Bool := dstOk d && elemsOk w d && elemSrc w d a && unused b
/-- Source element width of cvt, none for an integer (R109). -/
def cvtBits : CvtType → Option Nat
  | .f64 => some 64
  | .f32 => some 32
  | .f16 => some 16
  | .bf16 => some 16
  | .e4m3 => some 8
  | .e5m2 => some 8
  | .e2m1 => some 4
  | .sint => none
/-- The widths of cvt; equal types are unassigned (R49, R109). -/
def cvtOk (td ts : CvtType) (d a : Operand) : Bool :=
  if td = ts then false
  else match cvtBits td, cvtBits ts with
  | some wd, some ws => fieldBits a % ws == 0 && ws ≤ fieldBits a && fieldBits d == fieldBits a / ws * wd
  | some wd, none => fieldBits d == wd
  | none, some ws => fieldBits a == ws
  | none, none => false
/-- Element width of dot, of dist. -/
def dotBits : DotType → Nat
  | .f16 => 16
  | .bf16 => 16
  | _ => 8
def distBits : DistType → Nat
  | .f16 => 16
  | .bf16 => 16
  | _ => 8
/-- The packed width and signedness that an immediate B of pack and unpack gives (R111). -/
def packWidth (b : Operand) : Option (Nat × Bool) :=
  match immOf b with
  | some v => if [4, 8, 16, 32].contains v then some (v.toNat, false) else if [-4, -8, -16, -32].contains v then some ((-v).toNat, true) else none
  | none => none
def packOk (d a b : Operand) : Bool :=
  match packWidth b with
  | some (p, _) => fieldBits a % (2 * p) == 0 && 2 * p ≤ fieldBits a && fieldBits d == fieldBits a / (2 * p) * p
  | none => false
def unpackOk (d a b : Operand) : Bool :=
  match packWidth b with
  | some (p, _) => fieldBits a % p == 0 && p ≤ fieldBits a && fieldBits d == 2 * (fieldBits a / p) * p
  | none => false

/-! ### Modifier fields (R15, R56, R99) -/

/-- Which modifier fields an instruction honours: absolute value and negation of A, of B, of C; the C field; scale; sat; clamp; rounding, with or without stochastic. -/
structure Honour where
  a : Bool := false
  b : Bool := false
  c : Bool := false
  negC : Bool := false
  absC : Bool := false
  scale : Bool := false
  sat : Bool := false
  clamp : Bool := false
  round : Bool := false
  stoch : Bool := true
deriving DecidableEq, Repr
/-- Whether a modifier leaves every field that is not honoured at zero, carries a legal C, and has a round field below 7 (R15, R22, R53). -/
def modOk (h : Honour) (m : Modifier) : Bool :=
  (h.a || (!m.negA && !m.absA)) && (h.b || (!m.negB && !m.absB)) && (h.negC || !m.negC) && (h.absC || !m.absC)
    && (if h.c then srcOk m.c else unused m.c) && (h.scale || m.scale == 0) && (h.sat || !m.sat) && (h.clamp || m.clamp == 0)
    && m.round != 7 && (if h.round then h.stoch || m.round != 5 else m.round == 0)
def hInt : Honour := { sat := true }
def hMad : Honour := { sat := true, c := true }
def hC : Honour := { c := true }
def hArith : Honour := { a := true, b := true, scale := true, round := true, sat := true, clamp := true }
def hFma : Honour := { hArith with c := true, negC := true, absC := true }
def hAB : Honour := { a := true, b := true }
def hSqrt : Honour := { a := true, scale := true, round := true, sat := true, clamp := true }
def hSpecial : Honour := { a := true, clamp := true }
def hA : Honour := { a := true }
def hRound : Honour := { a := true, round := true }
def hCvt : Honour := { a := true, scale := true, round := true, sat := true }
def hSat : Honour := { sat := true }
def hLane : Honour := { round := true, stoch := false }
def hDotF : Honour := { c := true, negC := true, round := true, sat := true }
def hDotS : Honour := { c := true, negC := true, sat := true }
def hDsmul : Honour := { a := true, c := true, negC := true, absC := true, scale := true, round := true, sat := true, clamp := true }
def hNone : Honour := {}
/-- The fields honoured by dot of an element type (Table 04-2). -/
def hDot : DotType → Honour
  | .s8 => hDotS
  | _ => hDotF
/-- The fields that an instruction honours, or none when it admits no modifier (Tables 02-3 to 02-10, 03-2, 04-2). -/
def honours : Instr → Option Honour
  | .iadd _ _ | .isub _ _ | .imul _ _ | .iabs _ _ | .ineg _ _ => some hInt
  | .imad _ _ => some hMad
  | .isel _ | .bfxS _ | .bfxZ _ | .bfi _ => some hC
  | .fadd _ _ | .fsub _ _ | .fmul _ _ | .fdiv _ _ => some hArith
  | .fma _ _ | .fms _ _ | .fnma _ _ => some hFma
  | .fmin _ _ | .fmax _ _ | .fcmp _ _ => some hAB
  | .fsqrt _ _ => some hSqrt
  | .frcp _ _ | .frsq _ _ | .fexp2 _ _ | .flog2 _ _ | .fsin _ _ | .fcos _ _ | .ftanh _ _ | .fsig _ _ => some hSpecial
  | .fclass _ _ => some hA
  | .fround _ _ => some hRound
  | .cvt _ _ _ => some hCvt
  | .pack _ => some hSat
  | .lredAdd _ _ | .lscanAdd _ _ => some hLane
  | .dot dt _ => some (hDot dt)
  | .dsmul _ _ => some hDsmul
  | .unpack _ | .lshf _ | .lbcast _ | .lrot _ | .lvote _ => some hNone
  | .lredMin _ _ | .lredMax _ _ | .lscanMin _ _ | .lscanMax _ _ => some hNone
  | _ => none
/-- A modifier's fields, when one follows. -/
def modsOk (h : Honour) : Option Modifier → Bool
  | none => true
  | some m => modOk h m
/-- The C operand, absent when the field holds 0x20C0 (Table 01-3). -/
def modC : Option Modifier → Option Operand
  | none => none
  | some m => if unused m.c then none else some m.c
/-- A C operand that an element-wise instruction takes. -/
def elemC (w : Nat) (d : Operand) (m : Option Modifier) : Bool :=
  match modC m with
  | none => true
  | some c => elemSrc w d c

/-! ### System registers (Table 21-2) -/

/-- Whether a number is assigned, and whether syswr may name it. -/
def sysReg (n : Nat) : Bool := n ≤ 8 || n == 0xC || (0x10 ≤ n && n < 0x28) || (0x30 ≤ n && n ≤ 0x34)
def sysWritable (n : Nat) : Bool := n ≤ 4 || n == 0xC || (0x10 ≤ n && n < 0x28) || n == 0x30
def sysNum (p : Nat → Bool) (o : Operand) : Bool :=
  match immOf o with
  | some v => 0 ≤ v && p v.toNat
  | none => false

/-! ### Instructions -/

/-- Two sources and a destination. -/
def form2 (f : FmtA) : Bool := dstOk f.d && srcOk f.a && srcBOk f.b
/-- One source and a destination. -/
def form1 (f : FmtA) : Bool := dstOk f.d && srcOk f.a && unused f.b
/-- No operand. -/
def form0 (f : FmtA) : Bool := unused f.d && unused f.a && unused f.b
def formM2 (f : FmtM) : Bool := dstOk f.d && srcOk f.a && srcBOk f.b
def formM1 (f : FmtM) : Bool := dstOk f.d && srcOk f.a && unused f.b
/-- Destination and immediate B. -/
def formImm (lo hi : Int) (f : FmtA) : Bool := dstOk f.d && unused f.a && immIn lo hi f.b
/-- A descriptor A (R186). -/
def formDesc (f : FmtA) : Bool := dstOk f.d && quadsOk f.a && unused f.b
/-- Integer atomics (R254). -/
def formAtm (widths : List Nat) (f : FmtA) : Bool :=
  dstOk f.d && orderOk [0, 1, 2, 3, 4] f.a && srcBOk f.b && widths.contains (fieldBits f.d) && (isImm f.b || fieldBits f.b == fieldBits f.d)
/-- Operand width of the float atomics (R255). -/
def fatBits (t : FType) : Nat := if t = .f64 then 64 else 32
def formAtmFloat (t : FType) (f : FmtA) : Bool :=
  dstOk f.d && orderOk [0, 1, 2, 3, 4] f.a && srcOk f.b && fieldBits f.d == fatBits t && fieldBits f.b == fatBits t
/-- Reductions (R257). -/
def formRed (f : FmtA) : Bool :=
  orderOk [0, 2] f.a && (if isImm f.b then f.d == .special 0x18 5 || f.d == .special 0x18 7
    else unused f.d && srcOk f.b && (fieldBits f.b == 32 || fieldBits f.b == 64))
/-- Element width of a chup tag (Table 12-3). -/
def tagBits : ChTag → Nat
  | .addS64 | .addF64 | .addQ32 | .and | .or | .xor => 64
  | _ => 32
/-- Whether the fields of a word are legal (R33, R40). An event has no fields. dsmul accepts an A of one 16-bit element under a wider D, and broadcasts it as R94 does, although R121 offers the broadcast for B alone (DESIGN CHOICE, log entry 42). -/
def formOk : Instr → Bool
  | .iadd _ f | .isub _ f | .imul _ f => formM2 f && modsOk hInt f.mod
  | .imad _ f => formM2 f && modsOk hMad f.mod
  | .iabs _ f | .ineg _ f => formM1 f && modsOk hInt f.mod
  | .imulh _ f | .idiv _ f | .irem _ f | .imin _ f | .imax _ f => form2 f
  | .icmp _ f => pdstOk 6 f.d && srcOk f.a && srcBOk f.b
  | .sxt f | .zxt f | .lea f | .shl f | .shr f | .sar f | .rot f | .land f | .lor f | .lxor f | .landn f | .ffcs f | .plset f | .perm f => form2 f
  | .mov f | .popc f | .clz f | .ctz f | .brev f => form1 f
  | .movi f => dstOk f.d
  | .isel f | .bfxS f | .bfxZ f | .bfi f => formM2 f && modsOk hC f.mod
  | .pset f => pdstOk 1 f.d && srcOk f.a && unused f.b
  | .pand f | .por f | .pxor f => pdstOk 1 f.d
  | .pmov f => pdstOk 1 f.d && unused f.b
  | .bra f => f.link == 0
  | .call f => f.link.toNat < 16
  | .brx f => unused f.d && srcOk f.a && unused f.b
  | .ret f | .exit f | .yield f | .nop f => form0 f
  | .task f => form2 f
  | .winb f => unused f.d
  | .trail f => 1 ≤ f.len.toNat && f.len.toNat ≤ 24 && pubOk f.pub0 && pubOk f.pub1
  | .ldRlx f | .ldSc f | .ldx f | .ldAcq _ f => form2 f && memWidth f.d
  | .stRlx f | .stSc f | .stRel _ f => srcOk f.d && srcOk f.a && srcBOk f.b && memWidth f.d
  | .spill f | .fill f => srcOk f.d && isNib f.a && srcBOk f.b
  | .pf f => unused f.d && srcOk f.a && srcBOk f.b
  | .sbind f => isPort f.d && srcOk f.a && srcBOk f.b
  | .fadd t f | .fsub t f | .fmul t f | .fdiv t f => elem2 (ftBits t) f.d f.a f.b && modsOk hArith f.mod
  | .fma t f | .fms t f | .fnma t f => elem2 (ftBits t) f.d f.a f.b && modsOk hFma f.mod && elemC (ftBits t) f.d f.mod
  | .fmin t f | .fmax t f => elem2 (ftBits t) f.d f.a f.b && modsOk hAB f.mod
  | .fcmp t f => pdstOk 14 f.d && srcOk f.a && fieldBits f.a == ftBits t && (isImm f.b || (srcOk f.b && fieldBits f.b == ftBits t)) && modsOk hAB f.mod
  | .fsqrt t f => elem1 (ftBits t) f.d f.a f.b && modsOk hSqrt f.mod
  | .frcp t f | .frsq t f | .fexp2 t f | .flog2 t f | .fsin t f | .fcos t f | .ftanh t f | .fsig t f => elem1 (ftBits t) f.d f.a f.b && modsOk hSpecial f.mod
  | .fclass t f => formM1 f && fieldBits f.a == ftBits t && modsOk hA f.mod
  | .fround t f => elem1 (ftBits t) f.d f.a f.b && modsOk hRound f.mod
  | .cvt td ts f => formM1 f && cvtOk td ts f.d f.a && modsOk hCvt f.mod
  | .pack f => dstOk f.d && srcOk f.a && packOk f.d f.a f.b && modsOk hSat f.mod
  | .unpack f => dstOk f.d && srcOk f.a && unpackOk f.d f.a f.b && modsOk hNone f.mod
  | .lshf f => formM2 f && fieldBits f.a % fieldBits f.d == 0 && modsOk hNone f.mod
  | .lbcast f => dstOk f.d && srcOk f.a && immIn 0 511 f.b && fieldBits f.a % fieldBits f.d == 0 && modsOk hNone f.mod
  | .lrot f => formM2 f && fieldBits f.a == fieldBits f.d && modsOk hNone f.mod
  | .lvote f => dstOk f.d && immIn 0 3 f.b && modsOk hNone f.mod
  | .lredAdd t f | .lscanAdd t f => formM1 f && elemsOk (ftBits t) f.d && fieldBits f.a == fieldBits f.d && modsOk hLane f.mod
  | .lredMin t f | .lredMax t f | .lscanMin t f | .lscanMax t f => formM1 f && elemsOk (ftBits t) f.d && fieldBits f.a == fieldBits f.d && modsOk hNone f.mod
  | .dot dt f => dstOk f.d && fieldBits f.d == 32 && srcOk f.a && srcOk f.b && fieldBits f.a == fieldBits f.b && fieldBits f.a % dotBits dt == 0
      && dotBits dt ≤ fieldBits f.a && modsOk (hDot dt) f.mod && (match modC f.mod with | none => true | some c => fieldBits c == 32)
  | .dsmul _ f => dstOk f.d && elemsOk 16 f.d && elemSrc 16 f.d f.a && srcOk f.b && (fieldBits f.b == 8 || 2 * fieldBits f.b == fieldBits f.d)
      && modsOk hDsmul f.mod && elemC 16 f.d f.mod
  | .mma f | .pinit f => formDesc f
  | .mwait f => formImm 0 31 f
  | .mrow f => formImm 0 15 f
  | .macc f => form2 f
  | .mzero f => formImm 0 63 f
  | .cpy f | .cpy2d f | .cpyg f | .cvq f | .cvd f => dstOk f.d && quadsOk f.a && srcBOk f.b
  | .pwait f => dstOk f.d && srcOk f.a && immIn 0 7 f.b
  | .prelRelease f => dstOk f.d && srcOk f.a && immIn 0 0 f.b
  | .prelLeave f => dstOk f.d && srcOk f.a && immIn 1 1 f.b
  | .prelJoin f => dstOk f.d && srcOk f.a && immIn 2 2 f.b
  | .pphase f => form1 f
  | .cbpass f => formImm (-1) 31 f
  | .cbwait f => formImm 0 1 f
  | .qfence f => formImm 0 15 f
  | .gsub f | .gwait f => form2 f
  | .atmAdd f | .atmMinS f | .atmMinZ f | .atmMaxS f | .atmMaxZ f | .atmAnd f | .atmOr f | .atmXor f | .atmExch f | .atmCas f | .atmBfi f => formAtm [32, 64] f
  | .atmFfcs f | .atmPlset f => formAtm [64] f
  | .atmCas128 f => quadsOk f.d && orderOk [0, 1, 2, 3, 4] f.a && quadsOk f.b
  | .atmAddFloat t f | .atmMinFloat t f | .atmMaxFloat t f => formAtmFloat t f
  | .redAdd f | .redMinS f | .redMinZ f | .redMaxS f | .redMaxZ f | .redAnd f | .redOr f | .redXor f => formRed f
  | .redAddFloat t f => orderOk [0, 2] f.a && unused f.d && srcOk f.b && fieldBits f.b == fatBits t
  | .chup g f => orderOk [0] f.a && srcOk f.b && fieldBits f.b == tagBits g && (if g = .addQ32 then srcOk f.d else unused f.d)
  | .chfl f => dstOk f.d && orderOk [0] f.a && unused f.b
  | .fence f => formImm 0 6 f
  | .sfence f => dstOk f.d && unused f.a && unused f.b
  | .bar f | .barw f => dstOk f.d && unused f.a && srcBOk f.b
  | .twait f => dstOk f.d && unused f.a && srcOk f.b
  | .map f => formDesc f
  | .unmap f => form1 f
  | .wopen f | .wclose f => form2 f
  | .phreg f => dstOk f.d && handleOk f.a && immOneOf [1, 2, 3, 5, 6, 7, 9, 10, 11] f.b
  | .phleave f | .phsig f => dstOk f.d && handleOk f.a && immOneOf [0, 4, 8] f.b
  | .phsigb f => dstOk f.d && handleOk f.a && immOneOf [0, 8] f.b
  | .phany f => dstOk f.d && handleOk f.a && srcBOk f.b
  | .phwait f | .phtry f => dstOk f.d && handleOk f.a && srcOk f.b
  | .phget f => dstOk f.d && handleOk f.a && unused f.b
  | .fld f => dstOk f.d && memWidth f.d && orderOk [0, 1, 4] f.a && srcBOk f.b
  | .fst f => srcOk f.d && memWidth f.d && orderOk [0, 2] f.a && srcBOk f.b
  | .fatm f => dstOk f.d && orderOk [0, 1, 2, 3, 4] f.a && quadsOk f.b
  | .bulk f => formDesc f
  | .acset f => form2 f
  | .acwait f => dstOk f.d && srcOk f.a && isImm f.b
  | .ffence f => formImm 0 4095 f
  | .trap f | .brk f => unused f.d && unused f.a && immIn 0 4095 f.b
  | .rfx f => unused f.d && unused f.a && immIn 0 3 f.b
  | .sysrd f => dstOk f.d && unused f.a && sysNum sysReg f.b
  | .syswr f => dstOk f.d && srcOk f.a && sysNum sysWritable f.b
  | .tlbinv f => form2 f
  | .cacheopClean f => dstOk f.d && srcOk f.a && immIn 0 0 f.b
  | .cacheopFlush f => dstOk f.d && srcOk f.a && immIn 1 1 f.b
  | .cacheopDrop f => dstOk f.d && srcOk f.a && immIn 2 2 f.b
  | .cacheopZero f => dstOk f.d && srcOk f.a && immIn 3 3 f.b
  | .cacheopL1all f => dstOk f.d && unused f.a && immIn 4 4 f.b
  | .cacheopL2all f => dstOk f.d && unused f.a && immIn 5 5 f.b
  | .cancel f => dstOk f.d && srcOk f.a && immIn 0 4 f.b
  | .topk f => srcOk f.a && (if isImm f.b then quadsOk f.d && immIn 1 16 f.b else dstOk f.d && srcOk f.b)
  | .kmerge f => formDesc f
  | .skim f => dstOk f.d && srcOk f.a && quadsOk f.b
  | .kfilt f => pdstOk 1 f.d && srcOk f.a && quadsOk f.b
  | .distL2 v f | .distIp v f => distOk v 32 f
  | .distCos v f => distOk v 64 f
  | _ => true
where
  /-- A publish operand: a slice operand or the special operand zero (R30). -/
  pubOk : Operand → Bool
    | .slice _ _ => true
    | .special c _ => c == 0x18
    | _ => false
  /-- A slice operand of width code 0 (R89). -/
  isNib : Operand → Bool
    | .slice _ w => w == 0
    | _ => false
  /-- The special operand of a stream port with width code 7 (R91). -/
  isPort : Operand → Bool
    | .special c w => 0x10 ≤ c.toNat && c.toNat < 0x18 && w == 7
    | _ => false
  /-- Widths of dist (R390). -/
  distOk (v : DistType) (n : Nat) (f : FmtA) : Bool :=
    dstOk f.d && srcOk f.a && srcOk f.b && fieldBits f.d == n && fieldBits f.a == fieldBits f.b && fieldBits f.a % distBits v == 0 && distBits v ≤ fieldBits f.a

end Sys2Proof.Machine
end

