-- ==== Sys2Proof/Config.lean ====
section
/-! DEFINITION. What the implementation fixes (00, Table 00-2) and the free values the spec leaves open (log entries 1 and 5). -/
namespace Sys2Proof

/-- The supply of free values: value number n is whatever it is. Nothing in Lean can evaluate it (log entry 1). -/
opaque Config.freeNat : Nat → Nat
/-- Which of the values of an uncovered predicate the word that a thread issues at a tick sees: thread, tick (R31, R157; log entry 1). -/
opaque Config.freeAt : Nat → Nat → Nat
/-- The candidate result of a special function on one element: function number, float format number, input bits.
It is used only when it keeps the error bound of Table 04-6 (log entry 5). -/
opaque Config.special : Nat → Nat → Nat → Nat
/-- The signatures over a message that check under a root: one that the holder of its key can make, and all others (R444, R445; log entry 6). -/
opaque Config.oneSig : Nat → Nat → Nat
opaque Config.otherSigs : Nat → Nat → List Nat
/-- Whether the signature over a message checks under a root (R445). -/
def Config.sigValid (root msg sig : Nat) : Bool := sig == Config.oneSig root msg || (Config.otherSigs root msg).contains sig
/-- The signature or authentication tag a key gives to a message (25, R447, R451; log entry 6). -/
opaque Config.mac : Nat → List Nat → Nat
/-- The set of a slice's peer directory in which a region's entry stands, modulo 512 (R294; log entry 1). -/
opaque Config.peerSet : Nat → Nat

/-- Among the ds8 codes of one nonzero value, which one a rounding writes; whether a tie of ds8 under nearest-even goes up; what a NaN becomes (R168, R171; log entry 13). -/
opaque Config.ds8Code : Int → Nat
opaque Config.ds8TieUp : Int → Bool
opaque Config.ds8Nan : Nat

/-- Ticks of 1/21 ns in a nanosecond and in a cycle of 1.05 GHz (R7). -/
def Config.ticksPerNs : Nat := 21
def Config.ticksPerCycle : Nat := 20
/-- Table 00-1, Table 00-2. -/
def Config.cores : Nat := 768
def Config.clusters : Nat := 192
def Config.stacks : Nat := 4
def Config.slotsPerCore : Nat := 2048
def Config.slicesPerLane : Nat := 32768
def Config.spadPerCore : Nat := 1048576
def Config.memBytes : Nat := 768 * 2 ^ 30
def Config.workQueues : Nat := 16384
def Config.missEntries : Nat := 8192
def Config.liveGangs : Nat := 128
def Config.teamSlots : Nat := 256
def Config.devices : Nat := 16416

end Sys2Proof
end

