-- ==== Sys2Proof/Machine/Table.lean ====
section
/-! DEFINITION. Finite tables as lists in one canonical form: keys strictly rising, and, for a table with a default, no entry equal to it. -/
namespace Sys2Proof.Machine

/-- A table: keys strictly rising. -/
abbrev Tbl (α : Type) := List (Nat × α)

/-- The entry at a key. -/
def tget {α : Type} : Tbl α → Nat → Option α
  | [], _ => none
  | (k', v) :: r, k => if k < k' then none else if k = k' then some v else tget r k
/-- The table with an entry set. -/
def tset {α : Type} : Tbl α → Nat → α → Tbl α
  | [], k, v => [(k, v)]
  | (k', v') :: r, k, v =>
    if k < k' then (k, v) :: (k', v') :: r else if k = k' then (k, v) :: r else (k', v') :: tset r k v
/-- The table with an entry removed. -/
def tdel {α : Type} : Tbl α → Nat → Tbl α
  | [], _ => []
  | (k', v') :: r, k => if k < k' then (k', v') :: r else if k = k' then r else (k', v') :: tdel r k
/-- The entry at a key changed, when there is one. -/
def tmod {α : Type} (t : Tbl α) (k : Nat) (f : α → α) : Tbl α :=
  match tget t k with
  | none => t
  | some v => tset t k (f v)
/-- The entry at a key of a table with a default. -/
def dget {α : Type} (d : α) (t : Tbl α) (k : Nat) : α := (tget t k).getD d
/-- A table with a default, with an entry set; an entry equal to the default is not listed. -/
def dset {α : Type} [DecidableEq α] (d : α) (t : Tbl α) (k : Nat) (v : α) : Tbl α :=
  if v = d then tdel t k else tset t k v
/-- Keys strictly rising, all at or above a bound. -/
def tsorted {α : Type} : Nat → Tbl α → Bool
  | _, [] => true
  | lo, (k, _) :: r => decide (lo ≤ k) && tsorted (k + 1) r
/-- The canonical form of a table with a default. -/
def dwf {α : Type} [DecidableEq α] (d : α) (t : Tbl α) : Bool := tsorted 0 t && t.all fun e => !decide (e.2 = d)

/-- Memory: what a byte that nothing has written reads as (log entry 2). -/
def memDefault : Byte := 0
/-- One byte of a memory. -/
def memGet (m : List Host.Cell) (a : Nat) : Byte := dget memDefault m a
/-- A memory with one byte written; it keeps the canonical form. -/
def memPut (m : List Host.Cell) (a : Nat) (b : Byte) : List Host.Cell := dset memDefault m a b
/-- n bytes of a memory from an address up. -/
def memGetN (m : List Host.Cell) (a : Nat) : Nat → List Byte
  | 0 => []
  | n + 1 => memGet m a :: memGetN m (a + 1) n
/-- A memory with bytes written from an address up. -/
def memPutN (m : List Host.Cell) (a : Nat) : List Byte → List Host.Cell
  | [] => m
  | b :: r => memPutN (memPut m a b) (a + 1) r
/-- A memory with those bytes written whose mask bit is set. -/
def memPutMask (m : List Host.Cell) (a : Nat) : List (Option Byte) → List Host.Cell
  | [] => m
  | some b :: r => memPutMask (memPut m a b) (a + 1) r
  | none :: r => memPutMask m (a + 1) r
/-- The canonical form of a memory. -/
abbrev Memory.wf (m : List Host.Cell) : Bool := dwf memDefault m

end Sys2Proof.Machine
end

