-- ==== Sys2Proof/Machine/State.lean ====
section
/-! DEFINITION. The state of one LNV-4768 as plain data, and the machine right after reset. INVENTORY.md lists every field with the rule that names it. -/
namespace Sys2Proof.Machine

/-- Why the machine stops. Nothing stops it: the spec gives every instruction and every event of the table an effect, be it a trap that is taken. -/
inductive Fault where
deriving DecidableEq, Repr

/-- Why the model gives an instruction no meaning. -/
inductive Refusal where
  /-- Raised only by an arm of exec whose instruction has no meaning yet. Safe: nothing can be proved of such a step. -/
  | notModelled (mnemonic : String)
deriving DecidableEq, Repr

/-! ### Threads (06, 07, 23) -/

/-- What a Held thread waits for (Table 06-2, R406, R415). -/
inductive HeldAt where
  | trailer | gate | word | preempt
deriving DecidableEq, Repr
/-- The state of a thread slot (Table 06-2); a Free slot has no entry in State. -/
inductive ThreadStatus where
  | ready | gathered | held (w : HeldAt) | draining | saved
deriving DecidableEq, Repr
/-- A register of a thread. Slices are numbered with the 64 handler slices at 0 to 63 and the thread's own slice s at s + 64; temporaries 0 to 15 are the thread's own and 16 to 31 those of its handler (R26, R410). -/
inductive Loc where
  | slice (n : Nat) | temp (n : Nat) | pred (n : Nat)
deriving DecidableEq, Repr
/-- Where an access lands: a team's scratchpad, device memory or host memory (R84, R419). -/
inductive Place where
  | spad (off : Nat) | dev (pa : Nat) | hostm (pa : Nat)
deriving DecidableEq, Repr
/-- Where a result goes: n slices from a first one, a temporary cut to a width (R20), a predicate pair (R57), an element of a store stream with its port, the place that its use has translated and checked, and the width of the result (R20, R91, R160), or nowhere. -/
inductive Dest where
  | nowhere | slices (first n : Nat) | temp (i width : Nat) | preds (pa pb : Nat) | element (port : Nat) (at' : Place) (width : Nat)
deriving DecidableEq, Repr
/-- A fixed-latency result not yet written: its landing tick, its writes, and whether it was published (R27, R29, R30). -/
structure Pend where
  land : Nat
  writes : List (Loc × Nat)
  pub : Bool
deriving DecidableEq, Repr
/-- A register that a variable-latency instruction writes and no trailer has waited on: the instruction, its counter and the value just before its write (R29, R31). Entries whose write is done stand in the order of those writes. -/
structure VarDest where
  oid : Nat
  dc : Nat
  loc : Loc
  old : Nat
deriving DecidableEq, Repr
/-- What an outstanding instruction waits for beside its time. -/
inductive Wait where
  | time | fence
  | sc (id : Nat) | floor (clk : Nat) | stage (off k e : Nat) (sense : Bool) | stageReset (st : Nat)
  | carabiner | barrier (b phase : Nat) | slotDone (slot upto : Nat) | queues (mask upto : Nat) | command (id : Nat) | inQueue (bit id : Nat)
  | guest (q ticket : Nat) | message (id : Nat) | phase (handle : Word) (p : Nat) | arrival (off deadline : Nat)
  | map (base len off : Nat) | fabric (id : Nat) | sent (id : Nat) | allFabric (deadline upto : Nat) | bulk (id : Nat) | shootdown (id : Nat) (ids : List Nat) | window (ids : List Nat)
deriving DecidableEq, Repr
/-- An outstanding variable-latency instruction: its counter (own 0 to 7, handler 8 to 15), the tick from which it may complete, where its result goes, the slices of it that a later write contests, the result, what it waits for, whether the result is final, its error word with the source of Table 23-3, and the conflict report that comes with it (R316). -/
structure Outst where
  id : Nat
  dc : Nat
  doneAt : Nat
  dest : Dest
  contested : List Loc
  val : Nat
  wait : Wait
  fixed : Bool
  err : Option Nat
  src : Nat
  report : Bytes
deriving DecidableEq, Repr
/-- A stream port (Table 07-3). -/
structure StreamPort where
  base : Word
  desc : Word
  pos : Word
deriving DecidableEq, Repr
/-- The trailer a thread waits at: mask, published operands as slice ranges, where it goes next (R30). -/
structure TrailWait where
  mask : Nat
  pubs : List (Nat × Nat)
  next : Word
deriving DecidableEq, Repr
/-- The page fault a thread waits for: serving stack and ticket (0 when it only waits for a line), the reason of a fatal answer, the trap concerned, and whether that trap's entry is still to be made (R406, R410, R424). -/
structure FaultWait where
  stack : Nat
  ticket : Nat
  answer : Option Nat
  info : TrapInfo
  entry : Bool
deriving DecidableEq, Repr
/-- The return that an rfx has read and that takes place with its run's trailer (R25, R385): whether the thread parks, the record, the position, whether it is a run head, and the tick of the rfx. -/
structure Back where
  park : Bool
  record : Bytes
  pos : Word
  head : Bool
  at' : Nat
deriving DecidableEq, Repr
/-- The yield of a thread: the tick at which it ends and the team-mates still to be picked (R80). -/
structure Yielded where
  till : Nat
  mates : List Nat
deriving DecidableEq, Repr
/-- One thread (Table 06-1, R159, R410). `dcReport` holds the conflict report of a counter whose error is a failed fabric check (R316, Table 11-8). `paged` lists the stack, ticket and word of each class-11 trap it has taken (R424). -/
structure Thread where
  status : ThreadStatus
  stamp : Nat
  team : Nat
  grp : Nat
  j : Nat
  tid : Nat
  pc : Word
  mid : Bool
  resume : Option Nat
  alloc : Nat
  slices : Tbl Nib
  preds : BitVec 32
  temps : Tbl Word
  wbase : Nat
  streams : Tbl StreamPort
  cstk : Word
  cstkTop : Word
  cstkBase : Word
  cairn : Word
  fmode : Nat
  sgen : Word
  outst : List Outst
  dcErr : Tbl (Nat × Nat)
  dcReport : Tbl Bytes
  pend : List Pend
  varDest : List VarDest
  handler : Bool
  twait : Option TrailWait
  nextHead : Option Word
  back : Option Back
  yielded : Option Yielded
  yieldBit : Bool
  faultWait : Option FaultWait
  checkOn : Bool
  killed : Bool
  fabFail : List (Nat × Nat × Nat)
  boundIds : List Nat
  boundFail : Bool
  paged : List (Nat × Nat × Word)
deriving DecidableEq, Repr

/-- A live gang (R141, R142): core, launch, code object, members, run start, next word, issue tick, instructions counted, whether it began at a run head, whether it is a solo gang, its port of the previous cycle, the members that have executed the present word while others are held at it, and whether any member was held at it when it last tried. -/
structure Gang where
  core : Nat
  launch : Nat
  code : Word
  members : List Nat
  runStart : Nat
  pc : Word
  nextIssue : Nat
  count : Nat
  fromHead : Bool
  solo : Bool
  port : Option Nat
  done : List Nat
  held : Bool
deriving DecidableEq, Repr

/-! ### Teams (06, 09, 12, 24) -/

/-- A group's role (R131). -/
inductive Role where
  | copy | matrix | vector | rotate
deriving DecidableEq, Repr
/-- A group of a team (R130, Table 24-6). -/
structure Group where
  code : Word
  role : Role
  width : Nat
  alloc : Nat
  priv : Bool
  task : Bool
  base : Nat
  live : Bool
deriving DecidableEq, Repr
/-- A team barrier (R266): P, mask of the open phase, arrived threads. -/
structure Barrier where
  phase : Nat
  mask : Nat
  arrived : List Nat
deriving DecidableEq, Repr
/-- A stage of a pitch ring (Table 09-9). -/
structure Stage where
  state : Nat
  phase : Nat
  reason : Nat
  registry : Nat
  count : Nat
deriving DecidableEq, Repr
/-- A live pitch ring, by its header offset (Table 09-8). -/
structure PitchRing where
  base : Nat
  target : Nat
  stages : List Stage
deriving DecidableEq, Repr
/-- The type of an accumulator slot (R191). -/
inductive AccType where
  | f32 | f64 | s32
deriving DecidableEq, Repr
/-- An accumulator slot: type, the values that are not zero at 128 i + j, its progress word, and the tick of the latest retirement with the progress before it (R191, R198). -/
structure AccSlot where
  ty : AccType
  vals : Tbl Nat
  state : Nat
  groups : Nat
  progress : Nat
  at' : Nat
  before : Nat
deriving DecidableEq, Repr
/-- What an engine command does (R193, R199 to R203, R207, R304), with the quads it read. -/
inductive CmdKind where
  | mma | macc | mzero | cpy | cpy2d | cpyg | cvq | cvd | phsig | unstarted
deriving DecidableEq, Repr
/-- An engine command (R187): serial, queue, issuer, kind, quads, stage binding, rounding mode at issue; whether it has started, the tick of its next event, bytes, rows or groups done, bytes a converter is writing, status flags so far, fault ticket, stop request, and its end status once decided. -/
structure Cmd where
  id : Nat
  queue : EngineQueue
  th : Nat
  kind : CmdKind
  quads : List Nat
  bind : Option Nat
  mode : Nat
  started : Bool
  doneAt : Nat
  piece : Nat
  data : Bytes
  flags : Nat
  stall : Option (Nat × Nat)
  stop : Bool
  status : Option Nat
deriving DecidableEq, Repr
/-- A pinit accepted and not yet in effect (R207). -/
structure PInit where
  id : Nat
  th : Nat
  h : Nat
  base : Nat
  target : Nat
  stages : Nat
  mask : Nat
deriving DecidableEq, Repr
/-- A scratchpad mapping (R269): global base, the device lines of its range in order, scratchpad offset. -/
structure Mapping where
  va : Nat
  lines : List Nat
  off : Nat
deriving DecidableEq, Repr
/-- An open scratchpad window (R271): its line, whether one core writes, and which. -/
structure PadWindow where
  pa : Nat
  wr : Bool
  core : Nat
deriving DecidableEq, Repr
/-- A queued task (R136): entry address and the 32 argument bytes. -/
structure TaskEntry where
  entry : Word
  args : Bytes
deriving DecidableEq, Repr
/-- An entry of the acquired-from table (R241). -/
structure AcqEntry where
  tag : Nat
  serial : Nat
deriving DecidableEq, Repr
/-- The three floors of a team or a core (R242). -/
structure Floors where
  stack : Nat
  package : Nat
  pod : Nat
deriving DecidableEq, Repr
/-- A pre-emption in progress (R415, R417, R418): its tick, whether the guest die has acknowledged, whether its threads have entered the handler, the save stamp. -/
structure Preempt where
  at' : Nat
  guestAck : Bool
  entered : Bool
  saveStamp : Nat
deriving DecidableEq, Repr
/-- The team block of a saved team (R416), as the device has written it to the save area and holds it against what a resume reads there (log entry 12): barriers, carabiner, slot types and progress, task queue. -/
structure TeamBlock where
  barriers : Tbl Barrier
  carabiner : Option Nat
  acc : List (Nat × AccSlot)
  taskQ : List TaskEntry
deriving DecidableEq, Repr
/-- An arrival counter of the hub (R313): team and record offset in its scratchpad. -/
structure Arrival where
  team : Nat
  off : Nat
deriving DecidableEq, Repr
/-- A team (R133): launch and index, place, groups, and everything its threads share. `copyBad` tells whether a copy command since the queue's last signal ended with code 2, 5 or 6 (R304); `guest` lists the serials, queues and tickets of its guest packets (R370). -/
structure Team where
  launch : Nat
  index : Nat
  placed : Bool
  core : Nat
  slot : Nat
  inc : Nat
  pair : Bool
  groups : List Group
  spadSize : Nat
  spad : List Host.Cell
  tstat : Word
  status : Nat
  endStamp : Nat
  taskQ : List TaskEntry
  barriers : Tbl Barrier
  rings : Tbl PitchRing
  inits : List PInit
  carabiner : Option Nat
  acc : Tbl AccSlot
  slotLast : Tbl Nat
  queues : List Cmd
  copyBad : Bool
  guest : List (Nat × Nat × Nat)
  maps : List Mapping
  windows : List PadWindow
  acq : List AcqEntry
  floors : Floors
  preempt : Option Preempt
  block : Option TeamBlock
  placeAt : Nat
  fin : Bool
deriving DecidableEq, Repr

/-! ### Cores, TLBs, coherence (11, 14, 23) -/

/-- A TLB entry (R420): context, page, log2 of its size, physical page, target, permissions. -/
structure TlbEntry where
  ctx : Nat
  va : Nat
  size : Nat
  pa : Nat
  host : Bool
  r : Bool
  w : Bool
  x : Bool
deriving DecidableEq, Repr
/-- A first-level line (Table 14-2). A clean copy equals its home, so only M lines and partials hold bytes. -/
inductive L1Line where
  | s | e | m (data : Bytes) | c (g : ChTag) (sigma : Int) (data : Bytes)
deriving DecidableEq, Repr
/-- One core (R128, R231, R238, R281, R285, R420): clocks, first-level cache, victim buffer, TLB, incarnations and end stamps of its team slots, its copies of the floors. -/
structure Core where
  clock : Nat
  tbase : Nat
  l1 : Tbl L1Line
  victim : Tbl L1Line
  tlb : List TlbEntry
  incs : Tbl Nat
  ends : Tbl (List (Nat × Nat))
  floors : Floors
deriving DecidableEq, Repr
/-- One cluster (R253, R287, R420): TLB, whether its service group works, parked partials by line and core. -/
structure Cluster where
  tlb : List TlbEntry
  faulted : Bool
  parked : List (Nat × Nat × L1Line)
deriving DecidableEq, Repr
/-- A miss-table entry (R421): context, page, accesses, sources, level, ticket, tick of its record; after a fatal answer its reason and the tick of the answer, until its waiters have met it. -/
structure Miss where
  ctx : Nat
  page : Nat
  acc : Nat
  src : Nat
  level : Nat
  ticket : Nat
  at' : Nat
  fatal : Option (Nat × Nat)
deriving DecidableEq, Repr
/-- One compute stack (R420 to R422, R442). -/
structure Stack where
  tlb : List TlbEntry
  misses : List Miss
  nextTicket : Nat
  ringBase : Nat
  ringIdx : Nat
deriving DecidableEq, Repr
/-- The state of a line at its home (Table 14-1); the vector of holders is a list of the package's core numbers, from which the core vector of the owning stack, the agent vector and the agents' own vectors are read off (R280). Busy: a write-back granted to a core, with the state before. -/
inductive LineState where
  | uncached | shared (v : List Nat) | owned (c : Nat) | churn (g : ChTag) (sigma : Int) (v : List Nat)
  | mapped (c team : Nat) | busy (c : Nat) (was : LineState)
deriving DecidableEq, Repr
/-- A window record (Table 11-6); kind 0 is no record. -/
structure WinRec where
  writer : Nat
  kind : Nat
  rel : Bool
  scope : Nat
  w : Nat
deriving DecidableEq, Repr
/-- The state of a sector toward the host or the guest die (R292, R381). -/
inductive SectorState where
  | i | s | m
deriving DecidableEq, Repr
/-- The two sector states of a 64-byte sector (R292, R381), whether a back-invalidate snoop is out, and the tick of a guest snoop that is out. -/
structure Sector where
  host : SectorState
  guest : SectorState
  hostSnoop : Bool
  guestSnoop : Option Nat
deriving DecidableEq, Repr
/-- A peer entry (Table 14-5): mode and the devices it names, or the bits of coarse mode; the lines of the region that every covered device has invalidated (R294, R295). -/
structure Peer where
  mode : Nat
  pointers : List Nat
  coarse : Nat
  clear : List Nat
deriving DecidableEq, Repr
/-- The total of another device's partials of a line, come to the line's home and not yet merged (R288, R295). -/
structure PeerPart where
  line : Nat
  dev : Nat
  data : Bytes
deriving DecidableEq, Repr
/-- A copy or partial of another device's line at this device's peer home (R279, R309). No load reads the copy, so its bytes are not kept. -/
inductive PeerCopy where
  | shared | part (g : ChTag) (sigma : Int) (data : Bytes)
deriving DecidableEq, Repr
/-- A line's entry at the agent of a stack that does not own it: the second-level copy, which holds the data when the stack's owner has written them back there (R279, R280, R285). -/
inductive AgentCopy where
  | clean | dirty (data : Bytes)
deriving DecidableEq, Repr
/-- What an access does to the word it names: a load, a store, or an operation of Table 12-2 or R255, with the tags of chup apart. -/
inductive AtomOp where
  | load | store | add | minS | minZ | maxS | maxZ | and | or | xor | exch | cas | bfi | ffcs | plset
  | addF (t : FType) | minF (t : FType) | maxF (t : FType)
deriving DecidableEq, Repr
/-- An SC access held at its home (R234): stamp, core, thread, where it lands, its bytes, what it does, its operand and its compare value or mask; the request packet of an access that came over the fabric; for one of this device the position of its word, and the stream ports before it, which a failed check restores (R244). -/
structure ScAccess where
  id : Nat
  clk : Nat
  core : Nat
  th : Nat
  oid : Nat
  va : Nat
  pa : Nat
  team : Nat
  spad : Bool
  host : Bool
  n : Nat
  op : AtomOp
  data : Nat
  cmp : Nat
  reply : Option Packet
  pos : Word
  mid : Bool
  ports : Tbl StreamPort
deriving DecidableEq, Repr
/-- An invalidation a home awaits from other devices (R295). -/
structure PeerAck where
  line : Nat
  dev : Nat
  at' : Nat
deriving DecidableEq, Repr

/-! ### The queue engine (24) -/

/-- The state of a work queue (Table 24-3). -/
inductive QueueState where
  | idle | fetch | retry | stalled
deriving DecidableEq, Repr
/-- A work queue (R429, R432, R433): descriptor, head, tail, state, tick of the first failed read, re-reads made since, a consumed entry whose addresses wait for the fault service, open leg. -/
structure WorkQueue where
  desc : QueueDesc
  head : Nat
  tail : Nat
  state : QueueState
  retryAt : Nat
  tries : Nat
  packet : Option Quads
  leg : Option Nat
deriving DecidableEq, Repr
/-- A completion counter (Table 06-6) of a graph, leg or job, with its mirror and what it belongs to. -/
structure Counter where
  status : Nat
  count : Nat
  mirror : Word
  q : Nat
  closed : Bool
  fin : Bool
  parent : Nat
deriving DecidableEq, Repr
/-- A launch (Table 24-5): its fields as read, and its progress. -/
structure Launch where
  q : Nat
  tenant : Nat
  ctx : Nat
  teams : Nat
  groups : List Group
  check : Bool
  fround : Nat
  prio : Nat
  prv : Nat
  spad : Nat
  prvb : Word
  seed : Word
  traps : Word
  save : Word
  lmir : Word
  tmir : Word
  graph : Option Nat
  waits : List Word
  entries : List Word
  placed : Nat
  eligible : Option Nat
  roomSince : Option Nat
  status : Nat
  count : Nat
  fin : Bool
  lastCore : Nat
deriving DecidableEq, Repr
/-- A context descriptor (Table 24-8). -/
structure Ctx where
  root : Nat
  tenant : Nat
  timeoutMs : Nat
deriving DecidableEq, Repr
/-- A descriptor command that is not complete (R430): its context, the Shootdown it waits for, and the accesses that were translated before it. -/
structure CmdWait where
  ctx : Nat
  shootdown : Option Nat
  ids : List Nat
deriving DecidableEq, Repr
/-- A tenant's budgets (R439), whether its gate is closed and since when, and the guest die's bytes in one window of 10 µs (R378). -/
structure Budget where
  cores : Nat
  bandwidth : Nat
  power : Nat
  closed : Bool
  closedAt : Nat
  meter : Nat
  window : Nat
deriving DecidableEq, Repr
/-- The queue engine and the host-visible registers (R428 to R443); `ctxTable` is the address of the context table, with the tenant context map behind it (R430, R431), `lanes` the trained width of the host link and `narrowed` how often it came up degraded (R427); `mirrors` are the mirror writes owed, `allocs` the phaser allocations of management commands whose handle is still to be written. -/
structure HostSide where
  queues : Tbl WorkQueue
  launches : Tbl Launch
  graphs : Tbl Counter
  legs : Tbl Counter
  jobs : Tbl Counter
  ctxTable : Option Nat
  cmdWaits : List CmdWait
  lanes : Nat
  narrowed : Nat
  budgets : Tbl Budget
  mirrors : List UnitRef
  allocs : List PhaserAlloc
  evRing : List (Word × Word)
  evHead : Nat
  evTail : Nat
  evDrop : Nat
  bar0Miss : Nat
  kickMiss : Nat
  fansMiss : Nat
deriving DecidableEq, Repr

/-! ### The belay network (17) -/

/-- The unit of a registrant (R301): a group, a copy queue, or a device; teams are named by launch and index. -/
inductive RegUnit where
  | group (launch team g : Nat) | copyQueue (launch team : Nat) | device (d : Nat)
deriving DecidableEq, Repr
/-- What a belay message asks of its host (Table 17-4); a slot that another device's queue engine takes at a switch comes with the record of Table 17-3 and the tenant (R325). -/
inductive BelayOp where
  | reg (sig wait : Bool) | leave | dereg (broken : Bool) | signal (phase finder serial : Nat) (broken : Bool) | free | alloc (record tenant : Nat)
deriving DecidableEq, Repr
/-- A belay message of another device that has come to a switch: who sends it, the phaser it names, what it asks, and the child port it came by (R324, R331). -/
structure BelayIn where
  dev : Nat
  unit : RegUnit
  handle : Word
  op : BelayOp
  port : Nat
deriving DecidableEq, Repr
/-- A registrant of a phaser (R301, R327): device, unit, modes, first counted phase, next phase r, whether its signal for the open phase is counted, the phase from which it has left. -/
structure Registrant where
  dev : Nat
  unit : RegUnit
  sig : Bool
  wait : Bool
  since : Nat
  r : Nat
  counted : List Nat
  left : Option Nat
deriving DecidableEq, Repr
/-- A message of the belay network (R324, R331): issuer, phaser, request, where it stands, the child port it came by, the nodes still ahead, the tick from which the node acts on it, whether it is held at the fabric port, and the fabric writes a bound signal covers (R334). -/
structure BelayMsg where
  id : Nat
  th : Option Nat
  dev : Nat
  unit : RegUnit
  handle : Word
  op : BelayOp
  node : Nat
  port : Nat
  path : List (Nat × Nat)
  at' : Nat
  held : Bool
  covers : List Nat
deriving DecidableEq, Repr
/-- A phaser at its host (R327). -/
structure Phaser where
  anyOf : Bool
  p : Nat
  regs : List Registrant
  c0 : Nat
  c1 : Nat
  events : Bool
  broken : Bool
  broken1 : Bool
  found : Bool
  ann : Nat
  words : List (Nat × Word)
  ctx : Nat
  tenant : Nat
  job : Nat
  domain : Nat
deriving DecidableEq, Repr
/-- A belay node (Table 17-1, R233, R337): floor, values reported into it by child port, whether it works, uplink of a package node, tick of the last downward beat. -/
structure Node where
  floor : Nat
  reports : Tbl Nat
  alive : Bool
  uplink : Nat
  lastBeat : Nat
deriving DecidableEq, Repr
/-- The belay network as far as this device uses it; completions on their way down stand with the tick at which they arrive. `uplinks` gives the leaf switch and child port of each device's two uplinks (R323). `inbox` holds the messages of other devices that have come to a switch, with its node; like the agenda it is filled from outside (log entries 4 and 10). -/
structure Belay where
  nodes : Tbl Node
  phasers : Tbl Phaser
  msgs : List BelayMsg
  deliveries : List (Nat × PhaseDelivery)
  uplinkFailures : Nat
  uplinks : Tbl (List (Nat × Nat))
  inbox : List (Nat × BelayIn)
deriving DecidableEq, Repr

/-! ### The fabric (19) -/

/-- A fabric write in flight (R78, R296, R310, R312): thread, launch, destination, stamp, the bulk it belongs to, bytes, whether an ffence has already reported it lost, whether it is an SC access; acknowledged or dropped writes leave the list. -/
structure FabWrite where
  id : Nat
  th : Nat
  launch : Nat
  dst : Nat
  clk : Nat
  core : Nat
  bulk : Option Nat
  bytes : Nat
  told : Bool
  sc : Bool
deriving DecidableEq, Repr
/-- A fabric read or atomic awaiting its response (R309, R311): thread, outstanding instruction, destination, whether it acquires, whether it is an atomic, address and bytes; whether it is an SC access, its core and stamp, and the tick at which its home has accepted it, none while it is still on its way through this device (R233). -/
structure FabReq where
  id : Nat
  th : Nat
  oid : Nat
  dst : Nat
  acq : Bool
  atomic : Bool
  va : Nat
  n : Nat
  sc : Bool
  core : Nat
  clk : Nat
  reached : Option Nat
deriving DecidableEq, Repr
/-- A bulk transfer in progress (R312): descriptor, bytes sent so far, pieces not yet acknowledged, greatest status, bytes acknowledged, the fault its source reads wait for. -/
structure BulkXfer where
  id : Nat
  th : Nat
  src : Nat
  dst : Nat
  sp : Bool
  bytes : Nat
  ctr : Nat
  sent : Nat
  pending : Nat
  status : Nat
  acked : Nat
  stall : Option (Nat × Nat)
deriving DecidableEq, Repr
/-- The flit stream of one circuit of a global link while another circuit holds the link: numbers, replay buffer and slot counts (R348, R351, R356). -/
structure Stream where
  txSeq : Nat
  rxSeq : Nat
  lastGood : Nat
  replay : List Flit
  sent : Tbl Nat
  freed : Tbl Nat
  given : Tbl Nat
  told : Tbl Nat
  skipping : Bool
  resendFrom : Option Nat
  owed : List Nat
deriving DecidableEq, Repr
/-- A packet that crosses this hub, with the link and the circuit it came by: its buffer slots there are freed when it leaves (R351). -/
structure Transit where
  packet : Packet
  link : Nat
  circuit : Nat
deriving DecidableEq, Repr
/-- A link (R348, R351, R352, R357, R363); `sent` and `freed` count slots by lane as the sender, `given` those freed as the receiver and `told` those of them already returned. Local links are 0 to 30, global links 32 to 47. `circuit` is the circuit whose stream a global link holds, 0 before the first, and `parked` keeps those of its other circuits. `resendFrom` is the seq from which the replay buffer is being sent again, and `owed` the kinds of special flits that wait to be sent. -/
structure Link where
  up : Bool
  retired : Bool
  txSeq : Nat
  rxSeq : Nat
  lastGood : Nat
  replay : List Flit
  sent : Tbl Nat
  freed : Tbl Nat
  given : Tbl Nat
  told : Tbl Nat
  flitsSinceCensus : Nat
  censusAt : Nat
  replays : List Nat
  lastGoodAt : Nat
  identOk : Bool
  wrong : Bool
  identFails : Nat
  waiting : List Packet
  nReplay : Nat
  nDamage : Nat
  nResync : Nat
  skipping : Bool
  resendFrom : Option Nat
  owed : List Nat
  circuit : Nat
  parked : Tbl Stream
deriving DecidableEq, Repr
/-- A slot table entry (Table 19-4). -/
structure SlotEntry where
  peer : Nat
  plink : Nat
  allow : Nat
deriving DecidableEq, Repr
/-- The slot table of a global link with its start, and a newer one not yet in effect, with the pod time from which it is (R355, R362). Entries that carry no circuit are none. -/
structure SlotTable where
  entries : List (Option SlotEntry)
  start : Nat
  next : Option (List (Option SlotEntry) × Nat)
  nextAt : Nat
deriving DecidableEq, Repr
/-- Where the circuits of a slot table stand: one more than the number of the present slot, 0 before the first, and whether its data time has begun (R356). -/
structure CircuitPhase where
  slot : Nat
  data : Bool
deriving DecidableEq, Repr
/-- A send queue (R358, R361): packets, allowance left, drain markers out with their paths, paths used in the slot. -/
structure SendQueue where
  charged : List Packet
  free : List Packet
  allow : Nat
  held : List Nat
  used : List Nat
deriving DecidableEq, Repr
/-- The fabric side of the hub; slot tables and their phases are keyed by 16 × position + global link; `backlog` holds packets that find no send queue (R358), `farDown` pairs of positions whose local link, neither end of it at this device, has been told to be retired (R363); `away` holds the keys of other devices' links whose retirement has been told. -/
structure Fabric where
  links : Tbl Link
  tables : Tbl SlotTable
  phases : Tbl CircuitPhase
  sendQ : Tbl SendQueue
  backlog : List Packet
  farDown : List (Nat × Nat)
  writes : List FabWrite
  reqs : List FabReq
  bulks : List BulkXfer
  arrivals : Tbl Arrival
  stalled : List Packet
  lost : List Nat
  present : List Nat
  transit : List Transit
  away : List Nat
  drops : Nat
  lostCount : Nat
  wrong : Nat
  retired : Nat
  discarded : Nat
deriving DecidableEq, Repr

/-! ### The anchor socket (20) -/

/-- A guest packet outstanding in a queue (R370, R372, R377): ticket, team, tenant, cpl, whether saved, a completion held behind earlier tickets. -/
structure GuestPacket where
  ticket : Nat
  team : Nat
  tenant : Nat
  ctx : Nat
  quads : Quads
  saved : Bool
  held : Option (Nat × Nat × Word)
  faultAt : Option (Nat × Nat)
  fatalAt : Option Nat
deriving DecidableEq, Repr
/-- A guest queue (R370): base and entries of its ring, how many entries have been posted, next ticket, outstanding packets in ticket order, tickets already completed with code 2 after 100 µs (R380). -/
structure GuestQueue where
  base : Nat
  size : Nat
  posted : Nat
  nextTicket : Nat
  packets : List GuestPacket
  late : List Nat
deriving DecidableEq, Repr
/-- A translation handed to the guest die (R375), with its serial. -/
structure GuestXlate where
  id : Nat
  ctx : Nat
  va : Nat
  size : Nat
  pa : Nat
  r : Bool
  w : Bool
deriving DecidableEq, Repr
/-- A Shootdown sent to the guest die (R375, R387): kind of tlbinv, context and address it covers, tick. -/
structure Shootdown where
  id : Nat
  kind : Nat
  ctx : Nat
  va : Nat
  at' : Nat
deriving DecidableEq, Repr
/-- A Translate that waits for the fault service (R375): queue, ticket, address, access. -/
structure XlateWait where
  q : Nat
  ticket : Nat
  va : Word
  acc : Nat
deriving DecidableEq, Repr
/-- A request of the host or of the guest die at a home (R293, R381), as it waits there. -/
inductive PortReq where
  | hostRead (pa n : Nat) (keep : Bool) | hostWrite (pa : Nat) (data : Bytes) (own : Bool)
  | guestRead (g : GuestAcc) (keep : Bool) | guestOwn (g : GuestAcc) (data : Bool) | guestWrite (g : GuestAcc) (data : Bytes)
  | guestFlush (g : GuestAcc) | guestFault (q ticket : Nat) (addr : Word) (acc at' : Nat)
deriving DecidableEq, Repr
/-- The hub's side of the anchor socket. `owed` are the Fault messages still due for packets that have completed (R376), `records` completion records still to be written after a reset of the site, `lanes` the trained width and `narrowed` how often it came up degraded (R368). -/
structure Socket where
  ready : Bool
  fenced : Bool
  expected : Nat
  config : List (Nat × Nat × Nat)
  queues : Tbl GuestQueue
  xlates : List GuestXlate
  pending : List XlateWait
  shootdowns : List Shootdown
  preempts : List (Nat × Nat × Nat × Bool)
  gates : Tbl Nat
  done : List (Nat × Nat × Nat)
  owed : List (Nat × Nat × Nat)
  records : List GuestPacket
  lanes : Nat
  narrowed : Nat
  discarded : Nat
  faults : Nat
  fences : Nat
  lostSectors : Nat
deriving DecidableEq, Repr

/-! ### Trust and health (25) -/

/-- A confidential domain (R446 to R452). -/
structure Domain where
  members : List Nat
  epoch : Nat
  secret : Nat
  prevSecret : Nat
  switchAt : Nat
  tenants : List Nat
  ranges : List (Nat × Nat)
  removed : List Nat
  seen : List (Nat × Nat × Nat)
  sendSeq : Tbl Nat
deriving DecidableEq, Repr
/-- The trust core, the ready register and the counters of the management controller (25). -/
structure Trust where
  vendorRoot : Nat
  ownerRoot : Nat
  identity : Nat
  imageVersion : Nat
  image : Nat
  count : Nat
  failedStarts : Nat
  domains : Tbl Domain
  ready : Nat
  sleeping : Bool
  sleepEpoch : Nat
  sramc : Nat
  sramu : Nat
  hbmc : Nat
  hbmu : Nat
  tile : Nat
  sealRefused : Nat
  cmdRefused : Nat
  mirrorSkipped : Nat
  belayFailures : Nat
  replaceReq : List Nat
  sramuTimes : List Nat
  hbmuTimes : List Nat
deriving DecidableEq, Repr

/-! ### The machine -/

/-- A message to a party outside the package (log entry 4): the model's own record of what leaves the device. -/
inductive OutMsg where
  | hostData (data : Bytes) | backInvalidate (sector : Nat) (inv : Bool) | msix
  | guestPost (q index : Nat) | guestSnoop (sector : Nat) (inv : Bool) | guestAnswer (pa size perms code : Nat) | guestPull | commandDone (ctx : Nat)
  | guestData (data : Bytes) | guestGo (err : Bool) | guestShootdown (id kind ctx va : Nat) | guestPreempt (id tag : Nat) (cancel : Bool) | guestGate (tenant : Nat) (closed : Bool)
  | flit (link : Nat) (f : Flit) | packet (link : Nat) (p : Packet) | identify (link : Nat) | replayRequest (link seq : Nat)
  | census (link : Nat) (counts : List Nat) | drainReturn (dst slot : Nat) | retireNotice (link seq : Nat)
  | completion (d : PhaseDelivery) | floorReport (node floor : Nat) | attestation (quads : List Nat) | hostRead (value : Nat)
deriving DecidableEq, Repr
/-- The machine. `who` names the party that now acts, and `turns` gives, for a line whose transaction waits for an answer, the party that waits and the tick of its latest attempt: other requests of the line wait behind it (R283). -/
structure State where
  mem : List Host.Cell
  hostMem : List Host.Cell
  now : Nat
  podTime : Nat
  podTick : Nat
  devno : Nat
  inPod : Bool
  free : Nat
  nextId : Nat
  agenda : List Instr
  issueQ : List Nat
  cur : Option Nat
  gangs : Tbl Gang
  threads : Tbl Thread
  teams : Tbl Team
  cores : Tbl Core
  clusters : Tbl Cluster
  dies : Tbl Stack
  dir : Tbl LineState
  records : Tbl WinRec
  sectors : Tbl Sector
  agents : Tbl AgentCopy
  turns : Tbl (Nat × Nat)
  who : Nat
  peers : Tbl Peer
  peerCopies : Tbl PeerCopy
  peerParts : List PeerPart
  peerAcks : List PeerAck
  scHeld : List ScAccess
  portWait : List PortReq
  host : HostSide
  belay : Belay
  fabric : Fabric
  socket : Socket
  trust : Trust
  out : List OutMsg
deriving DecidableEq, Repr

/-- A core right after reset. -/
def Core.reset : Core :=
  { clock := 0, tbase := 0, l1 := [], victim := [], tlb := [], incs := [], ends := [], floors := ⟨0, 0, 0⟩ }
/-- A cluster right after reset. -/
def Cluster.reset : Cluster := { tlb := [], faulted := false, parked := [] }
/-- A stack right after reset; tickets run from 1 upward (Table 23-5). -/
def Stack.reset : Stack := { tlb := [], misses := [], nextTicket := 1, ringBase := 0, ringIdx := 0 }
/-- A window with no record (R239). -/
def WinRec.empty : WinRec := { writer := 0, kind := 0, rel := false, scope := 0, w := 0 }
/-- A sector that neither the host nor the guest die holds. -/
def Sector.empty : Sector := { host := .i, guest := .i, hostSnoop := false, guestSnoop := none }
/-- An empty peer entry. -/
def Peer.empty : Peer := { mode := 0, pointers := [], coarse := 0, clear := [] }
/-- A belay node right after reset. -/
def Node.reset : Node := { floor := 0, reports := [], alive := true, uplink := 0, lastBeat := 0 }
/-- A link right after reset; the last good flit is the one before the first. -/
def Link.reset : Link :=
  { up := false, retired := false, txSeq := 0, rxSeq := 0, lastGood := 4095, replay := [], sent := [], freed := [], given := [], told := [],
    flitsSinceCensus := 0, censusAt := 0, replays := [], lastGoodAt := 0, identOk := false, wrong := false, identFails := 0,
    waiting := [], nReplay := 0, nDamage := 0, nResync := 0, skipping := false, resendFrom := none, owed := [], circuit := 0, parked := [] }
/-- The flit stream of a circuit that has carried nothing yet. -/
def Stream.fresh : Stream := { txSeq := 0, rxSeq := 0, lastGood := 4095, replay := [], sent := [], freed := [], given := [], told := [], skipping := false, resendFrom := none, owed := [] }
/-- An empty send queue. -/
def SendQueue.empty : SendQueue := { charged := [], free := [], allow := 0, held := [], used := [] }
/-- An unbound stream port (R159). -/
def StreamPort.unbound : StreamPort := { base := 0, desc := 0, pos := 0 }
/-- A barrier at placement (R266). -/
def Barrier.empty : Barrier := { phase := 0, mask := 0, arrived := [] }
/-- An accumulator slot at placement (R191). -/
def AccSlot.empty : AccSlot := { ty := .f32, vals := [], state := 0, groups := 0, progress := 0, at' := 0, before := 0 }
/-- A tenant for which no budget is set: every core, no limit on metered traffic, gate open (log entry 3). -/
def Budget.unset : Budget := { cores := 768, bandwidth := 0, power := 0, closed := false, closedAt := 0, meter := 0, window := 0 }

/-- The machine right after reset, before bring-up (R453): nothing installed, nothing placed, memory unlisted. Log entries 2 and 3 name the values the spec does not state. -/
def State.reset : State :=
  { mem := [], hostMem := [], now := 0, podTime := 0, podTick := 0, devno := 0, inPod := false, free := 0, nextId := 0,
    agenda := [], issueQ := [], cur := none, gangs := [], threads := [], teams := [],
    cores := [], clusters := [], dies := [], dir := [], records := [], sectors := [], agents := [], turns := [], who := 0, peers := [], peerCopies := [], peerParts := [],
    peerAcks := [], scHeld := [], portWait := [],
    host := { queues := [], launches := [], graphs := [], legs := [], jobs := [], ctxTable := none, cmdWaits := [], lanes := 16, narrowed := 0, budgets := [], mirrors := [], allocs := [],
              evRing := [], evHead := 0, evTail := 0, evDrop := 0, bar0Miss := 0, kickMiss := 0, fansMiss := 0 },
    belay := { nodes := [], phasers := [], msgs := [], deliveries := [], uplinkFailures := 0, uplinks := [], inbox := [] },
    fabric := { links := [], tables := [], phases := [], sendQ := [], backlog := [], farDown := [], writes := [], reqs := [], bulks := [], arrivals := [], stalled := [],
                lost := [], present := [], transit := [], away := [], drops := 0, lostCount := 0, wrong := 0, retired := 0, discarded := 0 },
    socket := { ready := false, fenced := false, expected := 0, config := [], queues := [], xlates := [], pending := [], shootdowns := [], preempts := [], gates := [],
                done := [], owed := [], records := [], lanes := 64, narrowed := 0, discarded := 0, faults := 0, fences := 0, lostSectors := 0 },
    trust := { vendorRoot := 0, ownerRoot := 0, identity := 0, imageVersion := 0, image := 0, count := 0, failedStarts := 0, domains := [],
               ready := 0, sleeping := false, sleepEpoch := 0, sramc := 0, sramu := 0, hbmc := 0, hbmu := 0, tile := 0,
               sealRefused := 0, cmdRefused := 0, mirrorSkipped := 0, belayFailures := 0, replaceReq := [], sramuTimes := [], hbmuTimes := [] },
    out := [] }

end Sys2Proof.Machine
end

