-- ==== Sys2Proof/Machine/Paths.lean ====
section
/-! DEFINITION. Paths through the fabric: links by number, the circuits of the present slot, the path of a packet and a slot's allowance (R345, R346, R353 to R358). -/
namespace Sys2Proof.Machine

/-- Group and position of a device (R345). -/
def devGroup (d : Nat) : Nat := d / 32
def devPos (d : Nat) : Nat := d % 32
/-- The local link from one position to another (R346). -/
def localLink (i q : Nat) : Nat := (q + 63 - i) % 32
/-- Whether a link is global. -/
def isGlobal (l : Nat) : Bool := 32 ≤ l
/-- A link of this device by number: local 0 to 30, global 32 to 47. -/
def State.link (s : State) (l : Nat) : Link := (tget s.fabric.links l).getD Link.reset
def State.modLink (s : State) (l : Nat) (f : Link → Link) : State :=
  { s with fabric := { s.fabric with links := tset s.fabric.links l (f (s.link l)) } }
/-- The local link by which this device reaches a device of its group: the direct one, or the first hop of a detour through the lowest position whose link is live (R353, R363; of the far half, which belongs to other devices, this hub knows what it has been told, log entry 14). -/
def State.localHop (s : State) (dst : Nat) : Option Nat :=
  let i := devPos s.devno
  let direct := localLink i (devPos dst)
  if (s.link direct).up then some direct
  else ((List.range 32).filter fun u => u != i && u != devPos dst && s.fabric.present.contains (32 * devGroup s.devno + u)).findSome? fun u =>
    if (s.link (localLink i u)).up && !s.fabric.farDown.contains (u, devPos dst) && !s.fabric.farDown.contains (devPos dst, u) then some (localLink i u) else none
/-- A retired link that still holds packets for a device whose fate its far end has not told: later packets to the device follow them there (R354, R363). -/
def State.cutOff (s : State) (dst : Nat) : Option Nat :=
  (s.fabric.links.find? fun e => e.2.retired && (e.2.replay.any (fun f => f.packets.any (·.dst == dst)) || e.2.waiting.any (·.dst == dst))).map (·.1)
/-- The local link on which the next packet to a device of the group is put. -/
def State.localPath (s : State) (dst : Nat) : Option Nat := (s.cutOff dst).orElse fun _ => s.localHop dst
/-- The entry of a slot table at a pod time (R355). -/
def SlotTable.entryAt (t : SlotTable) (time : Nat) : Option SlotEntry :=
  if time < t.start || t.entries.isEmpty then none else (t.entries.getD ((time - t.start) / 10000 % t.entries.length) none)
/-- The pod time at which a newer table takes effect: the first rotation boundary at or after its start that is still to come (R362). -/
def SlotTable.switchAt (t : SlotTable) (start now : Nat) : Nat :=
  let r := 10000 * t.entries.length
  let b := max start now
  if t.entries.isEmpty || b ≤ t.start then b else t.start + (b - t.start + r - 1) / r * r
/-- The number of a table's slot at a pod time and the ns since its start (R355). -/
def SlotTable.phaseAt (t : SlotTable) (time : Nat) : Option (Nat × Nat) :=
  if time < t.start || t.entries.isEmpty then none else some ((time - t.start) / 10000, (time - t.start) % 10000)
/-- Where the circuits of a table stand in State, and whether they are in data time, as its events have it and by the pod time (R356). -/
def State.phase (s : State) (key : Nat) : CircuitPhase := dget { slot := 0, data := false } s.fabric.phases key
def State.keyData (s : State) (key : Nat) : Bool :=
  (s.phase key).data && ((tget s.fabric.tables key).bind fun t => t.phaseAt s.podTime).elim false fun p => (s.phase key).slot == p.1 + 1 && 1000 ≤ p.2
/-- The key of a global link of this device. -/
def State.ownKey (s : State) (l : Nat) : Nat := 16 * devPos s.devno + (l - 32)
/-- The slot table of this device's global link, its circuit in the present slot, and whether the link's own slot is in data time (R355, R356). -/
def State.ownTable (s : State) (l : Nat) : Option SlotTable := tget s.fabric.tables (s.ownKey l)
def State.ownEntry (s : State) (l : Nat) : Option SlotEntry := (s.ownTable l).bind fun t => t.entryAt s.podTime
def State.ownData (s : State) (l : Nat) : Bool := s.keyData (s.ownKey l)
/-- Whether a global link of this device's group, by its table key, is in service, and whether it may stand in C. This device's own may once its circuit is identified (R357). Another device's may while its device is present and not lost and no retirement of it has been told; of its circuit's identification the spec does not say that this hub learns (R353, log entry 14). -/
def State.linkServes (s : State) (key : Nat) : Bool :=
  if key / 16 = devPos s.devno then (s.link (32 + key % 16)).up && !(s.link (32 + key % 16)).wrong
  else
    let d := 32 * devGroup s.devno + key / 16
    s.fabric.present.contains d && !s.fabric.lost.contains d && !s.fabric.away.contains key
def State.linkLive (s : State) (key : Nat) : Bool :=
  s.linkServes key && (key / 16 != devPos s.devno || (s.link (32 + key % 16)).identOk)
/-- The global links that meet a test and whose circuit reaches a group in the present slot, by ascending position and link. -/
def State.circuitsIf (s : State) (ok : Nat → Bool) (g : Nat) : List (Nat × SlotEntry) :=
  s.fabric.tables.filterMap fun t => match t.2.entryAt s.podTime with
    | some e => if devGroup e.peer = g && ok t.1 then some (t.1, e) else none
    | none => none
/-- C of R353, of the circuits in data time: a circuit in its guard interval carries nothing (R356, R358). -/
def State.circuits (s : State) (g : Nat) : List (Nat × SlotEntry) := s.circuitsIf (fun k => s.keyData k && s.linkLive k) g
/-- Whether every circuit of this device to a group has been identified or found wrong in the present slot, so that C changes no more but by a retirement (R354, R357). -/
def State.settled (s : State) (g : Nat) : Bool := (s.circuitsIf (fun k => s.keyData k && s.linkServes k) g).length == (s.circuits g).length
/-- H of R353. -/
def pathHash (va : Nat) : Nat := Nat.xor (Nat.xor (bits va 7 16) (bits va 23 16)) (bits va 39 11)
/-- The entry of a list of circuits at index H modulo its length. -/
def pathIn (l : List (Nat × SlotEntry)) (p : Packet) : Option Nat := (l[pathHash p.va % l.length]?).map (·.1)
/-- The global link, by its table key, that a packet crosses when it leaves now. -/
def State.pathOf (s : State) (p : Packet) : Option Nat := pathIn (s.circuits (devGroup p.dst)) p
/-- The link of this device by which a packet goes toward a global link of its group. -/
def State.linkTo (s : State) (key : Nat) : Option Nat :=
  if key / 16 = devPos s.devno then some (32 + key % 16) else s.localHop (32 * devGroup s.devno + key / 16)
/-- The allowance of a slot for a destination; at the slot's start no circuit has been identified yet, so the circuits in service count (R357, R358). -/
def State.slotAllow (s : State) (dst : Nat) : Nat := 128 * ((s.circuitsIf s.linkServes (devGroup dst)).map (·.2.allow)).foldl (· + ·) 0

end Sys2Proof.Machine
end

