-- ==== Sys2Proof/Machine/Access.lean ====
section
/-! DEFINITION. Named reads and writes of the parts of State: threads, teams, cores, registers with their pending results (07, R27 to R32, R410). -/
namespace Sys2Proof.Machine

/-- How the part of a step that acts for one party stops short. -/
inductive Stop where
  /-- A precise trap of the class given, with code, faulting address and details (Table 23-2). -/
  | trap (cls code : Nat) (addr det1 det2 det3 : Word)
  /-- The gang, or the unit, is held and tries again later; nothing of the word is performed. -/
  | hold
deriving DecidableEq, Repr

/-- The part of a step that acts for one party: it changes the state and may stop short. -/
abbrev M (α : Type) := ExceptT Stop (StateM State) α

/-- A trap with no details. -/
def trapAt {α : Type} (cls : Nat) (addr : Word) : M α := throw (.trap cls 0 addr 0 0 0)
/-- A trap with nothing but its class. -/
def trapC {α : Type} (cls : Nat) : M α := trapAt cls 0
/-- The gang is held. -/
def holdM {α : Type} : M α := throw .hold
/-- A part of the state. -/
def view {α : Type} (f : State → α) : M α := do return f (← get)
/-- A list of actions in order. -/
def forM' {α : Type} (l : List α) (f : α → M Unit) : M Unit := l.foldlM (fun _ a => f a) ()
/-- The results of an action over a list. -/
def mapM' {α β : Type} (f : α → M β) : List α → M (List β)
  | [] => return []
  | a :: r => do
    let b ← f a
    let bs ← mapM' f r
    return b :: bs

/-! ### Free values -/

/-- The next free value (log entry 1). -/
def State.nextFree (s : State) : Nat × State := (Config.freeNat s.free, { s with free := s.free + 1 })
/-- The next free value, in M. -/
def freeM : M Nat := do
  let s ← get
  set s.nextFree.2
  return s.nextFree.1
/-- The next serial. -/
def newId : M Nat := do
  let s ← get
  set { s with nextId := s.nextId + 1 }
  return s.nextId

/-! ### Threads and cores -/

/-- A thread that no entry lists. -/
def Thread.blank : Thread :=
  { status := .draining, stamp := 0, team := 0, grp := 0, j := 0, tid := 0, pc := 0, mid := false, resume := none, alloc := 16,
    slices := [], preds := BitVec.ofNat 32 (2 ^ 31), temps := [], wbase := 0, streams := [], cstk := 0, cstkTop := 0, cstkBase := 0,
    cairn := 0, fmode := 0, sgen := 0, outst := [], dcErr := [], dcReport := [], pend := [], varDest := [], handler := false,
    twait := none, nextHead := none, back := none, yielded := none, yieldBit := false, faultWait := none, checkOn := false, killed := false,
    fabFail := [], boundIds := [], boundFail := false, paged := [] }
/-- A team that no entry lists. -/
def Team.blank : Team :=
  { launch := 0, index := 0, placed := false, core := 0, slot := 0, inc := 0, pair := false, groups := [], spadSize := 0, spad := [],
    tstat := 0, status := 0, endStamp := 0, taskQ := [], barriers := [], rings := [], inits := [], carabiner := none, acc := [],
    slotLast := [], queues := [], copyBad := false, guest := [], maps := [], windows := [], acq := [], floors := ⟨0, 0, 0⟩,
    preempt := none, block := none, placeAt := 0, fin := false }
/-- A launch that no entry lists. -/
def Launch.blank : Launch :=
  { q := 0, tenant := 0, ctx := 0, teams := 0, groups := [], check := false, fround := 0, prio := 0, prv := 0, spad := 0,
    prvb := 0, seed := 0, traps := 0, save := 0, lmir := 0, tmir := 0, graph := none, waits := [], entries := [], placed := 0,
    eligible := none, roomSince := none, status := 0, count := 0, fin := false, lastCore := 0 }
/-- A group that no list holds. -/
def Group.blank : Group :=
  { code := 0, role := .copy, width := 8, alloc := 16, priv := false, task := false, base := 0, live := false }

/-- The thread of a key (2048 × core + slot). -/
def State.thr (s : State) (k : Nat) : Thread := (tget s.threads k).getD Thread.blank
def State.team (s : State) (i : Nat) : Team := (tget s.teams i).getD Team.blank
def State.launch (s : State) (i : Nat) : Launch := (tget s.host.launches i).getD Launch.blank
def State.core (s : State) (c : Nat) : Core := (tget s.cores c).getD Core.reset
def State.cluster (s : State) (c : Nat) : Cluster := (tget s.clusters c).getD Cluster.reset
def State.die (s : State) (c : Nat) : Stack := (tget s.dies c).getD Stack.reset
def State.setThr (s : State) (k : Nat) (t : Thread) : State := { s with threads := tset s.threads k t }
def State.modThr (s : State) (k : Nat) (f : Thread → Thread) : State := { s with threads := tmod s.threads k f }
def State.modTeam (s : State) (i : Nat) (f : Team → Team) : State := { s with teams := tmod s.teams i f }
def State.modLaunch (s : State) (i : Nat) (f : Launch → Launch) : State :=
  { s with host := { s.host with launches := tmod s.host.launches i f } }
def State.modCore (s : State) (c : Nat) (f : Core → Core) : State := { s with cores := tset s.cores c (f (s.core c)) }
def State.modCluster (s : State) (c : Nat) (f : Cluster → Cluster) : State := { s with clusters := tset s.clusters c (f (s.cluster c)) }
def State.modDie (s : State) (c : Nat) (f : Stack → Stack) : State := { s with dies := tset s.dies c (f (s.die c)) }
def State.modGang (s : State) (g : Nat) (f : Gang → Gang) : State := { s with gangs := tmod s.gangs g f }
/-- A message to an outside party. -/
def State.emit (s : State) (m : OutMsg) : State := { s with out := s.out ++ [m] }

def getT (k : Nat) : M Thread := view (·.thr k)
def modT (k : Nat) (f : Thread → Thread) : M Unit := modify (·.modThr k f)
def modTm (i : Nat) (f : Team → Team) : M Unit := modify (·.modTeam i f)

/-- Core, slot and home lane of a thread key (R128). -/
def keyCore (k : Nat) : Nat := k / 2048
def keySlot (k : Nat) : Nat := k % 2048
def keyLane (k : Nat) : Nat := k % 32
/-- Cluster and stack of a core (R279, Table 11-3). -/
def coreCluster (c : Nat) : Nat := c / 4
def coreStack (c : Nat) : Nat := c / 192
/-- The group of a thread. -/
def State.groupOf (s : State) (k : Nat) : Group := ((s.team (s.thr k).team).groups[(s.thr k).grp]?).getD Group.blank
/-- The launch of a thread. -/
def State.launchOf (s : State) (k : Nat) : Launch := s.launch (s.team (s.thr k).team).launch
/-- Whether a thread is privileged (R41, R410). -/
def State.privOf (s : State) (k : Nat) : Bool := (s.thr k).handler || (s.groupOf k).priv
/-- The tag of a placed team (Table 11-5). -/
def State.tagOf (s : State) (i : Nat) : Nat :=
  low 15 s.devno * 2 ^ 26 + low 10 (s.team i).core * 2 ^ 16 + low 8 (s.team i).slot * 2 ^ 8 + low 8 (s.team i).inc
/-- The threads of a team. -/
def State.threadsOf (s : State) (i : Nat) : List Nat := (s.threads.filter fun e => e.2.team == i).map (·.1)
/-- The threads of a group. -/
def State.threadsIn (s : State) (i g : Nat) : List Nat := (s.threads.filter fun e => e.2.team == i && e.2.grp == g).map (·.1)

/-! ### Clocks (R231) -/

/-- The core's clock raised to a value at least, and never below its copy of the time base. -/
def State.raiseClock (s : State) (c v : Nat) : State :=
  s.modCore c fun x => { x with clock := clkMax x.clock v }
/-- The release serial clock + 1; the clock becomes serial + 1. Also the stamp of an SC access or a sfence. -/
def takeSerial (c : Nat) : M Nat := do
  let s ← get
  let v := (s.core c).clock
  set (s.modCore c fun x => { x with clock := low 50 (v + 2) })
  return low 50 (v + 1)

/-! ### Registers: base values, pending results, cover (R27 to R32) -/

/-- The written value of a register. -/
def Thread.base (t : Thread) : Loc → Nat
  | .slice n => (dget 0 t.slices n).toNat
  | .temp n => (dget 0 t.temps n).toNat
  | .pred n => if n = 31 then 1 else b2n (t.preds.getLsbD n)
/-- A register written. Writes of pt are discarded. -/
def Thread.put (t : Thread) (l : Loc) (v : Nat) : Thread :=
  match l with
  | .slice n => { t with slices := dset 0 t.slices n (BitVec.ofNat 4 v) }
  | .temp n => { t with temps := dset 0 t.temps n (wd v) }
  | .pred n => if n < 31 then { t with preds := BitVec.ofNat 32 (setBits t.preds.toNat n 1 v) } else t
/-- Registers written, first to last. -/
def Thread.putAll (t : Thread) (ws : List (Loc × Nat)) : Thread := ws.foldl (fun t w => t.put w.1 w.2) t
/-- The pending fixed-latency values of a register, each with the index of its result. -/
def Thread.pendOf (t : Thread) (l : Loc) : List (Nat × Nat) :=
  (t.pend.zipIdx.flatMap fun e => (e.1.writes.filter fun w => w.1 == l).map fun w => (e.2, w.2))
/-- Whether a published result that is still pending covers a register (R30). -/
def Thread.published (t : Thread) (l : Loc) : Bool := t.pend.any fun p => p.pub && p.writes.any fun w => w.1 == l
/-- The variable-latency writes to a register that no trailer has waited on. -/
def Thread.varOf (t : Thread) (l : Loc) : List VarDest := t.varDest.filter fun v => v.loc == l
/-- Whether an access to a register would be uncovered as a read (R29). -/
def Thread.uncovered (t : Thread) (l : Loc) : Bool := !(t.pendOf l).isEmpty || !(t.varOf l).isEmpty
/-- The registers of a destination, with the value of each. -/
def Dest.writes (d : Dest) (v : Nat) : List (Loc × Nat) :=
  match d with
  | .nowhere => []
  | .element _ _ _ => []
  | .slices f n => (List.range n).map fun i => (.slice (f + i), bits v (4 * i) 4)
  | .temp i w => [(.temp i, low w v)]
  | .preds pa pb => (if pa < 31 then [(.pred pa, low 1 v)] else []) ++ (if pb < 31 then [(.pred pb, low 1 (v + 1))] else [])
/-- The registers of a destination. -/
def Dest.locs (d : Dest) : List Loc := (d.writes 0).map (·.1)
/-- Whether a result goes to a store stream (R91). -/
def Dest.isElement : Dest → Bool
  | .element _ _ _ => true
  | _ => false
/-- Whether a result goes to the store stream of a port. -/
def Dest.onPort (p : Nat) : Dest → Bool
  | .element q _ _ => q == p
  | _ => false
/-- Where the thread's present temporaries begin: 0 for its own, 16 in handler state (R26, R410). -/
def Thread.tempBase (t : Thread) : Nat := if t.handler then 16 else 0
/-- The place of an instruction among those whose results no trailer has waited on. -/
def Thread.varPlace (t : Thread) (oid : Nat) : Nat := (t.varDest.map (·.oid)).eraseDups.idxOf oid
/-- Whether the instruction of an entry is still outstanding. -/
def Thread.isOut (t : Thread) (e : VarDest) : Bool := t.outst.any fun o => o.id == e.oid
/-- The value of a register before the latest of its finished uncovered writes that an access does not see, given the bits of a free value: they are undone from the last on, as long as they are not seen. -/
def Thread.undone (t : Thread) (f : Nat) : List VarDest → Nat → Nat
  | [], v => v
  | e :: r, v => if bitAt f (2 * t.varPlace e.oid + 1) then t.undone f r e.old else v
/-- The value that an uncovered read sees, given the bits of a free value: a finished write is seen or the value before it is, and a write still to be made is seen or not. The choice is one for each writing instruction, so the registers that one instruction writes are seen alike (R31). -/
def Thread.seen (t : Thread) (f : Nat) (l : Loc) : Nat :=
  let v0 := t.undone f ((t.varOf l).filter fun e => !t.isOut e).reverse (t.base l)
  let v1 := ((t.varOf l).filter t.isOut).foldl (fun acc e =>
    if bitAt f (2 * t.varPlace e.oid + 1) then
      (t.outst.find? fun o => o.id == e.oid && o.fixed).elim acc fun o => ((o.dest.writes o.val).find? fun w => w.1 == l).elim acc (·.2)
    else acc) v0
  (t.pendOf l).foldl (fun acc e => if bitAt f (2 * e.1) then e.2 else acc) v1
/-- Registers that a fixed-latency result has just written: no earlier value of theirs can be read any more. -/
def Thread.settleOld (t : Thread) (ws : List (Loc × Nat)) : Thread :=
  { t with varDest := t.varDest.map fun e => if ws.any fun w => w.1 == e.loc then { e with old := t.base e.loc } else e }
/-- A variable-latency instruction is about to write its result: its entries take the value before that write, and come behind those of the writes already done. -/
def Thread.closeVar (t : Thread) (o : Outst) : Thread :=
  let mine := t.varDest.filter fun e => e.oid == o.id
  { t with varDest := (t.varDest.filter fun e => e.oid != o.id) ++ mine.map fun e => if o.dest.locs.contains e.loc then { e with old := t.base e.loc } else e }
/-- A register read at issue: held behind a published result, trapped when uncovered under checking, else covered or free (R30 to R32). -/
def readLoc (k : Nat) (l : Loc) : M Nat := do
  let t ← getT k
  if t.published l then holdM
  else if t.uncovered l then
    if t.checkOn then trapC 17
    else
      let f ← freeM
      return t.seen f l
  else return t.base l
/-- A predicate read at issue; pt is always true. Both predicates of one uncovered pair are seen new or neither: the choice is made per writing instruction and per word (R152, R157). -/
def readPred (k n : Nat) : M Bool := do
  if n = 31 then return true
  let t ← getT k
  let l := Loc.pred n
  if t.uncovered l then
    if t.checkOn then trapC 17
    else
      let s ← get
      return t.seen (Config.freeAt k s.now) l == 1
  else return t.base l == 1
/-- Consecutive slices read as one number, lowest first. -/
def readSlices (k f : Nat) : Nat → M Nat
  | 0 => return 0
  | n + 1 => do
    let v ← readLoc k (.slice f)
    let r ← readSlices k (f + 1) n
    return v + 16 * r
/-- The check of a destination at issue: held behind a published result; a register that a variable-latency instruction is still to write is uncovered (R29, R32). -/
def coverDest (k : Nat) (d : Dest) : M Unit := do
  let t ← getT k
  if d.locs.any t.published then holdM
  else if t.checkOn && d.locs.any (fun l => !(t.varOf l).isEmpty) then trapC 17
  else pure ()
/-- Registers leave pending results that a later write overtook (R29). -/
def dropWrites (ls : List Loc) (p : Pend) : Pend := { p with writes := p.writes.filter fun w => !ls.contains w.1 }
/-- Results landed in issue order: each due result is written, and what it writes leaves every earlier result still pending (R29). -/
def landList (now : Nat) : List Pend → List Pend → Thread → List Pend × Thread
  | acc, [], t => (acc, t)
  | acc, p :: r, t =>
    if p.land ≤ now then landList now (acc.map (dropWrites (p.writes.map (·.1)))) r ((t.putAll p.writes).settleOld p.writes)
    else landList now (acc ++ [p]) r t
/-- The fixed-latency results due by a tick, written (R27). -/
def Thread.land (t : Thread) (now : Nat) : Thread :=
  let r := landList now [] t.pend t
  { r.2 with pend := r.1 }
/-- A later write contests the slices of an outstanding result (R31). -/
def Thread.contest (t : Thread) (ls : List Loc) : Thread :=
  { t with outst := t.outst.map fun o => { o with contested := o.contested ++ (o.dest.locs.filter ls.contains) } }
/-- A fixed-latency result of latency L cycles issued (R27). -/
def writeFixed (k : Nat) (d : Dest) (v lat : Nat) : M Unit := do
  let s ← get
  let ws := d.writes v
  if ws.isEmpty then pure ()
  else modT k fun t => { t.contest (ws.map (·.1)) with pend := t.pend ++ [{ land := s.now + lat * Config.ticksPerCycle, writes := ws, pub := false }] }
/-- The counter that an sc field names (R28, R410). -/
def Thread.counter (t : Thread) (sc : Nat) : Nat := if t.handler then 8 + sc else sc
/-- The value of a counter. -/
def Thread.dcount (t : Thread) (dc : Nat) : Nat := (t.outst.filter fun o => o.dc == dc).length
/-- A variable-latency instruction issued: held while its counter stands at 63 (R28); earliest and latest cycle of completion, or no latest. A variable-latency write over a fixed-latency write that is still pending is none of the cases of R29: nothing traps, and the write that lands last stays (DESIGN CHOICE, log entry 42). -/
def issueVar (k sc : Nat) (d : Dest) (v lo : Nat) (hi : Option Nat) (w : Wait) (final : Bool) (err : Option Nat) (src : Nat) : M Nat := do
  let t ← getT k
  let dc := t.counter sc
  if 63 ≤ t.dcount dc then holdM
  else
    let f ← freeM
    let id ← newId
    let s ← get
    let lat := match hi with
      | none => lo + f
      | some h => lo + f % (h - lo + 1)
    let o : Outst := { id := id, dc := dc, doneAt := s.now + lat * Config.ticksPerCycle, dest := d, contested := [], val := v, wait := w, fixed := final, err := err, src := src, report := [] }
    modT k fun t => { t.contest d.locs with outst := (t.contest d.locs).outst ++ [o], varDest := t.varDest ++ d.locs.map fun l => { oid := id, dc := dc, loc := l, old := t.base l } }
    return id
/-- A thread's outstanding instruction changed. -/
def modOutst (k id : Nat) (f : Outst → Outst) : M Unit :=
  modT k fun t => { t with outst := t.outst.map fun o => if o.id == id then f o else o }
def State.modOutst (s : State) (k id : Nat) (f : Outst → Outst) : State :=
  s.modThr k fun t => { t with outst := t.outst.map fun o => if o.id == id then f o else o }

end Sys2Proof.Machine
end

