-- ==== Sys2Proof/Machine/Race.lean ====
section
/-! DEFINITION. Window records, floors and the acquired-from table: the race detector (11, R226, R231, R237 to R244). -/
namespace Sys2Proof.Machine

/-- The tag that names no team (Table 11-5). -/
def tagMany : Nat := 2 ^ 41 - 1
/-- Device, core of a tag. -/
def tagDev (t : Nat) : Nat := bits t 26 15
def tagCore (t : Nat) : Nat := bits t 16 10
/-- The belay nodes by number: die nodes 0 to 3, package node 4, the pod floor as this device receives it 5, switch n at 8 + n. -/
def nodePackage : Nat := 4
def nodePod : Nat := 5
def nodeSwitch (n : Nat) : Nat := 8 + n
def State.node (s : State) (n : Nat) : Node := (tget s.belay.nodes n).getD Node.reset
def State.modNode (s : State) (n : Nat) (f : Node → Node) : State :=
  { s with belay := { s.belay with nodes := tset s.belay.nodes n (f (s.node n)) } }
/-- The pod floor as the device's homes see it; a device of no pod has its package floor (R233). -/
def State.podFloor (s : State) : Nat := if s.inPod then (s.node nodePod).floor else (s.node nodePackage).floor
/-- Whether the party of tag a stands within scope sc of the party of tag b (Table 11-1). -/
def tagWithin (sc a b : Nat) : Bool :=
  let sameDev := tagDev a == tagDev b
  if sc ≤ 1 then a == b
  else if sc = 2 then sameDev && tagCore a == tagCore b
  else if sc = 3 then sameDev && coreCluster (tagCore a) == coreCluster (tagCore b)
  else if sc = 4 then sameDev && coreStack (tagCore a) == coreStack (tagCore b)
  else if sc = 5 then sameDev
  else true
/-- Floor(B, A) for team i and writer a; the tag many takes the pod floor (R242, R258). -/
def State.floorFor (s : State) (i a : Nat) : Nat :=
  let f := (s.team i).floors
  if a = tagMany then f.pod
  else if tagDev a = low 15 s.devno then
    if coreStack (tagCore a) = coreStack (s.team i).core then f.stack else f.package
  else f.pod
/-- Whether a record is two epochs behind its home (R237). -/
def State.stale (s : State) (r : WinRec) : Bool := (bits s.podFloor 48 2 + 4 - bits r.w 48 2) % 4 == 2
/-- The record of a window; until the scrub reaches it, one two epochs behind counts as kind none (R237). -/
def State.winRec (s : State) (win : Nat) : WinRec :=
  let r := dget WinRec.empty s.records win
  if s.stale r then WinRec.empty else r
def State.setWin (s : State) (win : Nat) (r : WinRec) : State := { s with records := dset WinRec.empty s.records win r }
/-- Check of R243 for an access of team i, synchronising or not, chup or not: whether it passes. -/
def State.checkRec (s : State) (i : Nat) (r : WinRec) (sync chup : Bool) : Bool :=
  r.kind == 0 || r.writer == s.tagOf i || (sync && r.kind == 2) || (chup && r.kind == 3)
    || clkLt r.w (s.floorFor i r.writer)
    || (r.writer != tagMany && (s.team i).acq.any fun e => e.tag == r.writer && !clkLt e.serial r.w)
/-- Quad 2 of the conflict report: the record without its stamp, and the kind of access (Table 11-8). -/
def WinRec.reportQuad (r : WinRec) (acc : Nat) : Nat := r.writer * 2 ^ 23 + r.kind * 2 ^ 21 + b2n r.rel * 2 ^ 20 + r.scope * 2 ^ 17 + acc * 2 ^ 15
/-- The conflict report of Table 11-8: quads 0 to 3 as address and details. -/
def State.conflict (s : State) (i : Nat) (r : WinRec) (addr : Word) (acc : Nat) : Stop :=
  .trap 16 0 addr (wd r.w) (wd (r.reportQuad acc)) (wd (s.floorFor i r.writer))
/-- What a write sets the record of its window to (Table 11-7). -/
inductive RecKind where
  | plain | sync (rel : Bool) (scope : Nat) | churn | external
deriving DecidableEq, Repr
/-- The record after a write by a team tag with stamp w (R240). -/
def recAfter (r : WinRec) (tag w : Nat) : RecKind → WinRec
  | .plain => { writer := tag, kind := 1, rel := false, scope := 0, w := w }
  | .sync rel sc => { writer := tag, kind := 2, rel := rel, scope := sc, w := w }
  | .churn => if r.kind = 3 then { writer := if r.writer = tag then tag else tagMany, kind := 3, rel := false, scope := 0, w := clkMax r.w w }
    else { writer := tag, kind := 3, rel := false, scope := 0, w := w }
  | .external => WinRec.empty
/-- The record of a window set by a write (R240). -/
def State.recordWrite (s : State) (win tag w : Nat) (k : RecKind) : State := s.setWin win (recAfter (s.winRec win) tag w k)
/-- The acquired-from table with the serial of a tag raised; none when there is no room (R241). -/
def acqRaise (l : List AcqEntry) (tag w : Nat) (below : AcqEntry → Bool) : Option (List AcqEntry) :=
  if l.any (·.tag == tag) then some (l.map fun e => if e.tag == tag then { e with serial := clkMax e.serial w } else e)
  else if l.length < 32 then some (l ++ [{ tag := tag, serial := w }])
  else match takeFirst below l with
    | none => none
    | some (_, r) => some (r ++ [{ tag := tag, serial := w }])
/-- An acquire at scope sc by a thread that read a window with record r: the entry is set, and the clock raised (R231, R241). It is held while the table has no room. -/
def acquireRec (k : Nat) (r : WinRec) (sc : Nat) : M Unit := do
  let s ← get
  let i := (s.thr k).team
  let b := s.tagOf i
  if r.kind = 2 && r.rel && r.writer ≠ b && tagWithin r.scope b r.writer && tagWithin sc r.writer b then
    match acqRaise (s.team i).acq r.writer r.w (fun e => clkLt e.serial (s.floorFor i e.tag)) with
    | none => holdM
    | some l => modTm i fun t => { t with acq := l }
  else pure ()
  if r.kind ≠ 0 then modify fun s => s.raiseClock (keyCore k) (low 50 (r.w + 1)) else pure ()
/-- The floors of a team raised, never lowered (R242). -/
def Floors.raise (f : Floors) (st pk pd : Nat) : Floors :=
  { stack := clkMax f.stack st, package := clkMax f.package pk, pod := clkMax f.pod pd }

end Sys2Proof.Machine
end

