-- ==== Sys2Proof/Machine/Coherence.lean ====
section
/-! DEFINITION. Lines of device memory at their homes and in the first-level caches: the MESI states, the Churn state, mappings, sectors and the peer directory (14). -/
namespace Sys2Proof.Machine

/-- The 128-byte line of a physical address, and the slice hash of R279. -/
def lineOf (pa : Nat) : Nat := pa / 128
def homeHash (pa : Nat) : Nat := Nat.xor (bits pa 7 16) (bits pa 23 15) % 192
def homeStack (pa : Nat) : Nat := pa / (192 * 2 ^ 30)
/-- The cluster whose service group performs atomics on an address (R253). -/
def homeCluster (pa : Nat) : Nat := homeStack pa * 48 + homeHash pa / 4
/-- The slices of R279, numbered over the package: a line's home, its agent on a stack, the slice of a cluster at which its partials merge first, and its peer home on another device. -/
def homeSlice (line : Nat) : Nat := 192 * homeStack (128 * line) + homeHash (128 * line)
def agentSlice (stack line : Nat) : Nat := 192 * stack + homeHash (128 * line)
def clusterSlice (c line : Nat) : Nat := 192 * (c / 48) + (4 * (c % 48) + homeHash (128 * line) % 4)
def peerSlice (line : Nat) : Nat := agentSlice (bits (128 * line) 7 2) line
/-- The lines of 128 bytes that a slice of 2 MiB holds, and the entries and ways of a slice's peer directory (Table 00-2, R294). -/
def sliceLines : Nat := 16384
def peerSets : Nat := 512
def peerWays : Nat := 8

def State.dirOf (s : State) (line : Nat) : LineState := dget .uncached s.dir line
/-- The cores whose copies the home's vector names. -/
def LineState.holders : LineState → List Nat
  | .shared v => v
  | .owned c => [c]
  | .churn _ _ v => v
  | .busy _ d => d.holders
  | _ => []
/-- The stack of a core that does not own a line, if it is one: its copies are kept track of by its agent (R279, R280). -/
def foreignStack (c line : Nat) : Option Nat := if coreStack c = homeStack (128 * line) then none else some (coreStack c)
/-- The key of a line's entry at the agent of a stack. -/
def agentKey (stack line : Nat) : Nat := stack * 2 ^ 40 + line
/-- The agents' entries of a line follow the home's vector: one at each stack with a holder that does not own the line. -/
def followAgents (l : Tbl AgentCopy) (line : Nat) (d : LineState) : Tbl AgentCopy :=
  (List.range 4).foldl (fun l st =>
    if d.holders.any fun c => foreignStack c line == some st then (if (tget l (agentKey st line)).isSome then l else tset l (agentKey st line) .clean)
    else tdel l (agentKey st line)) l
def State.setDir (s : State) (line : Nat) (d : LineState) : State := { s with dir := dset .uncached s.dir line d, agents := followAgents s.agents line d }
def State.l1Of (s : State) (c line : Nat) : Option L1Line := tget (s.core c).l1 line
def State.setL1 (s : State) (c line : Nat) (l : Option L1Line) : State :=
  s.modCore c fun x => { x with l1 := match l with | none => tdel x.l1 line | some v => tset x.l1 line v }
def State.dropVictim (s : State) (c line : Nat) : State := s.modCore c fun x => { x with victim := tdel x.victim line }
def State.memLine (s : State) (line : Nat) : Bytes := memGetN s.mem (128 * line) 128
def State.putLine (s : State) (line : Nat) (b : Bytes) : State := { s with mem := memPutN s.mem (128 * line) b }
/-- The data that an agent of a line holds are taken to the home; the copy stays (R285). -/
def State.cleanAgent (s : State) (line st : Nat) : State :=
  match tget s.agents (agentKey st line) with
  | some (.dirty d) => { s.putLine line d with agents := tset s.agents (agentKey st line) .clean }
  | _ => s
/-- The same for every agent. -/
def State.cleanAgents (s : State) (line : Nat) : State := (List.range 4).foldl (fun s st => s.cleanAgent line st) s
def State.sector (s : State) (n : Nat) : Sector := dget Sector.empty s.sectors n
def State.setSector (s : State) (n : Nat) (x : Sector) : State := { s with sectors := dset Sector.empty s.sectors n x }

/-! ### Copies at the cores -/

/-- The dirty data of core c's copy is taken to the home; a first-level copy stays in state S, a victim entry is freed (R282, R285). -/
def State.recallShared (s : State) (c line : Nat) : State :=
  let s : State := s.cleanAgents line
  let s : State := match s.l1Of c line with
    | some (.m d) => (s.putLine line d).setL1 c line (some .s)
    | some .e => s.setL1 c line (some .s)
    | _ => s
  match tget (s.core c).victim line with
  | some (.m d) => (s.putLine line d).dropVictim c line
  | _ => s
/-- Core c's copy is invalidated, its dirty data supplied (R282). -/
def State.invalidateAt (s : State) (c line : Nat) : State :=
  let s : State := s.cleanAgents line
  let s : State := match s.l1Of c line with
    | some (.m d) => (s.putLine line d).setL1 c line none
    | some .e => s.setL1 c line none
    | some .s => s.setL1 c line none
    | _ => s
  match tget (s.core c).victim line with
  | some (.m d) => (s.putLine line d).dropVictim c line
  | _ => s
/-- The cores of a stack that a line's state names, as bits: the home's core vector for the owning stack, an agent's for another; and the agent vector of a home (R280). -/
def LineState.coreVector (d : LineState) (stack : Nat) : Nat := (d.holders.filter fun c => c / 192 == stack).foldl (fun a c => Nat.lor a (2 ^ (c % 192))) 0
def LineState.agentVector (d : LineState) (home : Nat) : Nat :=
  ((List.range 4).filter (· != home)).zipIdx.foldl (fun a e => if d.coreVector e.1 = 0 then a else a + 2 ^ e.2) 0
/-- Every copy but core k's is invalidated. -/
def State.invalidateOthers (s : State) (k : Option Nat) (line : Nat) : State :=
  (s.dirOf line).holders.foldl (fun s c => if k = some c then s else s.invalidateAt c line) s

/-! ### Churn (R286 to R289) -/

/-- The partial that a first-level or victim entry holds. -/
def L1Line.partialOf : L1Line → Option Bytes
  | .c _ _ d => some d
  | _ => none
/-- Core c's partial of a line: first-level, victim or parked (R287). -/
def State.partialAt (s : State) (c line : Nat) : Option Bytes :=
  match (s.l1Of c line).bind L1Line.partialOf with
  | some d => some d
  | none => match (tget (s.core c).victim line).bind L1Line.partialOf with
    | some d => some d
    | none => ((s.cluster (coreCluster c)).parked.find? fun p => p.1 == line && p.2.1 == c).bind fun p => p.2.2.partialOf
/-- Core c's parked partial of a line is taken away (R287). -/
def State.dropParked (s : State) (c line : Nat) : State :=
  s.modCluster (coreCluster c) fun x => { x with parked := x.parked.filter fun p => !(p.1 == line && p.2.1 == c) }
/-- Core c's partial of a line is taken away. -/
def State.dropPartial (s : State) (c line : Nat) : State :=
  let s : State := if ((s.l1Of c line).bind L1Line.partialOf).isSome then s.setL1 c line none else s
  let s : State := if ((tget (s.core c).victim line).bind L1Line.partialOf).isSome then s.dropVictim c line else s
  s.dropParked c line
/-- Adjacent partials with equal place combined, the earlier one on the left. -/
def foldPlaces (g : ChTag) : Option (Nat × Bytes) → List (Nat × Bytes) → List (Nat × Bytes)
  | none, [] => []
  | some p, [] => [p]
  | none, q :: r => foldPlaces g (some q) r
  | some p, q :: r => if p.1 = q.1 then foldPlaces g (some (p.1, churnLine g p.2 q.2)) r else p :: foldPlaces g (some q) r
/-- The total of a device's partials, given by ascending core: clusters, then stacks, then the device (R288). -/
def mergeTotal (g : ChTag) (parts : List (Nat × Bytes)) : Option Bytes :=
  let byCluster := foldPlaces g none (parts.map fun p => (p.1 / 4, p.2))
  let byStack := foldPlaces g none (byCluster.map fun p => (p.1 / 48, p.2))
  (foldPlaces g none (byStack.map fun p => (0, p.2))).head?.map (·.2)
/-- A merge: all partials, device by device, combined with the prior value; every holder is I and the prior value holds the merged line. The line stays in the state with no holder, or leaves it (R288). -/
def State.mergeLine (s : State) (line : Nat) (leave : Bool) : State :=
  match s.dirOf line with
  | .churn g sigma v =>
    let cs := sortBy (fun a b => decide (a < b)) v
    let parts := cs.filterMap fun c => (s.partialAt c line).map fun d => (c, d)
    let own := (mergeTotal g parts).elim [] fun d => [(s.devno, d)]
    let devs := sortBy (fun a b => decide (a.1 < b.1)) (own ++ (s.peerParts.filter (·.line == line)).map fun p => (p.dev, p.data))
    let s : State := match (foldPlaces g none (devs.map fun p => (0, p.2))).head? with
      | none => s
      | some t => s.putLine line (churnLine g (s.memLine line) t.2)
    let s : State := cs.foldl (fun s c => s.dropPartial c line) s
    let s : State := { s with peerParts := s.peerParts.filter (·.line != line) }
    s.setDir line (if leave then .uncached else .churn g sigma [])
  | _ => s

/-! ### Write-back (R285) -/

/-- The data phase of a write-back: M data reaches the home, or the agent for a line of another stack, which owns it from then on; a partial is parked at the cluster slice; an entry already served answers with an empty phase. -/
def State.writeBack (s : State) (c line : Nat) : State :=
  let s : State := match tget (s.core c).victim line with
    | some (.m d) => match foreignStack c line with
      | none => s.putLine line d
      | some st => { s with agents := tset s.agents (agentKey st line) (.dirty d) }
    | some (.c g sg d) => s.modCluster (coreCluster c) fun x =>
        { x with parked := x.parked.filter (fun p => !(p.1 == line && p.2.1 == c)) ++ [(line, c, .c g sg d)] }
    | _ => s
  let s : State := s.dropVictim c line
  let back (d : LineState) : State := s.setDir line (if d = .owned c && (s.l1Of c line).isNone && (foreignStack c line).isNone then .uncached else d)
  match s.dirOf line with
  | .busy b d => if b = c then back d else s
  | d => back d
/-- A write-back in progress on a line finished. -/
def State.unbusy (s : State) (line : Nat) : State := match s.dirOf line with
  | .busy b _ => s.writeBack b line
  | _ => s
/-- The lines of a first-level set. -/
def setLines (l : Tbl L1Line) (line : Nat) : List (Nat × L1Line) := l.filter fun e => e.1 % 1024 == line % 1024
/-- A way for a line in core c's first-level cache. A full set evicts a line that the spec leaves open: S and E silently, M and C into the victim buffer, which may be full, so that the access waits (R282, R285). -/
def l1Room (c line : Nat) : M Unit := do
  let s ← get
  let ws := setLines (s.core c).l1 line
  if (s.l1Of c line).isSome || ws.length < 16 then pure ()
  else
    let f ← freeM
    match ws[f % 16]? with
    | none => pure ()
    | some (vl, v) =>
      match v with
      | .s | .e => modify fun s => s.setL1 c vl none
      | _ =>
        if 32 ≤ (s.core c).victim.length then holdM
        else modify fun s => (s.setL1 c vl none).modCore c fun x => { x with victim := tset x.victim vl v }
/-- A line put into core c's first-level cache. -/
def fillL1 (c line : Nat) (l : L1Line) : M Unit := do
  l1Room c line
  modify fun s => s.setL1 c line (some l)
/-- A write-back that stands in the way of a request is finished first, and what an agent holds is taken to the home (R283, R285). -/
def State.settle (s : State) (c line : Nat) : State :=
  ((if (tget (s.core c).victim line).isSome then s.writeBack c line else s).unbusy line).cleanAgents line

/-! ### Sectors (R292, R293, R381) -/

/-- The sectors that n bytes from pa touch. -/
def sectorsOf (pa n : Nat) : List Nat := (List.range ((pa + n - 1) / 64 - pa / 64 + 1)).map (pa / 64 + ·)
/-- Whether the host or the guest die holds either sector of a line; whether either owns one. -/
def State.lineHeld (s : State) (line : Nat) : Bool :=
  [2 * line, 2 * line + 1].any fun n => (s.sector n).host != .i || (s.sector n).guest != .i
def State.lineOwnedOut (s : State) (line : Nat) : Bool :=
  [2 * line, 2 * line + 1].any fun n => (s.sector n).host == .m || (s.sector n).guest == .m
/-! ### One transaction at a time (R283) -/

/-- Whether the transaction of a line is open to the party that acts: no other party waits in one. A party that has not tried again for four cycles waits no more (DEDUCED, log entry 44). -/
def State.lineOpen (s : State) (line : Nat) : Bool :=
  (tget s.turns line).elim true fun t => t.1 == s.who || t.2 + 4 * Config.ticksPerCycle < s.now
/-- The party that acts waits in the transaction of a line. -/
def waitLine {α : Type} (line : Nat) : M α := do
  modify fun s => if s.lineOpen line then { s with turns := tset s.turns line (s.who, s.now) } else s
  holdM
/-- What a party does in the name of another one, numbered apart from it. -/
def asParty {α : Type} (n : Nat) (m : M α) : M α := do
  modify fun s => { s with who := n }
  m
/-- The parties: threads by their keys, engines by team, bulk transfers, the host, the guest die, the queue engine, fabric packets, SC accesses. -/
def partyEngine (i : Nat) : Nat := 2 ^ 42 + i
def partyBulk : Nat := 2 ^ 60
def partyHost : Nat := 2 ^ 60 + 1
def partyGuest : Nat := 2 ^ 60 + 2
def partyQueue : Nat := 2 ^ 60 + 3
def partyPacket (p : Packet) : Nat := 2 ^ 61 + p.src * 2 ^ 22 + p.tag
def partySc (id : Nat) : Nat := 2 ^ 62 + id
/-- A sector snooped before a device access: an owner is brought down to S for a read, every holder to I for a write. The access waits for the answer. -/
def snoopSector (write : Bool) (n : Nat) : M Unit := do
  let s ← get
  let x := s.sector n
  let hostNeed := if write then x.host != .i else x.host == .m
  let guestNeed := if write then x.guest != .i else x.guest == .m
  if hostNeed || guestNeed then do
    if hostNeed && !x.hostSnoop then modify fun s => (s.setSector n { s.sector n with hostSnoop := true }).emit (.backInvalidate n write) else pure ()
    if guestNeed && x.guestSnoop.isNone then modify fun s => (s.setSector n { s.sector n with guestSnoop := some s.now }).emit (.guestSnoop n write) else pure ()
    waitLine (n / 2)
  else pure ()
/-- Every sector that n bytes from pa touch is snooped. -/
def snoopSectors (pa n : Nat) (write : Bool) : M Unit := forM' (sectorsOf pa n) (snoopSector write)

/-! ### The peer directory (R294, R295) -/

def State.peer (s : State) (region : Nat) : Peer := dget Peer.empty s.peers region
def State.setPeer (s : State) (region : Nat) (p : Peer) : State := { s with peers := dset Peer.empty s.peers region p }
/-- The devices that an entry covers. -/
def State.covered (s : State) (p : Peer) : List Nat :=
  if p.mode = 1 then p.pointers
  else if p.mode = 2 then s.fabric.present.filter fun n => bitAt p.coarse (n / 32 % 64)
  else []
/-- A device that comes to hold a line of the region (R294). -/
def Peer.add (p : Peer) (line d : Nat) : Peer :=
  let p := { p with clear := p.clear.filter (· != line) }
  if p.mode = 2 then { p with coarse := Nat.lor p.coarse (2 ^ (d / 32 % 64)) }
  else if p.pointers.contains d then { p with mode := 1 }
  else if p.pointers.length < 4 then { p with mode := 1, pointers := p.pointers ++ [d] }
  else { mode := 2, pointers := [], coarse := (p.pointers ++ [d]).foldl (fun a n => Nat.lor a (2 ^ (n / 32 % 64))) 0, clear := p.clear }
/-- A packet of this device with no payload. -/
def State.bare (s : State) (kind dst va tag : Nat) : Packet :=
  { kind := kind, src := s.devno, dst := dst, bytes := 0, status := 0, sealed := none, va := va, tag := tag, op := 0, ext := 0, payload := [],
    tenant := 0, team := 0, stamp := 0, view := { stack := 0, package := 0, pod := 0, acquired := [] } }
/-- The charge of a packet (R358); none for one that is not charged. -/
def packetCharge (p : Packet) : Option Nat :=
  match p.kind with
  | 0 | 1 | 3 => some p.bytes
  | 2 => some 16
  | _ => none
/-- Whether a send queue is in use, and whether a packet for a device needs one that cannot be had (R358). -/
def SendQueue.inUse (q : SendQueue) : Bool := !q.charged.isEmpty || !q.free.isEmpty || !q.held.isEmpty
def State.queueFull (s : State) (dst : Nat) : Bool :=
  devGroup dst != devGroup s.devno && !(tget s.fabric.sendQ dst).elim false (·.inUse) && 2048 ≤ (s.fabric.sendQ.filter fun e => e.2.inUse).length
/-- A packet joins the send queue of its destination; one that finds none, behind those that found none, waits for one (R358; DEDUCED for packets that no instruction sends, log entry 35). -/
def State.enqueue (s : State) (p : Packet) : State :=
  if s.queueFull p.dst || s.fabric.backlog.any (·.dst == p.dst) then { s with fabric := { s.fabric with backlog := s.fabric.backlog ++ [p] } }
  else
    let q := (tget s.fabric.sendQ p.dst).getD { SendQueue.empty with allow := s.slotAllow p.dst }
    let q := if (packetCharge p).isSome then { q with charged := q.charged ++ [p] } else { q with free := q.free ++ [p] }
    { s with fabric := { s.fabric with sendQ := tset s.fabric.sendQ p.dst q } }
/-- The packets that wait for a send queue, tried again in their order. -/
def State.backlogTick (s : State) : State :=
  s.fabric.backlog.foldl State.enqueue { s with fabric := { s.fabric with backlog := [] } }
/-- While a transaction of a line waits for answers, of other devices or of the host or guest die, the line is Busy: later requests wait, also when the answers have come, until the transaction is done (R283, R289, R295). -/
def lineFree (line : Nat) : M Unit := do
  let s ← get
  if !s.lineOpen line then holdM
  else if s.peerAcks.any (·.line == line) then waitLine line
  else modify fun s => { s with turns := tdel s.turns line }
/-- Invalidations of lines sent to devices, or merge recalls of those in the Churn state (R295). -/
def State.askPeers (s : State) (lines ds : List Nat) : State :=
  lines.foldl (fun s line =>
    let merge := match s.dirOf line with | .churn _ _ _ => true | _ => false
    let s : State := { s with peerAcks := s.peerAcks ++ ds.map fun d => { line := line, dev := d, at' := s.now } }
    ds.foldl (fun s d => s.enqueue (s.bare (if merge then 6 else 5) d (128 * line) 0)) s) s
/-- A write or merge at the home waits until every covered device has acknowledged (R295). -/
def clearPeers (line : Nat) : M Unit := do
  lineFree line
  let s ← get
  let p := s.peer (line / 16)
  let ds := (s.covered p).filter fun d => !s.fabric.lost.contains d
  if p.mode = 0 || p.clear.contains line || ds.isEmpty then pure ()
  else
    modify fun s => s.askPeers [line] ds
    waitLine line
/-- A place for the peer entry of a line's region at the home slice of the region's first line. When the ways that it may take are full, an entry that covers no live Churn partial of another device is replaced: the region's lines are invalidated at every covered device first, and the request waits (R294, R295). Which entry goes is left open (log entry 1). -/
def peerRoom (line : Nat) : M Unit := do
  let s ← get
  let region := line / 16
  let near := s.peers.filter fun e => e.1 != region && homeSlice (16 * e.1) == homeSlice (16 * region)
  if (s.peer region).mode ≠ 0 || near.length < peerWays then pure ()
  else
    let ways := near.filter fun e => Config.peerSet e.1 % peerSets == Config.peerSet region % peerSets
    let lines (r : Nat) : List Nat := (List.range 16).map (16 * r + ·)
    let live (r : Nat) : Bool := (lines r).any fun l => match s.dirOf l with | .churn _ _ _ => !(s.peer r).clear.contains l | _ => false
    if ways.length < peerWays then pure ()
    else if ways.any fun e => s.peerAcks.any fun a => a.line / 16 == e.1 then holdM
    else
      let f ← freeM
      let ok := ways.filter fun e => !live e.1
      match ok[f % ok.length]? with
      | none => holdM
      | some e =>
        modify fun s => s.askPeers ((lines e.1).filter fun l => !e.2.clear.contains l) ((s.covered e.2).filter fun d => !s.fabric.lost.contains d)
        holdM

/-! ### Mapped lines (R269 to R271, R290, R291) -/

/-- The mapping that holds a line: team and scratchpad offset of the line. -/
def State.mapOf (s : State) (line : Nat) : Option (Nat × Nat) :=
  match s.dirOf line with
  | .mapped _ i => ((s.team i).maps.find? fun m => m.lines.contains line).map fun m => (i, m.off + 128 * m.lines.idxOf line)
  | _ => none
/-- The open window over a line. -/
def State.windowOf (s : State) (i line : Nat) : Option PadWindow := (s.team i).windows.find? fun w => w.pa == 128 * line
/-- Whether a party at core c, of team i or none, may write a line: on a mapped line the holder team may unless a window gives the line to one core, and then that core may (R269, R271). -/
def State.mapWriteOk (s : State) (line : Nat) (c : Nat) (i : Option Nat) : Bool :=
  match s.mapOf line with
  | none => true
  | some (o, _) => match s.windowOf o line with
    | some w => if w.wr then c == w.core else i == some o
    | none => i == some o
/-- Bytes of a team's scratchpad. -/
def State.spadGet (s : State) (i off n : Nat) : Bytes := memGetN (s.team i).spad off n
def State.spadPut (s : State) (i off : Nat) (b : Bytes) : State := s.modTeam i fun t => { t with spad := memPutN t.spad off b }

/-! ### Accesses -/

/-- The state that a Busy line returns to; every other line's own. -/
def LineState.under : LineState → LineState
  | .busy _ d => d
  | d => d
/-- What a line holds in the coherence order: the rows of a mapping, a dirty copy, or the home's bytes. The Churn state's prior value stands at the home. -/
def State.lineView (s : State) (line : Nat) : Bytes :=
  match s.mapOf line with
  | some (i, off) => s.spadGet i off 128
  | none => match (s.dirOf line).under with
    | .owned c => match s.l1Of c line with
      | some (.m d) => d
      | _ => match tget (s.core c).victim line with
        | some (.m d) => d
        | _ => match (foreignStack c line).bind fun st => tget s.agents (agentKey st line) with
          | some (.dirty d) => d
          | _ => s.memLine line
    | _ => s.memLine line
/-- The bytes of a line from an offset. -/
def cut (b : Bytes) (off n : Nat) : Bytes := (b.drop off).take n
/-- The bytes of a line with some replaced from an offset. -/
def patch (b : Bytes) (off : Nat) (d : Bytes) : Bytes := b.take off ++ d ++ b.drop (off + d.length)
/-- Whether any other party of the pod may hold a copy of a line. -/
def State.heldOutside (s : State) (line : Nat) : Bool :=
  s.lineHeld line || ((s.peer (line / 16)).mode != 0 && !(s.peer (line / 16)).clear.contains line)
/-- A line's entry dropped by its home: every copy recalled first, a Churn line merged and out of the state (R280, R288). -/
def evictHome (line : Nat) : M Unit := do
  modify fun s => s.unbusy line
  let s ← get
  match s.dirOf line with
  | .churn _ _ _ =>
    clearPeers line
    modify fun s => s.mergeLine line true
  | .mapped _ _ => pure ()
  | _ => modify fun s => (s.invalidateOthers none line).setDir line .uncached
/-- A line's state without the cores of a stack. -/
def LineState.withoutStack (d : LineState) (st : Nat) : LineState :=
  match d with
  | .shared v => if v.all fun c => coreStack c == st then .uncached else .shared (v.filter fun c => coreStack c != st)
  | .owned c => if coreStack c = st then .uncached else d
  | d => d
/-- An agent's entry of a line dropped: the copies of its stack are recalled first, and partials merged (R280, R288). -/
def evictAgent (st line : Nat) : M Unit := do
  modify fun s => s.unbusy line
  let s ← get
  match s.dirOf line with
  | .churn _ _ _ =>
    clearPeers line
    modify fun s => s.mergeLine line false
  | d => modify fun s => ((d.holders.filter fun c => coreStack c == st).foldl (fun s c => s.invalidateAt c line) s).setDir line (d.withoutStack st)
/-- What takes a line's place at a slice of 2 MiB: the entry of a home, of an agent, or of the peer home of another device's line (R279, R280). -/
inductive SliceUse where
  | home (line : Nat) | agent (stack line : Nat) | peer (key : Nat)
deriving DecidableEq, Repr
/-- The uses of a slice that it may give up for another: not a mapping, nor another device's partial. -/
def State.sliceUses (s : State) (sl : Nat) : List SliceUse :=
  ((s.dir.filter fun e => homeSlice e.1 == sl && (match e.2 with | .mapped _ _ => false | _ => true)).map fun e => .home e.1)
    ++ ((s.agents.filter fun e => agentSlice (e.1 / 2 ^ 40) (e.1 % 2 ^ 40) == sl).map fun e => .agent (e.1 / 2 ^ 40) (e.1 % 2 ^ 40))
    ++ (s.peerCopies.filter fun e => peerSlice (e.1 % 2 ^ 40) == sl && e.2 == .shared).map fun e => .peer e.1
/-- The lines that a slice holds. -/
def State.sliceCount (s : State) (sl : Nat) : Nat :=
  (s.dir.filter fun e => homeSlice e.1 == sl).length + (s.agents.filter fun e => agentSlice (e.1 / 2 ^ 40) (e.1 % 2 ^ 40) == sl).length
    + (s.peerCopies.filter fun e => peerSlice (e.1 % 2 ^ 40) == sl).length
/-- A place at a slice. A full slice drops an entry that the spec leaves open; where none may go, the request waits (R280, log entry 1). -/
def sliceRoom (sl : Nat) : M Unit := do
  let s ← get
  if s.sliceCount sl < sliceLines then pure ()
  else
    let f ← freeM
    match (s.sliceUses sl)[f % (s.sliceUses sl).length]? with
    | none => holdM
    | some (.home line) => evictHome line
    | some (.agent st line) => evictAgent st line
    | some (.peer key) => modify fun s => { s with peerCopies := tdel s.peerCopies key }
/-- A place for a line's entry at its home slice. -/
def homeRoom (line : Nat) : M Unit := do
  let s ← get
  if s.dirOf line ≠ .uncached then pure () else sliceRoom (homeSlice line)
/-- A place for a line's entries before core c takes a copy: at its home, and at the agent of a stack that does not own it. -/
def copyRoom (c line : Nat) : M Unit := do
  homeRoom line
  let s ← get
  match foreignStack c line with
  | none => pure ()
  | some st => if (tget s.agents (agentKey st line)).isSome then pure () else sliceRoom (agentSlice st line)
/-- A Churn line merged for a read at its home: the devices that may hold partials are asked first (R288, R295). -/
def mergeRead (line : Nat) : M Unit := do
  clearPeers line
  modify fun s => s.mergeLine line false
/-- ReadShared: a core asks for a copy. It answers whether the line is now held; a Churn, mapped or host-owned line is delivered uncached (R282, R283). -/
def readShared (c line : Nat) : M Bool := do
  modify fun s => s.settle c line
  let s ← get
  match s.l1Of c line with
  | some (.c _ _ _) => mergeRead line; return false
  | some _ => return true
  | none =>
    lineFree line
    match s.dirOf line with
    | .mapped _ _ => return false
    | .churn _ _ _ => mergeRead line; return false
    | d =>
      if s.lineOwnedOut line then return false
      else
        copyRoom c line
        l1Room c line
        let others := d.holders.filter (· != c)
        modify fun s => others.foldl (fun s o => s.recallShared o line) s
        if others.isEmpty && !s.heldOutside line then
          fillL1 c line .e
          modify fun s => s.setDir line (.owned c)
        else
          fillL1 c line .s
          modify fun s => s.setDir line (.shared (others ++ [c]))
        return true
/-- ReadOwn and Upgrade: a core asks to write. It answers whether the line is now held in M; otherwise the write is performed at the home (R282, R293). -/
def readOwn (c line : Nat) : M Bool := do
  modify fun s => s.settle c line
  clearPeers line
  let s ← get
  match s.dirOf line with
  | .mapped _ _ => return false
  | .churn _ _ _ => modify (·.mergeLine line true); return false
  | _ =>
    if s.lineHeld line then
      modify fun s => (s.invalidateOthers none line).setDir line .uncached
      return false
    else
      copyRoom c line
      l1Room c line
      modify fun s => s.invalidateOthers (some c) line
      let s ← get
      let d := match s.l1Of c line with
        | some (.m d) => d
        | _ => s.memLine line
      fillL1 c line (.m d)
      modify fun s => s.setDir line (.owned c)
      return true
/-- A load of n bytes of one line by core c (R282). -/
def coreLoad (c pa n : Nat) : M Bytes := do
  snoopSectors pa n false
  let _ ← readShared c (lineOf pa)
  let s ← get
  return cut (s.lineView (lineOf pa)) (pa % 128) n
/-- Bytes written where the line is held: rows of a mapping, the M copy of an owner, or the home. -/
def State.putAt (s : State) (pa : Nat) (b : Bytes) : State :=
  match s.mapOf (lineOf pa) with
  | some (i, off) => s.spadPut i (off + pa % 128) b
  | none => { s with mem := memPutN s.mem pa b }
/-- A store of bytes within one line by core c. The permission of a mapped line is checked by the caller (R282, R290). -/
def coreStore (c pa : Nat) (b : Bytes) : M Unit := do
  snoopSectors pa b.length true
  let held ← readOwn c (lineOf pa)
  modify fun s =>
    if held then
      match s.l1Of c (lineOf pa) with
      | some (.m d) => s.setL1 c (lineOf pa) (some (.m (patch d (pa % 128) b)))
      | _ => s.putAt pa b
    else s.putAt pa b
/-- The dirty data of every copy taken to the home. -/
def State.gather (s : State) (line : Nat) : State :=
  let s : State := (s.unbusy line).cleanAgents line
  match s.dirOf line with
  | .owned c => (s.recallShared c line).setDir line (.shared [c])
  | _ => s
/-- A line made ready to be read at its home: dirty data taken there, a Churn line merged as a read merges it (R280, R283, R288). -/
def homeReady (line : Nat) : M Unit := do
  lineFree line
  modify fun s => s.gather line
  let s ← get
  match s.dirOf line with
  | .churn _ _ _ => mergeRead line
  | _ => pure ()
/-- A read of n bytes of one line performed at the home (R280). -/
def homeRead (pa n : Nat) : M Bytes := do
  snoopSectors pa n false
  homeReady (lineOf pa)
  let s ← get
  return cut (s.lineView (lineOf pa)) (pa % 128) n
/-- The line is made ready for a write at the home: peers and holders invalidated, the Churn state ended (R280, R288, R295). -/
def homeOwn (line : Nat) : M Unit := do
  modify fun s => s.gather line
  clearPeers line
  modify fun s => match s.dirOf line with
    | .churn _ _ _ => s.mergeLine line true
    | .mapped _ _ => s
    | _ => (s.invalidateOthers none line).setDir line .uncached
/-- A write of bytes within one line performed at the home. -/
def homeWrite (pa : Nat) (b : Bytes) : M Unit := do
  snoopSectors pa b.length true
  homeOwn (lineOf pa)
  modify fun s => s.putAt pa b
/-- Join: a core is admitted to the Churn state of a line under a tag, which may enter or switch the state; its partial starts at the identity or continues a parked one (R286, R287, R289). It answers false when the scale of an add.q32 line differs, and nothing is applied (R262). -/
def joinLine (c line : Nat) (g : ChTag) (sigma : Int) : M Bool := do
  modify fun s => s.settle c line
  lineFree line
  let s ← get
  match s.dirOf line, s.l1Of c line with
  | .churn g' sg v, own =>
    if g' = g then
      if g = .addQ32 && sg ≠ sigma then return false
      else match own with
        | some (.c _ _ _) => return true
        | _ =>
          copyRoom c line
          let d := (s.partialAt c line).getD (churnIdentity g)
          fillL1 c line (.c g sg d)
          modify fun s => (s.dropParked c line).setDir line (.churn g sg (v.filter (· != c) ++ [c]))
          return true
    else
      clearPeers line
      copyRoom c line
      l1Room c line
      modify fun s => s.mergeLine line true
      fillL1 c line (.c g sigma (churnIdentity g))
      modify fun s => s.setDir line (.churn g sigma [c])
      return true
  | _, _ =>
    snoopSectors (128 * line) 128 true
    homeOwn line
    copyRoom c line
    fillL1 c line (.c g sigma (churnIdentity g))
    modify fun s => s.setDir line (.churn g sigma [c])
    return true

end Sys2Proof.Machine
end

