-- ==== Sys2Proof/Machine/Translate.lean ====
section
/-! DEFINITION. Address translation: page tables, TLBs, miss tables, fault records, and where an access of a party lands (R84, R419 to R425, R442, R443). -/
namespace Sys2Proof.Machine

/-! ### Events and fault records -/

/-- An event posted to the host's ring; MSI-X vector 0 when the ring turns non-empty; dropped and counted when full (R443). -/
def State.postEvent (s : State) (kind arg : Nat) (detail : Word) : State :=
  if 4096 ≤ s.host.evTail - s.host.evHead then { s with host := { s.host with evDrop := s.host.evDrop + 1 } }
  else
    let s' : State := { s with host := { s.host with evRing := s.host.evRing ++ [(wd (kind * 2 ^ 48 + low 48 arg), detail)], evTail := s.host.evTail + 1 } }
    if s.host.evTail = s.host.evHead then s'.emit .msix else s'
/-- A replace request with its cause: a counter of Table 25-5 in order, or 64 more than a ready bit (R458). -/
def State.askReplace (s : State) (cause : Nat) : State :=
  if s.trust.replaceReq.contains cause then s else { s with trust := { s.trust with replaceReq := s.trust.replaceReq ++ [cause] } }
/-- The next fault ticket: 32 bits, 0 skipped (Table 23-5). -/
def nextTicketAfter (t : Nat) : Nat := if low 32 (t + 1) = 0 then 1 else low 32 (t + 1)
/-- A fault record posted to a stack's ring (Table 23-5, R442). -/
def State.postFault (s : State) (st : Nat) (m : Miss) : State :=
  let d := s.die st
  let rec' := leBytes 32 (m.page * 2 ^ 12 * 2 ^ 192 + m.ctx * 2 ^ 176 + m.acc * 2 ^ 168 + m.src * 2 ^ 160 + m.level * 2 ^ 152 + m.ticket * 2 ^ 96)
  let s : State := { s with mem := memPutN s.mem (d.ringBase + 32 * (d.ringIdx % 4096)) rec' }
  let s : State := s.modDie st fun d => { d with ringIdx := d.ringIdx + 1 }
  s.postEvent 2 st (wd m.ticket)

/-! ### Page tables (R419) -/

/-- How a walk ends. -/
inductive Walk where
  | leaf (e : TlbEntry) | fault (level : Nat) | bad (level : Nat)
deriving DecidableEq, Repr
/-- Who asks for a translation: the core whose TLBs come first, the serving stack, the source bit of Table 23-5. -/
structure Asker where
  core : Option Nat
  die : Nat
  src : Nat
deriving DecidableEq, Repr
/-- How a translation fails: an unanswered page fault, a permission that is missing, or a fatal fault. -/
inductive XFail where
  | page (die ticket level : Nat) | prot (level : Nat) | fatal (level reason : Nat)
deriving DecidableEq, Repr

/-- log2 of the page a leaf at a level maps. -/
def levelSize (l : Nat) : Nat := 12 + 9 * l
/-- Whether a page-table entry at a level is malformed (Table 23-4). -/
def pteBad (e l : Nat) : Bool :=
  bits e 58 6 != 0 || bits e 52 4 != 0 || bits e 6 6 != 0 || 2 ≤ bits e 56 2
    || (l == 3 && bitAt e 1) || (l == 0 && !bitAt e 1) || (bitAt e 5 && (l != 0 || !bitAt e 1))
    || (bitAt e 1 && low (if bitAt e 5 then 16 else levelSize l) (bits e 12 40 * 2 ^ 12) != 0)
/-- Eight bytes at a physical address, read at the home or over the host link. -/
def readPhys8 (host : Bool) (pa : Nat) : M Nat :=
  if host then do
    let s ← get
    return ofLe (memGetN s.hostMem pa 8)
  else do
    let b ← homeRead pa 8
    return ofLe b
/-- Whether an address names device memory that does not exist: 768 GiB or more (R279, R419). -/
def beyondMemory (host : Bool) (pa : Nat) : Bool := !host && Config.memBytes ≤ pa
/-- A walk from a table at a level (R419). A table that is said to lie where no memory is makes the walk end as a malformed entry does (DEDUCED, log entry 8). -/
def walkFrom (ctx va : Nat) : Nat → Bool → Nat → M Walk
  | l, host, table => do
    let idx := if l = 3 then bits va 39 11 else bits va (12 + 9 * l) 9
    if beyondMemory host (table + 8 * idx) then return .bad l
    let e ← readPhys8 host (table + 8 * idx)
    if !bitAt e 0 then return .fault l
    else if pteBad e l then return .bad l
    else if bitAt e 1 then
      let sz := if bitAt e 5 then 16 else levelSize l
      return .leaf { ctx := ctx, va := va / 2 ^ sz, size := sz, pa := bits e 12 40 * 2 ^ 12, host := bits e 56 2 == 1, r := bitAt e 2, w := bitAt e 3, x := bitAt e 4 }
    else match l with
      | 0 => return .bad 0
      | l' + 1 => walkFrom ctx va l' (bits e 56 2 == 1) (bits e 12 40 * 2 ^ 12)
/-- The context table's bytes, and those of the tenant context map behind it (R430, R431; that the map follows the table at once is a DESIGN CHOICE, log entry 29). -/
def ctxTableBytes : Nat := 65536 * 32
def ctxGuardBytes : Nat := ctxTableBytes + 256 * 8
/-- The descriptor of a context in the table, when it is installed (Table 24-8). -/
def State.ctxAt (s : State) (ctx : Nat) : Option Ctx :=
  s.host.ctxTable.bind fun b =>
    let d := ofLe (memGetN s.mem (b + 32 * low 16 ctx) 32)
    if bitAt d 183 then some { root := bits d 192 64, tenant := bits d 184 8, timeoutMs := bits d 160 16 } else none
/-- The quad of a tenant in the tenant context map (R431). -/
def State.tmapAt (s : State) (tenant : Nat) : Nat :=
  s.host.ctxTable.elim 0 fun b => ofLe (memGetN s.mem (b + ctxTableBytes + 8 * low 8 tenant) 8)
/-- Whether n bytes meet the context table or the map beside it. -/
def State.ctxGuard (s : State) (pa n : Nat) : Bool := s.host.ctxTable.any fun b => pa < b + ctxGuardBytes && b < pa + n
/-- Whether n bytes meet the ring of a guest queue (R370). -/
def State.ringGuard (s : State) (pa n : Nat) : Bool := s.socket.config.any fun e => pa < e.2.1 + 64 * e.2.2 && e.2.1 < pa + n
/-- Whether an address lies on a line of device memory that no context reaches: the context table, or the ring of a guest queue (R370, R430). -/
def State.guarded (s : State) (host : Bool) (pa : Nat) : Bool := !host && (s.ctxGuard (pa / 128 * 128) 128 || s.ringGuard (pa / 128 * 128) 128)
/-- A walk in a context; one that is not installed ends in a fatal fault (R430). -/
def walk (ctx va : Nat) : M Walk := do
  let s ← get
  match s.ctxAt ctx with
  | none => return .bad 3
  | some d => walkFrom ctx va 3 false d.root

/-! ### TLBs (R420) -/

def TlbEntry.hits (e : TlbEntry) (ctx va : Nat) : Bool := e.ctx == ctx && va / 2 ^ e.size == e.va
/-- An entry added to a TLB of a capacity; which entry a full TLB gives up is open. -/
def tlbAdd (cap f : Nat) (e : TlbEntry) (l : List TlbEntry) : List TlbEntry :=
  if l.contains e then l else if l.length < cap then e :: l else e :: l.eraseIdx (f % cap)
/-- The levels above a place filled with an entry: level 0 is the core TLB, 1 the cluster TLB, 2 the stack TLB, and 3 stands for a walk. -/
def State.fillTlb (s : State) (a : Asker) (f lvl : Nat) (e : TlbEntry) : State :=
  let s : State := if 2 < lvl then s.modDie a.die fun d => { d with tlb := tlbAdd 524288 f e d.tlb } else s
  match a.core with
  | none => s
  | some c =>
    let s : State := if 1 < lvl then s.modCluster (coreCluster c) fun d => { d with tlb := tlbAdd 8192 f e d.tlb } else s
    if 0 < lvl then s.modCore c fun d => { d with tlb := tlbAdd 256 f e d.tlb } else s
/-- Core TLB, then cluster TLB, then stack TLB: the level of the hit and the entry. -/
def State.tlbFind (s : State) (a : Asker) (ctx va : Nat) : Option (Nat × TlbEntry) :=
  let up := match a.core with
    | none => none
    | some c => match (s.core c).tlb.find? (fun (x : TlbEntry) => x.hits ctx va) with
      | some e => some (0, e)
      | none => ((s.cluster (coreCluster c)).tlb.find? (fun (x : TlbEntry) => x.hits ctx va)).map fun e => (1, e)
  match up with
  | some e => some e
  | none => ((s.die a.die).tlb.find? (fun (x : TlbEntry) => x.hits ctx va)).map fun e => (2, e)

/-! ### Misses (R421 to R424) -/

/-- Whether a fault ticket is still unanswered. -/
def State.ticketOpen (s : State) (d t : Nat) : Bool := (s.die d).misses.any fun m => m.ticket == t && m.fatal.isNone
/-- A walk that ends with a leaf serves every entry whose page lies inside it (R421). -/
def State.serveMisses (s : State) (d : Nat) (e : TlbEntry) : State :=
  s.modDie d fun x => { x with misses := x.misses.filter fun m => !(m.ctx == e.ctx && m.page * 2 ^ 12 / 2 ^ e.size == e.va && m.fatal.isNone) }
/-- The miss-table entry of a page in a stack. -/
def Stack.missOf (d : Stack) (ctx va : Nat) : Option Miss := d.misses.find? fun m => m.ctx == ctx && m.page == va / 2 ^ 12
/-- A miss that no entry of its stack's miss table matches needs one: a full table holds the requester (R421). -/
def missRoom (a : Asker) (ctx va : Nat) : M Unit := do
  let s ← get
  if ((s.die a.die).missOf ctx va).isNone && Config.missEntries ≤ (s.die a.die).misses.length then holdM else pure ()
/-- A page fault met by a walk for requesters of some sources, as a mask of Table 23-5, joins its miss-table entry or posts a record. -/
def missPage (a : Asker) (ctx va acc srcs level : Nat) : M XFail := do
  let s ← get
  let d := s.die a.die
  let page := va / 2 ^ 12
  match d.missOf ctx va with
  | some m =>
    modify fun s => s.modDie a.die fun d => { d with misses := d.misses.map fun x =>
      if x.ticket == m.ticket then { x with acc := Nat.lor x.acc acc, src := Nat.lor x.src srcs } else x }
    return .page a.die m.ticket m.level
  | none =>
      let m : Miss := { ctx := ctx, page := page, acc := acc, src := srcs, level := level, ticket := d.nextTicket, at' := s.now, fatal := none }
      modify fun s => (s.modDie a.die fun d => { d with misses := d.misses ++ [m], nextTicket := nextTicketAfter d.nextTicket }).postFault a.die m
      return .page a.die m.ticket level
/-- Whether an entry permits an access (1 read, 2 write, 4 fetch). -/
def TlbEntry.permits (e : TlbEntry) (acc : Nat) : Bool := (!bitAt acc 0 || e.r) && (!bitAt acc 1 || e.w) && (!bitAt acc 2 || e.x)
/-- The physical address an entry gives. -/
def TlbEntry.phys (e : TlbEntry) (va : Nat) : Nat := e.pa + va % 2 ^ e.size
/-- A translation in a context: whether it lies in host memory, and the physical address, or how it fails (R419 to R421). A leaf that names device memory which does not exist permits nothing (DEDUCED from R252 and R395, log entry 8), nor does one that names guarded memory (R370, R430). -/
def translate (a : Asker) (ctx va acc : Nat) : M (Except XFail (Bool × Nat)) := do
  let s ← get
  if 2 ^ 50 ≤ va then return .error (.prot 0)
  else
    let done (e : TlbEntry) : M (Except XFail (Bool × Nat)) :=
      if !e.permits acc || beyondMemory e.host (e.phys va) || s.guarded e.host (e.phys va) then return .error (.prot ((e.size - 12) / 9))
      else return .ok (e.host, e.phys va)
    match s.tlbFind a ctx va with
    | some (l, e) =>
      let f ← freeM
      modify fun s => s.fillTlb a f l e
      done e
    | none =>
      match (s.die a.die).missOf ctx va with
      | some m =>
        match m.fatal with
        | some (r, _) => return .error (.fatal m.level r)
        | none =>
          let x ← missPage a ctx va acc (2 ^ a.src) m.level
          return .error x
      | none =>
        missRoom a ctx va
        let w ← walk ctx va
        match w with
        | .leaf e =>
          let f ← freeM
          modify fun s => (s.fillTlb a f 3 e).serveMisses a.die e
          done e
        | .fault l =>
          let x ← missPage a ctx va acc (2 ^ a.src) l
          return .error x
        | .bad l => return .error (.fatal l 1)
/-- A translation that no party waits for: one that fails leaves no trace, and posts no fault record. -/
def tryTranslate (a : Asker) (ctx va acc : Nat) : M (Except XFail (Bool × Nat)) := fun s =>
  match translate a ctx va acc s with
  | (.ok (.error e), _) => (.ok (.error e), s)
  | r => r
/-- The page walk that serves a request: a leaf fills the TLBs and serves every entry inside it, a page fault posts a record for the sources that wait (R421). -/
def pageWalk (a : Asker) (ctx va acc srcs : Nat) : M Unit := do
  missRoom a ctx va
  let w ← walk ctx va
  match w with
  | .leaf e =>
    let f ← freeM
    modify fun s => (s.fillTlb a f 3 e).serveMisses a.die e
  | .fault l =>
    let _ ← missPage a ctx va acc srcs l
    pure ()
  | .bad _ => pure ()

/-! ### Where a thread's access lands -/

/-- The scratchpad aperture (R84). -/
def aperture : Nat := 0xFFFFFF0000000000
def apertureEnd : Nat := 0xFFFFFF0001000000
/-- det1 of classes 11, 12 and 14 (Table 23-2). -/
def det1Of (acc level ctx ticket : Nat) : Word := wd (acc * 2 ^ 56 + low 8 level * 2 ^ 48 + low 16 ctx * 2 ^ 32 + low 32 ticket)
/-- Who asks when thread k accesses memory. -/
def threadAsker (k : Nat) : Asker := { core := some (keyCore k), die := coreStack (keyCore k), src := 0 }
/-- The context of a thread. -/
def State.ctxOf (s : State) (k : Nat) : Nat := (s.launchOf k).ctx
/-- A thread's translation; its failures are the traps of classes 11 and 12, or class 14 for a fetch (R12, R419, R424). -/
def threadXlate (k va acc : Nat) : M (Bool × Nat) := do
  let s ← get
  let ctx := s.ctxOf k
  let r ← translate (threadAsker k) ctx va acc
  match r with
  | .ok p => return p
  | .error (.page _ ticket l) => throw (.trap 11 0 (wd va) (det1Of acc l ctx ticket) 0 0)
  | .error (.prot l) => throw (.trap (if acc = 4 then 14 else 12) 0 (wd va) (det1Of acc l ctx 0) 0 0)
  | .error (.fatal _ r) => throw (.trap (if acc = 4 then 14 else 11) 0 (wd va) (det1Of acc r ctx 0) 0 0)
/-- Where n bytes at a virtual address of thread k land, with the access permitted (R84, R419). The bytes lie within one page. An aperture address past the allocation raises the scratchpad-bound fault, or the protection fault where `prot` is set. -/
def locateX (prot : Bool) (k va n acc : Nat) : M Place := do
  let s ← get
  let i := (s.thr k).team
  let no : Stop := .trap 12 0 (wd va) (det1Of acc 0 (s.ctxOf k) 0) 0 0
  if aperture ≤ va && va < apertureEnd then
    if (s.team i).spadSize < va - aperture + n then throw (if prot then no else .trap 10 0 (wd va) 0 0 0)
    else return .spad (va - aperture)
  else if apertureEnd ≤ va then throw no
  else
    let p ← threadXlate k va acc
    return if p.1 then .hostm p.2 else .dev p.2
/-- The place of an access of loads, stores and every other instruction but those of R252. That task, call and ret raise the scratchpad-bound fault past the allocation, as R84 says of any access, is the model's choice (DESIGN CHOICE, log entry 42: Table 03-11 does not list them). -/
def locate (k va n acc : Nat) : M Place := locateX false k va n acc
/-- The place of an access of atomics, reductions, chup, chfl and skim, which raise the protection fault at any address that they may not name (R252, R272). -/
def locateAtom (k va n acc : Nat) : M Place := locateX true k va n acc

end Sys2Proof.Machine
end

