-- ==== Sys2Proof/Machine/Mem.lean ====
section
/-! DEFINITION. The named operations over memory: loads and stores of a thread with their order, checks and records, and the accesses of engines (R83 to R87, R188, R190, R205, R211, R240 to R244). -/
namespace Sys2Proof.Machine

/-- The order of an access (R85, Table 12-1): relaxed, acquire or release at a scope code. -/
structure Order where
  acq : Option Nat
  rel : Option Nat
deriving DecidableEq, Repr
def Order.rlx : Order := { acq := none, rel := none }
def Order.sync (o : Order) : Bool := o.acq.isSome || o.rel.isSome
/-- A virtual range cut at 128-byte boundaries. -/
def segments (va : Nat) : Nat → Nat → List (Nat × Nat)
  | 0, _ => []
  | f + 1, n => if n = 0 then [] else
    let m := min n (128 - va % 128)
    (va, m) :: segments (low 64 (va + m)) f (n - m)
/-- The segments of n bytes. -/
def segs (va n : Nat) : List (Nat × Nat) := segments va (n / 128 + 2) n

/-- Bytes cut at the 128-byte boundaries of their addresses. -/
def byteSegs (va : Nat) (b : Bytes) : List (Nat × Bytes) := (go b (segs va b.length)) where
  go (b : Bytes) : List (Nat × Nat) → List (Nat × Bytes)
    | [] => []
    | g :: r => (g.1, b.take g.2) :: go (b.drop g.2) r

/-! ### Scratchpad bytes with a meaning of their own -/

/-- Whether n bytes at an offset meet a live ring's control block or an armed arrival counter's record: ordinary stores are protected (R205, R313). -/
def State.controlBytes (s : State) (i off n : Nat) : Bool :=
  ((s.team i).rings.any fun e => off < e.1 + 64 + 16 * e.2.stages.length && e.1 < off + n)
    || s.fabric.arrivals.any fun e => e.2.team == i && off < e.2.off + 16 && e.2.off < off + n
/-- The bytes of a stage's buffer with its padding (R205). -/
def PitchRing.stride (r : PitchRing) : Nat := 128 * ((r.target + 127) / 128)
/-- Whether n bytes at an offset meet the buffer of an Orphaned stage (R211). -/
def State.orphanBytes (s : State) (i off n : Nat) : Bool :=
  (s.team i).rings.any fun e => e.2.stages.zipIdx.any fun st =>
    st.1.state == 4 && off < e.2.base + (st.2 + 1) * e.2.stride && e.2.base + st.2 * e.2.stride < off + n
/-- The mapped windows that n bytes at an offset touch, as lines (R290). -/
def State.mappedLines (s : State) (i off n : Nat) : List Nat :=
  (s.team i).maps.flatMap fun m => (segs off n).filterMap fun g =>
    if m.off ≤ g.1 then m.lines[(g.1 - m.off) / 128]? else none
/-- A write of n bytes through the aperture sets the records of the mapped windows it touches (R290). -/
def State.padRecords (s : State) (i off n tag w : Nat) (k : RecKind) : State :=
  (s.mappedLines i off n).foldl (fun s l => s.recordWrite l tag w k) s

/-- Whether team i may write n bytes of its scratchpad from its own core: rows of a line that an open window gives to another core are refused (R271). -/
def State.padWriteOk (s : State) (i off n : Nat) : Bool := (s.mappedLines i off n).all fun l => s.mapWriteOk l (s.team i).core (some i)

/-! ### Host memory (R293) -/

/-- The key of a host line in a first-level cache. -/
def hostLine (pa : Nat) : Nat := 2 ^ 45 + pa / 128
/-- A load of host memory: the line is then held in state S only. -/
def hostLoad (c pa n : Nat) : M Bytes := do
  let s ← get
  fillL1 c (hostLine pa) .s
  return memGetN s.hostMem pa n
/-- A store to host memory is performed at the hub; first-level copies of the line are invalidated. -/
def State.hostStore (s : State) (pa : Nat) (b : Bytes) : State :=
  let s : State := (s.cores.map (·.1)).foldl (fun s c => if (s.l1Of c (hostLine pa)).isSome then s.setL1 c (hostLine pa) none else s) s
  { s with hostMem := memPutN s.hostMem pa b }

/-! ### Thread accesses -/

/-- The check of R243 on one window, which raises the memory-model exception when it fails (R244). -/
def raceCheck (k va pa : Nat) (sync chup : Bool) (acc : Nat) : M Unit := do
  let s ← get
  let i := (s.thr k).team
  if s.checkRec i (s.winRec (lineOf pa)) sync chup then pure ()
  else throw (s.conflict i (s.winRec (lineOf pa)) (wd va) acc)
/-- Where team i's bytes at a place are kept: a mapped line stands in the rows of its holder's scratchpad, so two names of one byte give one place (R269). -/
def State.keptAt (s : State) (i : Nat) : Place → Place × Nat
  | .dev pa => match s.mapOf (lineOf pa) with
    | some (j, row) => (.spad (row + pa % 128), j)
    | none => (.dev pa, 0)
  | .spad off => (.spad off, i)
  | .hostm pa => (.hostm pa, 0)
/-- Whether n bytes at one place of team i and m bytes at another place of team j share a byte. -/
def State.overlap (s : State) (i : Nat) (p : Place) (n j : Nat) (q : Place) (m : Nat) : Bool :=
  let meets (x y : Nat) : Bool := x < y + m && y < x + n
  match s.keptAt i p, s.keptAt j q with
  | (.spad x, i'), (.spad y, j') => i' == j' && meets x y
  | (.dev x, _), (.dev y, _) => meets x y
  | (.hostm x, _), (.hostm y, _) => meets x y
  | _, _ => false
/-- The place of an SC access. -/
def ScAccess.at' (a : ScAccess) : Place := if a.spad then .spad a.pa else if a.host then .hostm a.pa else .dev a.pa
/-- Whether thread k has an SC access that it issued before a serial, to some of n bytes at a place, still held at its home. -/
def State.scBehind (s : State) (k : Nat) (p : Place) (n upto : Nat) : Bool :=
  s.scHeld.any fun a => a.th == k && a.reply.isNone && a.oid < upto && s.overlap (s.thr k).team p n a.team a.at' a.n
/-- Whether thread k has a stream element, used before a serial and still to be stored, that shares one of n bytes at a place. -/
def State.elemBehind (s : State) (k : Nat) (p : Place) (n upto : Nat) : Bool :=
  (s.thr k).outst.any fun o => o.id < upto && match o.dest with
    | .element _ q _ => s.overlap (s.thr k).team p n (s.thr k).team q 8
    | _ => false
/-- A thread's accesses to overlapping bytes are performed in program order: one behind its own SC access, or its own stream element that waits for its result, waits (R86). -/
def ownOrder (k : Nat) (p : Place) (n : Nat) : M Unit := do
  let s ← get
  if s.scBehind k p n s.nextId || s.elemBehind k p n s.nextId then holdM else pure ()
/-- Whether thread k has an acquire or a fence outstanding that it issued before a serial, before which no later access of it is performed (R85, R230, R234, R309, R311, R315). SC accesses behind SC accesses are ordered by their stamps. -/
def State.acquiring (s : State) (k : Nat) (sc : Bool) (upto : Nat) : Bool :=
  (s.thr k).outst.any fun o => o.id < upto && match o.wait with
    | .fence | .floor _ | .allFabric _ _ => true
    | .sc id => !sc && s.scHeld.any fun a => a.id == id && a.op != .store
    | .fabric id => s.fabric.reqs.any fun r => r.id == id && r.acq
    | _ => false
/-- Whether thread k has an access outstanding that it issued before a serial, fabric writes apart, and that a release or a fence performs before itself (R85, R264). -/
def State.unperformed (s : State) (k : Nat) (sc : Bool) (upto : Nat) : Bool :=
  (s.thr k).outst.any fun o => o.id < upto && (o.dest.isElement || match o.wait with
    | .sc id => !sc && s.scHeld.any fun a => a.id == id
    | .fabric id => s.fabric.reqs.any fun r => r.id == id && !r.atomic
    | _ => false)
/-- Whether thread k waits, by an instruction issued before a serial, for an event that it acquires: a phase, a barrier, a stage, the carabiner (R208, R214, R267, R307). -/
def State.acquireWaits (s : State) (k upto : Nat) : Bool :=
  (s.thr k).outst.any fun o => o.id < upto && match o.wait with
    | .phase _ _ | .barrier _ _ | .stage _ _ _ _ | .carabiner => true
    | _ => false
/-- Whether an access that thread k issues waits for what the thread acquires before it, and one with release order for its earlier accesses as well (R85). -/
def State.mustWait (s : State) (k : Nat) (rel sc : Bool) : Bool :=
  (s.thr k).status == .gathered && (s.acquiring k sc s.nextId || s.acquireWaits k s.nextId || (rel && s.unperformed k sc s.nextId))
/-- Whether a releasing word of thread k that accesses no memory waits: a signal or an arrival. It does not wait for an event that the thread itself awaits. -/
def State.mustSignal (s : State) (k : Nat) : Bool :=
  (s.thr k).status == .gathered && (s.acquiring k false s.nextId || s.unperformed k false s.nextId)
/-- Whether an engine command that thread k issues waits: for what a releasing word waits for, and for the events that the thread acquires before it, since the command's own accesses come after them (R208, R228, R229). -/
def State.mustCommand (s : State) (k : Nat) : Bool := s.mustSignal k || ((s.thr k).status == .gathered && s.acquireWaits k s.nextId)
/-- Such an access holds its gang; what a trap entry reads and writes does not wait. -/
def order (k : Nat) (rel sc : Bool) : M Unit := do
  let s ← get
  if s.mustWait k rel sc then holdM else pure ()
/-- A releasing word that accesses no memory, behind the thread's earlier accesses. -/
def orderSignal (k : Nat) : M Unit := do
  let s ← get
  if s.mustSignal k then holdM else pure ()
/-- An engine command, behind the thread's earlier accesses and acquires. -/
def orderCommand (k : Nat) : M Unit := do
  let s ← get
  if s.mustCommand k then holdM else pure ()
/-- A load of n bytes, within one 128-byte line, by thread k; `checked` for the instructions whose accesses R243 checks, `stage` for those that the stage fault stops (Table 03-11, R211). -/
def loadPieceX (k va n : Nat) (checked : Bool) (o : Order) (stage : Bool) : M Bytes := do
  let p ← locate k va n 1
  ownOrder k p n
  order k false false
  let s ← get
  let i := (s.thr k).team
  match p with
  | .spad off =>
    if stage && s.orphanBytes i off n then throw (.trap 15 0 (wd va) 0 0 0)
    else return s.spadGet i off n
  | .hostm pa => hostLoad (keyCore k) pa n
  | .dev pa =>
    if checked then raceCheck k va pa o.sync false (if o.sync then 2 else 0) else pure ()
    let b ← coreLoad (keyCore k) pa n
    match o.acq with
    | none => return b
    | some sc =>
      let s ← get
      acquireRec k (s.winRec (lineOf pa)) sc
      return b
/-- A load of ld, ldx, fill or a load stream. -/
def loadPiece (k va n : Nat) (checked : Bool) (o : Order) : M Bytes := loadPieceX k va n checked o true
/-- A load by any other instruction, which meets no stage fault. -/
def loadPlain (k va n : Nat) : M Bytes := loadPieceX k va n false .rlx false
/-- The checks of a store, without its effect (R84, R205, R243, R269, R313). -/
def storeCheck (k va n : Nat) (checked : Bool) (o : Order) : M Place := do
  let p ← locate k va n 2
  let s ← get
  let i := (s.thr k).team
  match p with
  | .spad off =>
    if s.controlBytes i off n || !s.padWriteOk i off n then throw (.trap 12 0 (wd va) (det1Of 2 0 (s.ctxOf k) 0) 0 0)
    else return p
  | .hostm _ => return p
  | .dev pa =>
    if !s.mapWriteOk (lineOf pa) (keyCore k) (some i) then throw (.trap 12 0 (wd va) (det1Of 2 0 (s.ctxOf k) 0) 0 0)
    else if checked then
      raceCheck k va pa o.sync false (if o.sync then 3 else 1)
      return p
    else return p
/-- The effect of a store that has passed its checks: bytes, stamp and record (R231, R240). -/
def putPlace (k : Nat) (p : Place) (b : Bytes) (o : Order) : M Unit := do
  let w ← match o.rel with
    | some _ => takeSerial (keyCore k)
    | none => view fun s => (s.core (keyCore k)).clock
  let s ← get
  let i := (s.thr k).team
  let kind := match o.rel with
    | some sc => RecKind.sync true sc
    | none => RecKind.plain
  match p with
  | .spad off => modify fun s => (s.spadPut i off b).padRecords i off b.length (s.tagOf i) w kind
  | .hostm pa => modify fun s => s.hostStore pa b
  | .dev pa =>
    coreStore (keyCore k) pa b
    modify fun s => s.recordWrite (lineOf pa) (s.tagOf i) w kind
/-- That effect in the thread's program order (R85, R86). -/
def storePlace (k : Nat) (p : Place) (b : Bytes) (o : Order) : M Unit := do
  ownOrder k p b.length
  order k o.rel.isSome false
  putPlace k p b o
/-- A store of bytes within one 128-byte line by thread k: translated, ordered behind the thread's earlier accesses, checked where it is performed (R85, R86, R243). -/
def storePiece (k va : Nat) (b : Bytes) (checked : Bool) (o : Order) : M Unit := do
  let p ← locate k va b.length 2
  ownOrder k p b.length
  order k o.rel.isSome false
  let p ← storeCheck k va b.length checked o
  putPlace k p b o
/-- A load of any length, piece by piece. -/
def loadSpan (k va n : Nat) (checked : Bool) : M Bytes := do
  let l ← mapM' (fun g => loadPiece k g.1 g.2 checked .rlx) (segs va n)
  return l.flatten
/-- A load of any length by an instruction that meets no stage fault. -/
def loadSpanPlain (k va n : Nat) : M Bytes := do
  let l ← mapM' (fun g => loadPlain k g.1 g.2) (segs va n)
  return l.flatten
/-- A store of any length, piece by piece. -/
def storeSpan (k va : Nat) (b : Bytes) (checked : Bool) : M Unit :=
  forM' (byteSegs va b) fun g => storePiece k g.1 g.2 checked .rlx
/-- An access must be a multiple of its size, or the alignment fault is raised (R83). -/
def checkAlign (va n : Nat) : M Unit := if va % n = 0 then pure () else throw (.trap 9 0 (wd va) 0 0 0)

/-! ### Engine accesses (R190) -/

/-- How an engine access fails: it stalls on a fault ticket, or the command ends with a code and reason. -/
inductive EngFail where
  | stall (die ticket : Nat) | fatal (code reason : Nat)
deriving DecidableEq, Repr
/-- Who asks for a team's engines: the stack of its cluster (R421). -/
def State.engAsker (s : State) (i : Nat) : Asker := { core := none, die := coreStack (s.team i).core, src := 1 }
/-- Where a line piece of an engine access of team i lands. -/
def engLocate (i va n acc : Nat) : M (Except EngFail Place) := do
  let s ← get
  if aperture ≤ va && va < apertureEnd then
    if (s.team i).spadSize < va - aperture + n then return .error (.fatal 2 3)
    else return .ok (.spad (va - aperture))
  else if apertureEnd ≤ va then return .error (.fatal 2 2)
  else
    let r ← translate (s.engAsker i) (s.launch (s.team i).launch).ctx va acc
    match r with
    | .ok p => return .ok (if p.1 then .hostm p.2 else .dev p.2)
    | .error (.page d t _) => return .error (.stall d t)
    | .error (.prot _) => return .error (.fatal 2 2)
    | .error (.fatal _ _) => return .error (.fatal 2 1)
/-- A line piece read by an engine of team i (R190, R211). -/
def engRead (i va n : Nat) : M (Except EngFail Bytes) := do
  let p ← engLocate i va n 1
  let s ← get
  match p with
  | .error e => return .error e
  | .ok (.spad off) => if s.orphanBytes i off n then return .error (.fatal 6 0) else return .ok (s.spadGet i off n)
  | .ok (.hostm pa) => return .ok (memGetN s.hostMem pa n)
  | .ok (.dev pa) => do
    let b ← homeRead pa n
    return .ok b
/-- A line piece written by an engine of team i under the issuing core's clock (R190, R240, R247). One that meets a live ring's control block or an armed arrival record is refused as an ordinary store is, with code 2 and reason 2 (DESIGN CHOICE, log entry 35: R205 and R313 speak of ordinary stores). -/
def engWrite (i va : Nat) (b : Bytes) : M (Except EngFail Unit) := do
  let p ← engLocate i va b.length 2
  let s ← get
  let w := (s.core (s.team i).core).clock
  match p with
  | .error e => return .error e
  | .ok (.spad off) =>
    if s.controlBytes i off b.length || !s.padWriteOk i off b.length then return .error (.fatal 2 2)
    else
      modify fun s => (s.spadPut i off b).padRecords i off b.length (s.tagOf i) w .plain
      return .ok ()
  | .ok (.hostm pa) =>
    modify fun s => s.hostStore pa b
    return .ok ()
  | .ok (.dev pa) =>
    if !s.mapWriteOk (lineOf pa) (s.team i).core (some i) then return .error (.fatal 2 2)
    else
      homeWrite pa b
      modify fun s => s.recordWrite (lineOf pa) (s.tagOf i) w .plain
      return .ok ()
/-- An engine read of any length, piece by piece, stopping at the first failure. -/
def engReadSegs (i : Nat) : List (Nat × Nat) → M (Except EngFail Bytes)
  | [] => return .ok []
  | g :: r => do
    let x ← engRead i g.1 g.2
    match x with
    | .error e => return .error e
    | .ok b =>
      let y ← engReadSegs i r
      match y with
      | .error e => return .error e
      | .ok c => return .ok (b ++ c)
def engReadSpan (i va n : Nat) : M (Except EngFail Bytes) := engReadSegs i (segs va n)
/-- An engine write of any length. -/
def engWriteSegs (i : Nat) : List (Nat × Bytes) → M (Except EngFail Unit)
  | [] => return .ok ()
  | g :: r => do
    let x ← engWrite i g.1 g.2
    match x with
    | .error e => return .error e
    | .ok _ => engWriteSegs i r
def engWriteSpan (i va : Nat) (b : Bytes) : M (Except EngFail Unit) := engWriteSegs i (byteSegs va b)

end Sys2Proof.Machine
end

