-- ==== Sys2Proof/Machine/Belay.lean ====
section
/-! DEFINITION. Phasers and the belay network: handles, messages, counting at the host, completion (15, 17). -/
namespace Sys2Proof.Machine

/-! ### Handles and nodes (R300, R323) -/

/-- The node that a phaser handle names, or none when no such node or slot exists (Table 15-3, R323). -/
def handleNode (h : Nat) : Option Nat :=
  let slot := low 24 h
  if bits h 59 3 != 0 || bits h 24 18 != 0 then none
  else match bits h 62 2 with
    | 0 => if slot < 1024 then some (bits h 42 2) else none
    | 1 => if slot < 4096 && bits h 42 2 == 0 then some nodePackage else none
    | 2 => if bits h 42 17 == 0 && slot / 4096 < 523 then some (nodeSwitch (slot / 4096)) else none
    | _ => none
/-- The key of the phaser that a handle names: node and slot. -/
def handleKey (h : Nat) : Option Nat := (handleNode h).map fun n => n * 2 ^ 24 + (if n < 8 then low 24 h else low 12 h)
/-- Whether a party at a core, or the hub, reaches the phaser (R300, R324). -/
def State.handleReach (s : State) (h : Nat) (core : Option Nat) : Bool :=
  match bits h 62 2 with
  | 0 => bits h 44 15 == s.devno && (match core with | some c => coreStack c == bits h 42 2 | none => true)
  | 1 => bits h 44 15 == s.devno
  | _ => s.inPod
/-- The scope code of a phaser: stack, package or pod (R301). -/
def handleScope (h : Nat) : Nat := 4 + bits h 62 2
/-- The latency of a node in ns (Table 17-1). -/
def nodeLatency (n : Nat) : Nat := if n < 4 then 20 else if n = nodePackage then 40 else 150
/-- The leaf switch and child port of a device's uplink (R323). -/
def State.uplinkOf (s : State) (dev u : Nat) : Nat × Nat := ((tget s.belay.uplinks dev).bind (·[u]?)).getD (0, 0)
/-- The switch above a switch, and the child port it serves it by: middle switches serve the leaves 64 at a time, the root serves the middle switches (R323). -/
def switchUp (n : Nat) : Nat × Nat := if n < 513 then (513 + n / 64, n % 64) else (522, n - 513)
/-- Whether a switch stands above another, or is it. -/
def switchCovers (n m : Nat) : Bool := n == m || n == 522 || (513 ≤ n && m < 513 && 513 + m / 64 == n)
/-- The switches from one down to another below it, which each enter by the parent port, 64. -/
def switchDown (n m : Nat) : List (Nat × Nat) :=
  if n = m then [] else if n = 522 && m < 513 then [(513 + m / 64, 64), (m, 64)] else [(m, 64)]
/-- The switches after one on the way to another: up to the lowest that covers it, then down (R324). -/
def switchPath : Nat → Nat → Nat → List (Nat × Nat)
  | 0, _, _ => []
  | f + 1, n, m => if switchCovers n m then switchDown n m else switchUp n :: switchPath f (switchUp n).1 m
/-- The belay nodes from this device's package node to a switch, each with the child port it is entered by. -/
def State.podPath (s : State) (sw : Nat) : List (Nat × Nat) :=
  let l := s.uplinkOf s.devno (s.node nodePackage).uplink
  (l :: switchPath 3 l.1 sw).map fun e => (nodeSwitch e.1, e.2)
/-- The nodes a message passes from a core, or from the hub, each with the child port it enters by (R324). -/
def State.beltPath (s : State) (core : Option Nat) (h : Nat) : List (Nat × Nat) :=
  let up : List (Nat × Nat) := match core with
    | some c => [(coreStack c, c % 192), (nodePackage, coreStack c)]
    | none => [(nodePackage, 4)]
  match bits h 62 2 with
  | 0 => [(bits h 42 2, match core with | some c => c % 192 | none => 192)]
  | 1 => up
  | _ => up ++ s.podPath (bits h 12 12)
/-- The delay into the first node of a path, in ns: the hub's messages take as long to the package node as a core's (Table 17-2). -/
def firstDelay (core : Option Nat) (n : Nat) : Nat := if core.isNone && n = nodePackage then 60 else nodeLatency n
/-- A message put on its way from a core or the hub. -/
def State.sendBelay (s : State) (id : Nat) (th : Option Nat) (core : Option Nat) (unit : RegUnit) (h : Word) (op : BelayOp) (held : Bool) (covers : List Nat) : State :=
  match s.beltPath core h.toNat with
  | [] => s
  | (n, p) :: r =>
    let m : BelayMsg := { id := id, th := th, dev := s.devno, unit := unit, handle := h, op := op, node := n, port := p, path := r,
                          at' := s.now + firstDelay core n * Config.ticksPerNs, held := held, covers := covers }
    { s with belay := { s.belay with msgs := s.belay.msgs ++ [m] } }
def State.phaser (s : State) (h : Nat) : Option Phaser := (handleKey h).bind (tget s.belay.phasers)
def State.setPhaser (s : State) (h : Nat) (p : Phaser) : State :=
  match handleKey h with
  | none => s
  | some k => { s with belay := { s.belay with phasers := tset s.belay.phasers k p } }

/-! ### Phases (R268, R327, R328) -/

/-- a − b modulo 2^32 as a signed number: phases compare as in R268. -/
def phaseLt (a b : Nat) : Bool := low 32 (b + 2 ^ 32 - a - 1) < 2 ^ 31
def phaseLe (a b : Nat) : Bool := !phaseLt b a
/-- Whether a registrant is a signaller of phase q: registered from a phase not above q and not left by q. -/
def Registrant.signs (r : Registrant) (q : Nat) : Bool :=
  r.sig && phaseLe r.since q && (match r.left with | none => true | some l => phaseLt q l)
/-- Need(q): signallers of q less the signals counted for q. -/
def Phaser.need (p : Phaser) (q c : Nat) : Int := ((p.regs.filter (·.signs q)).length : Int) - c
/-- The phase after P. -/
def Phaser.next (p : Phaser) : Nat := low 32 (p.p + 1)
/-- The completion word of the open phase (Table 15-5). -/
def Phaser.word (p : Phaser) : Nat :=
  b2n p.broken * 2 ^ 59 + b2n p.found * 2 ^ 58 + (if p.anyOf then (if p.found then low 32 p.ann else 2 ^ 32 - 1) else low 32 p.c0)
/-- The open phase completes: its word is kept, P advances, early signals count (R328). -/
def Phaser.complete (p : Phaser) : Phaser :=
  { p with words := ((p.p, wd p.word) :: p.words).take 4, p := p.next, c0 := p.c1, c1 := 0, events := p.c1 != 0,
           broken := p.broken1, broken1 := false, found := false, ann := 0,
           regs := (p.regs.filter fun r => match r.left with | none => true | some l => phaseLt p.next l).map
             fun r => { r with counted := r.counted.filter fun q => phaseLe p.next q } }
/-- Whether the open phase completes in this node cycle (R328). -/
def Phaser.due (p : Phaser) : Bool := p.found || (p.need p.p p.c0 ≤ 0 && p.events)
/-- A phaser with the phases that are due completed, at most n of them, and each completed phase with its word. -/
def Phaser.settle : Nat → Phaser → Phaser × List (Nat × Nat)
  | 0, p => (p, [])
  | n + 1, p => if p.due then
      let r := p.complete.settle n
      (r.1, (p.p, p.word) :: r.2)
    else (p, [])
def Phaser.find (p : Phaser) (dev : Nat) (u : RegUnit) : Option Registrant := p.regs.find? fun r => r.dev == dev && r.unit == u && r.left.isNone
def Phaser.modReg (p : Phaser) (dev : Nat) (u : RegUnit) (f : Registrant → Registrant) : Phaser :=
  { p with regs := p.regs.map fun r => if r.dev == dev && r.unit == u && r.left.isNone then f r else r }
/-- A registration at the host: the phaser after it and the first phase it counts from (R301, Table 17-4). -/
def Phaser.register (p : Phaser) (dev : Nat) (u : RegUnit) (sg wt : Bool) : Phaser × Nat :=
  let since := if p.c0 = 0 then p.p else p.next
  ({ p with regs := p.regs ++ [{ dev := dev, unit := u, sig := sg, wait := wt, since := since, r := since, counted := [], left := none }] }, since)
/-- The phase from which a registrant that leaves is gone: the open phase when it has not signalled that, else its next phase r; a signal already sent stays owed to its phase (R301, R303, R335, Table 17-4; DEDUCED for signals beyond P, log entry 33). -/
def Phaser.goneFrom (p : Phaser) (r : Registrant) : Nat := if phaseLt p.p r.r then r.r else p.p
/-- A leave or deregistration at the host; it sets the broken bit of an open phase that the unit owed when asked (Table 17-4, R328, R335). -/
def Phaser.leave (p : Phaser) (dev : Nat) (u : RegUnit) (broken : Bool) : Phaser :=
  match p.find dev u with
  | none => p
  | some r =>
    if r.sig then
      let owed := r.signs p.p && !phaseLt p.p r.r
      let p := p.modReg dev u fun r => { r with left := some (p.goneFrom r) }
      { p with events := true, broken := p.broken || (broken && owed),
               regs := p.regs.filter fun x => !(x.dev == dev && x.unit == u && x.left == some p.p) }
    else { p with regs := p.regs.filter fun x => !(x.dev == dev && x.unit == u) }
/-- The finder id of a plain signal (R332). -/
def plainFinder : Nat := 2 ^ 32 - 1
/-- Whether a registrant's signal for a phase can still be counted: it is a signaller of the phase and none of its signals is counted for it (R329). -/
def Registrant.owes (r : Registrant) (dev : Nat) (u : RegUnit) (q : Nat) : Bool := r.dev == dev && r.unit == u && r.signs q && !r.counted.contains q
/-- A signal counted or absorbed at the host; its phaser status. A repeated delivery changes nothing (R329, Table 17-4). -/
def Phaser.signal (p : Phaser) (dev : Nat) (u : RegUnit) (phase finder : Nat) (broken : Bool) : Phaser × Nat :=
  if phaseLt phase p.p then (p, 3)
  else if !(p.regs.any fun r => r.owes dev u phase) then (p, 4)
  else
    let mark (r : Registrant) : Registrant := if r.owes dev u phase then { r with counted := phase :: r.counted } else r
    let p : Phaser := { p with regs := p.regs.map mark }
    let st := if broken then 10 else 0
    if phase = p.p then
      let p := { p with c0 := p.c0 + 1, events := true, broken := p.broken || broken }
      if finder = plainFinder then (p, st) else ({ p with found := true, ann := finder }, st)
    else ({ p with c1 := p.c1 + 1, broken1 := p.broken1 || broken }, st)

/-! ### Results at the threads -/

/-- The outstanding instruction of a thread that waits for a message or for a fabric request gets its result. -/
def State.finish (s : State) (k : Nat) (w : Wait) (v : Nat) (err : Option Nat) : State :=
  s.modThr k fun t => { t with outst := t.outst.map fun o => if o.wait == w then { o with wait := .time, val := v, fixed := true, err := err } else o }
/-- The node that keeps a message's phaser. -/
def BelayMsg.host (m : BelayMsg) : Nat := (handleNode m.handle.toNat).getD m.node
/-- The same, its result at the thread from a tick on. -/
def State.finishAt (s : State) (k : Nat) (w : Wait) (v at' : Nat) : State :=
  s.modThr k fun t => { t with outst := t.outst.map fun o => if o.wait == w then { o with wait := .time, val := v, fixed := true, doneAt := at' } else o }
/-- The delay of a completion or an answer on its way down to this device's waiters, in ns (Table 17-2). -/
def State.downDelay (s : State) (node : Nat) : Nat :=
  if node < 4 then 20 else if node = nodePackage then 60 else 60 + 150 * (s.podPath (node - 8)).length
/-- A belay message answered with a phaser status and phase number, by its path in reverse (R302, R324). -/
def State.answer (s : State) (m : BelayMsg) (status phase : Nat) : State :=
  match m.th with
  | none => s
  | some k => s.finishAt k (.message m.id) (status * 2 ^ 60 + phase) (s.now + s.downDelay (m.host) * Config.ticksPerNs)

/-! ### Messages at nodes (R330 to R333) -/

/-- Whether a message stands at a node and may be acted on there. -/
def BelayMsg.here (m : BelayMsg) (n now : Nat) : Bool := m.node == n && m.at' ≤ now && !m.held
/-- Whether a signal is eligible at its host, and can be counted or absorbed there in the open phase; others are held (R330, Table 17-4). -/
def State.eligible (s : State) (m : BelayMsg) : Bool :=
  match m.op with
  | .signal phase finder serial _ =>
    clkLt serial (if m.node < 8 then (s.node m.node).floor else s.podFloor) &&
    (match s.phaser m.handle.toNat with
     | none => true
     | some p => phaseLe phase p.p || (phase == p.next && (finder == plainFinder || !p.anyOf)))
  | _ => true
/-- The order of eligible signals within one node cycle: child port, finder id, release serial (R332). -/
def BelayMsg.before (a b : BelayMsg) : Bool :=
  match a.op, b.op with
  | .signal _ fa sa _, .signal _ fb sb _ =>
    decide (a.port < b.port) || (a.port == b.port && (decide (fa < fb) || (fa == fb && clkLt sa sb)))
  | _, _ => false
/-- The ticks of a node cycle (Table 17-1), and whether a node cycle begins in the present core cycle. -/
def cycleTicks (n : Nat) : Nat := (if n < 8 then 2 else 5) * Config.ticksPerNs
def State.cycleNow (s : State) (n : Nat) : Bool := s.now / cycleTicks n != (s.now - Config.ticksPerCycle) / cycleTicks n || s.now < Config.ticksPerCycle
/-- The order in which a node takes messages that change no count of a phase: by the node cycle of their arrival, then by ascending child port (R331, R332). -/
def BelayMsg.earlier (a b : BelayMsg) : Bool :=
  let c (m : BelayMsg) : Nat := m.at' / cycleTicks m.node
  decide (c a < c b) || (c a == c b && decide (a.port < b.port))
/-- A completed phase is sent down with the host's floor (R235, R328). -/
def State.deliver (s : State) (h : Word) (node phase word : Nat) : State :=
  let f := if node < 8 then (s.node node).floor else s.podFloor
  let d : PhaseDelivery := { handle := h, phase := phase, word := wd word, floor := f }
  { s with belay := { s.belay with deliveries := s.belay.deliveries ++ [(s.now + s.downDelay node * Config.ticksPerNs, d)] } }
/-- Registration entries of a node (Table 17-1), and those in use. -/
def nodeRegs (n : Nat) : Nat := if n < 4 then 8192 else if n = nodePackage then 16384 else 65536
def State.regsAt (s : State) (n : Nat) : Nat := ((s.belay.phasers.filter fun e => e.1 / 2 ^ 24 == n).map fun e => e.2.regs.length).foldl (· + ·) 0
/-- The effect of one message at its host (Table 17-4, R326). -/
def State.applyBelay (s : State) (m : BelayMsg) : State :=
  let s : State := { s with belay := { s.belay with msgs := s.belay.msgs.filter fun x => x.id != m.id } }
  match s.phaser m.handle.toNat with
  | none => s.answer m 6 0
  | some p =>
    let r : Phaser × Nat × Nat := match m.op with
      | .reg sg wt => match p.find m.dev m.unit with
        | some x => (p, 5, x.since)
        | none =>
          if nodeRegs m.node ≤ s.regsAt m.node then (p, 8, p.p)
          else let q := p.register m.dev m.unit sg wt; (q.1, 0, q.2)
      | .leave => match p.find m.dev m.unit with
        | none => (p, 4, p.p)
        | some _ => (p.leave m.dev m.unit false, 0, p.p)
      | .dereg b => (p.leave m.dev m.unit b, 0, p.p)
      | .signal ph f _ b => let q := p.signal m.dev m.unit ph f b; (q.1, q.2, ph)
      | .free | .alloc _ _ => (p, 0, p.p)
    let q := r.1.settle (r.1.regs.length + 2)
    let s : State := (s.setPhaser m.handle.toNat q.1).answer m r.2.1 r.2.2
    q.2.foldl (fun s c => s.deliver m.handle m.node c.1 c.2) s
/-- Whether a message is a signal. -/
def BelayMsg.isSignal (m : BelayMsg) : Bool := match m.op with | .signal _ _ _ _ => true | _ => false
/-- The eligible signals of a host applied one at a time in the order of R332; one that a completion makes eligible in the cycle takes its place in it (R328, R332). -/
def State.signalSteps (n : Nat) : Nat → State → State
  | 0, s => s
  | f + 1, s => match minBy BelayMsg.before (s.belay.msgs.filter fun m => m.here n s.now && m.path.isEmpty && m.isSignal && s.eligible m) with
    | none => s
    | some m => State.signalSteps n f (s.applyBelay m)
/-- One node cycle of a host: registrations, leaves and deregistrations first, then the eligible signals in their order (R327, R332). -/
def State.nodeCycle (s : State) (n : Nat) : State :=
  let here := s.belay.msgs.filter fun m => m.here n s.now && m.path.isEmpty && !m.isSignal
  let s : State := (sortBy BelayMsg.earlier here).foldl State.applyBelay s
  s.signalSteps n s.belay.msgs.length
/-- A message at its next node. -/
def BelayMsg.hop (m : BelayMsg) : BelayMsg :=
  match m.path with
  | [] => m
  | (n, p) :: r => { m with node := n, port := p, path := r, at' := m.at' + nodeLatency n * Config.ticksPerNs }
/-- A node that is not the host forwards what has arrived, in the order of arrival and, within a node cycle, of child port (R331). -/
def State.forward (s : State) (n : Nat) : State :=
  let goes (m : BelayMsg) : Bool := m.here n s.now && !m.path.isEmpty
  let ms := s.belay.msgs.filter (fun m => !goes m) ++ (sortBy BelayMsg.earlier (s.belay.msgs.filter goes)).map BelayMsg.hop
  { s with belay := { s.belay with msgs := ms } }
/-- A message of another device that arrives at a switch, on its way to the switch that keeps its phaser; a signal there shows its sender's next phase (R324, R331). -/
def State.arriveAt (s : State) (n : Nat) (x : BelayIn) : State :=
  match handleNode x.handle.toNat with
  | some host =>
    if host < 8 || n < 8 then s
    else
      let m : BelayMsg := { id := s.nextId, th := none, dev := x.dev, unit := x.unit, handle := x.handle, op := x.op, node := n, port := x.port,
                            path := (switchPath 3 (n - 8) (host - 8)).map fun e => (nodeSwitch e.1, e.2), at' := s.now, held := false, covers := [] }
      let s : State := { s with nextId := s.nextId + 1, belay := { s.belay with msgs := s.belay.msgs ++ [m] } }
      match x.op, s.phaser x.handle.toNat with
      | .signal phase _ _ _, some p =>
        s.setPhaser x.handle.toNat (p.modReg x.dev x.unit fun r => { r with r := if phaseLt phase r.r then r.r else low 32 (phase + 1) })
      | _, _ => s
  | none => s
/-- The D that phwait and phtry give for a completed phase, or none while it is open (R307). -/
def Phaser.result (p : Phaser) (q : Nat) : Option Nat :=
  if phaseLt q p.p then
    match p.words.find? fun w => w.1 == q with
    | some w => some w.2.toNat
    | none => some (2 * 2 ^ 60)
  else none
/-- The teams of this device that wait on a phase of a phaser: those of the groups registered to wait for it (R235, R301). -/
def State.waiters (s : State) (d : PhaseDelivery) : List Nat :=
  match s.phaser d.handle.toNat with
  | none => []
  | some p =>
    let mine (r : Registrant) (t : Team) : Bool := match r.unit with
      | .group l x _ => l == t.launch && x == t.index
      | _ => false
    (s.teams.filter fun e => e.2.placed && p.regs.any fun r => r.dev == s.devno && r.wait && phaseLe r.since d.phase && mine r e.2).map (·.1)
/-- A completion reaches its waiters: their floors rise to F at the scope and below, and their instructions get the word (R231, R235, R242, R328). -/
def State.deliverTo (s : State) (d : PhaseDelivery) : State :=
  let sc := handleScope d.handle.toNat
  let raise (f : Floors) : Floors :=
    f.raise d.floor (if 5 ≤ sc then d.floor else f.package) (if 6 ≤ sc then d.floor else f.pod)
  let s : State := (s.waiters d).foldl (fun s i => s.modTeam i fun t => { t with floors := raise t.floors }) s
  let ks := (s.threads.filter fun e => e.2.outst.any fun o => o.wait == .phase d.handle d.phase).map (·.1)
  ks.foldl (fun s k =>
    let s : State := s.finishAt k (.phase d.handle d.phase) d.word.toNat s.now
    let s : State := s.modTeam (s.thr k).team fun t => { t with floors := raise t.floors }
    s.raiseClock (keyCore k) (low 50 (d.floor + 1))) s

end Sys2Proof.Machine
end

