-- ==== Sys2Proof/Machine/Lifecycle.lean ====
section
/-! DEFINITION. The ends of threads, groups, teams and the units above them: draining, kills and cancels, and what each takes with it (R78, R132, R138, R140, R145, R146, R206, R212, R266, R335, R413, R414, R459). -/
namespace Sys2Proof.Machine

/-! ### Pitch rings (R205, R206) -/

/-- The bytes of a ring's control block (Tables 09-8, 09-9). -/
def PitchRing.bytes (r : PitchRing) : Bytes :=
  leBytes 64 (r.target + r.base * 2 ^ 32 + r.stages.length * 2 ^ 64 + 2 ^ 72) ++
    r.stages.flatMap fun st => leBytes 16 (low 32 st.count + low 32 st.registry * 2 ^ 32 + st.state * 2 ^ 64 + st.phase * 2 ^ 72 + st.reason * 2 ^ 80)
/-- What a pwait on a stage sees: its status, or none while it has to wait (R208). -/
def Stage.waitStatus (st : Stage) (e : Nat) (sense : Bool) : Option Nat :=
  if st.state = 3 then some 2 else if st.state = 4 then some 3
  else if st.phase = e && (if sense then st.state ≤ 1 else st.state == 2) then some 0 else none
/-- The outstanding instructions of a team's threads changed. -/
def State.modWaits (s : State) (i : Nat) (f : Outst → Outst) : State :=
  (s.threadsOf i).foldl (fun s k => s.modThr k fun t => { t with outst := t.outst.map f }) s
/-- An outstanding instruction whose result is decided. -/
def Outst.decide (o : Outst) (v : Nat) : Outst := { o with wait := .time, val := v, fixed := true }
/-- The guest die has acknowledged a Shootdown, or is fenced: the tlbinv or the command that sent it waits on for the accesses that its removal concerns alone (R387, R430). -/
def State.endShootdown (s : State) (id : Nat) : State :=
  let go (o : Outst) : Outst := match o.wait with
    | .shootdown n ids => if n = id then { o with wait := .window ids } else o
    | _ => o
  let s : State := { s with host := { s.host with cmdWaits := s.host.cmdWaits.map fun w => if w.shootdown = some id then { w with shootdown := none } else w } }
  (s.threads.map (·.1)).foldl (fun s k => s.modThr k fun t => { t with outst := t.outst.map go }) s
/-- A live ring set, with its control block in the scratchpad; a pwait whose condition now holds gets its status (R205, R208). -/
def State.setRing (s : State) (i h : Nat) (r : PitchRing) : State :=
  let s : State := s.modTeam i fun t => { t with rings := tset t.rings h r, spad := memPutN t.spad h r.bytes }
  s.modWaits i fun o => match o.wait with
    | .stage off k e sense => if off = h then
        (match (r.stages[k]?).bind (·.waitStatus e sense) with
         | some v => o.decide v
         | none => o) else o
    | _ => o
/-- A stage changed. -/
def State.modStage (s : State) (i h k : Nat) (f : Stage → Stage) : State :=
  match tget (s.team i).rings h with
  | none => s
  | some r => match r.stages[k]? with
    | none => s
    | some st => s.setRing i h { r with stages := r.stages.set k (f st) }
/-- A group leaves a stage's registry (Table 09-10). -/
def Stage.leave (g : Nat) (st : Stage) : Stage :=
  let reg := if bitAt st.registry g then st.registry - 2 ^ g else st.registry
  { st with registry := reg, state := if reg = 0 && st.registry != 0 && st.state ≤ 1 then 4 else st.state }
/-- A group leaves every registry of its team's rings (R206). -/
def State.leaveRings (s : State) (i g : Nat) : State :=
  (s.team i).rings.foldl (fun s e => s.setRing i e.1 { e.2 with stages := e.2.stages.map (Stage.leave g) }) s

/-! ### tstat (R413, R414) -/

/-- An error folded into a team status word: its 16-bit error word and source (Table 23-3). -/
def tstatFold (t : Word) (err src : Nat) : Word :=
  let x := t.toNat
  let x := setBits x 44 4 (bits err 12 4)
  let x := setBits x 40 4 (if src = 5 then bits err 12 4 else bits err 8 4)
  let x := setBits x 36 4 src
  let x := setBits x 16 16 (min 65535 (bits x 16 16 + 1))
  wd (setBits x 1 1 1)
/-- The errors of some counters of a thread folded into its team's tstat and cleared. -/
def State.foldErrors (s : State) (k : Nat) (which : Nat → Bool) : State :=
  let t := s.thr k
  let s : State := (t.dcErr.filter fun e => which e.1).foldl (fun s e => s.modTeam t.team fun x => { x with tstat := tstatFold x.tstat e.2.1 e.2.2 }) s
  s.modThr k fun t => { t with dcErr := t.dcErr.filter fun e => !which e.1, dcReport := t.dcReport.filter fun e => !which e.1 }

/-! ### Team barriers (R266, R267) -/

/-- The group mask that a bar operand gives: 0 means every group but the task group. -/
def State.barMask (s : State) (i m : Nat) : Nat :=
  if m ≠ 0 then m else (s.team i).groups.zipIdx.foldl (fun a e => if e.1.task then a else a + 2 ^ e.2) 0
/-- The live threads of the groups of a mask that have not arrived. -/
def State.barNeed (s : State) (i b : Nat) : Nat :=
  let x := dget Barrier.empty (s.team i).barriers b
  (s.threads.filter fun e => e.2.team == i && bitAt x.mask e.2.grp && !x.arrived.contains e.1).length
/-- The open phase completes when its need is zero: P increments, the arrival set empties, the mask opens; every waiter is released (R266). -/
def State.barCheck (s : State) (i b : Nat) : State :=
  let x := dget Barrier.empty (s.team i).barriers b
  if x.arrived.isEmpty || s.barNeed i b ≠ 0 then s
  else s.modTeam i fun t => { t with barriers := dset Barrier.empty t.barriers b { phase := low 32 (x.phase + 1), mask := 0, arrived := [] } }
def State.barCheckAll (s : State) (i : Nat) : State := (List.range 16).foldl (fun s b => s.barCheck i b) s

/-! ### Mappings (R270) -/

/-- A mapping ended: its windows close, its rows are written back, and the homes forget the holder. -/
def State.unmapOne (s : State) (i : Nat) (m : Mapping) : State :=
  let w := (s.core (s.team i).core).clock
  let s : State := m.lines.zipIdx.foldl (fun s e =>
    ((s.setDir e.1 .uncached).putLine e.1 (s.spadGet i (m.off + 128 * e.2) 128)).recordWrite e.1 (s.tagOf i) w .plain) s
  s.modTeam i fun t => { t with maps := t.maps.filter (· != m), windows := t.windows.filter fun x => !m.lines.contains (x.pa / 128) }
/-- The device lines that a mapping's global range covers are those of its physical range. -/
def State.unmapAll (s : State) (i : Nat) : State := (s.team i).maps.foldl (fun s m => s.unmapOne i m) s

/-! ### Completion counters (R145, R365, R438) -/

/-- A mirror write that the queue engine owes. -/
def State.owe (s : State) (u : UnitRef) : State :=
  if s.host.mirrors.contains u then s else { s with host := { s.host with mirrors := s.host.mirrors ++ [u] } }
/-- Whether a registrant is a unit of a team. -/
def unitOfTeam (t : Team) : RegUnit → Bool
  | .group l x _ => l == t.launch && x == t.index
  | .copyQueue l x => l == t.launch && x == t.index
  | .device _ => false
/-- The units of a team whose deregistrations are on their way: the team still counts them (R335). -/
def State.leaving (s : State) (i : Nat) : Nat :=
  let going (m : BelayMsg) : Bool := m.dev == s.devno && unitOfTeam (s.team i) m.unit && (match m.op with | .dereg _ => true | _ => false)
  ((s.belay.msgs.filter going).map (·.unit)).eraseDups.length
/-- A team's count: live groups, engine commands not yet complete (Table 06-7), and units not yet deregistered (R335). -/
def State.teamCount (s : State) (i : Nat) : Nat :=
  ((s.team i).groups.filter (·.live)).length + (s.team i).queues.length + (s.team i).guest.length + s.leaving i
/-- A launch's count: teams not yet done and fabric stores in flight. -/
def State.launchCount (s : State) (l : Nat) : Nat := (s.launch l).count + (s.fabric.writes.filter fun w => w.launch == l).length
def State.modGraph (s : State) (g : Nat) (f : Counter → Counter) : State := { s with host := { s.host with graphs := tmod s.host.graphs g f } }
def State.modLeg (s : State) (g : Nat) (f : Counter → Counter) : State := { s with host := { s.host with legs := tmod s.host.legs g f } }
def State.modJob (s : State) (g : Nat) (f : Counter → Counter) : State := { s with host := { s.host with jobs := tmod s.host.jobs g f } }
/-- A child of a counter completes with a status. -/
def Counter.child (st : Nat) (c : Counter) : Counter := { c with count := c.count - 1, status := max c.status st }
/-- A job, leg or graph that is closed and counts zero is done (Table 06-7). -/
def State.jobCheck (s : State) (j : Nat) : State :=
  match tget s.host.jobs j with
  | some c => if c.count = 0 && !c.fin then (s.modJob j fun c => { c with status := max c.status 1, fin := true }).owe (.job j) else s.owe (.job j)
  | none => s
def State.legCheck (s : State) (g : Nat) : State :=
  match tget s.host.legs g with
  | some c => if c.count = 0 && c.closed && !c.fin then
      let s : State := (s.modLeg g fun c => { c with status := max c.status 1, fin := true }).owe (.leg g)
      (s.modJob c.parent (Counter.child (max c.status 1))).jobCheck c.parent
    else s.owe (.leg g)
  | none => s
def State.graphCheck (s : State) (g : Nat) : State :=
  match tget s.host.graphs g with
  | some c => if c.count = 0 && c.closed && !c.fin then
      let s : State := (s.modGraph g fun c => { c with status := max c.status 1, fin := true }).owe (.graph g)
      (s.modLeg c.parent (Counter.child (max c.status 1))).legCheck c.parent
    else s.owe (.graph g)
  | none => s
/-- A launch whose count is zero is done, and its graph counts it (Table 06-7). -/
def State.launchCheck (s : State) (l : Nat) : State :=
  let x := s.launch l
  let s : State := s.owe (.launch l)
  if s.launchCount l = 0 && !x.fin then
    let s : State := s.modLaunch l fun x => { x with status := max x.status 1, fin := true }
    let st := max x.status 1
    match x.graph with
    | some g => (s.modGraph g (Counter.child st)).graphCheck g
    | none => s
  else s
/-- The registrations of a unit end: a deregistration goes to every phaser of this device's state, of those asked for, that names it (R335). -/
def State.deregisterIn (s : State) (at' : Phaser → Bool) (core : Option Nat) (u : RegUnit) (broken : Bool) : State :=
  s.belay.phasers.foldl (fun s e =>
    if at' e.2 && (e.2.find s.devno u).isSome then
      let node := e.1 / 2 ^ 24
      let h : Word := if node < 4 then wd (low 15 s.devno * 2 ^ 44 + node * 2 ^ 42 + low 24 e.1)
        else if node = nodePackage then wd (2 ^ 62 + low 15 s.devno * 2 ^ 44 + low 24 e.1)
        else wd (2 ^ 63 + (node - 8) * 2 ^ 12 + low 12 e.1)
      { s.sendBelay s.nextId none core u h (.dereg broken) false [] with nextId := s.nextId + 1 }
    else s) s
def State.deregister (s : State) (core : Option Nat) (u : RegUnit) (broken : Bool) : State := s.deregisterIn (fun _ => true) core u broken
/-- Whether the copy queue of a team is registered somewhere. -/
def State.queueRegistered (s : State) (t : Team) : Bool := s.belay.phasers.any fun e => (e.2.find s.devno (.copyQueue t.launch t.index)).isSome
/-- A team is done: its slot or its saved block is gone, and its launch counts it. -/
def State.teamDone (s : State) (i stamp : Nat) : State :=
  let t := s.team i
  let s : State := s.modTeam i fun t => { t with placed := false, fin := true, status := max t.status 1, endStamp := stamp, spad := [], preempt := none }
  let s : State := s.owe (.team i)
  (s.modLaunch t.launch fun l => { l with count := l.count - 1, status := max l.status (max t.status 1) }).launchCheck t.launch
/-- A team whose count is zero is done once its copy queue has left its phasers: mappings end, arrival counters are freed, its slot is freed with its end stamp, and its launch counts it. A cancelled Saved team, which has no block left, is done likewise (R145, R245, R270, R313, R335, R426). -/
def State.teamCheck (s : State) (i : Nat) : State :=
  let t := s.team i
  if t.fin || s.teamCount i ≠ 0 then s.owe (.team i)
  else if t.placed then
    if s.queueRegistered t then (s.deregister (some t.core) (.copyQueue t.launch t.index) false).owe (.team i)
    else
      let s : State := s.unmapAll i
      let s : State := { s with fabric := { s.fabric with arrivals := s.fabric.arrivals.filter fun e => e.2.team != i } }
      let stamp := (s.core t.core).clock
      let s : State := s.modCore t.core fun c => { c with ends := tset c.ends t.slot ((t.inc, stamp) :: (dget [] c.ends t.slot).filter fun e => e.1 != t.inc) }
      s.teamDone i stamp
  else if t.block.isNone then s.teamDone i t.endStamp
  else s.owe (.team i)
/-- The teams that may be done looked at again (R335). -/
def State.teamsCheck (s : State) : State :=
  ((s.teams.filter fun e => !e.2.fin && (e.2.placed || e.2.block.isNone) && s.teamCount e.1 == 0).map (·.1)).foldl (fun s i => s.teamCheck i) s

/-! ### Groups (R132, R138, R212) -/

/-- The carabiner list of a pair team: its matrix and rotate groups in list order (R212). -/
def Team.carList (t : Team) : List Nat :=
  if t.pair then (t.groups.zipIdx.filter fun e => e.1.role == .matrix || e.1.role == .rotate).map (·.2) else []
/-- The next live group of the list after a group, cyclically. -/
def Team.carNext (t : Team) (g : Nat) : Option Nat :=
  let l := t.carList.filter fun x => (t.groups[x]?.elim false (·.live)) && x != g
  match l.find? (g < ·) with
  | some x => some x
  | none => l.head?
/-- The carabiner given to a group, or to none; its threads that wait for it get status 0 (R212, R214). -/
def State.giveCarabiner (s : State) (i : Nat) (g : Option Nat) : State :=
  let s : State := s.modTeam i fun t => { t with carabiner := g }
  match g with
  | none => s
  | some g => (s.threadsIn i g).foldl (fun s k => s.modThr k fun t =>
      { t with outst := t.outst.map fun o => if o.wait == .carabiner then o.decide 0 else o }) s
/-- A group ends: the carabiner passes on, the registries of rings lose it, its phaser registrations end (R132, R206, R212, R335). -/
def State.endGroup (s : State) (i g : Nat) (killed : Bool) : State :=
  let t := s.team i
  let s : State := s.modTeam i fun t => { t with groups := t.groups.modify g fun x => { x with live := false } }
  let s : State := if t.carabiner = some g then s.giveCarabiner i ((s.team i).carNext g) else s
  let s : State := s.leaveRings i g
  s.deregister (some t.core) (.group t.launch t.index g) killed
/-- Whether a task group ends: every other group has ended, no task is queued, every slot is Free (R138). -/
def State.taskGroupDone (s : State) (i g : Nat) : Bool :=
  (s.team i).taskQ.isEmpty && (s.threadsIn i g).isEmpty && (s.team i).groups.zipIdx.all fun e => e.2 == g || !e.1.live
/-- Groups with no thread left end; then a task group may end; then the team may be done. -/
def State.groupsCheck (s : State) (i : Nat) (killed : Bool) : State :=
  let ended (s : State) : State := ((s.team i).groups.zipIdx).foldl (fun s e =>
    if e.1.live && !e.1.task && (s.threadsIn i e.2).isEmpty then s.endGroup i e.2 killed else s) s
  let s : State := ended s
  let s : State := ((s.team i).groups.zipIdx).foldl (fun s e => if e.1.live && e.1.task && s.taskGroupDone i e.2 then s.endGroup i e.2 killed else s) s
  s.teamCheck i

/-! ### Threads (R78, R140, R459) -/

/-- The issuer of a fabric write whose thread has ended: no thread has this key. -/
def noThread : Nat := 2 ^ 40
/-- A slot becomes Free: its slices return, gangs lose it, barriers no longer need it, and its group may end (R78, R132, R140, R266). -/
def State.freeThread (s : State) (k : Nat) : State :=
  let t := s.thr k
  let s : State := s.foldErrors k fun _ => true
  let gone (w : FabWrite) : FabWrite := if w.th == k then { w with th := noThread } else w
  let s : State := { s with threads := tdel s.threads k, fabric := { s.fabric with writes := s.fabric.writes.map gone } }
  let left (b : Barrier) : Barrier := { b with arrived := b.arrived.map fun x => if x = k then noThread else x }
  let s : State := s.modTeam t.team fun x => { x with barriers := x.barriers.map fun e => (e.1, left e.2) }
  (s.barCheckAll t.team).groupsCheck t.team t.killed
/-- A thread stops issuing: it drains, or its slot is Free at once when every counter is zero (R78, Table 06-3). -/
def State.drain (s : State) (k : Nat) : State :=
  if (s.thr k).outst.isEmpty then s.freeThread k
  else s.modThr k fun t => { t with status := .draining, faultWait := none, yielded := none, twait := none }
/-- The value that a wait ended by a kill writes (Table 06-8); none for an instruction that completes by itself. -/
def killValue (o : Outst) : Option Nat :=
  match o.wait with
  | .stage _ _ _ _ => some 6
  | .carabiner => some 4
  | .barrier _ ph => some (3 * 2 ^ 60 + ph)
  | .phase _ _ => some (4 * 2 ^ 60)
  | .message _ => some (4 * 2 ^ 60 + low 32 o.val)
  | .arrival _ _ => some (4 * 2 ^ 60 + low 40 o.val)
  | .guest _ _ => some (4 * 2 ^ 12)
  | _ => none
/-- A withdrawn signal leaves its unit's next phase where it was: the unit has not signalled that phase (R335). -/
def State.unsignal (s : State) (m : BelayMsg) : State :=
  match m.op, s.phaser m.handle.toNat with
  | .signal phase _ _ _, some p => s.setPhaser m.handle.toNat (p.modReg m.dev m.unit fun r => { r with r := if phaseLt phase r.r then phase else r.r })
  | _, _ => s
/-- Every outstanding instruction of a thread that waits on other parties ends at its kill; its held signals are withdrawn (R335, R459). -/
def State.endWaits (s : State) (k : Nat) : State :=
  let withdrawn : BelayMsg → Bool := fun m => m.th == some k && m.isSignal && (m.held || m.path.isEmpty)
  let ids := (s.belay.msgs.filter withdrawn).map (·.id)
  let s : State := (s.belay.msgs.filter withdrawn).foldl State.unsignal s
  let s : State := { s with belay := { s.belay with msgs := s.belay.msgs.filter fun m => !withdrawn m } }
  let off (o : Outst) : Nat := match o.wait with | .arrival off _ => ofLe (s.spadGet (s.thr k).team off 8) | _ => o.val
  let ended (o : Outst) : Outst :=
    match o.wait, killValue { o with val := off o } with
    | .message id, some v => if ids.contains id then { o with wait := .time, val := v, fixed := true } else o
    | _, some v => { o with wait := .time, val := v, fixed := true }
    | _, none => o
  s.modThr k fun t => { t with outst := t.outst.map ended }
/-- A thread is killed: a Held or Ready one at once, a gathered one at its run's trailer, a Saved one loses its record (R146, Table 06-3). -/
def State.killThread (s : State) (k : Nat) : State :=
  let t := s.thr k
  let s : State := s.modThr k fun t => { t with killed := true }
  match t.status with
  | .gathered => s.endWaits k
  | .saved => s.freeThread k
  | .draining => s.endWaits k
  | _ => (s.endWaits k).drain k

/-! ### Cancel (R146) -/

/-- Bit of an engine queue in a qfence mask (R215), and its source in the team status word (Table 23-3). -/
def queueBit : EngineQueue → Nat
  | .matrix => 0
  | .copy => 1
  | .converter => 2
  | .guest => 3
/-- The accumulator slot that a matrix command names. -/
def Cmd.slot (c : Cmd) : Option Nat :=
  match c.kind with
  | .mma => some (bits (c.quads.getD 3 0) 24 8)
  | .macc => some (bits (c.quads.getD 1 0) 0 4)
  | .mzero => some (bits (c.quads.getD 0 0) 0 4)
  | _ => none
/-- A completed command is told to the qfences and mwaits issued after it (R197, R215). -/
def State.noteDone (s : State) (i bit id : Nat) (slot : Option Nat) (status : Nat) : State :=
  s.modWaits i fun o => match o.wait with
    | .queues mask upto => if bitAt mask bit && id < upto then { o with val := max o.val (bits status 12 4 * 2 ^ 12) } else o
    | .slotDone sl upto => if slot = some sl && id < upto then { o with val := status } else o
    | _ => o
/-- A command completes: it leaves its queue, its status is written, and a nonzero code is reported through the counter (R188, R189). -/
def State.completeCmd (s : State) (i : Nat) (c : Cmd) (status : Nat) : State :=
  let code := bits status 12 4
  let s : State := s.modTeam i fun t =>
    { t with queues := t.queues.filter (·.id != c.id),
             slotLast := (match c.slot with | some sl => tset t.slotLast sl status | none => t.slotLast),
             copyBad := t.copyBad || (c.queue == .copy && (code == 2 || code == 5 || code == 6)) }
  let s : State := s.noteDone i (queueBit c.queue) c.id c.slot status
  let told (o : Outst) : Outst :=
    if o.wait == .command c.id then { o with wait := .inQueue (queueBit c.queue) c.id, val := status, fixed := true, err := if code = 0 then none else some status } else o
  s.modThr c.th fun t => { t with outst := t.outst.map told }
/-- A signal that its unit took a phase for and that is never sent: the unit owes the phase again (R301, R335). -/
def State.untake (s : State) (h : Nat) (u : RegUnit) (q : Nat) : State :=
  match s.phaser h with
  | none => s
  | some p => s.setPhaser h (p.modReg s.devno u fun r => { r with r := if phaseLt q r.r then q else r.r })
/-- The engine commands of a team that have not started are dropped with code 4 (R146, R189). -/
def State.dropCommands (s : State) (i : Nat) : State :=
  let gone := (s.team i).queues.filter fun c => !c.started
  let inits := (s.team i).inits
  let s : State := s.modTeam i fun t => { t with inits := [] }
  let s : State := inits.foldl (fun s p => s.finish p.th (.command p.id) (4 * 2 ^ 12) (some (4 * 2 ^ 12))) s
  gone.foldl (fun s c => if c.kind == .phsig then
      ((s.untake (c.quads.getD 0 0) (.copyQueue (s.team i).launch (s.team i).index) (c.quads.getD 1 0)).modTeam i fun t => { t with queues := t.queues.filter (·.id != c.id) }).finish c.th (.command c.id) (4 * 2 ^ 60 + c.quads.getD 1 0) none
    else s.completeCmd i c (4 * 2 ^ 12)) s
/-- A failed or finished write is told to the bound signals that cover it, which may then leave (R305, R334). -/
def State.uncover (s : State) (id : Nat) (failed : Bool) : State :=
  let upd (m : BelayMsg) : BelayMsg :=
    if m.covers.contains id then
      { m with covers := m.covers.filter (· != id),
               op := (match m.op with | .signal p f r b => .signal p f r (b || failed) | o => o) }
    else m
  { s with belay := { s.belay with msgs := s.belay.msgs.map upd } }
/-- The serial that no launch has: a fabric write that holds no launch. -/
def noLaunch : Nat := 2 ^ 40
/-- A fabric write of this device ends with a status: its thread and its bound signals learn of it (R296, R310, R334). -/
def State.tellWrite (s : State) (w : FabWrite) (st : Nat) : State :=
  let s : State := { s with fabric := { s.fabric with writes := s.fabric.writes.filter (·.id != w.id) } }
  let s : State := if st = 0 then s else s.modThr w.th fun t =>
    { t with fabFail := if w.told then t.fabFail else t.fabFail ++ [(w.id, w.dst, st)], boundFail := t.boundFail || t.boundIds.contains w.id }
  let s : State := s.modThr w.th fun t => { t with boundIds := t.boundIds.filter (· != w.id) }
  let s : State := s.uncover w.id (st != 0)
  s.finish w.th (.sent w.id) 0 none
/-- A fabric write of this device ends with a status: its launch learns of it too (R296, R310, R364). -/
def State.settleWrite (s : State) (w : FabWrite) (st : Nat) : State :=
  let s : State := s.tellWrite w st
  let s : State := if st = 1 then { s with fabric := { s.fabric with drops := s.fabric.drops + 1 } } else s
  if w.launch = noLaunch then s
  else (if st = 1 then s.modLaunch w.launch fun l => { l with status := max l.status 2 } else s).launchCheck w.launch
def State.modBulk (s : State) (id : Nat) (f : BulkXfer → BulkXfer) : State :=
  { s with fabric := { s.fabric with bulks := s.fabric.bulks.map fun b => if b.id == id then f b else b } }
/-- The write under a serial ends. -/
def State.endOne (s : State) (id st : Nat) : State :=
  match s.fabric.writes.find? (·.id == id) with
  | none => s
  | some w => s.settleWrite w st
/-- A bulk transfer whose pieces are all sent and answered ends: its result, and the write that stands for it (R312). -/
def State.bulkCheck (s : State) (id : Nat) : State :=
  match s.fabric.bulks.find? (·.id == id) with
  | none => s
  | some b =>
    if b.pending = 0 && b.bytes ≤ b.sent then
      let s : State := { s with fabric := { s.fabric with bulks := s.fabric.bulks.filter (·.id != id) } }
      (s.finish b.th (.bulk id) (b.status * 2 ^ 60 + low 32 b.acked) none).endOne id b.status
    else s
/-- A piece of a bulk transfer is acknowledged with a status, or dropped with one. -/
def State.pieceEnd (s : State) (b st n : Nat) : State :=
  (s.modBulk b fun x => { x with pending := x.pending - 1, status := max x.status st, acked := x.acked + n }).bulkCheck b
/-- The pieces of a bulk transfer that have not been sent are dropped with status 1, and a source read that waits for the fault service goes with them. -/
def State.stopBulk (s : State) (id : Nat) : State :=
  (s.modBulk id fun b => { b with sent := b.bytes, stall := none, status := if b.sent < b.bytes then max b.status 1 else b.status }).bulkCheck id
/-- The fabric writes of a launch that still stand in a send queue are dropped, and so are the pieces of its bulk transfers that have not been sent; such drops do not set peer-failed (R334, R365). -/
def State.dropQueued (s : State) (l : Nat) : State :=
  let mine : Packet → Bool := fun p => p.src == s.devno && (p.kind == 1 || p.kind == 3) && s.fabric.writes.any fun w => w.launch == l && w.id % 2 ^ 22 == p.tag
  let tags := (s.fabric.sendQ.flatMap fun e => e.2.charged.filter mine).map (·.tag)
  let gone := s.fabric.writes.filter fun w => w.launch == l && tags.contains (w.id % 2 ^ 22)
  let s : State := { s with fabric := { s.fabric with sendQ := s.fabric.sendQ.map fun e => (e.1, { e.2 with charged := e.2.charged.filter fun p => !mine p }) } }
  let bulks := s.fabric.bulks.filter fun b => s.fabric.writes.any fun w => w.id == b.id && w.launch == l
  let s : State := gone.foldl (fun s w => match w.bulk with
    | none => s.tellWrite w 1
    | some b => (s.tellWrite w 1).pieceEnd b 1 0) s
  bulks.foldl (fun s b => s.stopBulk b.id) s
/-- The guest packets of a cancelled team: the guest die is told, and those that it has given back saved end with code 4 (R377). -/
def State.cancelGuest (s : State) (i : Nat) : State :=
  if (s.team i).guest.isEmpty then s
  else
    let four (p : GuestPacket) : GuestPacket := if p.team = i && p.saved then { p with saved := false, held := some (4, 0, 0) } else p
    let q (e : Nat × GuestQueue) : Nat × GuestQueue := (e.1, { e.2 with packets := e.2.packets.map four })
    let s : State := { s with socket := { s.socket with queues := s.socket.queues.map q } }
    if s.socket.fenced || !s.socket.ready then s
    else ({ s with nextId := s.nextId + 1, socket := { s.socket with preempts := s.socket.preempts ++ [(s.nextId, i, s.now, true)] } }).emit (.guestPreempt s.nextId (s.tagOf i) true)
/-- A team is cancelled; the cancel that a fatal fault makes leaves the status as it is (R145, R146). -/
def State.cancelTeam (s : State) (i : Nat) (setStatus : Bool) : State :=
  let t := s.team i
  if t.fin then s
  else
    let s : State := if setStatus then s.modTeam i fun t => { t with status := max t.status 4 } else s
    let stamp := t.preempt.elim 0 (·.saveStamp)
    let s : State := s.modTeam i fun t => { t with taskQ := [], preempt := none }
    let s : State := s.dropCommands i
    let s : State := s.deregister (some t.core) (.copyQueue t.launch t.index) true
    let s : State := s.cancelGuest i
    let s : State := (s.threadsOf i).foldl State.killThread s
    if t.placed then s.groupsCheck i true
    else
      -- a Saved team: its block and records are discarded, and it completes (R426)
      (s.modTeam i fun t => { t with block := none, endStamp := stamp, groups := t.groups.map fun g => { g with live := false } }).teamCheck i
/-- The teams of a launch. -/
def State.teamsOf (s : State) (l : Nat) : List Nat := (s.teams.filter fun e => e.2.launch == l && !e.2.fin).map (·.1)
/-- A launch is cancelled: unplaced teams are dropped from its count (R146). -/
def State.cancelLaunch (s : State) (l : Nat) : State :=
  let x := s.launch l
  if x.fin then s
  else
    let s : State := s.modLaunch l fun x => { x with status := max x.status 4, count := x.count - (x.teams - x.placed), placed := x.teams }
    let s : State := (s.teamsOf l).foldl (fun s i => s.cancelTeam i true) s
    (s.dropQueued l).launchCheck l
/-- The launches of a graph, the graphs and launches of a leg, the legs of a job. -/
def State.cancelGraph (s : State) (g : Nat) : State :=
  match tget s.host.graphs g with
  | none => s
  | some c => if c.count = 0 then s else
    let s : State := (s.modGraph g fun c => { c with status := max c.status 4 }).owe (.graph g)
    ((s.host.launches.filter fun e => e.2.graph == some g).map (·.1)).foldl State.cancelLaunch s
def State.cancelLeg (s : State) (g : Nat) : State :=
  match tget s.host.legs g with
  | none => s
  | some c => if c.count = 0 then s else
    let s : State := (s.modLeg g fun c => { c with status := max c.status 4 }).owe (.leg g)
    ((s.host.graphs.filter fun e => e.2.parent == g).map (·.1)).foldl State.cancelGraph s
def State.cancelJob (s : State) (g : Nat) : State :=
  match tget s.host.jobs g with
  | none => s
  | some c => if c.count = 0 then s else
    let s : State := (s.modJob g fun c => { c with status := max c.status 4 }).owe (.job g)
    ((s.host.legs.filter fun e => e.2.parent == g).map (·.1)).foldl State.cancelLeg s
/-- The count of a unit (Table 06-7), or none when there is no such unit. -/
def State.unitCount (s : State) : UnitRef → Option Nat
  | .team i => (tget s.teams i).map fun t => if t.fin then 0 else s.teamCount i
  | .launch l => (tget s.host.launches l).map fun _ => s.launchCount l
  | .graph g => (tget s.host.graphs g).map (·.count)
  | .leg g => (tget s.host.legs g).map (·.count)
  | .job g => (tget s.host.jobs g).map (·.count)
/-- The status of a unit. -/
def State.unitStatus (s : State) : UnitRef → Nat
  | .team i => (s.team i).status
  | .launch l => (s.launch l).status
  | .graph g => (tget s.host.graphs g).elim 0 (·.status)
  | .leg g => (tget s.host.legs g).elim 0 (·.status)
  | .job g => (tget s.host.jobs g).elim 0 (·.status)
/-- Cancel of a unit; one whose count is zero changes nothing (R146). -/
def State.cancelUnit (s : State) (u : UnitRef) : State :=
  if s.unitCount u = some 0 then s
  else match u with
    | .team i => s.cancelTeam i true
    | .launch l => s.cancelLaunch l
    | .graph g => s.cancelGraph g
    | .leg g => s.cancelLeg g
    | .job g => s.cancelJob g
/-- A fatal trap: the team's status becomes faulted and the team is cancelled, not reporting cancelled (R145, R406). -/
def State.fatalTeam (s : State) (i : Nat) : State :=
  (s.modTeam i fun t => { t with status := max t.status 3 }).cancelTeam i false

end Sys2Proof.Machine
end

