-- ==== Sys2Proof/Machine/Operands.lean ====
section
/-! DEFINITION. Operand forms: resolution, bounds, stream elements, reading of sources and resolution of destinations (R17 to R22, R149 to R163). -/
namespace Sys2Proof.Machine

/-- A source as read: its bits, its width, whether it was an immediate, which is sign-extended to 64 bits (R22), and whether it was the special operand sub (R20). -/
structure SVal where
  v : Nat
  w : Nat
  imm : Bool
  sub : Bool := false
deriving DecidableEq, Repr
/-- The source brought to n bits, narrow register sources by sign or zero extension (R54, R151). -/
def SVal.ext (x : SVal) (n : Nat) (signed : Bool) : Nat :=
  if x.imm then low n x.v else if x.w < n && signed then sextTo x.w n x.v else low n x.v
/-- ZeroExt(op, 64), an immediate being sign-extended. -/
def SVal.zx (x : SVal) : Nat := low 64 x.v
/-- SignExt(op, 64). -/
def SVal.sx (x : SVal) : Nat := x.ext 64 true

/-- What an operand field names once its index register is read. -/
inductive Res where
  | slices (first n : Nat) | temp (i w : Nat) | port (p w : Nat) | const (v w : Nat) | sub (w : Nat) | imm (v : Nat)
deriving DecidableEq, Repr
/-- The slices an operand names, or a count given by the instruction (R186, R256). -/
def opSlices (op : Operand) : Option Nat → Nat
  | some n => n
  | none => fieldBits op / 4
/-- Index-bound stage: the operand's place, with the index register read and its bound checked (R21, R155). Slices are numbered as in State. -/
def resolveOp (k : Nat) (op : Operand) (cnt : Option Nat) : M Res := do
  let t ← getT k
  let shift := if t.handler then 0 else 64
  let n := opSlices op cnt
  match op with
  | .slice st _ => return .slices (t.wbase + st.toNat + shift) n
  | .special c w =>
    let c := c.toNat
    let w := codeBits w.toNat
    if c < 16 then return .temp (t.tempBase + c) w
    else if c < 24 then return .port (c - 16) w
    else if c = 0x19 then return .const (keyLane k) w
    else if c = 0x1A then return .sub w
    else if c = 0x1B then return .const t.tid w
    else return .const 0 w
  | .indexed x off _ =>
    let v ← readLoc k (.temp (t.tempBase + 12 + x.toNat))
    let start := low 16 v + off.toNat
    if bits v 16 16 < start + n then trapC 7 else return .slices (t.wbase + start + shift) n
  | .imm v => return .imm (sextTo 13 64 v.toNat)
/-- Slice-bound stage (R19, R410). -/
def boundRes (k : Nat) (r : Res) : M Unit := do
  let t ← getT k
  match r with
  | .slices f n => if t.alloc + 64 < f + n then trapC 6 else pure ()
  | _ => pure ()
/-- A port of a thread (R159). -/
def Thread.port (t : Thread) (p : Nat) : StreamPort := dget StreamPort.unbound t.streams p
/-- Whether a port is bound, or stands in a combination that R159 calls inconsistent. -/
def StreamPort.bound (p : StreamPort) : Bool := bitAt p.pos.toNat 63
def StreamPort.count (p : StreamPort) : Nat := bits p.desc.toNat 32 16
def StreamPort.inconsistent (p : StreamPort) : Bool :=
  (p.bound && p.count == 0) || (!p.bound && p.desc != 0) || p.count < bits p.pos.toNat 0 16 || bits p.pos.toNat 16 47 != 0
    || bits p.desc.toNat 48 15 != 0 || bits p.desc.toNat 0 3 != 0 || (p.bound && low 3 p.base.toNat != 0)
/-- The address of element e of a port (R91). -/
def StreamPort.elem (p : StreamPort) (e : Nat) : Nat :=
  ofI 64 ((p.base.toNat : Int) + e * toS 32 (low 32 p.desc.toNat))
/-- Stream stage: each use in turn must find a bound, consistent port with an element left, of the right direction; the element of each use (R20, R91, R160). `prior` holds the ports used so far. -/
def streamUses (k : Nat) : List Nat → List (Res × Bool) → M (List (Option Nat))
  | _, [] => return []
  | prior, (.port p _, store) :: r => do
    let t ← getT k
    let x := t.port p
    let e := bits x.pos.toNat 0 16 + prior.count p
    if x.inconsistent || !x.bound then trapC 8
    else if bitAt x.desc.toNat 63 != store then trapC 2
    else if x.count ≤ e then trapC 8
    else
      let l ← streamUses k (p :: prior) r
      return some (x.elem e) :: l
  | prior, _ :: r => do
    let l ← streamUses k prior r
    return none :: l
/-- What the element stage gives for a use: the bits of a load element, the place of a store element. -/
structure Elem where
  v : Nat
  at' : Place
deriving DecidableEq, Repr
/-- What the element stage gives where no element is taken. -/
def Elem.none' : Elem := { v := 0, at' := .spad 0 }
/-- Element stage: a load element is read, a store element is translated and checked (R161). -/
def streamElems (k : Nat) : List (Option Nat × Bool) → M (List Elem)
  | [] => return []
  | (none, _) :: r => do
    let l ← streamElems k r
    return Elem.none' :: l
  | (some va, true) :: r => do
    let p ← storeCheck k va 8 false .rlx
    let l ← streamElems k r
    return { v := 0, at' := p } :: l
  | (some va, false) :: r => do
    let b ← loadPiece k va 8 false .rlx
    let l ← streamElems k r
    return { v := ofLe b, at' := .spad 0 } :: l
/-- A source's bits, given the stream element it took. -/
def readRes (k : Nat) (r : Res) (e : Nat) : M SVal :=
  match r with
  | .slices f n => do
    let v ← readSlices k f n
    return { v := v, w := 4 * n, imm := false }
  | .temp i w => do
    let v ← readLoc k (.temp i)
    return { v := low w v, w := w, imm := false }
  | .port _ w => return { v := low w e, w := w, imm := false }
  | .const v w => return { v := low w v, w := w, imm := false }
  | .sub w => return { v := 0, w := w, imm := false, sub := true }
  | .imm v => return { v := v, w := 64, imm := true }
/-- The destination that a resolved D operand gives, with the place of the store element it takes. -/
def destRes (r : Res) (at' : Place) : Dest :=
  match r with
  | .slices f n => .slices f n
  | .temp i w => .temp i w
  | .port p w => .element p at' w
  | _ => .nowhere
/-- The elements taken: each used port moves on by one (R160). -/
def takeElems (k : Nat) (rs : List Res) : M Unit :=
  forM' rs fun r => match r with
    | .port p _ => modT k fun t => { t with streams := dset StreamPort.unbound t.streams p { t.port p with pos := (t.port p).pos + 1 } }
    | _ => pure ()
/-- All operands of a word for one thread: the faults of Table 07-4 in their order, every source read before any destination is written, the destination covered (R152, R160, R163). Sources come in the order A, B, C; with `rw` the destination D is read too and is the last source, resolved once (R155). `range` is the check of a range that stands with the slice-bound checks. The stall-check trap of an index register comes where the register is read, that of another source after the element faults, that of the destination last; a port of the wrong direction is judged with the stream faults (DESIGN CHOICE, log entry 42). -/
def operandsX (k : Nat) (srcs : List (Operand × Option Nat)) (dst : Option (Operand × Option Nat)) (rw : Bool) (range : List Res → M Unit) : M (List SVal × Dest) := do
  let rs0 ← mapM' (fun o => resolveOp k o.1 o.2) srcs
  let rd ← mapM' (fun o => resolveOp k o.1 o.2) dst.toList
  let rs := if rw then rs0 ++ rd else rs0
  forM' (rs0 ++ rd) (boundRes k)
  range rs
  let us ← streamUses k [] (rs.map (·, false) ++ rd.map (·, true))
  let es ← streamElems k (us.zip (rs.map (fun _ => false) ++ rd.map fun _ => true))
  let vs ← mapM' (fun x => readRes k x.1 x.2.v) (rs.zip es)
  let d := match rd with
    | [] => Dest.nowhere
    | r :: _ => destRes r ((es.drop rs.length).headD Elem.none').at'
  coverDest k d
  takeElems k (rs ++ rd)
  return (vs, d)
/-- The operands of a word that has no range check and reads no destination. -/
def operands (k : Nat) (srcs : List (Operand × Option Nat)) (dst : Option (Operand × Option Nat)) : M (List SVal × Dest) :=
  operandsX k srcs dst false fun _ => pure ()
/-- The operands of a word whose destination is its last source as well. -/
def operandsRw (k : Nat) (srcs : List (Operand × Option Nat)) (dst : Operand × Option Nat) : M (List SVal × Dest) :=
  operandsX k srcs (some dst) true fun _ => pure ()
/-- Operands at their own widths. -/
def plainOps (l : List Operand) : List (Operand × Option Nat) := l.map (·, none)
/-- The i-th source. -/
def src (l : List SVal) (i : Nat) : SVal := l.getD i { v := 0, w := 64, imm := false }
/-- Bits(D) of a destination; 64 for one that keeps nothing. -/
def Dest.width : Dest → Nat
  | .slices _ n => 4 * n
  | .temp _ w => w
  | .element _ _ w => w
  | _ => 64
/-- A store-stream element stored at the place its use has checked, with the result zero-extended to 64 bits (R160, R161); it waits for the elements of its port that were used before it (R91). -/
def storeElem (k p : Nat) (at' : Place) (v : Nat) : M Unit := do
  let t ← getT k
  if t.outst.any fun o => o.dest.onPort p then holdM else storePlace k at' (leBytes 8 v) .rlx
/-- The element of a variable-latency result, stored at the place its use has checked when the instruction completes (R91). -/
def landElem (k : Nat) (at' : Place) (v : Nat) : M Unit := putPlace k at' (leBytes 8 v) .rlx
/-- A fixed-latency result: written L cycles after issue, or stored to its stream element at once (R27, R91). -/
def result (k : Nat) (d : Dest) (v lat : Nat) : M Unit :=
  match d with
  | .element p at' w => storeElem k p at' (low w v)
  | _ => writeFixed k d v lat
/-- The predicate pair written by one result: pa := v, pb := ¬v (R57). -/
def predResult (k : Nat) (d : PDst) (v : Bool) (lat : Nat) : M Unit := do
  let x : Dest := .preds d.pa.toNat d.pb.toNat
  writeFixed k x (b2n v) lat
/-- The cover of a predicate destination (R29, R32). -/
def coverPreds (k : Nat) (d : PDst) : M Unit := coverDest k (.preds d.pa.toNat d.pb.toNat)
/-- A predicate source (R58). -/
def readPSrc (k : Nat) (p : PSrc) : M Bool := do
  let v ← readPred k p.pred.toNat
  return v != p.neg

end Sys2Proof.Machine
end

