-- ==== Sys2Proof/Machine/Ops.lean ====
section
/-! DEFINITION. Taking a trap and returning from one, instruction fetch, branch targets, and the advance of a gang (R12, R24, R33, R384, R385, R405 to R413, R424). -/
namespace Sys2Proof.Machine

/-! ### Fetch -/

/-- A fetch's failure: a page fault keeps class 11, everything else is the instruction-fetch fault (R12). -/
def asFetch : Stop → Stop
  | .trap cls code addr d1 d2 d3 => if cls = 11 && low 32 d1.toNat ≠ 0 then .trap 11 code addr d1 d2 d3 else .trap 14 code addr d1 d2 d3
  | x => x
/-- An action whose stop is changed. -/
def mapStop {α : Type} (f : Stop → Stop) (m : M α) : M α := fun s =>
  match m s with
  | (.error e, s') => (.error (f e), s')
  | r => r
/-- The 8 bytes of an instruction word, translated as an access of kind fetch. -/
def fetchWord (k va : Nat) : M Nat := mapStop asFetch do
  let p ← locate k va 8 4
  let s ← get
  match p with
  | .spad off => return ofLe (s.spadGet (s.thr k).team off 8)
  | .hostm pa => return ofLe (memGetN s.hostMem pa 8)
  | .dev pa =>
    let b ← homeRead pa 8
    return ofLe b
/-- The opcode of a word (R9). -/
def opcodeOf (w : Nat) : Nat := bits w 54 10
/-- Whether an address is the first word of a thread's code object, or a task entry registered for it: the entries are those of the code object of the team's task group (R24, R136). -/
def State.entryWord (s : State) (k : Nat) (a : Word) : Bool :=
  let code := (s.groupOf k).code
  a == code || ((s.launchOf k).entries.contains a && (s.team (s.thr k).team).groups.any fun g => g.task && g.code == code)
/-- Whether a position is a run head (R24); none when the word before it cannot be fetched, which leaves no trace. -/
def runHeadAt (k : Nat) (pos : Word) : M (Option Bool) := fun s =>
  if s.entryWord k pos then (.ok (some true), s)
  else match fetchWord k (pos - 8).toNat s with
    | (.ok w, s') => (.ok (some (opcodeOf w == 0x3FF)), s')
    | (.error .hold, s') => (.error .hold, s')
    | (.error _, _) => (.ok none, s)
/-- The illegal-form trap of a branch to a word that is not a run head, which comes before every other fault of the branch (R24, R33, R407). -/
def checkHead (k : Nat) (target : Word) : M Unit := do
  let h ← runHeadAt k target
  if h = some false then trapC 2 else pure ()
/-- The fetches that a taken branch makes: its target, and the word before it unless that is not read (R12, R24). -/
def checkTarget (k : Nat) (target : Word) : M Unit := do
  checkHead k target
  let _ ← fetchWord k target.toNat
  let s ← get
  if s.entryWord k target then pure ()
  else
    let _ ← fetchWord k (target - 8).toNat
    checkHead k target

/-! ### Run heads (R26, R32, R139, R140, R415, R439) -/

/-- Whether a tenant's budget gate is closed (R439). -/
def State.gateClosed (s : State) (tenant : Nat) : Bool := (dget Budget.unset s.host.budgets tenant).closed
/-- The state of a thread that stands at a run head: Held for a pre-emption once its own counters read zero, Held behind a closed gate, else Ready (R140, R415, R439). -/
def State.headStatus (s : State) (k : Nat) : ThreadStatus :=
  let t := s.thr k
  if (s.team t.team).preempt.isSome && !t.handler && (t.outst.all fun o => 8 ≤ o.dc) then .held .preempt
  else if s.gateClosed (s.launchOf k).tenant then .held .gate
  else .ready
/-- A result still due for a temporary of a file that begins at b is discarded (R156). -/
def Outst.dropTemp (b : Nat) (o : Outst) : Outst := match o.dest with
  | .temp i _ => if i / 16 = b / 16 then { o with dest := .nowhere } else o
  | _ => o
/-- Whether a register is no temporary of a file that begins at b. -/
def Loc.otherThan (b : Nat) : Loc → Bool
  | .temp i => i / 16 != b / 16
  | _ => true
/-- A thread stands at a run head: its temporaries read zero, results still due for them are discarded, the checking bit is taken, and its state is that of the head (R26, R32, R140, R156). -/
def State.atHead (s : State) (k : Nat) (pc : Word) : State :=
  let t := s.thr k
  let b := t.tempBase
  s.setThr k { t with status := s.headStatus k, stamp := s.now, pc := pc, mid := false, resume := none, twait := none, nextHead := none, back := none,
                      temps := t.temps.filter fun e => e.1 / 16 != b / 16, outst := t.outst.map (Outst.dropTemp b), varDest := t.varDest.filter fun v => v.loc.otherThan b,
                      checkOn := bitAt (s.team t.team).tstat.toNat 3 }

/-! ### Taking a trap (R405 to R410) -/

/-- The trap that a stop raises at a word; a hold is none. -/
def Stop.info (e : Stop) (pos : Word) (mid : Bool) : Option TrapInfo :=
  match e with
  | .trap cls code addr d1 d2 d3 => some { cls := cls, code := code, addr := addr, det1 := d1, det2 := d2, det3 := d3, pos := pos, mid := mid }
  | _ => none
/-- The cairn record of a thread (Table 23-2). -/
def cairnBytes (t : Thread) (i : TrapInfo) : Bytes :=
  leBytes 8 i.pos.toNat ++ leBytes 8 (i.cls * 2 ^ 56 + b2n i.mid * 2 ^ 48 + low 32 i.code)
    ++ leBytes 8 i.addr.toNat ++ leBytes 8 i.det1.toNat ++ leBytes 8 i.det2.toNat ++ leBytes 8 i.det3.toNat
    ++ (List.range 16).flatMap (fun n => leBytes 8 (t.base (.temp n)))
    ++ leBytes 8 (ofDigits 6 ((List.range 8).map t.dcount))
    ++ leBytes 8 (t.wbase * 2 ^ 32 + t.preds.toNat)
    ++ (List.range 8).flatMap (fun p => leBytes 2 (t.port p).pos.toNat)
    ++ leBytes 8 t.sgen.toNat ++ leBytes 40 0
/-- A thread that waits at a word for a fault answer, out of its gang (R408, R424). -/
def Thread.holdAt (t : Thread) (w : FaultWait) (pos : Word) (mid : Bool) (now : Nat) : Thread :=
  { t with status := .held .word, pc := pos, mid := mid, resume := if mid then some now else none, faultWait := some w }
/-- The ticket that a class-11 trap names, with the serving stack of the thread. -/
def trapTicket (i : TrapInfo) : Nat := if i.cls = 11 then low 32 i.det1.toNat else 0
/-- A thread in handler state, to stand at a vector (R410): its own temporaries, and results still due for them, stay apart from the handler's. -/
def Thread.enter (t : Thread) (i : TrapInfo) (die : Nat) : Thread :=
  { t with wbase := 0, temps := t.temps.filter (fun e => e.1 < 16),
           slices := t.slices.filter (fun e => 64 ≤ e.1), handler := true, faultWait := none,
           paged := if (trapTicket i) = 0 then t.paged else (die, trapTicket i, i.pos) :: t.paged }
/-- What a read or store of the trap entry that fails does: a page fault, or a line that must be waited for (ticket 0), holds the thread with the trap, anything else makes the trap fatal (R406, R410). -/
def trapFail (k : Nat) (i : TrapInfo) (e : Stop) : M Unit := do
  match e with
  | .hold => modT k fun t => { t with status := .held .word, faultWait := some { stack := coreStack (keyCore k), ticket := 0, answer := none, info := i, entry := true } }
  | .trap cls _ _ d1 _ _ =>
    if cls = 11 && low 32 d1.toNat ≠ 0 then
      modT k fun t => { t with status := .held .word, faultWait := some { stack := coreStack (keyCore k), ticket := low 32 d1.toNat, answer := none, info := i, entry := true } }
    else modify fun s => s.fatalTeam (s.thr k).team
/-- An action, with a second one for its failure. -/
def orElse {α : Type} (m : M α) (f : Stop → M Unit) (g : α → M Unit) : M Unit := fun s =>
  match m s with
  | (.ok a, s') => g a s'
  | (.error e, s') => f e s'
/-- A question about an address: one that ends in a trap leaves no trace, so it posts no fault record. -/
def quietly {α : Type} (m : M α) : M α := fun s =>
  match m s with
  | (.error (.trap a b c d e f), _) => (.error (.trap a b c d e f), s)
  | r => r
/-- A pre-emption refused: the queue engine is told by an event whose reason the spec does not number (R417, R440). -/
def refusePreempt (i : Nat) : M Unit := do
  let f ← freeM
  modTm i fun t => { t with preempt := none }
  modify fun s => s.postEvent 4 (s.tagOf i) (wd f)
/-- What a vector entry of 0 means (Table 23-1): a page fault waits for the fault service, a counter error is folded into tstat, a team whose class-21 vector turns out to be 0 is not pre-empted, and every other trap is fatal. -/
def zeroVector (k : Nat) (i : TrapInfo) (wait : FaultWait) : M Unit := do
  let s ← get
  if (trapTicket i) ≠ 0 then modT k fun t => t.holdAt wait i.pos i.mid s.now
  else if i.cls = 20 then modify fun s => (s.foldErrors k (· == i.code)).atHead k i.pos
  else if i.cls = 21 then
    if (s.team (s.thr k).team).preempt.isSome then refusePreempt (s.thr k).team else pure ()
    modify fun s => s.atHead k i.pos
  else modify fun s => s.fatalTeam (s.thr k).team
/-- Taking a trap: the vector is read from the tenant's trap table, the cairn record is written, and the thread becomes Ready at the vector in handler state. A trap in handler state is fatal, but for a page fault, which holds the thread (R405 to R411, R424). An error of a counter that raises class 20 is folded into the team's status word whichever vector it has (R413, R414). -/
def takeTrap (k : Nat) (i : TrapInfo) : M Unit := asParty k do
  modT k fun t => { t with status := .held .word }
  modT k fun t => t.land ((t.pend.map (·.land)).foldl max 0)
  let s ← get
  let t := s.thr k
  let die := coreStack (keyCore k)
  let wait : FaultWait := { stack := die, ticket := (trapTicket i), answer := none, info := i, entry := false }
  if (trapTicket i) ≠ 0 && (t.handler || t.paged.contains (die, trapTicket i, i.pos)) then modT k fun t => t.holdAt wait i.pos i.mid s.now
  else if t.handler then modify fun s => s.fatalTeam t.team
  else
    orElse (loadPlain k ((s.launchOf k).traps.toNat + 8 * i.cls) 8) (trapFail k i) fun b => do
      let v := ofLe b
      if v = 0 then zeroVector k i wait
      else if low 3 v ≠ 0 then modify fun s => s.fatalTeam t.team
      else
        orElse (quietly (threadXlate k v 4)) (fun e => match e with
            | .hold => trapFail k i .hold
            | _ => modify fun s => s.fatalTeam t.team) fun _ => do
          if low 8 t.cairn.toNat ≠ 0 then modify fun s => s.fatalTeam t.team
          else
            orElse (storeSpan k t.cairn.toNat (cairnBytes t i) false) (trapFail k i) fun _ => do
              if i.cls = 20 then modify fun s => s.foldErrors k (· == i.code) else pure ()
              modT k fun t => t.enter i die
              modify fun s => s.atHead k (wd v)

/-! ### Returning from a trap (R385, R411) -/

/-- The thread state that a cairn record restores. -/
def Thread.restore (t : Thread) (b : Bytes) : Thread :=
  let q (o : Nat) : Nat := ofLe (cut b o 8)
  { t with
    temps := (List.range 16).foldl (fun l n => dset 0 l n (wd (q (0x30 + 8 * n)))) [],
    wbase := bits (q 0xB8) 32 16,
    preds := BitVec.ofNat 32 (setBits (low 32 (q 0xB8)) 31 1 1),
    streams := (List.range 8).foldl (fun l p => dset StreamPort.unbound l p
      { t.port p with pos := wd (setBits (t.port p).pos.toNat 0 16 (ofLe (cut b (0xC0 + 2 * p) 2))) }) t.streams,
    sgen := wd (if q 0xD0 = 0 then 1 else q 0xD0), handler := false }
/-- Whether a cairn record is one that rfx takes: class 1 to 22, reserved bytes zero (Table 23-2). -/
def cairnOk (b : Bytes) : Bool :=
  let c := ofLe (cut b 8 8)
  1 ≤ bits c 56 8 && bits c 56 8 ≤ 22 && bits c 49 7 == 0 && bits c 32 16 == 0
    && bits (ofLe (cut b 0xB0 8)) 48 16 == 0 && bits (ofLe (cut b 0xB8 8)) 48 16 == 0 && ofLe (cut b 0xD8 40) == 0
/-- A thread that resumes inside a run, in a solo gang ranked by the present tick (R385). -/
def Thread.resumeAt (t : Thread) (pos : Word) (now : Nat) : Thread :=
  { t with status := .ready, stamp := now, pc := pos, mid := true, resume := some now, nextHead := none, twait := none }
/-- The return that an rfx reads at its word: it waits until every handler counter reads zero, reads and checks the record, and finds the position; the effect comes with the trailer of its run (R25, R385, R411). Whether the position is inside a run is read from the code there; the record's mid bit serves where that cannot be read. The position's bits [2:0] read as zero (R9). A bad record raises a trap, which in handler state is fatal. -/
def readReturn (k : Nat) (skip park : Bool) : M Unit := do
  let t ← getT k
  let s ← get
  if !t.handler then trapC 2
  else if t.outst.any fun o => 8 ≤ o.dc then holdM
  else if park then modT k fun t => { t with back := some { park := true, record := [], pos := 0, head := true, at' := s.now } }
  else if low 8 t.cairn.toNat ≠ 0 then trapC 9
  else
    let b ← loadSpanPlain k t.cairn.toNat 256
    if !cairnOk b then trapC 2
    else
      let pos := ofLe (cut b 0 8) / 8 * 8
      if skip then
        let w ← fetchWord k (low 64 (pos + 8))
        let pos' := if opcodeOf w = 0x3FE then low 64 (pos + 16) else low 64 (pos + 8)
        modT k fun t => { t with back := some { park := false, record := b, pos := wd pos', head := false, at' := s.now } }
      else
        let head ← runHeadAt k (wd pos)
        modT k fun t => { t with back := some { park := false, record := b, pos := wd pos, head := head.getD (!bitAt (ofLe (cut b 8 8)) 48), at' := s.now } }
/-- A thread leaves handler state as its rfx has read it (R385, R411): Saved with park, else its record restored, and Ready at the run head or inside the run where it was. -/
def State.takeReturn (s : State) (k : Nat) (b : Back) : State :=
  if b.park then
    s.modThr k fun t => { t.land ((t.pend.map (·.land)).foldl max 0) with status := .saved, handler := false, back := none, twait := none, nextHead := none }
  else
    let s : State := s.modThr k fun t => { t.restore b.record with back := none }
    if b.head then s.atHead k b.pos else s.modThr k fun t => { t.resumeAt b.pos b.at' with stamp := s.now }

end Sys2Proof.Machine
end

