-- ==== Sys2Proof/Machine/Issue.lean ====
section
/-! DEFINITION. How a gang executes one word: the checks before the guard, the guard, operands of every participant, the effect for each thread whose guard is true, traps and holds, and the advance of the gang; and how a thread leaves a run at its trailer (R13, R25 to R33, R40, R140, R142, R408, R413). -/
namespace Sys2Proof.Machine

/-- What is fixed for an instruction word: latency class, roles, privilege, carabiner, branch class, number of words, and whether the threads exchange operands, so that all wait while one is held (R25, R39, R41, R113, R194). -/
structure Meta where
  var : Bool := false
  roles : Role → Bool := fun _ => true
  priv : Bool := false
  car : Bool := false
  branch : Bool := false
  words : Nat := 1
  lane : Bool := false
/-- Roles of the ranges of Table 02-1 and Table 02-7. -/
def vecRoles : Role → Bool
  | .vector | .rotate => true
  | _ => false
def matRoles : Role → Bool
  | .matrix | .rotate => true
  | _ => false
def copyRoles : Role → Bool
  | .copy | .rotate => true
  | _ => false
/-- The traps decided before the guard: role, privilege, carabiner (R40, R131, R194, R407). -/
def preCheck (m : Meta) (k : Nat) : M Unit := do
  let s ← get
  if !m.roles (s.groupOf k).role then trapC 3
  else if m.priv && !s.privOf k then trapC 4
  else if m.car && (s.team (s.thr k).team).carabiner ≠ some (s.thr k).grp then trapC 5
  else pure ()
/-- The guard (R13). -/
def guardOf (k : Nat) (g : Guard) : M Bool := do
  let v ← readPred k g.pred.toNat
  return v != g.neg
/-- How one member fares at a word. -/
inductive Fate (α : Type) where
  | off | on (a : α) | stop (e : Stop)
/-- One member's part run on its own, in the name of the gang, which at a line is one party, its members in their order (DESIGN CHOICE, log entry 44): when it stops short, its thread record is as before (R162, R163, R409). -/
def runPart {α : Type} (k : Nat) (m : M α) (s : State) : Except Stop α × State :=
  match m s with
  | (.ok a, s') => (.ok a, s')
  | (.error e, s') => (.error e, match tget s.threads k with | some t => s'.setThr k t | none => s')
/-- A word in progress: state, members that take part with their operands, members whose guard is false, members that stopped. -/
structure Run (α : Type) where
  s : State
  on : List (Nat × α)
  off : List Nat
  stops : List (Nat × Stop)
/-- Checks, guard and operands of one member. A member that takes a trap at a cross-lane word is none of the participants that the others see, though its guard is true: R113 does not say (DESIGN CHOICE, log entry 42). -/
def Run.gather {α : Type} (m : Meta) (h : Hdr) (f : Nat → M α) (r : Run α) (k : Nat) : Run α :=
  match runPart k (do
      preCheck m k
      let g ← guardOf k h.guard
      if g then
        let a ← f k
        return some a
      else return none) r.s with
  | (.ok (some a), s) => { r with s := s, on := r.on ++ [(k, a)] }
  | (.ok none, s) => { r with s := s, off := r.off ++ [k] }
  | (.error e, s) => { r with s := s, stops := r.stops ++ [(k, e)] }
/-- The effect of one member. -/
def Run.act {α : Type} (k : Nat) (m : M Unit) (r : Run α) : Run α :=
  match runPart k m r.s with
  | (.ok _, s) => { r with s := s }
  | (.error e, s) => { r with s := s, stops := r.stops ++ [(k, e)] }
/-- The members that stopped have taken no stream element: their ports stand as before the word (R162). -/
def Run.giveBack {α : Type} (s0 : State) (r : Run α) : Run α :=
  { r with s := r.stops.foldl (fun s e => s.modThr e.1 fun t => { t with streams := (s0.thr e.1).streams }) r.s }
/-- Whether some member is held. -/
def Run.anyHeld {α : Type} (r : Run α) : Bool := r.stops.any fun e => e.2 == .hold
/-- Every member is held at the word, which begins anew for all of them; the threads stand as before it. -/
def Run.holdAll {α : Type} (s0 : State) (ms : List Nat) (s : State) : Run α :=
  { s := { s with threads := s0.threads }, on := [], off := [], stops := ms.map fun k => (k, Stop.hold) }
/-- Where the threads exchange operands, one that is held while operands are read holds all (R113). -/
def Run.share {α : Type} (m : Meta) (s0 : State) (ms : List Nat) (r : Run α) : Run α :=
  if m.lane && r.anyHeld then Run.holdAll s0 ms r.s else r
/-- The effects of the members that take part. Where they exchange operands and one is held, all are, and nothing of any member's effect is kept but what the held one has set going (R113, R122). -/
def Run.actAll {α : Type} (m : Meta) (s0 : State) (ms : List Nat) (body : List (Nat × α) → Nat → α → M Unit) (r : Run α) : Run α :=
  let step (r' : Run α) (e : Nat × α) : Run α := r'.act e.1 (body r.on e.1 e.2)
  let all := r.on.foldl step r
  if m.lane && all.anyHeld then
    let again := (r.on.filter fun e => all.stops.contains (e.1, .hold)).foldl (fun (r' : Run α) e =>
      if (step r' e).anyHeld then { step r' e with stops := r'.stops } else r') { r with stops := [] }
    Run.holdAll s0 ms again.s
  else all
/-- A guarded-false variable-latency instruction steps its counter and releases it in its turn (R28). -/
def stepCounter (k sc : Nat) : M Unit := do
  let _ ← issueVar k sc .nowhere 0 1 (some 1) .time true none 0
  pure ()
/-- A member's trap, with the position of Table 23-1: the word, or the word after it for the software trap. -/
def trapMember (g : Gang) (k : Nat) (e : Stop) : M Unit :=
  let atHead := g.fromHead && g.count == 0
  match e with
  | .hold => pure ()
  | .trap cls _ _ _ _ _ =>
    match e.info (if cls = 18 then g.pc + 8 else g.pc) (if cls = 18 then true else !atHead) with
    | some i => takeTrap k i
    | none => pure ()
/-- An action of an event as a step of the machine: what stops short leaves what was done before. -/
def runEvent (m : M Unit) (s : State) : Host.Outcome State Fault Refusal := .next (m s).2
/-- The gang after a word: members that trapped or left are gone; while some are held at the word, the gang stays at it; else it moves on (R27, R28, R142). -/
def advance (gid : Nat) (g : Gang) (stay : List Nat) (words delay : Nat) (s : State) : State :=
  let still := g.members.filter fun k => (s.thr k).status == .gathered && (tget s.threads k).isSome
  let s := { s with cur := none }
  if still.isEmpty then { s with gangs := tdel s.gangs gid }
  else
    let g' := if stay.isEmpty then
        { g with members := still, pc := g.pc + BitVec.ofNat 64 (8 * words), count := g.count + 1, done := [], held := false, nextIssue := s.now + delay * Config.ticksPerCycle }
      else { g with members := still, done := still.filter fun k => !stay.contains k, held := true, nextIssue := s.now + Config.ticksPerCycle }
    { s with gangs := tset s.gangs gid g' }
/-- Whether a gang only tries its word: it was held there and no port has been given to it (R141; DEDUCED, log entry 38). -/
def Gang.tries (g : Gang) : Bool := g.held && g.port.isNone
/-- The gang after an attempt at its word that began in a state: a try that nothing holds any more changes nothing but that the gang is ranked again from the next cycle on. -/
def afterWord (gid : Nat) (g : Gang) (stay : List Nat) (words delay : Nat) (s0 s : State) : State :=
  if g.tries && stay.isEmpty then
    { s0 with cur := none, gangs := tset s0.gangs gid { g with held := false, nextIssue := s0.now + Config.ticksPerCycle } }
  else advance gid g stay words delay s
/-- Whether a thread's next word waits: for a serialising syswr that is still outstanding (R386), or for an SC access that its home has not yet performed, for its check is made there and no later word may have an effect before it (R243, R244). -/
def State.serial (s : State) (k : Nat) : Bool := ((s.thr k).outst.any fun o => o.src == 15) || s.scHeld.any fun a => a.th == k && a.reply.isNone
/-- Whether a thread's counter stands at 63, so that an issue against it holds the gang (R28). -/
def State.full (s : State) (k sc : Nat) : Bool := 63 ≤ (s.thr k).dcount ((s.thr k).counter sc)
/-- The present gang executes a word: `f` reads the operands of a participant, `body` is the effect for one participant, given all of them (R113, R152). -/
def runWordX {α : Type} (m : Meta) (h : Hdr) (f : Nat → M α) (body : List (Nat × α) → Nat → α → M Unit) (s : State) :
    Host.Outcome State Fault Refusal :=
  match s.cur with
  | none => .next s
  | some gid =>
    match tget s.gangs gid with
    | none => .next { s with cur := none }
    | some g =>
      let ms := g.members.filter fun k => !g.done.contains k
      let m := { m with lane := m.lane || g.tries }
      if ms.any s.serial || (m.var && ms.any fun k => s.full k h.sc.toNat) then .next (advance gid g ms m.words 1 s)
      else
        let r0 : Run α := { s := s, on := [], off := [], stops := [] }
        let r1 := if 24 ≤ g.count then { r0 with stops := ms.map fun k => (k, Stop.trap 2 0 0 0 0 0) } else ms.foldl (Run.gather m h f) r0
        let r1 := r1.share m s ms
        let r2 := if m.var then r1.off.foldl (fun r k => r.act k (stepCounter k h.sc.toNat)) r1 else r1
        let r3 := (r2.actAll m s ms body).giveBack s
        let held := (r3.stops.filter fun e => e.2 == .hold).map (·.1)
        .next (afterWord gid g held m.words (if m.var then 1 else h.sc.toNat + 1) s (forM' r3.stops (fun e => trapMember g e.1 e.2) r3.s).2)
/-- A word that acts for each thread on its own. -/
def runWord (m : Meta) (h : Hdr) (body : Nat → M Unit) (s : State) : Host.Outcome State Fault Refusal :=
  runWordX m h (fun _ => pure ()) (fun _ k _ => body k) s
/-- A variable-latency result: its counter, its destination, its value (R28). -/
def later (k : Nat) (h : Hdr) (d : Dest) (v : Nat) : M Unit := do
  let _ ← issueVar k h.sc.toNat d v 1 none .time true none 0
  pure ()
/-- A variable-latency instruction that waits for something beside its time. -/
def laterWait (k : Nat) (h : Hdr) (d : Dest) (v : Nat) (w : Wait) : M Unit := do
  let _ ← issueVar k h.sc.toNat d v 1 none w false none 0
  pure ()
/-- A variable-latency instruction that ends with an error word from a source of Table 23-3. -/
def laterErr (k : Nat) (h : Hdr) (d : Dest) (v err src : Nat) : M Unit := do
  let _ ← issueVar k h.sc.toNat d v 1 none .time true (if err = 0 then none else some err) src
  pure ()
/-- The counter of a variable-latency instruction has room; else the gang is held before anything is done (R28). -/
def roomFor (k : Nat) (h : Hdr) : M Unit := do
  let t ← getT k
  if 63 ≤ t.dcount (t.counter h.sc.toNat) then holdM else pure ()

/-! ### The trailer (R25, R26, R30, R140, R413) -/

/-- A thread arrives at its next run head with every result of its run written but the published ones (R30). -/
def State.toHead (s : State) (k : Nat) (next : Word) : State :=
  (s.modThr k fun t => { t with pend := t.pend.filter fun p => p.pub }).atHead k next
/-- Whether the trailer conditions of R30 hold. -/
def Thread.trailerMet (t : Thread) (w : TrailWait) : Bool :=
  (List.range 8).all (fun n => !bitAt w.mask n || t.dcount (t.counter n) == 0) && t.pend.all (·.pub)
/-- A thread Held at a trailer is released when the conditions of R30 are met: the waited counters' destinations are covered, a counter error raises class 20 or is folded in, and the thread goes to its next run head, or returns from its trap where its run held an rfx (R25, R29, R30, R385, R413). -/
def releaseHeld (k : Nat) : M Unit := do
  let s ← get
  let t := s.thr k
  match t.status, t.twait with
  | .held .trailer, some w =>
    if t.trailerMet w then
      let waited : Nat → Bool := fun dc => (List.range 8).any fun n => bitAt w.mask n && t.counter n == dc
      modT k fun t => { t with varDest := t.varDest.filter fun v => !waited v.dc }
      match t.dcErr.find? (fun e => waited e.1) with
      | some (dc, err, _) =>
        modify fun s => s.toHead k w.next
        takeTrap k { cls := 20, code := dc, addr := 0, det1 := wd err, det2 := 0, det3 := 0, pos := w.next, mid := false }
      | none => modify fun s => t.back.elim (s.toHead k w.next) (s.takeReturn k)
    else pure ()
  | _, _ => pure ()
/-- The slices of a publish operand (R30). Only fixed-latency results that are still pending are published: a variable-latency result is covered by its counter (DESIGN CHOICE, log entry 42). -/
def pubRange (k : Nat) (o : Operand) : M (List (Nat × Nat)) := do
  let r ← resolveOp k o none
  boundRes k r
  match r with
  | .slices f n => return [(f, n)]
  | _ => return []
/-- Whether a pending result's slices lie wholly within a published operand. -/
def Pend.within (p : Pend) (pubs : List (Nat × Nat)) : Bool :=
  pubs.any fun r => p.writes.all fun w => match w.1 with | .slice n => r.1 ≤ n && n < r.1 + r.2 | _ => false
/-- One thread reaches its trailer (R16, R25, R30, Table 06-3). -/
def trailMember (g : Gang) (f : FmtT) (k : Nat) : M Unit := do
  let bad := (g.fromHead && g.count == 0) || (g.fromHead && f.len.toNat != g.count)
  if bad then trapC 2
  else
    let p0 ← pubRange k f.pub0
    let p1 ← pubRange k f.pub1
    let t ← getT k
    let w : TrailWait := { mask := f.wait.toNat, pubs := p0 ++ p1, next := t.nextHead.getD (g.pc + 8) }
    if t.killed then modify fun s => (s.endWaits k).drain k
    else
      modT k fun t => { t with status := .held .trailer, twait := some w, yieldBit := f.yld, pc := w.next, nextHead := none,
                               pend := t.pend.map fun p => { p with pub := p.pub || p.within w.pubs } }
      releaseHeld k

end Sys2Proof.Machine
end

