-- ==== Sys2Proof/Machine/Common.lean ====
section
/-! DEFINITION. Shapes shared by many words: one result from sources, element-wise work, addresses, descriptors (R54, R83, R93 to R98, R186). -/
namespace Sys2Proof.Machine

/-- Number of words with a possible modifier. -/
def wordsOf (m : Option Modifier) : Nat := if m.isSome then 2 else 1
/-- A variable-latency word that every role may issue. -/
def varMeta : Meta := { var := true }
/-- The address of the present word. -/
def curPc : M Word := do
  let s ← get
  return match s.cur.bind (tget s.gangs) with
    | some g => g.pc
    | none => 0
/-- A fixed-latency word with one result, cut to Bits(D). -/
def fixedWord (m : Meta) (h : Hdr) (srcs : List Operand) (d : Operand) (lat : Nat) (f : Nat → List SVal → M Nat) (s : State) : Host.Outcome State Fault Refusal :=
  runWord m h (fun k => do
    let (vs, dst) ← operands k (plainOps srcs) (some (d, none))
    let v ← f k vs
    result k dst (low (fieldBits d) v) lat) s
/-- The same with a result that depends on the sources alone. -/
def pureWord (m : Meta) (h : Hdr) (srcs : List Operand) (d : Operand) (lat : Nat) (f : List SVal → Nat) (s : State) : Host.Outcome State Fault Refusal :=
  fixedWord m h srcs d lat (fun _ vs => pure (f vs)) s
/-- A word whose sources are read and whose predicate pair is written (R57). -/
def predWord (m : Meta) (h : Hdr) (srcs : List Operand) (d : PDst) (f : List SVal → Bool) (s : State) : Host.Outcome State Fault Refusal :=
  runWord m h (fun k => do
    let (vs, _) ← operands k (plainOps srcs) none
    coverPreds k d
    predResult k d (f vs) 2) s

/-! ### Integer operands (R54) -/

/-- Operation width and signedness of a suffix (Table 02-2). -/
def itBits : IType → Nat
  | .s8 | .z8 => 8
  | .s16 | .z16 => 16
  | .s32 | .z32 => 32
  | .s64 | .z64 => 64
def itSigned : IType → Bool
  | .s8 | .s16 | .s32 | .s64 => true
  | _ => false
/-- Ext(x, N, s) as an integer. -/
def intVal (t : IType) (x : SVal) : Int :=
  if itSigned t then toS (itBits t) (x.ext (itBits t) true) else (x.ext (itBits t) false : Nat)
/-- The exact result brought to n bits of a destination: saturated, or the low N bits extended by the suffix's rule (R59). -/
def intRes (t : IType) (sat : Bool) (n : Nat) (e : Int) : Nat :=
  if sat then satTo n (itSigned t) e
  else if itSigned t then ofI n (toS (itBits t) (ofI (itBits t) e)) else low n (ofI (itBits t) e)
/-- Whether a modifier saturates. -/
def modSat (m : Option Modifier) : Bool := m.elim false (·.sat)

/-! ### Elements (R93, R94, R96 to R98) -/

/-- The element patterns of a source: an immediate converted and broadcast, sub, one broadcast element, or element by element. -/
def elemsOf (w n : Nat) (conv : Int → Nat) (x : SVal) : List Nat :=
  if x.imm then List.replicate n (conv (toS 64 x.v))
  else if x.sub then (List.range n).map fun (i : Nat) => if x.w = w then conv 0 else conv i
  else if x.w = w then List.replicate n (low w x.v)
  else digits w n x.v
/-- An integer converted to a float pattern by nearest-even (R94). -/
def intToF (f : Fmt) (i : Int) : Nat := roundF f 0 0 false (FVal.ofInt i)
/-- The rounding mode of a word: its modifier's, or the thread default (R96). -/
def roundMode (k : Nat) (m : Option Modifier) : M Nat := do
  let t ← getT k
  return match m with
    | none => t.fmode
    | some x => if x.round = 6 then t.fmode else x.round.toNat
/-- n draws from a thread's generator (R97). -/
def drawN (k : Nat) : Nat → M (List Nat)
  | 0 => return []
  | n + 1 => do
    let t ← getT k
    let d := drawNext t.sgen.toNat
    modT k fun t => { t with sgen := wd d.1 }
    let r ← drawN k n
    return d.2 :: r
/-- The draws of an instruction with n elements: one each in mode 5. -/
def drawsFor (k mode n : Nat) : M (List Nat) := if mode = 5 then drawN k n else return List.replicate n 0
/-- The modifier with nothing set. -/
def Modifier.none' : Modifier :=
  { c := opZero, sat := false, clamp := 0, negA := false, absA := false, negB := false, absB := false, negC := false, absC := false, scale := 0, round := 6 }
/-- Scale, rounding, sat and clamp of one element (R98). -/
def finishElem (f : Fmt) (m : Modifier) (mode r : Nat) (e : FVal) : Nat :=
  clampF f m.clamp.toNat (roundF f mode r m.sat (e.scale (toS 6 m.scale.toNat)))
/-- The C operand of a word, when it has one. -/
def cOps (m : Option Modifier) : List Operand := (modC m).toList
/-- The operands of an element-wise word as lists of elements after abs and neg, C being +0 when absent; the destination comes with them. -/
def elemOperands (k : Nat) (f : Fmt) (srcs : List Operand) (d : Operand) (md : Option Modifier) : M (List Nat × List Nat × List Nat × Dest) := do
  let (vs, dst) ← operands k (plainOps (srcs ++ cOps md)) (some (d, none))
  let n := fieldBits d / f.width
  let m := md.getD Modifier.none'
  let es (x : SVal) := elemsOf f.width n (intToF f) x
  let a := (es (src vs 0)).map (signMod f m.absA m.negA)
  let b := if 2 ≤ srcs.length then (es (src vs 1)).map (signMod f m.absB m.negB) else []
  let c := match vs[srcs.length]? with
    | some x => (es x).map (signMod f m.absC m.negC)
    | none => List.replicate n (signMod f m.absC m.negC 0)
  return (a, b, c, dst)
/-- Elements computed and rounded one by one, in ascending order. -/
def roundElems (k : Nat) (f : Fmt) (md : Option Modifier) (exact : Bool → Nat → FVal) (n : Nat) : M Nat := do
  let mode ← roundMode k md
  let rs ← drawsFor k mode n
  let m := md.getD Modifier.none'
  return ofDigits f.width (rs.zipIdx.map fun r => finishElem f m mode r.1 (exact (mode = 3) r.2))
/-- The i-th element as a value. -/
def elemAt (f : Fmt) (l : List Nat) (i : Nat) : FVal := decF f (l.getD i 0)

/-! ### Addresses and descriptors -/

/-- ZeroExt(A, 64) + SignExt(B, 64), modulo 2^64 (R87). -/
def addrAB (a b : SVal) : Nat := low 64 (a.zx + b.sx)
/-- A descriptor operand of n quads (R186). -/
def descOp (o : Operand) (n : Nat) : Operand × Option Nat := (o, some (16 * n))
/-- Quad i of a descriptor as read. -/
def quadOf (x : SVal) (i : Nat) : Nat := bits x.v (64 * i) 64
/-- An address operand read as 64 bits from 16 slices (R250). -/
def addrOp (o : Operand) : Operand × Option Nat :=
  match o with
  | .special c _ => (.special c 7, none)
  | o => (o, some 16)
/-- A plain operand. -/
def plainOp (o : Operand) : Operand × Option Nat := (o, none)

end Sys2Proof.Machine
end

