-- ==== Sys2Proof/Machine/Integer.lean ====
section
/-! DEFINITION. Integer, bit-field and predicate instructions (03, R59 to R73). -/
namespace Sys2Proof.Machine

/-- A two-source integer word with an exact result (R54, R59). -/
def intWord (t : IType) (h : Hdr) (md : Option Modifier) (srcs : List Operand) (d : Operand) (lat : Nat) (e : Int → Int → Int → Int) (s : State) : Host.Outcome State Fault Refusal :=
  pureWord { words := wordsOf md } h srcs d lat (fun vs =>
    intRes t (modSat md) (fieldBits d) (e (intVal t (src vs 0)) (intVal t (src vs 1)) (vs[2]?.elim 0 (intVal t)))) s
def execIadd (t : IType) (f : FmtM) (s : State) : Host.Outcome State Fault Refusal := intWord t f.hdr f.mod [f.a, f.b] f.d 2 (fun a b _ => a + b) s
def execIsub (t : IType) (f : FmtM) (s : State) : Host.Outcome State Fault Refusal := intWord t f.hdr f.mod [f.a, f.b] f.d 2 (fun a b _ => a - b) s
def execImul (t : IType) (f : FmtM) (s : State) : Host.Outcome State Fault Refusal := intWord t f.hdr f.mod [f.a, f.b] f.d 4 (fun a b _ => a * b) s
def execImulh (t : IType) (f : FmtA) (s : State) : Host.Outcome State Fault Refusal := intWord t f.hdr none [f.a, f.b] f.d 5 (fun a b _ => a * b / 2 ^ itBits t) s
/-- imad: C comes in the modifier, and is 0 without one. -/
def execImad (t : IType) (f : FmtM) (s : State) : Host.Outcome State Fault Refusal :=
  intWord t f.hdr f.mod ([f.a, f.b] ++ (f.mod.map (·.c)).toList) f.d 4 (fun a b c => a * b + c) s
def execImin (t : IType) (f : FmtA) (s : State) : Host.Outcome State Fault Refusal := intWord t f.hdr none [f.a, f.b] f.d 2 (fun a b _ => min a b) s
def execImax (t : IType) (f : FmtA) (s : State) : Host.Outcome State Fault Refusal := intWord t f.hdr none [f.a, f.b] f.d 2 (fun a b _ => max a b) s
def execIabs (t : IType) (f : FmtM) (s : State) : Host.Outcome State Fault Refusal := intWord t f.hdr f.mod [f.a] f.d 2 (fun a _ _ => if a < 0 then -a else a) s
def execIneg (t : IType) (f : FmtM) (s : State) : Host.Outcome State Fault Refusal := intWord t f.hdr f.mod [f.a] f.d 2 (fun a _ _ => -a) s

/-! ### Division (R60, R460) -/

/-- The quotient truncated toward zero, and the remainder with the sign of a, with the fixed results of R60. -/
def divQ (a b : Int) : Int := if b = 0 then -1 else Int.tdiv a b
def divR (a b : Int) : Int := if b = 0 then a else Int.tmod a b
/-- Latest completion cycle (Table 03-13). -/
def divLatest (t : IType) : Nat :=
  match itBits t with
  | 8 => 12
  | 16 => 16
  | 32 => 24
  | _ => 40
def divideWord (t : IType) (f : FmtA) (op : Int → Int → Int) (s : State) : Host.Outcome State Fault Refusal :=
  runWord { var := true } f.hdr (fun k => do
    roomFor k f.hdr
    let (vs, dst) ← operands k (plainOps [f.a, f.b]) (some (f.d, none))
    let v := intRes t false (fieldBits f.d) (op (intVal t (src vs 0)) (intVal t (src vs 1)))
    let _ ← issueVar k f.hdr.sc.toNat dst v 6 (some (divLatest t)) .time true none 0) s
def execIdiv (t : IType) (f : FmtA) (s : State) : Host.Outcome State Fault Refusal := divideWord t f divQ s
def execIrem (t : IType) (f : FmtA) (s : State) : Host.Outcome State Fault Refusal := divideWord t f divR s

/-! ### Compare, select, moves, extension, addresses (R61 to R65) -/

def execIcmp (t : IType) (f : FmtP) (s : State) : Host.Outcome State Fault Refusal :=
  predWord {} f.hdr [f.a, f.b] f.d (fun vs => icmpCond f.d.cond.toNat (intVal t (src vs 0)) (intVal t (src vs 1))) s
/-- isel: A when C, read at its own width, is nonzero; B otherwise. -/
def execIsel (f : FmtM) (s : State) : Host.Outcome State Fault Refusal :=
  pureWord { words := wordsOf f.mod } f.hdr ([f.a, f.b] ++ (f.mod.map (·.c)).toList) f.d 2 (fun vs =>
    if vs[2]?.elim 0 (·.zx) ≠ 0 then (src vs 0).zx else (src vs 1).zx) s
def execMov (f : FmtA) (s : State) : Host.Outcome State Fault Refusal := pureWord {} f.hdr [f.a] f.d 2 (fun vs => (src vs 0).zx) s
def execMovi (f : FmtL) (s : State) : Host.Outcome State Fault Refusal := pureWord {} f.hdr [] f.d 2 (fun _ => sextTo 30 64 f.imm.toNat) s
/-- The field length of sxt and zxt: the low six bits of B, 64 for 0. -/
def extLen (b : SVal) : Nat := if low 6 b.v = 0 then 64 else low 6 b.v
def execSxt (f : FmtA) (s : State) : Host.Outcome State Fault Refusal := pureWord {} f.hdr [f.a, f.b] f.d 2 (fun vs => sextTo (extLen (src vs 1)) 64 (src vs 0).zx) s
def execZxt (f : FmtA) (s : State) : Host.Outcome State Fault Refusal := pureWord {} f.hdr [f.a, f.b] f.d 2 (fun vs => low (extLen (src vs 1)) (src vs 0).zx) s
/-- lea: with A the special operand zero, the address of the word itself stands in its place (R65). -/
def isZeroOp : Operand → Bool
  | .special c _ => c == 0x18
  | _ => false
def execLea (f : FmtA) (s : State) : Host.Outcome State Fault Refusal :=
  fixedWord {} f.hdr [f.a, f.b] f.d 2 (fun _ vs => do
    let pc ← curPc
    return low 64 ((if isZeroOp f.a then pc.toNat else (src vs 0).zx) + (src vs 1).sx)) s

/-! ### Shifts and logic (R66) -/

/-- A shift word: w = Bits(D), the source prepared to w bits, the amount read as an unsigned number. -/
def shiftWord (f : FmtA) (op : Nat → Nat → Nat → Nat) (s : State) : Host.Outcome State Fault Refusal :=
  pureWord {} f.hdr [f.a, f.b] f.d 2 (fun vs => op (fieldBits f.d) ((src vs 0).ext (fieldBits f.d) false) (src vs 1).zx) s
def execShl (f : FmtA) (s : State) : Host.Outcome State Fault Refusal := shiftWord f (fun w a n => if w ≤ n then 0 else low w (a * 2 ^ n)) s
def execShr (f : FmtA) (s : State) : Host.Outcome State Fault Refusal := shiftWord f (fun w a n => if w ≤ n then 0 else a / 2 ^ n) s
def execSar (f : FmtA) (s : State) : Host.Outcome State Fault Refusal :=
  pureWord {} f.hdr [f.a, f.b] f.d 2 (fun vs =>
    let w := fieldBits f.d
    ofI w (toS w ((src vs 0).ext w true) / 2 ^ (min (src vs 1).zx w))) s
def execRot (f : FmtA) (s : State) : Host.Outcome State Fault Refusal :=
  shiftWord f (fun w a n => low w (a * 2 ^ (n % w)) + a / 2 ^ (w - n % w)) s
/-- A logical word. -/
def logicWord (f : FmtA) (op : Nat → Nat → Nat) (s : State) : Host.Outcome State Fault Refusal :=
  pureWord {} f.hdr [f.a, f.b] f.d 2 (fun vs => op ((src vs 0).ext (fieldBits f.d) false) ((src vs 1).ext (fieldBits f.d) false)) s
def execLand (f : FmtA) (s : State) : Host.Outcome State Fault Refusal := logicWord f Nat.land s
def execLor (f : FmtA) (s : State) : Host.Outcome State Fault Refusal := logicWord f Nat.lor s
def execLxor (f : FmtA) (s : State) : Host.Outcome State Fault Refusal := logicWord f Nat.xor s
def execLandn (f : FmtA) (s : State) : Host.Outcome State Fault Refusal := logicWord f (fun a b => Nat.land a (2 ^ fieldBits f.d - 1 - b)) s

/-! ### Counts and bit fields (R67 to R72) -/

/-- A one-source word over the Bits(A) bits of A. -/
def bitWord (f : FmtA) (op : Nat → Nat → Nat) (s : State) : Host.Outcome State Fault Refusal :=
  pureWord {} f.hdr [f.a] f.d 3 (fun vs => op (fieldBits f.a) (src vs 0).zx) s
def execPopc (f : FmtA) (s : State) : Host.Outcome State Fault Refusal := bitWord f popc s
def execClz (f : FmtA) (s : State) : Host.Outcome State Fault Refusal := bitWord f clz s
def execCtz (f : FmtA) (s : State) : Host.Outcome State Fault Refusal := bitWord f ctz s
def execBrev (f : FmtA) (s : State) : Host.Outcome State Fault Refusal := bitWord f brev s
/-- The field of x at a position, and its length within the 64 bits (R68). -/
def bfxLen (pos len : Nat) : Nat := min (min len 64) (64 - low 6 pos)
def bfxField (sgn : Bool) (x pos len : Nat) : Nat :=
  let k := bfxLen pos len
  let f := bits x (low 6 pos) k
  if sgn && 0 < k then sextTo k 64 f else f
def bfxWord (sgn : Bool) (f : FmtM) (s : State) : Host.Outcome State Fault Refusal :=
  pureWord { words := wordsOf f.mod } f.hdr ([f.a, f.b] ++ (f.mod.map (·.c)).toList) f.d 3 (fun vs =>
    bfxField sgn (src vs 0).zx (src vs 1).v (vs[2]?.elim 0 (·.zx))) s
def execBfxS (f : FmtM) (s : State) : Host.Outcome State Fault Refusal := bfxWord true f s
def execBfxZ (f : FmtM) (s : State) : Host.Outcome State Fault Refusal := bfxWord false f s
/-- (a ∧ m) ∨ (b ∧ ¬m) on 64 bits (R69). -/
def blend (a b m : Nat) : Nat := Nat.lor (Nat.land a m) (Nat.land b (2 ^ 64 - 1 - m))
def execBfi (f : FmtM) (s : State) : Host.Outcome State Fault Refusal :=
  pureWord { words := wordsOf f.mod } f.hdr ([f.a, f.b] ++ (f.mod.map (·.c)).toList) f.d 3 (fun vs =>
    blend (src vs 0).zx (src vs 1).zx (vs[2]?.elim 0 (·.zx))) s
/-- The lowest position at or above s, below 64, whose bit is v; 64 when there is none (R70). -/
def firstBit (x s : Nat) (v : Bool) : Nat := (((List.range 64).filter fun i => s ≤ i && bitAt x i == v).head?).getD 64
def execFfcs (f : FmtA) (s : State) : Host.Outcome State Fault Refusal :=
  pureWord {} f.hdr [f.a, f.b] f.d 3 (fun vs =>
    let x := (src vs 0).zx
    let p := low 6 (src vs 1).v
    firstBit x p false + 256 * firstBit x p true) s
/-- Clear bits set, lowest first, until the population reaches the target (R71). -/
def plsetGo (target : Nat) : List Nat → Nat → Nat
  | [], x => x
  | i :: r, x => plsetGo target r (if popc 64 x < target && !bitAt x i then x + 2 ^ i else x)
def plsetOf (x target : Nat) : Nat := plsetGo (min target 64) (List.range 64) x
def execPlset (f : FmtA) (s : State) : Host.Outcome State Fault Refusal := pureWord {} f.hdr [f.a, f.b] f.d 3 (fun vs => plsetOf (src vs 0).zx (src vs 1).zx) s
/-- The slices of a 64-bit word permuted (R72). -/
def permOf (a b : Nat) : Nat := ofDigits 4 ((List.range 16).map fun n => bits a (4 * bits b (4 * n) 4) 4)
def execPerm (f : FmtA) (s : State) : Host.Outcome State Fault Refusal := pureWord {} f.hdr [f.a, f.b] f.d 3 (fun vs => permOf (src vs 0).zx (src vs 1).zx) s

/-! ### Predicates (R73) -/

def execPset (f : FmtP) (s : State) : Host.Outcome State Fault Refusal := predWord {} f.hdr [f.a] f.d (fun vs => (src vs 0).zx != 0) s
/-- A word over two predicate sources. -/
def predOp (h : Hdr) (d : PDst) (p q : PSrc) (op : Bool → Bool → Bool) (s : State) : Host.Outcome State Fault Refusal :=
  runWord {} h (fun k => do
    let x ← readPSrc k p
    let y ← readPSrc k q
    coverPreds k d
    predResult k d (op x y) 2) s
def execPand (f : FmtQ) (s : State) : Host.Outcome State Fault Refusal := predOp f.hdr f.d f.a f.b and s
def execPor (f : FmtQ) (s : State) : Host.Outcome State Fault Refusal := predOp f.hdr f.d f.a f.b or s
def execPxor (f : FmtQ) (s : State) : Host.Outcome State Fault Refusal := predOp f.hdr f.d f.a f.b xor s
def execPmov (f : FmtR) (s : State) : Host.Outcome State Fault Refusal := predOp f.hdr f.d f.a f.a (fun x _ => x) s

end Sys2Proof.Machine
end

