-- ==== Sys2Proof/Machine/Atomic.lean ====
section
/-! DEFINITION. Indivisible operations on a word and sequentially consistent accesses: what they compute, where they are performed, their records (12, R234, R250 to R259). -/
namespace Sys2Proof.Machine

/-- The element format and width of a packed or plain float operation. -/
def atomFloat (t : FType) (op : Fmt → Nat → Nat → Nat) (m b : Nat) : Nat :=
  let f := ftFmt t
  let n := if f.width = 16 then 2 else 1
  ofDigits f.width (List.zipWith (op f) (digits f.width n m) (digits f.width n b))
/-- The new value of an n-bit word m under operand b and compare value or mask d; none when nothing is written (Table 12-2, R255). -/
def atomNew (op : AtomOp) (n m b d : Nat) : Option Nat :=
  match op with
  | .load => none
  | .store => some (low n b)
  | .add => some (low n (m + b))
  | .minS => some (minMaxI n true false m b)
  | .minZ => some (minMaxI n false false m b)
  | .maxS => some (minMaxI n true true m b)
  | .maxZ => some (minMaxI n false true m b)
  | .and => some (Nat.land m b)
  | .or => some (Nat.lor m b)
  | .xor => some (Nat.xor m b)
  | .exch => some b
  | .cas => if m = d then some b else none
  | .bfi => some (Nat.lor (Nat.land b d) (Nat.land m (2 ^ n - 1 - d)))
  | .ffcs => let fc := firstBit m (low 6 b) false; if fc = 64 then none else some (m + 2 ^ fc)
  | .plset => some (plsetOf m (low 7 b))
  | .addF t => some (atomFloat t (fun f => addF f 0) m b)
  | .minF t => some (atomFloat t (fun f => minMaxF f false) m b)
  | .maxF t => some (atomFloat t (fun f => minMaxF f true) m b)
/-- What the operation returns (R254). -/
def atomRet (op : AtomOp) (m b : Nat) : Nat :=
  match op with
  | .ffcs =>
    firstBit m (low 6 b) false + 256 * firstBit m (low 6 b) true
  | _ => m
/-- Whether an operation may write. -/
def AtomOp.writes : AtomOp → Bool
  | .load => false
  | _ => true
/-- Acquire and release of an order code (Table 12-1). -/
def ordAcq (o : Nat) : Bool := o == 1 || o == 3
def ordRel (o : Nat) : Bool := o == 2 || o == 3

/-- The operation performed on device memory under a record kind: holdable parts first, then the indivisible read and write (R253, R259). `acq` is the acquire scope of thread k, `rel` the release scope. It answers the returned value. -/
def atomDev (k i pa n : Nat) (op : AtomOp) (b d : Nat) (acq rel : Option Nat) : M Nat := do
  let line := lineOf pa
  if op.writes then
    snoopSectors pa n true
    homeOwn line
  else
    snoopSectors pa n false
  match acq with
  | some sc => let s ← get; acquireRec k (s.winRec line) sc
  | none => pure ()
  let w ← match rel with
    | some _ => takeSerial (keyCore k)
    | none => view fun s => (s.core (keyCore k)).clock
  let old ← homeRead pa n
  let m := ofLe old
  match atomNew op (8 * n) m b d with
  | none => pure ()
  | some v =>
    homeWrite pa (leBytes n v)
    modify fun s => s.recordWrite line (s.tagOf i) w (.sync rel.isSome (rel.getD 0))
  return atomRet op m b
/-- An acquire through the aperture reads the records of the mapped lines that it touches; other rows have none (R231, R239, R290). -/
def acquirePad (k i off n sc : Nat) : M Unit := do
  let s ← get
  forM' (s.mappedLines i off n) fun l => acquireRec k (s.winRec l) sc
/-- The operation performed on a team's scratchpad. -/
def atomPad (k i off n : Nat) (op : AtomOp) (b d : Nat) (acq rel : Option Nat) : M Nat := do
  match acq with
  | some sc => acquirePad k i off n sc
  | none => pure ()
  let w ← match rel with
    | some _ => takeSerial (keyCore k)
    | none => view fun s => (s.core (keyCore k)).clock
  let s ← get
  let m := ofLe (s.spadGet i off n)
  match atomNew op (8 * n) m b d with
  | none => pure ()
  | some v => modify fun s => (s.spadPut i off (leBytes n v)).padRecords i off n (s.tagOf i) w (.sync rel.isSome (rel.getD 0))
  return atomRet op m b
/-- Whether an SC access is an atomic that a cluster's service group is to perform. -/
def ScAccess.atGroup (a : ScAccess) (cluster : Nat) : Bool := !a.spad && !a.host && a.op != .load && a.op != .store && homeCluster a.pa == cluster
/-- Whether the request queue of a cluster's service group is full (R253). Every other atomic is performed when it arrives, so the queue holds SC requests alone. -/
def State.serviceFull (s : State) (cluster : Nat) : Bool := 256 ≤ (s.scHeld.filter (·.atGroup cluster)).length
/-- The source that an atomic of device memory with a return has, and one without: both are source 4 of Table 23-3, but only the first takes a return slot (R253). -/
def srcReturn : Nat := 4
def srcSilent : Nat := 20
/-- Whether the return slots of thread k's home lane at its core are all taken by atomics of device memory whose results are still due, be D a register or none (R128, R253). -/
def State.returnsFull (s : State) (k : Nat) : Bool :=
  let same (n : Nat) : Bool := keyCore n == keyCore k && n % 32 == k % 32
  let due (t : Thread) : Nat := (t.outst.filter fun o => o.src == srcReturn && o.err.isNone).length
  16 ≤ ((s.threads.filter fun e => same e.1).map fun e => due e.2).foldl (· + ·) 0
/-- Whether an SC atomic to some of the bytes stands in the request queue of their home's service group: requests to one address are performed in the order in which they came (R253). -/
def State.groupBehind (s : State) (pa n : Nat) : Bool :=
  s.scHeld.any fun a => a.atGroup (homeCluster pa) && a.pa < pa + n && pa < a.pa + a.n
/-- Whether an atomic of device memory waits at the queue port: it finds no return slot, the request queue of its home's service group is full, or the group is faulted; or, when it is no SC access itself, it waits behind one to its bytes (R253, R258). A mapped line's operations are performed at its rows. -/
def State.atomFull (s : State) (k acc pa n : Nat) (sc : Bool) : Bool :=
  (acc == 3 && s.returnsFull k) || ((s.mapOf (lineOf pa)).isNone
    && (s.serviceFull (homeCluster pa) || (s.cluster (homeCluster pa)).faulted || (!sc && s.groupBehind pa n)))
/-- The position of the present word of a thread's gang, and whether it is inside a run. -/
def curSpot : M (Word × Bool) := do
  let s ← get
  return match s.cur.bind (tget s.gangs) with
    | some g => (g.pc, !(g.fromHead && g.count == 0))
    | none => (0, false)
/-- An SC access handed to its home, with its stamp (R231, R234). -/
def holdSc (k : Nat) (h : Hdr) (dst : Dest) (va n : Nat) (p : Place) (op : AtomOp) (b d : Nat) (src' : Nat) : M Unit := do
  let st ← get
  if st.elemBehind k p n st.nextId then holdM else order k (op != .load) true
  let stamp ← takeSerial (keyCore k)
  let id ← newId
  let oid ← issueVar k h.sc.toNat dst 0 1 none (.sc id) false none src'
  let at' ← curSpot
  let s ← get
  let x : ScAccess := { id := id, clk := stamp, core := keyCore k, th := k, oid := oid, va := va,
                        pa := match p with | .spad off => off | .dev pa => pa | .hostm pa => pa,
                        team := (s.thr k).team, spad := (match p with | .spad _ => true | _ => false), host := (match p with | .hostm _ => true | _ => false),
                        n := n, op := op, data := b, cmp := d, reply := none, pos := at'.1, mid := at'.2, ports := (s.thr k).streams }
  set { s with scHeld := s.scHeld ++ [x] }
/-- The checks of an atomic's address: alignment, permission, device memory or aperture, mapping, its turn behind the thread's earlier accesses (R85, R252, R258). -/
def atomPlace (k va n acc : Nat) (rel sc : Bool) : M Place := do
  checkAlign va n
  let p ← locateAtom k va n acc
  ownOrder k p n
  order k rel sc
  let s ← get
  let i := (s.thr k).team
  let prot : Stop := .trap 12 0 (wd va) (det1Of acc 0 (s.ctxOf k) 0) 0 0
  match p with
  | .hostm _ => throw prot
  | .spad off => if s.controlBytes i off n || !s.padWriteOk i off n then throw prot else return p
  | .dev pa => if !s.mapWriteOk (lineOf pa) (keyCore k) (some i) then throw prot else return p
/-- The check of R243 at the service group of device memory, before the operation is performed (R258). The group of a mapped line is that of its core, not of its home (R290). -/
def atomCheck (k va : Nat) (chup : Bool) : Place → M Unit
  | .dev pa => raceCheck k va pa true chup 3
  | _ => pure ()
/-- An atomic or reduction by thread k under an order code (R250 to R258). -/
def atomAt (k : Nat) (h : Hdr) (dst : Dest) (va n acc ord : Nat) (op : AtomOp) (b d : Nat) : M Unit := do
  let p ← atomPlace k va n acc (ordRel ord || ord == 4) (ord == 4)
  let s ← get
  let i := (s.thr k).team
  match p with
  | .dev pa => if s.atomFull k acc pa n (ord == 4) then holdM else pure ()
  | _ => pure ()
  let from' := match p with | .dev _ => (if acc = 3 then srcReturn else srcSilent) | _ => 0
  atomCheck k va false p
  if ord = 4 then holdSc k h dst va n p op b d from'
  else
    let sc := match p with | .dev _ => 5 | _ => 1
    let acq := if ordAcq ord then some sc else none
    let rel := if ordRel ord then some sc else none
    let v ← match p with
      | .dev pa => atomDev k i pa n op b d acq rel
      | .spad off => atomPad k i off n op b d acq rel
      | .hostm _ => pure 0
    let _ ← issueVar k h.sc.toNat dst v 1 none .time true none from'
    pure ()
/-- A source brought to N bits, an immediate by sign (R254). In a packed float operation the special operand sub gives each element its number (R20, R255). -/
def atomSrc (op : AtomOp) (n : Nat) (x : SVal) : Nat :=
  match op with
  | .addF t | .minF t | .maxF t =>
    let f := ftFmt t
    if x.sub && f.width < n then ofDigits f.width ((List.range (n / f.width)).map fun (i : Nat) => intToF f i) else x.ext n false
  | _ => x.ext n false
/-- The integer atomics with return; cas and bfi also read D (R254). -/
def atmWord (op : AtomOp) (readsD : Bool) (f : FmtA) (s : State) : Host.Outcome State Fault Refusal :=
  runWord { var := true } f.hdr (fun k => do
    roomFor k f.hdr
    let (vs, dst) ← operandsX k [addrOp f.a, plainOp f.b] (some (plainOp f.d)) readsD fun _ => pure ()
    let n := fieldBits f.d
    atomAt k f.hdr dst (src vs 0).zx (n / 8) 3 (fieldCode f.a) op (atomSrc op n (src vs 1)) (src vs 2).zx) s
def execAtmAdd (f : FmtA) (s : State) : Host.Outcome State Fault Refusal := atmWord .add false f s
def execAtmMinS (f : FmtA) (s : State) : Host.Outcome State Fault Refusal := atmWord .minS false f s
def execAtmMinZ (f : FmtA) (s : State) : Host.Outcome State Fault Refusal := atmWord .minZ false f s
def execAtmMaxS (f : FmtA) (s : State) : Host.Outcome State Fault Refusal := atmWord .maxS false f s
def execAtmMaxZ (f : FmtA) (s : State) : Host.Outcome State Fault Refusal := atmWord .maxZ false f s
def execAtmAnd (f : FmtA) (s : State) : Host.Outcome State Fault Refusal := atmWord .and false f s
def execAtmOr (f : FmtA) (s : State) : Host.Outcome State Fault Refusal := atmWord .or false f s
def execAtmXor (f : FmtA) (s : State) : Host.Outcome State Fault Refusal := atmWord .xor false f s
def execAtmExch (f : FmtA) (s : State) : Host.Outcome State Fault Refusal := atmWord .exch false f s
def execAtmCas (f : FmtA) (s : State) : Host.Outcome State Fault Refusal := atmWord .cas true f s
def execAtmBfi (f : FmtA) (s : State) : Host.Outcome State Fault Refusal := atmWord .bfi true f s
def execAtmFfcs (f : FmtA) (s : State) : Host.Outcome State Fault Refusal := atmWord .ffcs false f s
def execAtmPlset (f : FmtA) (s : State) : Host.Outcome State Fault Refusal := atmWord .plset false f s
/-- atm.cas128: D and B each name two quads (R256). -/
def execAtmCas128 (f : FmtA) (s : State) : Host.Outcome State Fault Refusal :=
  runWord { var := true } f.hdr (fun k => do
    roomFor k f.hdr
    let (vs, dst) ← operandsRw k [addrOp f.a, descOp f.b 2] (descOp f.d 2)
    atomAt k f.hdr dst (src vs 0).zx 16 3 (fieldCode f.a) .cas (src vs 1).v (src vs 2).v) s
def execAtmAddFloat (t : FType) (f : FmtA) (s : State) : Host.Outcome State Fault Refusal := atmWord (.addF t) false f s
def execAtmMinFloat (t : FType) (f : FmtA) (s : State) : Host.Outcome State Fault Refusal := atmWord (.minF t) false f s
def execAtmMaxFloat (t : FType) (f : FmtA) (s : State) : Host.Outcome State Fault Refusal := atmWord (.maxF t) false f s
/-- Reductions: N is Bits(B), or the width code of D beside an immediate B; nothing is returned (R257). -/
def redWord (op : AtomOp) (f : FmtA) (s : State) : Host.Outcome State Fault Refusal :=
  runWord { var := true } f.hdr (fun k => do
    roomFor k f.hdr
    let (vs, _) ← operands k [addrOp f.a, plainOp f.b] none
    let n := if isImm f.b then fieldBits f.d else fieldBits f.b
    atomAt k f.hdr .nowhere (src vs 0).zx (n / 8) 2 (fieldCode f.a) op (atomSrc op n (src vs 1)) 0) s
def execRedAdd (f : FmtA) (s : State) : Host.Outcome State Fault Refusal := redWord .add f s
def execRedMinS (f : FmtA) (s : State) : Host.Outcome State Fault Refusal := redWord .minS f s
def execRedMinZ (f : FmtA) (s : State) : Host.Outcome State Fault Refusal := redWord .minZ f s
def execRedMaxS (f : FmtA) (s : State) : Host.Outcome State Fault Refusal := redWord .maxS f s
def execRedMaxZ (f : FmtA) (s : State) : Host.Outcome State Fault Refusal := redWord .maxZ f s
def execRedAnd (f : FmtA) (s : State) : Host.Outcome State Fault Refusal := redWord .and f s
def execRedOr (f : FmtA) (s : State) : Host.Outcome State Fault Refusal := redWord .or f s
def execRedXor (f : FmtA) (s : State) : Host.Outcome State Fault Refusal := redWord .xor f s
def execRedAddFloat (t : FType) (f : FmtA) (s : State) : Host.Outcome State Fault Refusal := redWord (.addF t) f s

/-! ### Churn (R260 to R263) -/

/-- A core's partial with one element combined. -/
def State.addPartial (s : State) (c line off : Nat) (g : ChTag) (b : Bytes) : State :=
  match s.l1Of c line with
  | some (.c g' sg d) =>
    let x := leBytes b.length (churnBits g (8 * b.length) (ofLe (cut d off b.length)) (ofLe b))
    s.setL1 c line (some (.c g' sg (patch d off x)))
  | _ => s
/-- The error word of an add.q32 whose scale is refused (R262). -/
def scaleError : Nat := 0x3000
/-- The scale operand of add.q32, none outside −64 to 63. -/
def scaleOf (x : SVal) : Option Int := let v := toS x.w x.v; if -64 ≤ v && v ≤ 63 then some v else none
/-- chup: the element goes into the issuing core's partial, or straight to the scratchpad bytes (R260 to R262, R286). -/
def execChup (g : ChTag) (f : FmtA) (s : State) : Host.Outcome State Fault Refusal :=
  runWord { var := true } f.hdr (fun k => do
    roomFor k f.hdr
    let q := g = .addQ32
    let (vs, _) ← operands k ([addrOp f.a, plainOp f.b] ++ (if q then [plainOp f.d] else [])) none
    let n := tagBits g / 8
    let va := (src vs 0).zx
    let p ← atomPlace k va n 2 false false
    atomCheck k va true p
    let c := keyCore k
    let sg := if q then scaleOf (src vs 2) else some 0
    let bits' (sg : Int) : Bytes := leBytes n (if q then q32Of (decF fmtF64 (low 64 (src vs 1).v)) sg 0 else (src vs 1).zx)
    match sg with
    | none => laterErr k f.hdr .nowhere 0 scaleError 4
    | some sg =>
      let st ← get
      let i := (st.thr k).team
      let w := (st.core c).clock
      let apply (old : Bytes) : Bytes := leBytes n (churnBits g (8 * n) (ofLe old) (ofLe (bits' sg)))
      match p with
      | .hostm _ => pure ()
      | .spad off =>
        modify fun s => (s.spadPut i off (apply (s.spadGet i off n))).padRecords i off n (s.tagOf i) w .churn
        later k f.hdr .nowhere 0
      | .dev pa =>
        let line := lineOf pa
        match st.mapOf line with
        | some (o, off) =>
          modify fun s => (s.spadPut o (off + pa % 128) (apply (s.spadGet o (off + pa % 128) n))).recordWrite line (s.tagOf i) w .churn
          later k f.hdr .nowhere 0
        | none =>
          let ok ← joinLine c line g sg
          if ok then
            modify fun s => (s.addPartial c line (pa % 128) g (bits' sg)).recordWrite line (s.tagOf i) w .churn
            later k f.hdr .nowhere 0
          else laterErr k f.hdr .nowhere 0 scaleError 4) s
/-- chfl: the line merged, and out of the Churn state (R263). -/
def execChfl (f : FmtA) (s : State) : Host.Outcome State Fault Refusal :=
  runWord { var := true } f.hdr (fun k => do
    roomFor k f.hdr
    let (vs, dst) ← operands k [addrOp f.a] (some (plainOp f.d))
    let va := (src vs 0).zx
    let p ← locateAtom k va 1 1
    let s ← get
    match p with
    | .hostm _ => throw (.trap 12 0 (wd va) (det1Of 1 0 (s.ctxOf k) 0) 0 0)
    | .spad _ => later k f.hdr dst 1
    | .dev pa =>
      match (s.unbusy (lineOf pa)).dirOf (lineOf pa) with
      | .churn _ _ _ =>
        modify fun s => s.unbusy (lineOf pa)
        clearPeers (lineOf pa)
        modify fun s => s.mergeLine (lineOf pa) true
        later k f.hdr dst 0
      | _ => later k f.hdr dst 1) s

end Sys2Proof.Machine
end

