-- ==== Sys2Proof/Machine/EngineFormats.lean ====
section
/-! DEFINITION. What the engines compute: operand formats and self-described blocks, matrix groups, accumulator values in memory, quantised tiles (08, R164 to R183, R192 to R203). -/
namespace Sys2Proof.Machine

/-! ### Operand formats (R172 to R176, R192) -/

/-- The format code names self-described blocks. -/
def described (c : Nat) : Bool := 0x80 ≤ c
/-- Bits per element of a format code of Table 09-2. -/
def codeWidth : Nat → Option Nat
  | 0x01 => some 64
  | 0x02 => some 32
  | 0x11 | 0x12 | 0x81 => some 16
  | 0x21 | 0x22 | 0x23 | 0x24 | 0x82 => some 8
  | 0x31 | 0x32 | 0x83 => some 4
  | _ => none
/-- Eight times the K per cycle of a format code (Table 09-2). -/
def codeRate (c : Nat) : Nat :=
  if c = 0x24 then 64 else match codeWidth c with
    | some 64 => 1
    | some 16 => 16
    | some 8 => 32
    | _ => 64
/-- The value of an element of a plain format (R164 to R168). -/
def codeVal (c x : Nat) : FVal :=
  match c with
  | 0x01 => decF fmtF64 x
  | 0x02 => decF fmtF32 x
  | 0x11 => decF fmtBf16 x
  | 0x12 => decF fmtF16 x
  | 0x21 => decF fmtE4m3 x
  | 0x22 => decF fmtE5m2 x
  | 0x23 => FVal.ofInt (toS 8 x)
  | 0x24 => decDs8 x
  | 0x31 => decF fmtE2m1 x
  | _ => FVal.ofInt (toS 4 x)
/-- Whether a block of a class is malformed (R173, R175). -/
def blockBad (cls b : Nat) : Bool :=
  let f := low 8 b
  !([0x11, 0x12, 0x21, 0x22, 0x23, 0x24, 0x31, 0x32].contains f) || f / 16 != cls
/-- Elements of a block of width w. -/
def blockElems (w : Nat) : Nat := 496 / w
/-- Element i of a block: its scaled value (R174); +0 in a malformed block. -/
def blockVal (w cls b i : Nat) : FVal :=
  let scale := bits b 8 8
  if blockBad cls b then .fin false 0 0
  else if scale = 0xFF then .nan
  else (codeVal (low 8 b) (bits b (16 + w * i) w)).scale ((scale : Int) - 127)
/-- The 8 positions of group g of a row at an address, of K in all, and whether a malformed block was met. -/
def readGroup (i code base g kk : Nat) : M (Except EngFail (List FVal × Bool)) := do
  let w := (codeWidth code).getD 16
  if described code then
    let per := blockElems w
    let ks := (List.range 8).filterMap fun t => if 8 * g + t < kk then some (8 * g + t) else none
    let b0 := 8 * g / per
    let b1 := (8 * g + ks.length - 1) / per
    let r0 ← engReadSpan i (low 64 (base + 64 * b0)) 64
    match r0 with
    | .error e => return .error e
    | .ok x0 =>
      let r1 ← if b1 = b0 then pure (.ok x0) else engReadSpan i (low 64 (base + 64 * b1)) 64
      match r1 with
      | .error e => return .error e
      | .ok x1 =>
        let cls := low 4 code
        let blk (k : Nat) : Nat := if k / per = b0 then ofLe x0 else ofLe x1
        return .ok (ks.map fun k => blockVal w cls (blk k) (k % per), blockBad cls (ofLe x0) || blockBad cls (ofLe x1))
  else
    let r ← engReadSpan i (low 64 (base + g * w)) w
    match r with
    | .error e => return .error e
    | .ok b => return .ok ((digits w 8 (ofLe b)).map (codeVal code), false)
/-- The same positions of n rows, a stride apart. -/
def readGroups (i code stride g kk : Nat) : Nat → Nat → M (Except EngFail (List (List FVal) × Bool))
  | _, 0 => return .ok ([], false)
  | base, n + 1 => do
    let r ← readGroup i code base g kk
    match r with
    | .error e => return .error e
    | .ok (x, m) =>
      let q ← readGroups i code stride g kk (low 64 (base + stride)) n
      match q with
      | .error e => return .error e
      | .ok (xs, ms) => return .ok (x :: xs, m || ms)

/-! ### Accumulation (R182, R183) -/

/-- The exact sum of the 8 products of a group, positions past K giving +0. -/
def groupSum (a b : List FVal) : FVal :=
  let p := List.zipWith FVal.mul a b
  let z : FVal := .fin false 0 0
  let q (t : Nat) : FVal := p.getD t z
  let add := FVal.add false
  add (add (add (q 0) (q 1)) (add (q 2) (q 3))) (add (add (q 4) (q 5)) (add (q 6) (q 7)))
/-- The format of a float accumulator type. -/
def accFmt : AccType → Fmt
  | .f64 => fmtF64
  | _ => fmtF32
/-- An accumulator pattern after one group. -/
def addGroup (ty : AccType) (acc : Nat) (s : FVal) : Nat :=
  match ty with
  | .s32 => low 32 (acc + ofI 32 (roundInt 1 0 s))
  | _ => roundF (accFmt ty) 0 0 false ((decF (accFmt ty) acc).add false s)
/-- All 128 × 128 accumulators after one group. -/
def addTile (ty : AccType) (vals : Tbl Nat) (a b : List (List FVal)) : Tbl Nat :=
  (a.zipIdx.flatMap fun r => b.zipIdx.map fun c =>
    (128 * r.2 + c.2, addGroup ty (dget 0 vals (128 * r.2 + c.2)) (groupSum r.1 c.1))).filter fun e => e.2 != 0

/-! ### Accumulators in memory (R199) -/

/-- Bytes of an element of macc. -/
def maccBytes (fmt : Nat) (ty : AccType) : Nat := if fmt ≠ 0 then 2 else match ty with | .f64 => 8 | _ => 4
def maccFmt (fmt : Nat) : Fmt := if fmt = 1 then fmtBf16 else fmtF16
/-- An accumulator pattern as macc stores it, and the reverse. -/
def maccOut (fmt : Nat) (x : Nat) : Nat := if fmt = 0 then x else roundF (maccFmt fmt) 0 0 false (decF fmtF32 x)
def maccIn (fmt : Nat) (x : Nat) : Nat := if fmt = 0 then x else roundF fmtF32 0 0 false (decF (maccFmt fmt) x)

/-! ### Quantised tiles (R177 to R180, R202, R203) -/

/-- Width of a tile format. -/
def tileWidth (tf : Nat) : Nat := if tf = 0x31 || tf = 0x32 then 4 else 8
def tileFmtOk (tf : Nat) : Bool := [0x21, 0x22, 0x23, 0x24, 0x31, 0x32].contains tf
def srcFmtOk (sf : Nat) : Bool := [0x02, 0x11, 0x12].contains sf
def srcFmt (sf : Nat) : Fmt := if sf = 0x02 then fmtF32 else if sf = 0x11 then fmtBf16 else fmtF16
/-- Bound(tf) (R202). -/
def tileBound (tf : Nat) : Nat :=
  match tf with
  | 0x21 => 448
  | 0x22 => 57344
  | 0x31 => 6
  | 0x23 => 127
  | 0x32 => 7
  | _ => 2
/-- The least scale that brings a magnitude within the bound (R202). -/
def chooseScale (m : FVal) (tf : Nat) : Nat :=
  ((List.range 255).find? fun (e : Nat) => !(FVal.ofInt (tileBound tf)).lt (m.scale (127 - Int.ofNat e))).getD 254
/-- The values of ds8 in units of 2^−7. -/
def ds8Values : List Int := (List.range 256).map ds8Units
/-- The code that stands for a ds8 value: 0x08 for zero, else one of its codes, a free choice (R168, R171; log entry 13). -/
def ds8Code (u : Int) : Nat :=
  if u = 0 then 8
  else
    let l := (List.range 256).filter fun c => ds8Units c == u
    l.getD (Config.ds8Code u % l.length) 0
/-- A finite value rounded among the ds8 values, in units (R171, Table 08-3). -/
def ds8Round (mode r : Nat) (neg : Bool) (m : Nat) (e : Int) : Int :=
  let k := min (e + 7) 0
  let den : Int := 2 ^ (-k).toNat
  let x : Int := (if neg then -1 else 1) * (m * 2 ^ (e + 7 - k).toNat : Nat)
  if 256 * den ≤ x then 256 else if x ≤ -256 * den then -256
  else
    let lo := (ds8Values.filter fun u => u * den ≤ x).foldl max (-256)
    let hi := (ds8Values.filter fun u => x ≤ u * den).foldl min 256
    if lo = hi then lo
    else
      let up : Bool := match mode with
        | 1 => neg
        | 2 => true
        | 3 => false
        | 5 => decide ((r : Int) < (x - lo * den) * 2 ^ 24 / ((hi - lo) * den))
        | _ => if 2 * x = (lo + hi) * den then (if mode = 4 then !neg else Config.ds8TieUp lo) else decide ((lo + hi) * den < 2 * x)
      if up then hi else lo
/-- One scaled element of cvq: its pattern, and whether it counts as saturated (R178, R202). ds8 has no row in Table 04-8: an infinity becomes 2 of its sign, and any finite magnitude above 2 is brought to 2 in every mode; both count in sat (DESIGN CHOICE, log entry 13). -/
def quantElem (tf mode r : Nat) (v : FVal) : Nat × Bool :=
  let int (n : Nat) : Nat × Bool := match v with
    | .nan => (0, true)
    | .inf s => (satTo n true (if s then -256 else 256), true)
    | v => (satTo n true (roundInt mode r v), clampI (-(2 ^ (n - 1))) (2 ^ (n - 1) - 1) (roundInt mode r v) != roundInt mode r v)
  let flt (f : Fmt) : Nat × Bool := (roundF f mode r true v, f.replaced mode v)
  match tf with
  | 0x21 => flt fmtE4m3
  | 0x22 => flt fmtE5m2
  | 0x31 => flt fmtE2m1
  | 0x23 => int 8
  | 0x32 => int 4
  | _ => match v with
    | .nan => (low 8 Config.ds8Nan, true)
    | .inf s => (ds8Code (if s then -256 else 256), true)
    | .fin s m e => (ds8Code (ds8Round mode r s m e), (FVal.ofInt 2).lt (FVal.fin false m e))
/-- Elements quantised in order with the command's own generator in mode 5. -/
def quantAll (tf mode : Nat) (k : Int) : Nat → List FVal → List (Nat × Bool)
  | _, [] => []
  | g, v :: t =>
    let d := if mode = 5 then drawNext g else (g, 0)
    quantElem tf mode d.2 (v.scale k) :: quantAll tf mode k d.1 t
/-- The trailer of a tile over its body and padding (Table 08-6). -/
def tileTrailer (body : Bytes) (rows cols tf scale maxabs sat : Nat) : Bytes :=
  let t := leBytes 28 (scale * 2 ^ 112 + tf * 2 ^ 120 + cols * 2 ^ 128 + rows * 2 ^ 144 + maxabs * 2 ^ 160 + sat * 2 ^ 192)
  t ++ leBytes 4 (crc32c (body ++ t))
/-- Bytes up to the trailer of a tile of n body bytes. -/
def tilePad (n : Nat) : Nat := 32 * ((n + 31) / 32)
/-- The tile that cvq writes, and whether some element was saturated (R202). -/
def quantTile (rows cols tf sf scale mode seed : Nat) (src : List Nat) : Bytes × Bool :=
  let vs := src.map (decF (srcFmt sf))
  let m := (vs.filter FVal.isFin).foldl (fun a v => if a.lt v.abs then v.abs else a) (.fin false 0 0)
  let e := if scale = 0xFF then chooseScale m tf else scale
  let q := quantAll tf mode (127 - (e : Int)) (seedOf ((seed + 1) * golden)) vs
  let sat := (q.filter (·.2)).length
  let w := tileWidth tf
  let n := rows * cols * w / 8
  let body := leBytes n (ofDigits w (q.map (·.1))) ++ List.replicate (tilePad n - n) 0
  (body ++ tileTrailer body rows cols tf e (roundF fmtF32 2 0 false m) sat, sat != 0)
/-- Whether a tile passes the check of R179. -/
def tileOk (rows cols tf : Nat) (b : Bytes) : Bool :=
  let p := b.length - 32
  let t := ofLe (b.drop p)
  bits t 224 32 == crc32c (b.take (p + 28)) && bits t 144 16 == rows && bits t 128 16 == cols && bits t 120 8 == tf
    && bits t 112 8 != 0xFF && bits t 0 112 == 0
/-- The destination bytes of cvd (R203): every element +0 when the check fails. -/
def dequantTile (rows cols tf df : Nat) (b : Bytes) : Bytes :=
  let f := srcFmt df
  let n := rows * cols
  let scale := bits (ofLe (b.drop (b.length - 32))) 112 8
  let es := if tileOk rows cols tf b then
      (digits (tileWidth tf) n (ofLe b)).map fun x => roundF f 0 0 false ((codeVal tf x).scale ((scale : Int) - 127))
    else List.replicate n 0
  leBytes (n * f.width / 8) (ofDigits f.width es)

end Sys2Proof.Machine
end

