-- ==== Sys2Proof/Machine/Engines.lean ====
section
/-! DEFINITION. Words that hand work to the matrix arrays, the copy engine, the converters, the ring unit, the carabiner and the guest queues (09, R185 to R217). -/
namespace Sys2Proof.Machine

/-- A command joins its queue; its counter falls with its completion (R187, R188). -/
def acceptCmd (k : Nat) (h : Hdr) (d : Dest) (kind : CmdKind) (q : EngineQueue) (quads : List Nat) (bind : Option Nat) (mode : Nat) : M Unit := do
  orderCommand k
  let id ← newId
  let _ ← issueVar k h.sc.toNat d 0 1 none (.command id) false none (queueBit q)
  let s ← get
  let c : Cmd := { id := id, queue := q, th := k, kind := kind, quads := quads, bind := bind, mode := mode, started := false,
                   doneAt := 0, piece := 0, data := [], flags := 0, stall := none, stop := false, status := none }
  modTm (s.thr k).team fun t => { t with queues := t.queues ++ [c] }
  modify fun s => s.owe (.team (s.thr k).team)
/-- The immediate of a word as a number. -/
def immNat (o : Operand) : Nat := ((immOf o).getD 0).toNat
def matrixMeta : Meta := { var := true, roles := matRoles }
def copyMeta : Meta := { var := true, roles := copyRoles }

/-! ### Matrix (R193 to R200) -/

/-- mma: a descriptor of 4 quads; only a group that holds the carabiner (R193, R194). -/
def execMma (f : FmtA) (s : State) : Host.Outcome State Fault Refusal :=
  runWord { matrixMeta with car := true } f.hdr (fun k => do
    roomFor k f.hdr
    let (vs, dst) ← operands k [descOp f.a 4] (some (plainOp f.d))
    acceptCmd k f.hdr dst .mma .matrix (digits 64 4 (src vs 0).v) none 0) s
/-- mwait: waits for the commands on a slot, and may stop them (R197). -/
def execMwait (f : FmtA) (s : State) : Host.Outcome State Fault Refusal :=
  runWord matrixMeta f.hdr (fun k => do
    roomFor k f.hdr
    let (_, dst) ← operands k [] (some (plainOp f.d))
    let slot := low 4 (immNat f.b)
    let s ← get
    let i := (s.thr k).team
    if bitAt (immNat f.b) 4 then
      modTm i fun t => { t with queues := t.queues.map fun c => if c.slot = some slot && c.kind == .mma then { c with stop := true } else c }
    else pure ()
    let last := (tget (s.team i).slotLast slot).getD 0
    if (s.team i).queues.any fun c => c.slot = some slot then laterWait k f.hdr dst last (.slotDone slot s.nextId)
    else later k f.hdr dst last) s
/-- The progress word of a slot as it stands at a tick: a group that retires in that cycle is not yet counted (R198, Table 09-4). -/
def AccSlot.word (a : AccSlot) (now : Nat) : Nat :=
  a.state * 2 ^ 60 + low 16 a.groups * 2 ^ 32 + low 16 (if a.at' = now then a.before else a.progress)
def execMrow (f : FmtA) (s : State) : Host.Outcome State Fault Refusal :=
  fixedWord { roles := matRoles } f.hdr [] f.d 4 (fun k _ => do
    let s ← get
    return (dget AccSlot.empty (s.team (s.thr k).team).acc (immNat f.b)).word s.now) s
def execMacc (f : FmtA) (s : State) : Host.Outcome State Fault Refusal :=
  runWord matrixMeta f.hdr (fun k => do
    roomFor k f.hdr
    let (vs, dst) ← operands k (plainOps [f.a, f.b]) (some (plainOp f.d))
    acceptCmd k f.hdr dst .macc .matrix [(src vs 0).zx, (src vs 1).zx] none 0) s
def execMzero (f : FmtA) (s : State) : Host.Outcome State Fault Refusal :=
  runWord matrixMeta f.hdr (fun k => do
    roomFor k f.hdr
    let (_, dst) ← operands k [] (some (plainOp f.d))
    acceptCmd k f.hdr dst .mzero .matrix [immNat f.b] none 0) s

/-! ### Copies and converters (R201 to R203) -/

/-- A command with a descriptor of n quads and a stage binding, which 0x20C0 leaves out. -/
def descWord (kind : CmdKind) (q : EngineQueue) (n : Nat) (f : FmtA) (k : Nat) : M Unit := do
  roomFor k f.hdr
  let b := if unused f.b then [] else [plainOp f.b]
  let (vs, dst) ← operands k (descOp f.a n :: b) (some (plainOp f.d))
  let t ← getT k
  acceptCmd k f.hdr dst kind q (digits 64 n (src vs 0).v) (if unused f.b then none else some (src vs 1).zx) t.fmode
def execCpy (f : FmtA) (s : State) : Host.Outcome State Fault Refusal := runWord copyMeta f.hdr (descWord .cpy .copy 3 f) s
def execCpy2d (f : FmtA) (s : State) : Host.Outcome State Fault Refusal := runWord copyMeta f.hdr (descWord .cpy2d .copy 4 f) s
def execCpyg (f : FmtA) (s : State) : Host.Outcome State Fault Refusal := runWord copyMeta f.hdr (descWord .cpyg .copy 5 f) s
def execCvq (f : FmtA) (s : State) : Host.Outcome State Fault Refusal := runWord copyMeta f.hdr (descWord .cvq .converter 4 f) s
def execCvd (f : FmtA) (s : State) : Host.Outcome State Fault Refusal := runWord copyMeta f.hdr (descWord .cvd .converter 4 f) s

/-! ### Pitch rings (R204 to R210) -/

/-- The ring and stage that a binding names; none when it is bad (R204). -/
def State.bindOf (s : State) (i v : Nat) : Option (Nat × Nat × Stage) :=
  if bits v 20 44 ≠ 0 || bits v 4 2 ≠ 0 then none
  else
    let h := bits v 6 14 * 64
    match tget (s.team i).rings h with
    | none => none
    | some r => (r.stages[bits v 0 4]?).map fun st => (h, bits v 0 4, st)
/-- Whether two ranges of bytes meet. -/
def rangesMeet (a n b m : Nat) : Bool := a < b + m && b < a + n
/-- Whether pinit's descriptor is one that it accepts (R207). -/
def pinitOk (q0 q1 spad groups : Nat) : Bool :=
  let h := bits q0 0 20
  let n := bits q0 27 5
  let target := bits q1 20 21
  let base := bits q1 0 20
  let stride := 128 * ((target + 127) / 128)
  2 ≤ n && n ≤ 16 && 1 ≤ target && target ≤ 2 ^ 20 && h % 64 == 0 && base % 128 == 0
    && h + 64 + 16 * n ≤ spad && base + n * stride ≤ spad && !rangesMeet h (64 + 16 * n) base (n * stride)
    && bits q0 32 32 < 2 ^ groups && bits q0 20 7 == 0 && bits q1 41 23 == 0
def execPinit (f : FmtA) (s : State) : Host.Outcome State Fault Refusal :=
  runWord varMeta f.hdr (fun k => do
    roomFor k f.hdr
    let (vs, dst) ← operands k [descOp f.a 2] (some (plainOp f.d))
    let q0 := quadOf (src vs 0) 0
    let q1 := quadOf (src vs 0) 1
    let s ← get
    let i := (s.thr k).team
    let t := s.team i
    if !pinitOk q0 q1 t.spadSize t.groups.length then laterErr k f.hdr dst 0x3000 0x3000 1
    else
      let id ← newId
      let _ ← issueVar k f.hdr.sc.toNat dst 0 1 none (.command id) false none 1
      let p : PInit := { id := id, th := k, h := bits q0 0 20, base := bits q1 0 20, target := bits q1 20 21, stages := bits q0 27 5, mask := bits q0 32 32 }
      modTm i fun t => { t with inits := t.inits ++ [p] }) s
def execPwait (f : FmtA) (s : State) : Host.Outcome State Fault Refusal :=
  runWord varMeta f.hdr (fun k => do
    roomFor k f.hdr
    let (vs, dst) ← operands k [plainOp f.a] (some (plainOp f.d))
    let s ← get
    let m := immNat f.b
    match s.bindOf (s.thr k).team (src vs 0).zx with
    | none => later k f.hdr dst 4
    | some (h, n, st) =>
      match st.waitStatus (low 1 m) (bitAt m 1) with
      | some v => later k f.hdr dst v
      | none => if bitAt m 2 then later k f.hdr dst 1 else laterWait k f.hdr dst 0 (.stage h n (low 1 m) (bitAt m 1))) s
/-- A stage after prel by group g, and the status (R206, R209): release, leave, join. -/
def Stage.prel (st : Stage) (mode g : Nat) : Stage × Nat :=
  match mode with
  | 0 => if st.state = 2 then ({ st with state := if st.registry = 0 then 4 else 0, count := 0 }, 0) else (st, 1)
  | 1 => (st.leave g, if st.state = 3 then 2 else if st.state = 4 then 3 else 0)
  | _ => if st.state = 3 then (st, 2) else if st.state = 4 then (st, 3) else ({ st with registry := Nat.lor st.registry (2 ^ g) }, 0)
def prelWord (mode : Nat) (f : FmtA) (k : Nat) : M Unit := do
  roomFor k f.hdr
  let (vs, dst) ← operands k [plainOp f.a] (some (plainOp f.d))
  let s ← get
  match s.bindOf (s.thr k).team (src vs 0).zx with
  | none => later k f.hdr dst 4
  | some (h, n, st) =>
    let r := st.prel mode (s.thr k).grp
    if mode = 0 then orderSignal k else pure ()
    modify fun s => s.modStage (s.thr k).team h n fun _ => r.1
    later k f.hdr dst r.2
def execPrelRelease (f : FmtA) (s : State) : Host.Outcome State Fault Refusal := runWord varMeta f.hdr (prelWord 0 f) s
def execPrelLeave (f : FmtA) (s : State) : Host.Outcome State Fault Refusal := runWord varMeta f.hdr (prelWord 1 f) s
def execPrelJoin (f : FmtA) (s : State) : Host.Outcome State Fault Refusal := runWord varMeta f.hdr (prelWord 2 f) s
/-- The word that pphase gives for a stage (R210). -/
def Stage.word (st : Stage) : Nat := low 32 st.count * 2 ^ 32 + low 8 st.reason * 2 ^ 16 + low 8 st.state * 2 ^ 8 + low 1 st.phase
def execPphase (f : FmtA) (s : State) : Host.Outcome State Fault Refusal :=
  fixedWord {} f.hdr [f.a] f.d 4 (fun k vs => do
    let s ← get
    return match s.bindOf (s.thr k).team (src vs 0).zx with
      | none => 0xFF00
      | some (_, _, st) => st.word) s

/-! ### Carabiner (R213, R214) -/

def execCbpass (f : FmtA) (s : State) : Host.Outcome State Fault Refusal :=
  runWord matrixMeta f.hdr (fun k => do
    roomFor k f.hdr
    let (_, dst) ← operands k [] (some (plainOp f.d))
    let s ← get
    let i := (s.thr k).team
    let g := (s.thr k).grp
    let t := s.team i
    let target : Nat := match immOf f.b with
      | some v => if v < 0 then (t.carNext g).getD g else v.toNat
      | none => g
    if !t.pair then later k f.hdr dst 3
    else if t.carabiner ≠ some g then later k f.hdr dst 1
    else if !(t.carList.contains target && (t.groups[target]?.elim false (·.live))) then later k f.hdr dst 2
    else
      orderSignal k
      modify fun s => if target = g then s else s.giveCarabiner i (some target)
      later k f.hdr dst 0) s
def execCbwait (f : FmtA) (s : State) : Host.Outcome State Fault Refusal :=
  runWord matrixMeta f.hdr (fun k => do
    roomFor k f.hdr
    let (_, dst) ← operands k [] (some (plainOp f.d))
    let s ← get
    let t := s.team (s.thr k).team
    if !t.pair then later k f.hdr dst 3
    else if t.carabiner = some (s.thr k).grp then later k f.hdr dst 0
    else if bitAt (immNat f.b) 0 then later k f.hdr dst 1
    else laterWait k f.hdr dst 0 .carabiner) s

/-! ### Queue fence and guest submission (R215 to R217, R370 to R372) -/

/-- Whether every command of a team accepted before a serial into the queues of a mask has completed (R215). -/
def State.queuesDone (s : State) (i mask upto : Nat) : Bool :=
  (s.team i).queues.all (fun c => !bitAt mask (queueBit c.queue) || upto ≤ c.id)
    && (!bitAt mask 3 || (s.team i).guest.all fun g => upto ≤ g.1)
/-- Whether an unfinished qfence stands before a command accepted under a serial into a queue. -/
def State.fencedOff (s : State) (i bit id : Nat) : Bool :=
  (s.threadsOf i).any fun k => (s.thr k).outst.any fun o => match o.wait with
    | .queues mask upto => bitAt mask bit && upto ≤ id && !s.queuesDone i mask upto
    | _ => false
def execQfence (f : FmtA) (s : State) : Host.Outcome State Fault Refusal :=
  runWord varMeta f.hdr (fun k => do
    roomFor k f.hdr
    let (_, dst) ← operands k [] (some (plainOp f.d))
    let s ← get
    if s.queuesDone (s.thr k).team (immNat f.b) s.nextId then later k f.hdr dst 0
    else laterWait k f.hdr dst 0 (.queues (immNat f.b) s.nextId)) s
/-- The next ticket of a guest queue: 24 bits, 0 skipped (R372). -/
def nextGuestTicket (t : Nat) : Nat := if low 24 (t + 1) = 0 then 1 else low 24 (t + 1)
/-- The confidential domain that a tenant is bound to, or 0 (R446). -/
def State.domainOf (s : State) (tenant : Nat) : Nat := ((s.trust.domains.find? fun e => e.2.tenants.contains tenant).map (·.1)).getD 0
/-- An entry written in a guest queue's ring and told to the guest die (R370, R374): entries follow one another round the ring. -/
def State.postEntry (s : State) (q : Nat) (p : GuestPacket) : State :=
  match tget s.socket.queues q with
  | none => s
  | some x =>
    let s : State := { s with mem := memPutN s.mem (x.base + 64 * (x.posted % x.size)) (p.quads.flatMap fun w => leBytes 8 w.toNat),
                              socket := { s.socket with queues := tset s.socket.queues q { x with posted := x.posted + 1 } } }
    s.emit (.guestPost q (x.posted % x.size))
/-- The saved guest packets of a team posted again (R377). -/
def State.repost (s : State) (i : Nat) : State :=
  (s.team i).guest.foldl (fun s e =>
    match (tget s.socket.queues e.2.1).bind fun q => (q.packets.find? fun p => p.ticket == e.2.2 && p.saved).map fun p => (q, p) with
    | none => s
    | some (q, p) =>
      let q' : GuestQueue := { q with packets := q.packets.map fun p => if p.ticket == e.2.2 then { p with saved := false } else p }
      ({ s with socket := { s.socket with queues := tset s.socket.queues e.2.1 q' } }).postEntry e.2.1 { p with saved := false }) s
/-- A packet appended to a guest queue; its ticket (R370 to R372). While the team's pre-emption is asked for, the hub keeps the packet as a saved one and posts it when the team goes on (R415; DEDUCED, log entry 28). -/
def appendGuest (k q : Nat) (x : GuestQueue) (b : Bytes) : M Nat := do
  orderCommand k
  let id ← newId
  let s ← get
  let i := (s.thr k).team
  let tenant := (s.launchOf k).tenant
  let ticket := if x.nextTicket = 0 then 1 else x.nextTicket
  let head := ticket * 2 ^ 104 + low 8 tenant * 2 ^ 96 + s.tagOf i * 2 ^ 55 + low 8 (s.domainOf tenant) * 2 ^ 47
  let kept := (s.team i).preempt.isSome
  let p : GuestPacket := { ticket := ticket, team := i, tenant := tenant, ctx := s.ctxOf k,
                           quads := (digits 64 8 (head + ofLe b / 2 ^ 128 * 2 ^ 128)).map wd, saved := kept, held := none, faultAt := none, fatalAt := none }
  modify fun s => { s with socket := { s.socket with queues := tset s.socket.queues q { x with packets := x.packets ++ [p], nextTicket := nextGuestTicket ticket } } }
  modTm i fun t => { t with guest := t.guest ++ [(id, q, ticket)] }
  modify fun s => (if kept then s else s.postEntry q p).owe (.team i)
  return ticket
def execGsub (f : FmtA) (s : State) : Host.Outcome State Fault Refusal :=
  runWord varMeta f.hdr (fun k => do
    roomFor k f.hdr
    let (vs, dst) ← operands k (plainOps [f.a, f.b]) (some (plainOp f.d))
    let va := (src vs 0).zx
    let q := (src vs 1).zx
    checkAlign va 64
    let s ← get
    if s.fencedOff (s.thr k).team 3 s.nextId then holdM
    else
      let b ← loadSpanPlain k va 64
      let s ← get
      if s.socket.fenced then later k f.hdr dst (7 * 2 ^ 28)
      else match (if s.socket.ready then tget s.socket.queues q else none) with
        | none => later k f.hdr dst (3 * 2 ^ 28)
        | some x =>
          if x.size ≤ x.packets.length then later k f.hdr dst (2 ^ 28)
          else
            let t ← appendGuest k q x b
            laterWait k f.hdr dst t (.inQueue 3 s.nextId)) s
def execGwait (f : FmtA) (s : State) : Host.Outcome State Fault Refusal :=
  runWord varMeta f.hdr (fun k => do
    roomFor k f.hdr
    let (vs, dst) ← operands k (plainOps [f.a, f.b]) (some (plainOp f.d))
    let q := (src vs 0).zx
    let t := (src vs 1).zx
    let s ← get
    if s.socket.fenced then laterErr k f.hdr dst 0x7000 0x7000 3
    else if ((tget s.socket.queues q).elim false fun x => x.packets.any (·.ticket == t)) then
      let _ ← issueVar k f.hdr.sc.toNat dst 0 1 none (.guest q t) false none 3
      pure ()
    else later k f.hdr dst 0) s

end Sys2Proof.Machine
end

