-- ==== Sys2Proof/Machine/FabricOps.lean ====
section
/-! DEFINITION. Packets and their fate at the source: paths, send queues, seals, drops, and what an acknowledged or dropped fabric write does to its thread, its bulk transfer, its bound signals and its launch (15, 19, 25; R296 to R316, R345 to R366, R449). -/
namespace Sys2Proof.Machine

/-- Whether some slot of an installed table joins this device's group to a group (R362, R364). -/
def State.joins (s : State) (g : Nat) : Bool :=
  s.fabric.tables.any fun t => t.2.entries.any fun e => match e with | some x => devGroup x.peer == g | none => false
/-- Why a packet for a device cannot be sent: no such device, or peer-lost (R299, R364). -/
def State.destStatus (s : State) (dst : Nat) : Option Nat :=
  if dst = s.devno then none
  else if 16415 < dst || !s.fabric.present.contains dst then some 5
  else if s.fabric.lost.contains dst then some 1
  else if devGroup dst = devGroup s.devno then (if (s.localPath dst).isSome then none else some 1)
  else if s.joins (devGroup dst) then none else some 1
/-- The event by which a packet acts at its destination. -/
def packetEvent (p : Packet) : Instr :=
  match p.kind with
  | 0 => .fabricRead p
  | 1 => .fabricWrite p
  | 2 => .fabricAtomic p
  | 3 => .bulkPiece p
  | 4 => .drainMarker p
  | 5 => .fabricInvalidate p
  | 6 => .fabricMergeRecall p
  | 7 => .readResponse p
  | 8 => .atomicResponse p
  | 9 => .writeAcknowledgement p
  | 10 => .invalidateAcknowledgement p
  | _ => .partialPacket p
/-- A packet put on its path (R353): handed to the own homes, given to a local link, or queued. -/
def State.route (s : State) (p : Packet) : State :=
  if p.dst = s.devno then { s with agenda := s.agenda ++ [packetEvent p] }
  else if devGroup p.dst = devGroup s.devno then
    match s.localPath p.dst with
    | some l => s.modLink l fun x => { x with waiting := x.waiting ++ [p] }
    | none => s
  else s.enqueue p
/-- Whether a routed packet has left the fabric port. -/
def State.leavesAtOnce (s : State) (dst : Nat) : Bool := devGroup dst == devGroup s.devno

/-! ### Seals (R449, R450) -/

/-- The key for an ordered pair of devices in a domain's epoch. -/
def pairKey (secret domain epoch src dst : Nat) : Nat := Config.mac secret [domain, epoch, src, dst]
/-- What a seal's tag covers. -/
def sealText (p : Packet) (seqn domain epoch : Nat) : List Nat :=
  [p.kind, p.src, p.dst, p.bytes, p.status, p.va, p.tag, p.op, p.ext, ofLe p.payload, seqn, domain, epoch]
/-- A packet of a tenant sealed when the tenant is bound to a domain. -/
def State.sealed (s : State) (d : Nat) (p : Packet) : Packet × State :=
  match tget s.trust.domains d with
  | none => (p, s)
  | some x =>
    let n := dget 0 x.sendSeq p.dst
    let key := pairKey x.secret d x.epoch p.src p.dst
    let e : Seal := { tag := Config.mac key (sealText p n d x.epoch), seqn := n, domain := d, epoch := x.epoch }
    ({ p with sealed := some e },
     { s with trust := { s.trust with domains := tset s.trust.domains d { x with sendSeq := dset 0 x.sendSeq p.dst (n + 1) } } })
/-! ### The fate of fabric writes (R305, R310, R312, R315, R364, R365) -/

/-- A fabric write of this device is acknowledged with a status, or dropped with one; a bulk piece counts for its transfer (R296, R310, R312, R364). -/
def State.endWrite (s : State) (id st : Nat) : State :=
  match s.fabric.writes.find? (·.id == id) with
  | none => s
  | some w =>
    let s : State := s.settleWrite w st
    match w.bulk with
    | none => s
    | some b =>
      s.pieceEnd b st (if st = 0 then w.bytes else 0)
/-- A read or atomic of this device ends with a status and a value; a failed atomic leaves its D, but for a drop, which gives 0; a failed check brings its conflict report (R309, R311, R316, R364). -/
def State.endReq (s : State) (id st v : Nat) (report : Bytes := []) : State :=
  match s.fabric.reqs.find? (·.id == id) with
  | none => s
  | some r =>
    let s : State := { s with fabric := { s.fabric with reqs := s.fabric.reqs.filter (·.id != id) } }
    let s : State := if st = 0 then s else s.modOutst r.th r.oid fun o =>
      { o with dest := if r.atomic && 2 ≤ st then .nowhere else o.dest, report := if st = 4 then report else [] }
    let s : State := if r.atomic then s.endOne id st else s
    s.finish r.th (.fabric id) (if st = 0 then v else 0) (if st = 0 then none else some (st * 2 ^ 12))
/-- The write of this device that a packet's tag names. -/
def State.writeOf (s : State) (p : Packet) : Option Nat := (s.fabric.writes.find? fun w => low 22 w.id == p.tag && w.dst == p.dst).map (·.id)
def State.reqOf (s : State) (p : Packet) : Option Nat := (s.fabric.reqs.find? fun w => low 22 w.id == p.tag && w.dst == p.dst).map (·.id)
/-- A packet of this device ends with a status without being sent (R364, R450). -/
def State.dropAs (s : State) (p : Packet) (st : Nat) : State :=
  let count (s : State) : State := if st = 1 then { s with fabric := { s.fabric with drops := s.fabric.drops + 1 } } else s
  match p.kind with
  | 0 | 2 => match s.reqOf p with
    | some id => (if p.kind = 0 then count s else s).endReq id st 0
    | none => s
  | 1 | 3 => match s.writeOf p with
    | some id => s.endWrite id st
    | none => s
  | _ => count s
/-- A packet sent on its way under a domain, 0 for none: dropped when its destination cannot be reached, refused when the sequence of its pair is used up (R364, R449, R450). -/
def State.send (s : State) (d : Nat) (p : Packet) : State :=
  if (s.destStatus p.dst).isSome then s.dropAs p 1
  else if (tget s.trust.domains d).elim false fun x => 2 ^ 64 - 1 ≤ dget 0 x.sendSeq p.dst then s.dropAs p 6
  else
    let r := s.sealed d p
    r.2.route r.1

/-- The home of an SC request of this device accepts it at a tick (R233). -/
def State.reachHome (s : State) (p : Packet) (at' : Nat) : State :=
  let hit (r : FabReq) : Bool := low 22 r.id == p.tag && r.dst == p.dst && r.sc
  { s with fabric := { s.fabric with reqs := s.fabric.reqs.map fun r => if hit r then { r with reached := some at' } else r } }
/-- Packets that leave the device: when the homes of other devices accept the SC requests among them is left open (R233, log entry 1). -/
def State.leaveDevice (s : State) (ps : List Packet) : State :=
  (ps.filter fun p => p.src == s.devno && ((p.kind == 0 && low 3 p.op == 4) || (p.kind == 2 && bits p.op 8 3 == 4))).foldl (fun s p =>
    let f := s.nextFree
    f.2.reachHome p (s.now + (1 + f.1) * Config.ticksPerCycle)) s

/-! ### ffence (R315) -/

/-- The result of ffence over the writes of a thread below a serial; those still in flight count as lost, a bulk transfer with the greatest status that its pieces have met (Table 15-8). -/
def State.ffenceWord (s : State) (k upto : Nat) : Nat :=
  let t := s.thr k
  let lost (w : FabWrite) : Nat := ((s.fabric.bulks.find? (·.id == w.id)).map fun b => max 1 b.status).getD 1
  let fails := (t.fabFail.filter fun e => e.1 < upto).map (fun e => (e.2.1, e.2.2))
    ++ (s.fabric.writes.filter fun w => w.th == k && w.id < upto && !w.told).map fun w => (w.dst, lost w)
  let devs := (fails.map (·.1)).eraseDups
  let mask := (devs.filter fun d => devGroup d == devGroup s.devno).foldl (fun a d => Nat.lor a (2 ^ devPos d)) 0
  let first := (minBy (fun a b => decide (a < b)) devs).getD 0
  (fails.map (·.2)).foldl max 0 * 2 ^ 60 + low 15 first * 2 ^ 45 + min 8191 devs.length * 2 ^ 32 + mask
/-- The failure record of a thread below a serial cleared; its writes still in flight have been reported. -/
def State.ffenceClear (s : State) (k upto : Nat) : State :=
  let s : State := s.modThr k fun t => { t with fabFail := t.fabFail.filter fun e => upto ≤ e.1 }
  { s with fabric := { s.fabric with writes := s.fabric.writes.map fun w => if w.th == k && w.id < upto then { w with told := true } else w } }

end Sys2Proof.Machine
end

