-- ==== Sys2Proof/Machine/PhaserFabric.lean ====
section
/-! DEFINITION. Phaser and fabric instructions (15, R296 to R316, R334). -/
namespace Sys2Proof.Machine

/-! ### Phasers (R300 to R308) -/

/-- The unit that a unit code names (R301). -/
def State.unitOf (s : State) (k u : Nat) : RegUnit :=
  let t := s.team (s.thr k).team
  if u = 0 then .group t.launch t.index (s.thr k).grp else if u = 1 then .copyQueue t.launch t.index else .device s.devno
/-- Where the messages of a unit start: its core, or the hub for a device (Table 17-2). -/
def unitCore (k u : Nat) : Option Nat := if u = 2 then none else some (keyCore k)
/-- The phaser that a handle names for thread k, or the status that refuses it (R300, R303, R326). A pod phaser serves its tenant on every device, where the context numbers differ (log entry 19). -/
def State.phaserFor (s : State) (k h u : Nat) : Except Nat Phaser :=
  match handleNode h with
  | none => .error 6
  | some _ =>
    if !s.handleReach h (unitCore k u) then .error 7
    else if u = 2 && !s.privOf k then .error 9
    else match s.phaser h with
      | none => .error 6
      | some p => if (if bits h 62 2 = 2 then p.tenant = (s.launchOf k).tenant else p.ctx = s.ctxOf k) then .ok p else .error 6
/-- Whether a registration or leave of a unit is on its way to a phaser: a node forwards messages in their order, so the unit's next word there waits (R331; log entry 10). -/
def State.regOnWay (s : State) (u : RegUnit) (h : Word) : Bool :=
  s.belay.msgs.any fun m => m.dev == s.devno && m.unit == u && m.handle == h && (match m.op with | .reg _ _ | .leave => m.th.isSome | _ => false)
/-- A word with a handle in A. -/
def phaserWord (u : Nat) (f : FmtA) (body : Nat → Dest → Word → Phaser → SVal → M Unit) (s : State) : Host.Outcome State Fault Refusal :=
  runWord varMeta f.hdr (fun k => do
    roomFor k f.hdr
    let b := if unused f.b then [] else [plainOp f.b]
    let (vs, dst) ← operands k (plainOp f.a :: b) (some (plainOp f.d))
    let h := (src vs 0).zx
    let s ← get
    if s.regOnWay (s.unitOf k u) (wd h) then holdM else pure ()
    match s.phaserFor k h u with
    | .error e => later k f.hdr dst (e * 2 ^ 60)
    | .ok p => body k dst (wd h) p (src vs 1)) s
/-- The unit field of an immediate B. -/
def unitField (b : Operand) : Nat := bits (immNat b) 2 2
/-- Registrations of a team: those at phasers and those still on their way (R303). -/
def State.teamRegs (s : State) (i : Nat) : Nat :=
  let mine (u : RegUnit) : Bool := unitOfTeam (s.team i) u
  let here := (s.belay.phasers.map fun e => (e.2.regs.filter fun r => r.dev == s.devno && mine r.unit && r.left.isNone).length).foldl (· + ·) 0
  here + (s.belay.msgs.filter fun m => mine m.unit && m.th.isSome && (match m.op with | .reg _ _ => true | _ => false)).length
def execPhreg (f : FmtA) (s : State) : Host.Outcome State Fault Refusal :=
  let u := unitField f.b
  phaserWord u f (fun k dst h p _ => do
    let s ← get
    if p.domain ≠ 0 && s.domainOf (s.launchOf k).tenant ≠ p.domain then later k f.hdr dst (7 * 2 ^ 60)
    else if u ≠ 2 && (p.find s.devno (s.unitOf k u)).isNone && 64 ≤ s.teamRegs (s.thr k).team then later k f.hdr dst (8 * 2 ^ 60)
    else
      let id ← newId
      let m := immNat f.b
      laterWait k f.hdr dst p.p (.message id)
      modify fun s => s.sendBelay id (some k) (unitCore k u) (s.unitOf k u) h (.reg (bitAt m 0) (bitAt m 1)) false []) s
def execPhleave (f : FmtA) (s : State) : Host.Outcome State Fault Refusal :=
  let u := unitField f.b
  phaserWord u f (fun k dst h p _ => do
    let id ← newId
    laterWait k f.hdr dst p.p (.message id)
    modify fun s => s.sendBelay id (some k) (unitCore k u) (s.unitOf k u) h .leave false []) s
/-- The unit's next phase taken by a signal (R301). -/
def takePhase (h : Word) (u : RegUnit) : M Unit :=
  modify fun s => match s.phaser h.toNat with
    | none => s
    | some p => s.setPhaser h.toNat (p.modReg s.devno u fun r => { r with r := low 32 (r.r + 1) })
/-- Fabric writes that a bound signal of a thread covers, and whether one has already failed; the set starts anew (R305, R334). -/
def takeCover (k : Nat) : M (List Nat × Bool) := do
  let t ← getT k
  modT k fun t => { t with boundIds := [], boundFail := false }
  return (t.boundIds, t.boundFail)
/-- A bound signal waits at the fabric port for its covered writes; the port holds 256 (R334). -/
def boundSignal (k : Nat) (h : Hdr) (dst : Dest) (u : Nat) (hd : Word) (phase finder : Nat) : M Unit := do
  let s ← get
  if 256 ≤ (s.belay.msgs.filter (·.held)).length then holdM
  else
    takePhase hd (s.unitOf k u)
    let c ← takeCover k
    let serial ← takeSerial (keyCore k)
    let id ← newId
    laterWait k h dst phase (.message id)
    modify fun s => s.sendBelay id (some k) none (s.unitOf k u) hd (.signal phase finder serial c.2) (!c.1.isEmpty) c.1
/-- phsig: sent at issue, or through the team's copy queue (R304). -/
def execPhsig (f : FmtA) (s : State) : Host.Outcome State Fault Refusal :=
  let u := unitField f.b
  phaserWord u f (fun k dst h p _ => do
    let s ← get
    match (p.find s.devno (s.unitOf k u)).filter (·.sig) with
    | none => later k f.hdr dst (4 * 2 ^ 60 + p.p)
    | some r =>
      if u = 1 then
        acceptCmd k f.hdr dst .phsig .copy [h.toNat, r.r] none 0
        takePhase h (s.unitOf k u)
      else
        orderSignal k
        takePhase h (s.unitOf k u)
        let serial ← takeSerial (keyCore k)
        let id ← newId
        laterWait k f.hdr dst r.r (.message id)
        modify fun s => s.sendBelay id (some k) (unitCore k u) (s.unitOf k u) h (.signal r.r plainFinder serial false) false []) s
def execPhsigb (f : FmtA) (s : State) : Host.Outcome State Fault Refusal :=
  let u := unitField f.b
  phaserWord u f (fun k dst h p _ => do
    let s ← get
    match (p.find s.devno (s.unitOf k u)).filter (·.sig) with
    | none => later k f.hdr dst (4 * 2 ^ 60 + p.p)
    | some r => boundSignal k f.hdr dst u h r.r plainFinder) s
def execPhany (f : FmtA) (s : State) : Host.Outcome State Fault Refusal :=
  phaserWord 0 f (fun k dst h p b => do
    let s ← get
    let finder := low 32 b.zx
    if !p.anyOf || finder = plainFinder then later k f.hdr dst (6 * 2 ^ 60)
    else match (p.find s.devno (s.unitOf k 0)).filter (·.sig) with
      | none => later k f.hdr dst (4 * 2 ^ 60 + p.p)
      | some r => boundSignal k f.hdr dst 0 h r.r finder) s
/-- The acquire of a completion that a waiter finds at the node (R235, R307). -/
def acquirePhase (k : Nat) (h : Word) : M Unit :=
  modify fun s =>
    let n := (handleNode h.toNat).getD 0
    let f := if n < 8 then (s.node n).floor else s.podFloor
    let sc := handleScope h.toNat
    let s : State := s.modTeam (s.thr k).team fun t =>
      { t with floors := t.floors.raise f (if 5 ≤ sc then f else t.floors.package) (if 6 ≤ sc then f else t.floors.pod) }
    s.raiseClock (keyCore k) (low 50 (f + 1))
/-- phwait and phtry: the completion word of a phase (R307). -/
def phaseWord (waits : Bool) (f : FmtA) (s : State) : Host.Outcome State Fault Refusal :=
  phaserWord 0 f (fun k dst h p b => do
    let s ← get
    let q := low 32 b.zx
    match (p.find s.devno (s.unitOf k 0)).filter (·.wait) with
    | none => later k f.hdr dst (4 * 2 ^ 60 + q)
    | some _ =>
      match p.result q with
      | some v =>
        acquirePhase k h
        later k f.hdr dst v
      | none => if waits then laterWait k f.hdr dst 0 (.phase h q) else later k f.hdr dst (2 ^ 60 + q)) s
def execPhwait (f : FmtA) (s : State) : Host.Outcome State Fault Refusal := phaseWord true f s
def execPhtry (f : FmtA) (s : State) : Host.Outcome State Fault Refusal := phaseWord false f s
def execPhget (f : FmtA) (s : State) : Host.Outcome State Fault Refusal :=
  phaserWord 0 f (fun k dst _ p _ =>
    later k f.hdr dst (b2n p.anyOf * 2 ^ 59 + min 65535 (p.need p.p p.c0).toNat * 2 ^ 32 + low 32 p.p)) s

/-! ### Fabric access (R298, R309 to R311) -/

/-- Device and address that a fabric address and an offset name (R298). -/
def fabDev (a : Nat) : Nat := bits a 49 15
def fabVa (a off : Nat) : Nat := low 49 (low 49 a + low 49 off)
/-- What a team knows when it makes a packet (R241, R242, R243). -/
def State.viewOf (s : State) (i : Nat) : TeamView :=
  let t := s.team i
  { stack := t.floors.stack, package := t.floors.package, pod := t.floors.pod, acquired := t.acq.map fun e => (e.tag, e.serial) }
/-- A packet of thread k. -/
def State.packetOf (s : State) (k kind dst n va tag op : Nat) (payload : Bytes) (stamp : Nat) : Packet :=
  { s.bare kind dst va (low 22 tag) with bytes := n, op := op, payload := payload, tenant := (s.launchOf k).tenant, team := s.tagOf (s.thr k).team, stamp := stamp, view := s.viewOf (s.thr k).team }
/-- Whether a bulk transfer of thread k to a device has pieces still to send: the thread's later packets to that device go behind them (R354, R358). -/
def State.bulkAhead (s : State) (k dst : Nat) : Bool := s.fabric.bulks.any fun b => b.th == k && fabDev b.dst == dst && b.sent < b.bytes
/-- A fabric write entered in the list of those in flight (R296, R334). -/
def enterWrite (k dst n stamp launch : Nat) (bulk : Option Nat) (owned : Bool) (sc : Bool := false) : M Nat := do
  if owned then
    order k false sc
    let s ← get
    if s.bulkAhead k dst then holdM else pure ()
  else pure ()
  let id ← newId
  let w : FabWrite := { id := id, th := if owned then k else noThread, launch := launch, dst := dst, clk := stamp, core := keyCore k, bulk := bulk, bytes := n, told := false, sc := sc }
  modify fun s => ({ s with fabric := { s.fabric with writes := s.fabric.writes ++ [w] } } : State).owe (.launch launch)
  if owned then modT k fun t => { t with boundIds := t.boundIds ++ [id] } else pure ()
  return id
/-- A fabric request that awaits a response, or its failure at once; an atomic is a fabric write too (R296, R299). -/
def request (k : Nat) (h : Hdr) (d : Dest) (dst n va op : Nat) (kind : Nat) (acq : Bool) (payload : Bytes) (stamp : Nat) : M Unit := do
  let s ← get
  match s.destStatus dst with
  | some st =>
    if kind = 2 then do
      let id ← enterWrite k dst 0 stamp noLaunch none true
      modify fun s => s.endOne id st
    else pure ()
    laterErr k h (if kind = 2 && 2 ≤ st then .nowhere else d) 0 (st * 2 ^ 12) 5
  | none =>
    let sc := if kind = 2 then bits op 8 3 == 4 else low 3 op == 4
    if s.queueFull dst || s.bulkAhead k dst || s.mustWait k (kind == 2 && 2 ≤ bits op 8 3) sc then holdM
    else
      let id ← if kind = 2 then enterWrite k dst 0 stamp noLaunch none true sc else newId
      let oid ← issueVar k h.sc.toNat d 0 1 none (.fabric id) false none 5
      modify fun s => { s with fabric := { s.fabric with reqs := s.fabric.reqs ++
        [{ id := id, th := k, oid := oid, dst := dst, acq := acq, atomic := kind == 2, va := va, n := n, sc := sc, core := keyCore k, clk := stamp, reached := none }] } }
      modify fun s => s.send (s.domainOf (s.launchOf k).tenant) (s.packetOf k kind dst (if kind = 2 then payload.length else n) va id op payload stamp)
def execFld (f : FmtA) (s : State) : Host.Outcome State Fault Refusal :=
  runWord varMeta f.hdr (fun k => do
    roomFor k f.hdr
    let (vs, dst) ← operands k [addrOp f.a, plainOp f.b] (some (plainOp f.d))
    let n := fieldBits f.d / 8
    let a := (src vs 0).zx
    let va := fabVa a (src vs 1).sx
    checkAlign va n
    let o := fieldCode f.a
    let w ← if o = 4 then takeSerial (keyCore k) else view fun s => (s.core (keyCore k)).clock
    request k f.hdr dst (fabDev a) n va o 0 (o != 0) [] w) s
/-- A fabric write given to the port; one that cannot be sent is dropped with its status (R299, R310). -/
def sendWrite (k dst n va op kind : Nat) (payload : Bytes) (stamp : Nat) (bulk : Option Nat) (ext : Nat) : M Nat := do
  let s ← get
  let id ← enterWrite k dst n stamp (s.team (s.thr k).team).launch bulk bulk.isNone
  match s.destStatus dst with
  | some st => modify fun s => s.endWrite id st
  | none => modify fun s => s.send (s.domainOf (s.launchOf k).tenant) { s.packetOf k kind dst n va id op payload stamp with ext := ext }
  return id
/-- Whether every earlier access of a thread is performed: no SC access held, no stream element still to be stored, no fabric access outstanding (R310). -/
def State.threadQuiet (s : State) (k : Nat) : Bool :=
  !s.unperformed k false s.nextId && (s.scHeld.all fun a => a.th != k) && (s.fabric.writes.all fun w => w.th != k) && (s.fabric.reqs.all fun r => r.th != k) && s.fabric.bulks.all fun b => b.th != k
/-- fst: its counter falls when the store has left the port; .rel waits for every earlier access of the thread (R310). -/
def execFst (f : FmtA) (s : State) : Host.Outcome State Fault Refusal :=
  runWord varMeta f.hdr (fun k => do
    roomFor k f.hdr
    let (vs, _) ← operands k [addrOp f.a, plainOp f.b, plainOp f.d] none
    let n := fieldBits f.d / 8
    let a := (src vs 0).zx
    let va := fabVa a (src vs 1).sx
    let o := fieldCode f.a
    checkAlign va n
    let s ← get
    if (o = 2 && !s.threadQuiet k) || s.queueFull (fabDev a) then holdM
    else
      let w ← if o = 2 then takeSerial (keyCore k) else view fun s => (s.core (keyCore k)).clock
      let id ← sendWrite k (fabDev a) n va o 1 (leBytes n (src vs 2).zx) w none 0
      let s ← get
      if s.leavesAtOnce (fabDev a) || (s.fabric.writes.all fun x => x.id != id) then later k f.hdr .nowhere 0
      else laterWait k f.hdr .nowhere 0 (.sent id)) s
/-- fatm: the control word's op and widths, then the request (R311). The order code travels beside the header (log entry 9). -/
def execFatm (f : FmtA) (s : State) : Host.Outcome State Fault Refusal :=
  runWord varMeta f.hdr (fun k => do
    roomFor k f.hdr
    let (vs, dst) ← operandsRw k [addrOp f.a, descOp f.b 2] (plainOp f.d)
    let c := quadOf (src vs 1) 0
    let n := if bitAt c 0 then 8 else 4
    let a := (src vs 0).zx
    let va := fabVa a 0
    checkAlign va n
    if bits c 8 56 ≠ 0 || bits c 1 2 ≠ 0 || 7 < bits c 4 4 || fieldBits f.d ≠ 8 * n then
      let w ← view fun s => (s.core (keyCore k)).clock
      let id ← enterWrite k (fabDev a) 0 w noLaunch none true
      modify fun s => s.endOne id 8
      laterErr k f.hdr .nowhere 0 (8 * 2 ^ 12) 5
    else
      let o := fieldCode f.a
      let w ← if 2 ≤ o then takeSerial (keyCore k) else view fun s => (s.core (keyCore k)).clock
      let b := leBytes n (low (8 * n) (quadOf (src vs 1) 1)) ++ leBytes n (src vs 2).zx
      request k f.hdr dst (fabDev a) n va (low 8 c + 256 * o) 2 (ordAcq o || o == 4) b w) s

/-! ### Bulk transfers (R312) -/

/-- Whether a bulk descriptor is one that the spec admits: quad 3 is 0 or has the form of a handle that names a counter (R313, Table 15-6). -/
def bulkOk (q1 q2 q3 : Nat) : Bool :=
  bits q2 32 31 == 0 && 1 ≤ low 32 q2 && bits q3 61 3 == 0 && bits q3 16 30 == 0 && (!bitAt q2 63 || (bits q1 20 29 == 0 && q3 != 0))
def execBulk (f : FmtA) (s : State) : Host.Outcome State Fault Refusal :=
  runWord varMeta f.hdr (fun k => do
    roomFor k f.hdr
    let (vs, dst) ← operands k [descOp f.a 4] (some (plainOp f.d))
    let q (i : Nat) := quadOf (src vs 0) i
    if !bulkOk (q 1) (q 2) (q 3) then later k f.hdr dst (8 * 2 ^ 60)
    else
      let s ← get
      if s.queueFull (fabDev (q 1)) then holdM
      else
        let id ← enterWrite k (fabDev (q 1)) 0 (s.core (keyCore k)).clock noLaunch none true
        laterWait k f.hdr dst 0 (.bulk id)
        let b : BulkXfer := { id := id, th := k, src := q 0, dst := q 1, sp := bitAt (q 2) 63, bytes := low 32 (q 2), ctr := q 3,
                              sent := 0, pending := 0, status := 0, acked := 0, stall := none }
        modify fun s => { s with fabric := { s.fabric with bulks := s.fabric.bulks ++ [b] } }) s
/-- The destination of the piece that follows n bytes of a transfer, and its length: cut at 128-byte boundaries of the destination (R312). -/
def BulkXfer.piece (b : BulkXfer) : Nat × Nat :=
  let va := if b.sp then low 20 b.dst + b.sent else fabVa b.dst b.sent
  (va, min (b.bytes - b.sent) (128 - va % 128))
/-- The next piece of a transfer is read and sent; a source fault stalls or ends it (R190, R312). -/
def bulkPieceOut (b : BulkXfer) : M Unit := do
  let s ← get
  let p := b.piece
  let r ← engReadSpan (s.thr b.th).team (low 64 (b.src + b.sent)) p.2
  match r with
  | .error (.stall d t) => modify fun s => s.modBulk b.id fun b => { b with stall := some (d, t) }
  | .error (.fatal _ _) => modify fun s => (s.modBulk b.id fun b => { b with sent := b.bytes, status := max b.status 9 }).bulkCheck b.id
  | .ok d =>
    modify fun s => s.modBulk b.id fun b => { b with sent := b.sent + p.2, pending := b.pending + 1 }
    let clk := ((s.fabric.writes.find? (·.id == b.id)).map (·.clk)).getD 0
    let _ ← sendWrite b.th (fabDev b.dst) p.2 p.1 0 3 d clk (some b.id) (b.ctr + b2n b.sp * 2 ^ 127)
    pure ()
/-- The bulk transfers in one cycle: a served stall goes on, the others send one piece when a send queue can be had. -/
def bulkTick : M Unit := do
  let s ← get
  forM' s.fabric.bulks fun b => do
    let s ← get
    let open' := b.stall.elim false fun x => s.ticketOpen x.1 x.2
    if open' then pure ()
    else
      modify fun s => s.modBulk b.id fun b => { b with stall := none }
      if b.bytes ≤ b.sent || s.queueFull (fabDev b.dst) then pure ()
      else fun s => match bulkPieceOut b s with
        | (.error .hold, s') => (.ok (), s')
        | r => r

/-! ### Arrival counters (R313, R314) -/

/-- The scratchpad offset of a record: the address lies in the aperture and is a multiple of 16. -/
def recordOff (k va : Nat) : M Nat := do
  checkAlign va 16
  let s ← get
  if aperture ≤ va && va < apertureEnd then return va - aperture
  else throw (.trap 12 0 (wd va) (det1Of 2 0 (s.ctxOf k) 0) 0 0)
/-- A record's bytes (Table 15-7). -/
def recordBytes (count target state id : Nat) : Bytes := leBytes 16 (low 64 count + low 40 target * 2 ^ 64 + state * 2 ^ 104 + id * 2 ^ 112)
/-- The counter armed at an offset of a team. -/
def State.arrivalAt (s : State) (i off : Nat) : Option Nat := (s.fabric.arrivals.find? fun e => e.2.team == i && e.2.off == off).map (·.1)
/-- acset's handle word. -/
def acHandle (st dev id : Nat) : Nat := st * 2 ^ 61 + dev * 2 ^ 46 + id
def execAcset (f : FmtA) (s : State) : Host.Outcome State Fault Refusal :=
  runWord varMeta f.hdr (fun k => do
    roomFor k f.hdr
    let (vs, dst) ← operands k (plainOps [f.a, f.b]) (some (plainOp f.d))
    let off ← recordOff k (src vs 0).zx
    let target := (src vs 1).zx
    let s ← get
    let i := (s.thr k).team
    let st (n : Nat) : M Unit := later k f.hdr dst (acHandle n s.devno 0)
    if (s.team i).spadSize < off + 16 then st 2
    else if 2 ^ 40 ≤ target then st 3
    else if target = 0 then
      match s.arrivalAt i off with
      | none =>
        modify fun s => s.spadPut i (off + 13) [0]
        st 0
      | some id =>
        modify fun s => { s with fabric := { s.fabric with arrivals := tdel s.fabric.arrivals id } }
        modify fun s => s.spadPut i (off + 13) [0]
        later k f.hdr dst (acHandle 0 s.devno id)
    else
      let free := match s.arrivalAt i off with
        | some id => some id
        | none => (List.range 4096).find? fun n => (tget s.fabric.arrivals n).isNone
      match free with
      | none => st 1
      | some id =>
        modify fun s => { s with fabric := { s.fabric with arrivals := tset s.fabric.arrivals id { team := i, off := off } } }
        modify fun s => s.spadPut i off (recordBytes 0 target 1 id)
        later k f.hdr dst (acHandle 0 s.devno id)) s
/-- The count and the target of a record. -/
def State.arrivalCount (s : State) (i off : Nat) : Nat := ofLe (s.spadGet i off 8)
def State.arrivalTarget (s : State) (i off : Nat) : Nat := low 40 (ofLe (s.spadGet i (off + 8) 8))
def execAcwait (f : FmtA) (s : State) : Host.Outcome State Fault Refusal :=
  runWord varMeta f.hdr (fun k => do
    roomFor k f.hdr
    let (vs, dst) ← operands k [plainOp f.a] (some (plainOp f.d))
    let off ← recordOff k (src vs 0).zx
    let s ← get
    let i := (s.thr k).team
    let m := low 13 (immNat' f.b)
    let n := low 40 (s.arrivalCount i off)
    match s.arrivalAt i off with
    | none => later k f.hdr dst (3 * 2 ^ 60)
    | some _ =>
      if s.arrivalTarget i off ≤ s.arrivalCount i off then later k f.hdr dst n
      else if bitAt m 0 then later k f.hdr dst (2 ^ 60 + n)
      else
        let us := bits m 1 12
        laterWait k f.hdr dst n (.arrival off (if us = 0 then 0 else s.now + us * 1000 * Config.ticksPerNs))) s
where
  /-- The 13 bits of an immediate. -/
  immNat' : Operand → Nat
    | .imm v => v.toNat
    | _ => 0
/-- ffence: its counter falls when the thread's fabric writes are acknowledged or dropped, or at its timeout (R315). -/
def execFfence (f : FmtA) (s : State) : Host.Outcome State Fault Refusal :=
  runWord varMeta f.hdr (fun k => do
    roomFor k f.hdr
    let (_, dst) ← operands k [] (some (plainOp f.d))
    let s ← get
    let us := if immNat f.b = 0 then 64 else immNat f.b
    laterWait k f.hdr dst 0 (.allFabric (s.now + us * 1000 * Config.ticksPerNs) s.nextId)) s

end Sys2Proof.Machine
end

