-- ==== Sys2Proof/Machine/EngineRun.lean ====
section
/-! DEFINITION. The engines at work: the start of commands, the retirement of matrix groups, copied and converted line pieces with their stage counts, completion in queue order, and pinit's effect (09, R187 to R208). -/
namespace Sys2Proof.Machine

/-! ### Commands in State -/

def State.modCmd (s : State) (i id : Nat) (f : Cmd → Cmd) : State :=
  s.modTeam i fun t => { t with queues := t.queues.map fun c => if c.id == id then f c else c }
def State.cmd (s : State) (i id : Nat) : Option Cmd := (s.team i).queues.find? (·.id == id)
def State.acc (s : State) (i slot : Nat) : AccSlot := dget AccSlot.empty (s.team i).acc slot
def State.setAcc (s : State) (i slot : Nat) (a : AccSlot) : State := s.modTeam i fun t => { t with acc := dset AccSlot.empty t.acc slot a }
/-- 128 × 128 values taken from one free value. -/
def freeTile (f : Nat) : Tbl Nat := (List.range 16384).map fun n => (n, bits f (64 * n) 64)
/-- A slot given a type by a command that writes it. f64 takes the odd slot with it; a 32-bit write of half of an f64 slot leaves values the spec does not state in the f64 slot. `keep` keeps 32-bit patterns across f32 and s32 (R191; log entry 15). -/
def setSlotType (i slot : Nat) (ty : AccType) (keep : Bool) : M Unit := do
  let s ← get
  let a := s.acc i slot
  let f ← if a.ty != ty && (a.ty == .f64 || ty == .f64) then freeM else pure 0
  let vals := if !keep then [] else if a.ty == ty || (a.ty != .f64 && ty != .f64) then a.vals else freeTile f
  modify fun s => s.setAcc i slot { a with ty := ty, vals := vals }
  if ty == .f64 then
    modify fun s => s.setAcc i (slot + 1) { s.acc i (slot + 1) with ty := .f64, vals := [] }
  else if slot % 2 = 1 && (s.acc i (slot - 1)).ty == .f64 then do
    let g ← freeM
    modify fun s => s.setAcc i (slot - 1) { s.acc i (slot - 1) with vals := freeTile g }
  else pure ()

/-! ### Descriptors (R193, R199 to R203) -/

def Cmd.quad (c : Cmd) (n : Nat) : Nat := c.quads.getD n 0
def accType : Nat → AccType
  | 1 => .f64
  | 2 => .s32
  | _ => .f32
/-- K and the number of groups of an mma. -/
def Cmd.mmaK (c : Cmd) : Nat :=
  bits (c.quad 3) 36 12 * (if described (bits (c.quad 3) 56 8) || described (bits (c.quad 3) 48 8) then 124 else 32)
def Cmd.mmaG (c : Cmd) : Nat := (c.mmaK + 7) / 8
def Cmd.mmaSlot (c : Cmd) : Nat := bits (c.quad 3) 24 8
/-- Cycles from one group to the next (R195). -/
def Cmd.interval (c : Cmd) : Nat := 64 / min (codeRate (bits (c.quad 3) 56 8)) (codeRate (bits (c.quad 3) 48 8))
/-- Whether an mma descriptor is refused, given the type of its slot (R193). -/
def Cmd.mmaBad (c : Cmd) (slotTy : AccType) : Bool :=
  let q := c.quad 3
  let fa := bits q 56 8
  let fb := bits q 48 8
  let at' := bits q 34 2
  let init := bitAt q 33
  let g0 := bits q 8 16
  let okFmt (f : Nat) : Bool := (codeWidth f).isSome && f != 2
  let int (f : Nat) : Bool := f == 0x23 || f == 0x32
  let want := if fa = 1 && fb = 1 then 1 else if int fa && int fb then 2 else 0
  let al (f x : Nat) : Bool := x % (if described f then 64 else 32) == 0
  !okFmt fa || !okFmt fb || (fa == 1) != (fb == 1) || at' != want || bits q 36 12 == 0
    || ((!described fa || !described fb) && c.mmaK % 32 != 0)
    || 15 < c.mmaSlot || (c.mmaSlot % 2 == 1 && at' == 1) || (!init && slotTy != accType at') || (init && g0 != 0) || c.mmaG ≤ g0
    || !al fa (c.quad 0) || !al fb (c.quad 1) || !al fa (bits (c.quad 2) 32 32) || !al fb (bits (c.quad 2) 0 32) || bitAt q 32 || low 8 q != 0
/-- The parts of a macc control word (Table 09-5). -/
def Cmd.maccLoad (c : Cmd) : Bool := bitAt (c.quad 1) 4
def Cmd.maccFmt (c : Cmd) : Nat := bits (c.quad 1) 5 2
def Cmd.maccBad (c : Cmd) (slotTy : AccType) : Bool :=
  let q := c.quad 1
  let ty := if c.maccLoad then accType (bits q 7 2) else slotTy
  let pitch := bits q 16 32
  bits q 48 16 != 0 || bits q 9 7 != 0 || bits q 7 2 == 3 || c.maccFmt == 3 || (c.maccFmt != 0 && ty != .f32) || (!c.maccLoad && bits q 7 2 != 0)
    || c.quad 0 % 8 != 0 || pitch % 8 != 0 || (ty == .f64 && low 4 q % 2 == 1)
def Cmd.maccRow (c : Cmd) (ty : AccType) : Nat := 128 * maccBytes c.maccFmt ty
def Cmd.maccPitch (c : Cmd) (ty : AccType) : Nat := if bits (c.quad 1) 16 32 = 0 then c.maccRow ty else bits (c.quad 1) 16 32
def Cmd.mzeroBad (c : Cmd) : Bool := bits (c.quad 0) 4 2 == 3 || (bits (c.quad 0) 4 2 == 1 && c.quad 0 % 2 == 1)
/-- Whether a copy descriptor is refused (Table 09-6). -/
def Cmd.copyBad (c : Cmd) : Bool :=
  let q := c.quad 2
  bits q 25 23 != 0 || low 25 q == 0 || 2 ^ 24 < low 25 q || (if c.kind == .cpy then bits q 48 16 != 0 else bits q 48 16 == 0)
    || (c.kind == .cpyg && c.quad 4 % 4 != 0)
def Cmd.rows (c : Cmd) : Nat := if c.kind == .cpy then 1 else bits (c.quad 2) 48 16
def Cmd.cols (c : Cmd) : Nat := bits (c.quad 2) 32 16
def Cmd.tf (c : Cmd) : Nat := bits (c.quad 2) 24 8
def Cmd.sf (c : Cmd) : Nat := bits (c.quad 2) 16 8
/-- Whether a converter descriptor is refused (Table 09-7, R203). -/
def Cmd.convBad (c : Cmd) : Bool :=
  let common := c.rows == 0 || c.cols == 0 || !tileFmtOk c.tf || !srcFmtOk c.sf || c.rows * c.cols * tileWidth c.tf % 8 != 0
  if c.kind == .cvq then common || c.quad 0 % 32 != 0 || bits (c.quad 2) 5 3 == 7 || bits (c.quad 2) 0 5 != 0
  else common || c.quad 1 % 32 != 0 || bits (c.quad 2) 0 16 != 0 || bits (c.quad 3) 0 32 != 0
/-- Bytes of the body of a command's tile. -/
def Cmd.tileBody (c : Cmd) : Nat := c.rows * c.cols * tileWidth c.tf / 8

/-! ### Ends of commands -/

/-- The stage that a command is bound to. -/
def State.stageOf (s : State) (i : Nat) (c : Cmd) : Option (Nat × Nat × Stage) := c.bind.bind (s.bindOf i)
/-- A command's end is decided: a fatal fault poisons its stage and stops its matrix slot (R190, R196, R204, R206). -/
def State.failCmd (s : State) (i : Nat) (c : Cmd) (code reason : Nat) : State :=
  let s : State := s.modCmd i c.id fun c => { c with stall := none, doneAt := s.now, status := some (code * 2 ^ 12 + reason * 2 ^ 8 + c.flags) }
  let s : State := match (if code = 2 then s.stageOf i c else none) with
    | some (h, k, st) => if st.state ≤ 1 then s.modStage i h k fun st => { st with state := 3, reason := reason } else s
    | none => s
  if c.kind == .mma then s.setAcc i c.mmaSlot { s.acc i c.mmaSlot with state := 3 } else s
/-- A command stalls on a fault ticket (R190). -/
def State.stallCmd (s : State) (i : Nat) (c : Cmd) (d t : Nat) : State :=
  let s : State := s.modCmd i c.id fun c => { c with stall := some (d, t) }
  if c.kind == .mma then s.setAcc i c.mmaSlot { s.acc i c.mmaSlot with state := 2 } else s
/-- How one piece of a command's work went. -/
inductive Piece where
  | done | again | stop
deriving DecidableEq, Repr
/-- One piece of work on behalf of a command: a hold is tried again in the next cycle, a stall and a fatal fault are recorded. -/
def tryPiece (i : Nat) (c : Cmd) (m : M (Except EngFail Unit)) : M Piece := fun s =>
  match asParty (partyEngine i) m s with
  | (.ok (.ok _), s') => (.ok .done, s')
  | (.ok (.error (.stall d t)), s') => (.ok .stop, s'.stallCmd i c d t)
  | (.ok (.error (.fatal code r)), s') => (.ok .stop, s'.failCmd i c code r)
  | (.error .hold, s') => (.ok .again, s'.modCmd i c.id fun c => { c with doneAt := s'.now + Config.ticksPerCycle })
  | (.error e, s') => (.error e, s')

/-! ### Starting (R187, R189, R195, R204, R215) -/

/-- The last tick at which a group of a running mma enters the arrays. -/
def Cmd.lastEnter (c : Cmd) : Nat := c.doneAt + (c.mmaG - c.piece - 1) * c.interval * Config.ticksPerCycle - 40 * Config.ticksPerCycle
/-- Whether an earlier matrix command lets a later one start: an mma whose last group has entered, on another slot (R195). -/
def letsStart (now : Nat) (e c : Cmd) : Bool :=
  e.kind == .mma && c.kind == .mma && e.started && e.status.isNone && e.stall.isNone && !e.stop && e.lastEnter < now
    && e.mmaSlot / 2 != c.mmaSlot / 2
/-- A copy or converter command, whose stream may run beside those of its queue (R190). -/
def Cmd.streams (c : Cmd) : Bool := match c.kind with
  | .cpy | .cpy2d | .cpyg | .cvq | .cvd => true
  | _ => false
/-- Whether a command may start: earlier commands of its queue, qfences and pending pinits of its ring let it (R187, R207, R215). The streams of one queue run side by side (R190); what they share they reach in queue order (pieceWaits). -/
def State.mayStart (s : State) (i : Nat) (c : Cmd) : Bool :=
  let t := s.team i
  !c.started
    && ((t.queues.filter fun e => e.queue == c.queue && e.id < c.id).all fun e => letsStart s.now e c || (e.started && e.streams && c.streams))
    && !s.fencedOff i (queueBit c.queue) c.id
    && t.inits.all fun p => c.id < p.id || (c.bind.elim true fun b => bits b 6 14 * 64 != p.h)
/-- Whether a command ends with code 3 (R189, R193, R199 to R204). -/
def State.cmdBad (s : State) (i : Nat) (c : Cmd) : Bool :=
  (c.bind.isSome && (s.stageOf i c).isNone) || match c.kind with
    | .mma => c.mmaBad (s.acc i (c.mmaSlot)).ty
    | .macc => c.maccBad (s.acc i (low 4 (c.quad 1))).ty
    | .mzero => c.mzeroBad
    | .cpy | .cpy2d | .cpyg => c.copyBad
    | .cvq | .cvd => c.convBad
    | _ => false
/-- A command starts: a bad one ends with code 3, an mma takes its slot, anything else runs after a free delay. -/
def startCmd (i : Nat) (c : Cmd) : M Unit := do
  let f ← freeM
  let s ← get
  let now := s.now
  modify fun s => s.modCmd i c.id fun c => { c with started := true, doneAt := now + (1 + f) * Config.ticksPerCycle }
  if s.cmdBad i c then modify fun s => s.modCmd i c.id fun c => { c with doneAt := now, status := some 0x3000 }
  else match c.kind with
    | .mma => do
      let g0 := bits (c.quad 3) 8 16
      if bitAt (c.quad 3) 33 then setSlotType i c.mmaSlot (accType (bits (c.quad 3) 34 2)) false else pure ()
      modify fun s => s.setAcc i c.mmaSlot { s.acc i c.mmaSlot with state := if c.stop then 3 else 1, groups := c.mmaG, progress := g0, at' := now, before := g0 }
      modify fun s => s.modCmd i c.id fun c => { c with piece := g0, doneAt := now + (f + 40) * Config.ticksPerCycle,
                                                        status := if c.stop then some 0x1000 else none }
    | .macc => if c.maccLoad then setSlotType i (low 4 (c.quad 1)) (accType (bits (c.quad 1) 7 2)) true else pure ()
    | _ => pure ()

/-! ### Matrix groups (R193, R195, R196) -/

/-- The work of one group: operands read, accumulators and progress advanced. -/
def mmaGroup (i : Nat) (c : Cmd) : M (Except EngFail Unit) := do
  let q := c.quad 3
  let kk := c.mmaK
  let ra ← readGroups i (bits q 56 8) (bits (c.quad 2) 32 32) c.piece kk (c.quad 0) 128
  match ra with
  | .error e => return .error e
  | .ok (a, ma) =>
    let rb ← readGroups i (bits q 48 8) (bits (c.quad 2) 0 32) c.piece kk (c.quad 1) 128
    match rb with
    | .error e => return .error e
    | .ok (b, mb) =>
      let g := c.piece + 1
      let flags := Nat.lor c.flags (b2n (ma || mb))
      let last := g = c.mmaG
      let st : Nat := if last then 4 else if c.stop then 3 else 1
      modify fun s =>
        let x := s.acc i c.mmaSlot
        s.setAcc i c.mmaSlot { x with vals := addTile x.ty x.vals a b, progress := g, state := st, at' := s.now, before := if x.at' = s.now then x.before else x.progress }
      modify fun s => s.modCmd i c.id fun c =>
        { c with piece := g, flags := flags, doneAt := if last || c.stop then s.now else c.doneAt + c.interval * Config.ticksPerCycle,
                 status := if last then some flags else if c.stop then some (0x1000 + flags) else none }
      return .ok ()
/-- The mma of a team whose next group is due. -/
def State.mmaDue (s : State) (i : Nat) : Option Cmd :=
  (s.team i).queues.find? fun c => c.kind == .mma && c.started && c.status.isNone && c.stall.isNone && c.doneAt ≤ s.now
/-- MMA_GROUP_RETIRE: the due group of the team's matrix queue retires. -/
def execMmaGroupRetire (team : Nat) (s : State) : Host.Outcome State Fault Refusal :=
  runEvent (do
    let s ← get
    match s.mmaDue team with
    | none => pure ()
    | some c =>
      let _ ← tryPiece team c (mmaGroup team c)
      pure ()) s

/-! ### Line pieces (R201 to R204) -/

/-- Where a command writes: row length, rows, start, pitch, and an offset that no piece crosses. -/
structure Geometry where
  dst : Nat
  pitch : Int
  bytes : Nat
  rows : Nat
  cutAt : Nat
deriving DecidableEq, Repr
def Cmd.geometry (c : Cmd) : Geometry :=
  match c.kind with
  | .cvq => { dst := c.quad 0, pitch := 0, bytes := tilePad c.tileBody + 32, rows := 1, cutAt := tilePad c.tileBody }
  | .cvd => { dst := c.quad 0, pitch := bits (c.quad 3) 32 32, bytes := c.cols * (srcFmt c.sf).width / 8, rows := c.rows, cutAt := 0 }
  | _ => { dst := c.quad 0, pitch := toS 32 (bits (c.quad 3) 32 32), bytes := low 25 (c.quad 2), rows := c.rows, cutAt := 0 }
/-- Bytes that a command writes in all. -/
def Cmd.total (c : Cmd) : Nat := c.geometry.bytes * c.geometry.rows
/-- The address of the destination byte that follows n others. -/
def Geometry.addr (g : Geometry) (n : Nat) : Nat := ofI 64 ((g.dst : Int) + (n / g.bytes : Nat) * g.pitch + (n % g.bytes : Nat))
/-- Address and length of the line piece that follows n bytes of a command's destination: up to the end of its 128-byte line, over the end of a row where the next row follows at once (R204). -/
def Geometry.piece (g : Geometry) (n : Nat) : Nat × Nat :=
  let a := g.addr n
  let m := min (if g.pitch = g.bytes then g.bytes * g.rows - n else g.bytes - n % g.bytes) (128 - a % 128)
  (a, if n < g.cutAt then min m (g.cutAt - n) else m)
/-- The address of the source byte that follows n others of a copy, after the index that cpyg reads for its row (R201). -/
def copyAddr (i : Nat) (c : Cmd) (n : Nat) : M (Except EngFail Nat) := do
  let g := c.geometry
  let row := n / g.bytes
  let off := n % g.bytes
  let sp := toS 32 (low 32 (c.quad 3))
  if c.kind == .cpyg then
    let r ← engReadSpan i (low 64 (c.quad 4 + 4 * row)) 4
    match r with
    | .error e => return .error e
    | .ok b => return .ok (ofI 64 ((c.quad 1 : Int) + toS 32 (ofLe b) * sp + off))
  else return .ok (ofI 64 ((c.quad 1 : Int) + (if c.kind == .cpy then 0 else row * sp) + off))
/-- The parts of n bytes of a command's work that lie in one row each: what stands before them, and their lengths. -/
def Geometry.parts (g : Geometry) (n len : Nat) : List (Nat × Nat) :=
  (List.range ((n + len + g.bytes - 1) / g.bytes - n / g.bytes)).map fun j =>
    let a := max n ((n / g.bytes + j) * g.bytes)
    (a, min (n + len) ((n / g.bytes + j + 1) * g.bytes) - a)
/-- The source bytes of the parts of a copy piece (R201). -/
def copyParts (i : Nat) (c : Cmd) : List (Nat × Nat) → M (Except EngFail Bytes)
  | [] => return .ok []
  | p :: r => do
    let a ← copyAddr i c p.1
    match a with
    | .error e => return .error e
    | .ok a =>
      let x ← engReadSpan i a p.2
      match x with
      | .error e => return .error e
      | .ok b =>
        let y ← copyParts i c r
        match y with
        | .error e => return .error e
        | .ok l => return .ok (b ++ l)
/-- The source bytes of a copy piece (R201). -/
def copySource (i : Nat) (c : Cmd) (n len : Nat) : M (Except EngFail Bytes) := copyParts i c (c.geometry.parts n len)
/-- Rows of source bytes of a cvq, from a row on. -/
def readRows (i base pitch n : Nat) : Nat → Nat → M (Except EngFail (List Bytes))
  | _, 0 => return .ok []
  | r, k + 1 => do
    let x ← engReadSpan i (low 64 (base + r * pitch)) n
    match x with
    | .error e => return .error e
    | .ok b =>
      let y ← readRows i base pitch n (r + 1) k
      match y with
      | .error e => return .error e
      | .ok l => return .ok (b :: l)
/-- A converter's output computed from its source, once (R179, R202, R203). -/
def convert (i : Nat) (c : Cmd) : M (Except EngFail Unit) := do
  if c.kind == .cvq then
    let f := srcFmt c.sf
    let r ← readRows i (c.quad 1) (bits (c.quad 3) 32 32) (c.cols * f.width / 8) 0 c.rows
    match r with
    | .error e => return .error e
    | .ok rows =>
      let m := bits (c.quad 2) 5 3
      let q := quantTile c.rows c.cols c.tf c.sf (bits (c.quad 2) 8 8) (if m = 6 then c.mode else m) (low 32 (c.quad 3))
        (rows.flatMap fun b => digits f.width c.cols (ofLe b))
      modify fun s => s.modCmd i c.id fun c => { c with data := q.1, flags := if q.2 then 8 else 0 }
      return .ok ()
  else
    let r ← engReadSpan i (c.quad 1) (tilePad c.tileBody + 32)
    match r with
    | .error e => return .error e
    | .ok b =>
      -- the padding stands between body and trailer, so the check covers the bytes as read
      let ok := tileOk c.rows c.cols c.tf b
      modify fun s => s.modCmd i c.id fun x => { x with data := dequantTile c.rows c.cols c.tf c.sf b, flags := if ok then 0 else 2 }
      if ok then pure ()
      else
        modTm i fun t => { t with tstat := wd (setBits t.tstat.toNat 0 1 1) }
        modify fun s => { s with trust := { s.trust with tile := s.trust.tile + 1 } }
      return .ok ()
/-! ### Streams of one queue side by side (R187, R190) -/

/-- Ranges of addresses: start and length. -/
abbrev Spans := List (Nat × Nat)
/-- Where the bytes of some ranges stand, by 4 KiB: those whose page is not mapped stand nowhere yet. -/
def State.placesOf (s : State) (i : Nat) (l : Spans) : List (Place × Nat) :=
  (l.flatMap fun g => (List.range (g.2 / 4096 + 2)).filterMap fun j =>
      let a := max g.1 ((g.1 / 4096 + j) * 4096)
      let e := min (g.1 + g.2) ((g.1 / 4096 + j + 1) * 4096)
      if a < e then some (low 64 a, e - a) else none).filterMap fun g =>
    match (engLocate i g.1 1 1 s).1 with
    | .ok (.ok p) => some (p, g.2)
    | _ => none
/-- Whether two ranges of places share a byte. -/
def placesMeet (p q : Place × Nat) : Bool := match p.1, q.1 with
  | .spad a, .spad b | .dev a, .dev b | .hostm a, .hostm b => rangesMeet a p.2 b q.2
  | _, _ => false
/-- Whether two lists of ranges share a byte of memory: by their addresses, or where their pages stand now (DESIGN CHOICE, log entry 24: a page that no leaf maps yet stands nowhere, so it is known by its address alone). -/
def State.spansMeet (s : State) (i : Nat) (l m : Spans) : Bool :=
  (l.any fun g => m.any fun h => rangesMeet g.1 g.2 h.1 h.2)
    || (!l.isEmpty && !m.isEmpty && (let ps := s.placesOf i l; let qs := s.placesOf i m; ps.any fun p => qs.any (placesMeet p)))
/-- The source ranges that n bytes of a copy read. -/
def State.copyReads (s : State) (i : Nat) (c : Cmd) (n len : Nat) : Spans :=
  (c.geometry.parts n len).flatMap fun p =>
    (if c.kind == .cpyg then [(low 64 (c.quad 4 + 4 * (p.1 / c.geometry.bytes)), 4)] else []) ++
    match (copyAddr i c p.1 s).1 with
    | .ok (.ok a) => [(a, p.2)]
    | _ => []
/-- The source ranges that a converter reads, all before it writes. -/
def Cmd.convReads (c : Cmd) : Spans :=
  if !c.data.isEmpty then []
  else if c.kind == .cvq then (List.range c.rows).map fun r => (low 64 (c.quad 1 + r * bits (c.quad 3) 32 32), c.cols * (srcFmt c.sf).width / 8)
  else [(c.quad 1, tilePad c.tileBody + 32)]
/-- What is left of a command's reads and writes. -/
def State.readsLeft (s : State) (i : Nat) (c : Cmd) : Spans :=
  if c.queue == .copy then s.copyReads i c c.piece (c.total - c.piece) else c.convReads
def Cmd.writesLeft (c : Cmd) : Spans := (c.geometry.parts c.piece (c.total - c.piece)).map fun p => (c.geometry.addr p.1, p.2)
/-- Whether a command's next unit of work waits for an earlier command of its queue: to read a byte that the earlier one has yet to write, or to write one that it has yet to read or write (R187). -/
def State.pieceWaits (s : State) (i : Nat) (c : Cmd) : Bool :=
  let before := (s.team i).queues.filter fun e => e.queue == c.queue && e.id < c.id && e.status.isNone && e.streams
  let p := c.geometry.piece c.piece
  let conv := (c.kind == .cvq || c.kind == .cvd)
  let reads := if before.isEmpty then [] else if conv then c.convReads else s.copyReads i c c.piece p.2
  let writes := if conv && c.data.isEmpty then [] else [p]
  before.any fun e => s.spansMeet i reads e.writesLeft || s.spansMeet i writes (s.readsLeft i e ++ e.writesLeft)
/-- A piece's bytes counted into a stage (R204, R206). -/
def State.countStage (s : State) (i : Nat) (c : Cmd) (h k n : Nat) (st : Stage) : State :=
  let target := (tget (s.team i).rings h).elim 0 (·.target)
  if target < st.count + n then
    (s.modStage i h k fun st => { st with state := 3, reason := 4 }).failCmd i c 5 4
  else if st.count + n = target then s.modStage i h k fun st => { st with count := st.count + n, state := 2, phase := 1 - st.phase }
  else s.modStage i h k fun st => { st with count := st.count + n, state := 1 }
/-- The next line piece of a copy or converter command: written, and counted when the command is bound. -/
def linePiece (i : Nat) (c : Cmd) : M (Except EngFail Unit) := do
  let s ← get
  match s.stageOf i c with
  | some (_, _, { state := 3, phase := _, reason := r, registry := _, count := _ }) => return .error (.fatal 5 r)
  | some (_, _, { state := 4, phase := _, reason := _, registry := _, count := _ }) => return .error (.fatal 6 0)
  | b =>
    let p := c.geometry.piece c.piece
    let d ← if c.kind == .cvq || c.kind == .cvd then pure (.ok (cut c.data c.piece p.2)) else copySource i c c.piece p.2
    match d with
    | .error e => return .error e
    | .ok d =>
      let w ← engWrite i p.1 d
      match w with
      | .error e => return .error e
      | .ok _ =>
        modify fun s => s.modCmd i c.id fun c => { c with piece := c.piece + p.2 }
        match b with
        | some (h, k, st) => modify fun s => s.countStage i c h k p.2 st
        | none => pure ()
        return .ok ()
/-- One unit of a command's work: a converter's computation, or a line piece. -/
def workPiece (i : Nat) (c : Cmd) : M (Except EngFail Unit) := do
  let s ← get
  if s.pieceWaits i c then holdM
  else if (c.kind == .cvq || c.kind == .cvd) && c.data.isEmpty then convert i c else linePiece i c
/-- Up to n units of a command's work. -/
def work (i id : Nat) : Nat → M Piece
  | 0 => return .done
  | n + 1 => do
    let s ← get
    match s.cmd i id with
    | none => return .stop
    | some c =>
      if c.status.isSome then return .stop
      else if c.total ≤ c.piece && (!c.data.isEmpty || c.queue == .copy) then return .done
      else
        let r ← tryPiece i c (workPiece i c)
        match r with
        | .done => work i id n
        | r => return r
/-- STAGE_ADDITION: a bound command's next line piece is performed and counted (R204). -/
def execStageAddition (team cmd : Nat) (s : State) : Host.Outcome State Fault Refusal :=
  runEvent (do
    let s ← get
    match s.cmd team cmd with
    | none => pure ()
    | some c =>
      if !c.started || c.status.isSome || c.stall.isSome || c.bind.isNone then pure ()
      else
        let f ← freeM
        let r ← tryPiece team c (workPiece team c)
        match r with
        | .done => modify fun s => s.modCmd team cmd fun c => { c with doneAt := s.now + f * Config.ticksPerCycle }
        | _ => pure ()) s

/-! ### macc and mzero (R199, R200) -/

/-- One row of a macc (R199). -/
def maccPiece (i : Nat) (c : Cmd) : M (Except EngFail Unit) := do
  let s ← get
  let slot := low 4 (c.quad 1)
  let a := s.acc i slot
  let n := 8 * maccBytes c.maccFmt a.ty
  let va := low 64 (c.quad 0 + c.piece * c.maccPitch a.ty)
  let next : M (Except EngFail Unit) := do
    modify fun s => s.modCmd i c.id fun c => { c with piece := c.piece + 1 }
    return .ok ()
  if c.maccLoad then
    let r ← engReadSpan i va (c.maccRow a.ty)
    match r with
    | .error e => return .error e
    | .ok b =>
      let row := (digits n 128 (ofLe b)).map (maccIn c.maccFmt)
      let vals := row.zipIdx.foldl (fun v e => dset 0 v (128 * c.piece + e.2) e.1) a.vals
      modify fun s => s.setAcc i slot { a with vals := vals }
      next
  else
    let row := (List.range 128).map fun j => maccOut c.maccFmt (dget 0 a.vals (128 * c.piece + j))
    let r ← engWriteSpan i va (leBytes (c.maccRow a.ty) (ofDigits n row))
    match r with
    | .error e => return .error e
    | .ok _ => next
/-- The rows of a macc that are left. -/
def maccRows (i id : Nat) : Nat → M Piece
  | 0 => return .done
  | n + 1 => do
    let s ← get
    match s.cmd i id with
    | none => return .stop
    | some c =>
      if 128 ≤ c.piece then return .done
      else
        let r ← tryPiece i c (maccPiece i c)
        match r with
        | .done => maccRows i id n
        | r => return r

/-! ### Completion (R187 to R189, R304) -/

/-- The signal of a copy queue leaves: counted broken when a copy command since the previous one failed (R304). -/
def sendQueueSignal (i : Nat) (c : Cmd) : M Unit := do
  let serial ← takeSerial (keyCore c.th)
  let id ← newId
  modify fun s =>
    let t := s.team i
    let s : State := s.modTeam i fun t => { t with queues := t.queues.filter (·.id != c.id), copyBad := false }
    let s : State := s.noteDone i (queueBit c.queue) c.id none 0
    let s : State := s.modThr c.th fun t => { t with outst := t.outst.map fun o => if o.wait == .command c.id then { o with wait := .message id, val := c.quad 1 } else o }
    s.sendBelay id (some c.th) (some t.core) (.copyQueue t.launch t.index) (wd (c.quad 0)) (.signal (c.quad 1) plainFinder serial t.copyBad) false []
/-- What is left of a command's work at its completion. -/
def finishWork (i : Nat) (c : Cmd) : M Piece :=
  match c.kind with
  | .macc => maccRows i c.id 129
  | .mzero => do
    setSlotType i (low 4 (c.quad 0)) (accType (bits (c.quad 0) 4 2)) false
    return .done
  | .cpy | .cpy2d | .cpyg | .cvq | .cvd => work i c.id (c.total + 2)
  | _ => return .done
/-- ENGINE_COMMAND_COMPLETION: the head of a queue completes when its work is done or its end is decided. -/
def execEngineCommandCompletion (team : Nat) (eq : EngineQueue) (s : State) : Host.Outcome State Fault Refusal :=
  runEvent (do
    let s ← get
    match (s.team team).queues.find? (·.queue == eq) with
    | none => pure ()
    | some c =>
      if !c.started || c.stall.isSome || s.now < c.doneAt then pure ()
      else if c.kind == .phsig then
        sendQueueSignal team c
        modify fun s => s.teamCheck team
      else
        match c.status with
        | some st => modify fun s => (s.completeCmd team c st).teamCheck team
        | none =>
          if c.kind == .mma then pure ()
          else
            let r ← finishWork team c
            let s ← get
            match r, s.cmd team c.id with
            | .done, some c => modify fun s => (s.completeCmd team c (c.status.getD c.flags)).teamCheck team
            | _, _ => pure ()) s

/-! ### pinit (R207) -/

/-- Whether every command bound to a ring and accepted before a pinit has completed. -/
def State.pinitReady (s : State) (i : Nat) (p : PInit) : Bool :=
  (s.team i).queues.all fun c => p.id ≤ c.id || c.bind.elim true fun b => bits b 6 14 * 64 != p.h
/-- The registry mask without groups that have ended. -/
def liveMask (t : Team) (m : Nat) : Nat :=
  t.groups.zipIdx.foldl (fun a e => if e.1.live && bitAt m e.2 then a + 2 ^ e.2 else a) 0
/-- PINIT_EFFECT: every stage is reset, and a pwait waiting on the ring returns 5. -/
def execPinitEffect (team cmd : Nat) (s : State) : Host.Outcome State Fault Refusal :=
  runEvent (modify fun s =>
    match (s.team team).inits.find? (·.id == cmd) with
    | none => s
    | some p =>
      if !s.pinitReady team p then s
      else
        let s : State := s.modWaits team fun o => match o.wait with
          | .stage off _ _ _ => if off = p.h then o.decide 5 else o
          | _ => o
        let st : Stage := { state := 0, phase := 0, reason := 0, registry := liveMask (s.team team) p.mask, count := 0 }
        let s : State := s.setRing team p.h { base := p.base, target := p.target, stages := List.replicate p.stages st }
        let s : State := s.modTeam team fun t => { t with inits := t.inits.filter (·.id != cmd) }
        s.finish p.th (.command cmd) 0 none) s

/-! ### The engines in one cycle -/

/-- One team's engines in one cycle: served stalls go on, commands that may start do, and streams without a stage binding move on behind a stalled one (R190). -/
def engineTick (i : Nat) : M Unit := do
  let s ← get
  forM' (s.team i).queues fun c =>
    match c.stall with
    | some (d, t) => if s.ticketOpen d t then pure () else do
        modify fun s => s.modCmd i c.id fun c => { c with stall := none, doneAt := s.now }
        if c.kind == .mma then modify fun s => s.setAcc i c.mmaSlot { s.acc i c.mmaSlot with state := 1 } else pure ()
    | none => do
      let s ← get
      if s.mayStart i c then startCmd i c
      else if c.started && c.streams && c.status.isNone && c.bind.isNone && c.doneAt ≤ s.now then do
        let _ ← work i c.id (c.total + 2)
        pure ()
      else pure ()
/-- Whether a bound stream has pieces left to count. -/
def Cmd.adds (c : Cmd) : Bool := c.streams && c.bind.isSome && c.status.isNone && c.piece < c.total
/-- The engine events of a team that are due. -/
def State.engineDue (s : State) (i : Nat) : List Instr :=
  let t := s.team i
  let mma := if (s.mmaDue i).isSome then [Instr.mmaGroupRetire i] else []
  let q := [EngineQueue.matrix, .copy, .converter].filterMap fun q =>
    match t.queues.find? (·.queue == q) with
    | none => none
    | some c =>
      if !c.started || c.stall.isSome || s.now < c.doneAt || (c.kind == .mma && c.status.isNone) || c.adds then none
      else some (Instr.engineCommandCompletion i q)
  let adds := (t.queues.filter fun c => c.started && c.stall.isNone && c.doneAt ≤ s.now && c.adds).map fun c => Instr.stageAddition i c.id
  mma ++ adds ++ q ++ (t.inits.filter (s.pinitReady i)).map fun p => Instr.pinitEffect i p.id

end Sys2Proof.Machine
end

