-- ==== Sys2Proof/Machine/Memory.lean ====
section
/-! DEFINITION. Loads, stores, spill, fill, prefetch and stream binding (03, R83 to R91). -/
namespace Sys2Proof.Machine

/-- A load of Bits(D) at an address, under an order (R83, R87). -/
def loadAt (k : Nat) (f : FmtA) (o : Order) (addr : SVal → SVal → Nat) : M Unit := do
  roomFor k f.hdr
  let (vs, dst) ← operands k (plainOps [f.a, f.b]) (some (f.d, none))
  let n := fieldBits f.d / 8
  let va := addr (src vs 0) (src vs 1)
  checkAlign va n
  let b ← loadPiece k va n true o
  later k f.hdr dst (ofLe b)
/-- A store of the data that D names. -/
def storeAt (k : Nat) (f : FmtA) (o : Order) : M Unit := do
  roomFor k f.hdr
  let (vs, _) ← operands k (plainOps [f.a, f.b, f.d]) none
  let n := fieldBits f.d / 8
  let va := addrAB (src vs 0) (src vs 1)
  checkAlign va n
  storePiece k va (leBytes n (src vs 2).zx) true o
  later k f.hdr .nowhere 0
/-- The code of a scope (R44). -/
def scopeCode : Scope → Nat
  | .thread => 0
  | .team => 1
  | .core => 2
  | .cluster => 3
  | .stack => 4
  | .package => 5
  | .pod => 6

def execLdRlx (f : FmtA) (s : State) : Host.Outcome State Fault Refusal := runWord varMeta f.hdr (fun k => loadAt k f .rlx addrAB) s
def execStRlx (f : FmtA) (s : State) : Host.Outcome State Fault Refusal := runWord varMeta f.hdr (fun k => storeAt k f .rlx) s
/-- ldx: the index is scaled by the access size (R88). -/
def execLdx (f : FmtA) (s : State) : Host.Outcome State Fault Refusal :=
  runWord varMeta f.hdr (fun k => loadAt k f .rlx (fun a b => low 64 (a.zx + b.sx * (fieldBits f.d / 8)))) s
def execLdAcq (sco : Scope) (f : FmtA) (s : State) : Host.Outcome State Fault Refusal :=
  runWord varMeta f.hdr (fun k => loadAt k f { acq := some (scopeCode sco), rel := none } addrAB) s
def execStRel (sco : Scope) (f : FmtA) (s : State) : Host.Outcome State Fault Refusal :=
  runWord varMeta f.hdr (fun k => storeAt k f { acq := none, rel := some (scopeCode sco) }) s
/-- The order of an SC access for the checks: pod scope on both sides. -/
def Order.sc : Order := { acq := some 6, rel := some 6 }
def execLdSc (f : FmtA) (s : State) : Host.Outcome State Fault Refusal :=
  runWord varMeta f.hdr (fun k => do
    roomFor k f.hdr
    let (vs, dst) ← operands k (plainOps [f.a, f.b]) (some (f.d, none))
    let n := fieldBits f.d / 8
    let va := addrAB (src vs 0) (src vs 1)
    checkAlign va n
    let p ← locate k va n 1
    order k false true
    let s ← get
    match p with
    | .spad off => if s.orphanBytes (s.thr k).team off n then throw (.trap 15 0 (wd va) 0 0 0) else pure ()
    | .dev pa => raceCheck k va pa true false 2
    | .hostm _ => pure ()
    holdSc k f.hdr dst va n p .load 0 0 0) s
def execStSc (f : FmtA) (s : State) : Host.Outcome State Fault Refusal :=
  runWord varMeta f.hdr (fun k => do
    roomFor k f.hdr
    let (vs, _) ← operands k (plainOps [f.a, f.b, f.d]) none
    let n := fieldBits f.d / 8
    let va := addrAB (src vs 0) (src vs 1)
    checkAlign va n
    let _ ← locate k va n 2
    order k true true
    let p ← storeCheck k va n true .sc
    holdSc k f.hdr .nowhere va n p .store (src vs 2).zx 0 0) s

/-! ### Spill and fill (R89) -/

/-- The range of spill and fill: the first slice that A names and the count in B, checked against 4096 and the allocation. -/
def sliceRange (k : Nat) (a : Res) (c : Nat) : M Nat := do
  let t ← getT k
  match a with
  | .slices f _ => if 4096 < c || t.alloc + 64 < f + c then trapC 6 else return f
  | _ => return 0
/-- The operands of spill and fill: first slice, count, nibble address. The range is judged with the slice-bound checks, or, where the count comes from a stream, once the element is read (R89, R163). A count register whose value is uncovered raises its stall-check trap where the range reads it, before the stream and element faults (DESIGN CHOICE, log entry 42). -/
def spillOperands (k : Nat) (f : FmtA) : M (Nat × Nat × Nat) := do
  let ra ← resolveOp k f.a none
  let (vs, _) ← operandsX k (plainOps [f.b, f.d]) none false fun rs => do
    boundRes k ra
    match rs with
    | .port _ _ :: _ => pure ()
    | r :: _ =>
      let x ← readRes k r 0
      let _ ← sliceRange k ra x.zx
      pure ()
    | [] => pure ()
  let first ← sliceRange k ra (src vs 0).zx
  return (first, (src vs 0).zx, (src vs 1).zx)
/-- The byte that holds a nibble address, as a load of one byte; no byte when there is nothing to merge. -/
def edgeNibble (k a : Nat) (need : Bool) : M Nat :=
  if need then do
    let b ← loadPlain k (a / 2) 1
    return ofLe b
  else return 0
/-- The pieces of a spill, by 4 KiB of their addresses. The 4 KiB before the ones that a fault stops stay written also inside a larger page and in the aperture, which has no pages: R89 speaks of pages only (DESIGN CHOICE, log entry 42). -/
def pagesOf (l : List (Nat × Bytes)) : List (List (Nat × Bytes)) := (l.map fun g => g.1 / 4096).eraseDups.map fun p => l.filter fun g => g.1 / 4096 == p
/-- A piece of a spill of the nibbles from a up to e: checked as a store; an end byte of which one nibble is named keeps the other. -/
def spillPiece (k a e va : Nat) (b : Bytes) : M Unit := do
  let n := b.length
  let p ← storeCheck k va n false .rlx
  let lo ← edgeNibble k (2 * va) (decide (2 * va < a))
  let hi ← edgeNibble k e (decide (e < 2 * (va + n)))
  let head := if 2 * va < a then low 4 lo else 0
  let last := if e < 2 * (va + n) then bits hi 4 4 * 2 ^ (8 * n - 4) else 0
  storePlace k p (leBytes n (ofLe b + head + last)) .rlx
/-- What a piece of a spill checks before any byte of its page is written (R89). -/
def spillCheck (k a e va n : Nat) : M Unit := do
  let _ ← storeCheck k va n false .rlx
  let _ ← edgeNibble k (2 * va) (decide (2 * va < a))
  let _ ← edgeNibble k e (decide (e < 2 * (va + n)))
  pure ()
def execSpill (f : FmtA) (s : State) : Host.Outcome State Fault Refusal :=
  runWord varMeta f.hdr (fun k => do
    roomFor k f.hdr
    let (first, c, a) ← spillOperands k f
    let v ← readSlices k first c
    if c = 0 then later k f.hdr .nowhere 0
    else
      let odd := a % 2
      let b := leBytes ((odd + c + (a + c) % 2) / 2) (low (4 * c) v * 2 ^ (4 * odd))
      forM' (pagesOf (byteSegs (a / 2) b)) fun p => do
        forM' p fun g => spillCheck k a (a + c) g.1 g.2.length
        forM' p fun g => spillPiece k a (a + c) g.1 g.2
      later k f.hdr .nowhere 0) s
def execFill (f : FmtA) (s : State) : Host.Outcome State Fault Refusal :=
  runWord varMeta f.hdr (fun k => do
    roomFor k f.hdr
    let (first, c, a) ← spillOperands k f
    let d : Dest := .slices first c
    coverDest k d
    let odd := a % 2
    let b ← loadSpan k (a / 2) (if c = 0 then 0 else (odd + c + 1) / 2) false
    later k f.hdr d (ofLe b / 2 ^ (4 * odd))) s
/-- The line of a leaf brought to the first-level cache in state S; a protected or mapped line, a line in Churn, and one outside memory are left (R90, Table 14-2). -/
def prefetchLine (k va : Nat) (e : TlbEntry) : M Unit := do
  if !e.r || beyondMemory e.host (e.phys va) then pure ()
  else if e.host then
    let _ ← hostLoad (keyCore k) (e.phys va) 1
    pure ()
  else
    let s ← get
    match (s.dirOf (lineOf (e.phys va))).under with
    | .churn _ _ _ => pure ()
    | .mapped _ _ => pure ()
    | _ =>
      let _ ← readShared (keyCore k) (lineOf (e.phys va))
      pure ()
/-- A prefetch: the line is translated as an access is, but a page fault posts no record, for pf never faults (R90, R420, R421). -/
def prefetch (k va : Nat) : M Unit := do
  let s ← get
  let a := threadAsker k
  if 2 ^ 50 ≤ va then pure ()
  else match s.tlbFind a (s.ctxOf k) va with
    | some (l, e) =>
      let f ← freeM
      modify fun s => s.fillTlb a f l e
      prefetchLine k va e
    | none =>
      if ((s.die a.die).missOf (s.ctxOf k) va).isSome then pure ()
      else
        missRoom a (s.ctxOf k) va
        let w ← walk (s.ctxOf k) va
        match w with
        | .leaf e =>
          let f ← freeM
          modify fun s => (s.fillTlb a f 3 e).serveMisses a.die e
          prefetchLine k va e
        | _ => pure ()
def execPf (f : FmtA) (s : State) : Host.Outcome State Fault Refusal :=
  runWord varMeta f.hdr (fun k => do
    roomFor k f.hdr
    let (vs, _) ← operands k (plainOps [f.a, f.b]) none
    orElse (prefetch k (addrAB (src vs 0) (src vs 1))) (fun e => if e == .hold then holdM else pure ()) fun _ => pure ()
    later k f.hdr .nowhere 0) s
/-- sbind: a port bound, or unbound by a count of 0, once every element of the old binding is stored (R91). A misaligned base is judged before the descriptor (DESIGN CHOICE, log entry 42). -/
def execSbind (f : FmtA) (s : State) : Host.Outcome State Fault Refusal :=
  runWord varMeta f.hdr (fun k => do
    roomFor k f.hdr
    let (vs, _) ← operands k (plainOps [f.a, f.b]) none
    let base := (src vs 0).zx
    let desc := (src vs 1).zx
    let p := match f.d with | .special c _ => c.toNat - 16 | _ => 0
    checkAlign base 8
    if bits desc 48 15 ≠ 0 || low 3 desc ≠ 0 then trapC 8
    else if (← getT k).outst.any fun o => o.dest.onPort p then holdM
    else
      let port : StreamPort := if bits desc 32 16 = 0 then { base := wd base, desc := 0, pos := 0 } else { base := wd base, desc := wd desc, pos := wd (2 ^ 63) }
      modT k fun t => { t with streams := dset StreamPort.unbound t.streams p port }
      later k f.hdr .nowhere 0) s

end Sys2Proof.Machine
end

