-- ==== Sys2Proof/Machine/Sync.lean ====
section
/-! DEFINITION. Fences, team barriers, scratchpad mappings and windows (12, R264 to R271). -/
namespace Sys2Proof.Machine

/-! ### Fences (R264, R265) -/

/-- What a fence below pod scope waits for: the thread's SC accesses that their homes still hold and its fabric loads; every other access that is no fabric write is performed when it issues (R264). -/
def State.fenceWait (s : State) (k : Nat) : Wait := if s.unperformed k false s.nextId then .fence else .time
def execFence (f : FmtA) (s : State) : Host.Outcome State Fault Refusal :=
  runWord varMeta f.hdr (fun k => do
    roomFor k f.hdr
    let (_, dst) ← operands k [] (some (plainOp f.d))
    let s ← get
    if immOf f.b = some 6 then laterWait k f.hdr dst 0 (.floor (s.core (keyCore k)).clock)
    else laterWait k f.hdr dst 0 (s.fenceWait k)) s
def execSfence (f : FmtA) (s : State) : Host.Outcome State Fault Refusal :=
  runWord varMeta f.hdr (fun k => do
    roomFor k f.hdr
    let (_, dst) ← operands k [] (some (plainOp f.d))
    let stamp ← takeSerial (keyCore k)
    laterWait k f.hdr dst 0 (.floor stamp)) s

/-! ### Team barriers (R266 to R268) -/

/-- Barrier number and group mask of a B operand; an immediate reads as 0 above bit 3. -/
def barOperand (x : SVal) : Nat × Nat := if x.imm then (low 4 x.v, 0) else (low 4 x.v, bits x.v 32 32)
/-- An arrival: its status and the phase, with the barrier after it; the thread is held when it has already arrived in the open phase. -/
def arrive (k b m : Nat) : M (Nat × Nat) := do
  let s ← get
  let i := (s.thr k).team
  let x := dget Barrier.empty (s.team i).barriers b
  let mask := s.barMask i m
  let open' := if x.arrived.isEmpty then mask else x.mask
  if mask ≠ open' then return (1, x.phase)
  else if !bitAt open' (s.thr k).grp then return (2, x.phase)
  else if x.arrived.contains k then holdM
  else
    orderSignal k
    modTm i fun t => { t with barriers := dset Barrier.empty t.barriers b { x with mask := open', arrived := x.arrived ++ [k] } }
    modify fun s => s.barCheck i b
    return (0, x.phase)
def barWord (waits : Bool) (f : FmtA) (s : State) : Host.Outcome State Fault Refusal :=
  runWord varMeta f.hdr (fun k => do
    roomFor k f.hdr
    let (vs, dst) ← operands k [plainOp f.b] (some (plainOp f.d))
    let (b, m) := barOperand (src vs 0)
    let (st, p) ← arrive k b m
    if waits && st = 0 then laterWait k f.hdr dst p (.barrier b p)
    else later k f.hdr dst (st * 2 ^ 60 + p)) s
def execBar (f : FmtA) (s : State) : Host.Outcome State Fault Refusal := barWord true f s
def execBarw (f : FmtA) (s : State) : Host.Outcome State Fault Refusal := barWord false f s
/-- Whether a phase has completed: (P − p − 1) mod 2^32 < 2^31 (R268). -/
def phasePast (p q : Nat) : Bool := low 32 (p + 2 ^ 32 - low 32 q + 2 ^ 32 - 1) < 2 ^ 31
def execTwait (f : FmtA) (s : State) : Host.Outcome State Fault Refusal :=
  runWord varMeta f.hdr (fun k => do
    roomFor k f.hdr
    let (vs, dst) ← operands k [plainOp f.b] (some (plainOp f.d))
    let v := (src vs 0).zx
    let s ← get
    let x := dget Barrier.empty (s.team (s.thr k).team).barriers (low 4 v)
    later k f.hdr dst (b2n (phasePast x.phase (bits v 32 32)))) s

/-! ### Mappings (R269, R270) -/

/-- The device lines of a range, or how its translation fails. -/
def rangeLines (i : Nat) : List Nat → M (Except EngFail (List Nat))
  | [] => return .ok []
  | va :: r => do
    let p ← engLocate i va 128 1
    match p with
    | .error e => return .error e
    | .ok (.dev pa) =>
      let l ← rangeLines i r
      match l with
      | .error e => return .error e
      | .ok l => return .ok (lineOf pa :: l)
    | .ok _ => return .error (.fatal 2 2)
/-- The serials of accesses to lines that stand admitted and are not performed, by the cores that a test picks: SC accesses that their homes still hold, stream elements that wait for their results (R91, R234, R271). -/
def State.admittedAt (s : State) (who : Nat → Bool) (ls : List Nat) : List Nat :=
  let held := (s.scHeld.filter fun a => (a.reply.isSome || who a.core) && !a.spad && !a.host && ls.contains (lineOf a.pa)).map (·.id)
  let elem (o : Outst) : Bool := match o.dest with | .element _ (.dev pa) _ => ls.contains (lineOf pa) | _ => false
  held ++ s.threads.flatMap fun e => if who (keyCore e.1) then (e.2.outst.filter elem).map (·.id) else []
/-- The accesses of other cores to lines of a core's mapping that are admitted and not performed (R271). -/
def State.throughWindows (s : State) (c : Nat) (ls : List Nat) : List Nat := s.admittedAt (· != c) ls
/-- A line merged, recalled, copied into a scratchpad row and recorded as mapped. -/
def mapLine (i c line row : Nat) : M Unit := do
  modify fun s => (s.spadPut i row (s.memLine line)).setDir line (.mapped c i)
/-- A line made ready to be mapped: every copy and partial recalled, and its place at the home slice kept (R280, R290). -/
def readyLine (line : Nat) : M Unit := do
  snoopSectors (128 * line) 128 true
  homeOwn line
  homeRoom line
  modify fun s => s.setDir line (.shared [])
/-- map of a range by a thread's team; none while a non-fatal fault stalls it, or while an access to the range that came before it is still to be performed (R284). -/
def tryMap (k base len off : Nat) : M (Option Nat) := do
  let s ← get
  let i := (s.thr k).team
  let t := s.team i
  if base % 128 ≠ 0 || len % 128 ≠ 0 || len < 128 || off % 128 ≠ 0 || t.spadSize < off + len then return some (3 * 2 ^ 12)
  else if 8 ≤ t.maps.length then return some (2 * 2 ^ 12)
  else
    let ls ← rangeLines i ((List.range (len / 128)).map fun n => base + 128 * n)
    match ls with
    | .error (.stall _ _) => return none
    | .error (.fatal _ r) =>
      modify fun s => s.spadPut i off (List.replicate len 0)
      return some (5 * 2 ^ 12 + r * 2 ^ 8)
    | .ok ls =>
      let s ← get
      if ls.any fun l => match s.dirOf l with | .mapped _ _ => true | _ => false then return some (1 * 2 ^ 12)
      else if !(s.admittedAt (fun _ => true) ls).isEmpty then return none
      else
        forM' ls readyLine
        forM' ls.zipIdx fun e => mapLine i t.core e.1 (off + 128 * e.2)
        modTm i fun t => { t with maps := t.maps ++ [{ va := base, lines := ls, off := off }] }
        return some 0
def execMap (f : FmtA) (s : State) : Host.Outcome State Fault Refusal :=
  runWord varMeta f.hdr (fun k => do
    roomFor k f.hdr
    let (vs, dst) ← operands k [descOp f.a 2] (some (plainOp f.d))
    let q0 := quadOf (src vs 0) 0
    let q1 := quadOf (src vs 0) 1
    let r ← tryMap k q0 (bits q1 32 32) (low 32 q1)
    match r with
    | some v => later k f.hdr dst v
    | none => laterWait k f.hdr dst 0 (.map q0 (bits q1 32 32) (low 32 q1))) s
/-- unmap: the mapping's windows close, for which the accesses admitted through them are awaited, and its rows are written back (R270, R271). -/
def execUnmap (f : FmtA) (s : State) : Host.Outcome State Fault Refusal :=
  runWord varMeta f.hdr (fun k => do
    roomFor k f.hdr
    let (vs, dst) ← operands k [plainOp f.a] (some (plainOp f.d))
    let s ← get
    let i := (s.thr k).team
    match (s.team i).maps.find? (fun m => m.va == (src vs 0).zx) with
    | none => later k f.hdr dst 1
    | some m =>
      if !(s.throughWindows (s.team i).core m.lines).isEmpty then holdM
      else
        modify fun s => s.unmapOne i m
        later k f.hdr dst 0) s

/-! ### Windows (R271) -/

/-- n consecutive lines from an address within one mapping of a team. -/
def State.windowLines (s : State) (i va n : Nat) : Option (List Nat) :=
  (s.team i).maps.findSome? fun m =>
    if m.va ≤ va && (va - m.va) % 128 == 0 && (va - m.va) / 128 + n ≤ m.lines.length then some ((m.lines.drop ((va - m.va) / 128)).take n) else none
def execWopen (f : FmtA) (s : State) : Host.Outcome State Fault Refusal :=
  runWord varMeta f.hdr (fun k => do
    roomFor k f.hdr
    let (vs, dst) ← operands k (plainOps [f.a, f.b]) (some (plainOp f.d))
    let c := (src vs 1).zx
    let n := low 8 c
    let wr := bitAt c 8
    let s ← get
    let i := (s.thr k).team
    let t := s.team i
    let wc := 4 * coreCluster t.core + bits c 9 2
    if n = 0 || bits c 11 53 ≠ 0 || (wr && wc = t.core) then later k f.hdr dst 3
    else match s.windowLines i (src vs 0).zx n with
      | none => later k f.hdr dst 1
      | some ls =>
        if ls.any fun l => t.windows.any fun w => w.pa == 128 * l then later k f.hdr dst 2
        else if 64 < t.windows.length + n then later k f.hdr dst 4
        else
          modTm i fun t => { t with windows := t.windows ++ ls.map fun l => { pa := 128 * l, wr := wr, core := wc } }
          later k f.hdr dst 0) s
def execWclose (f : FmtA) (s : State) : Host.Outcome State Fault Refusal :=
  runWord varMeta f.hdr (fun k => do
    roomFor k f.hdr
    let (vs, dst) ← operands k (plainOps [f.a, f.b]) (some (plainOp f.d))
    let s ← get
    let i := (s.thr k).team
    let t := s.team i
    match s.windowLines i (src vs 0).zx (src vs 1).zx with
    | none => later k f.hdr dst 1
    | some ls =>
      if ls.all fun l => t.windows.any fun w => w.pa == 128 * l then
        modTm i fun t => { t with windows := t.windows.filter fun w => !ls.contains (w.pa / 128) }
        laterWait k f.hdr dst 0 (.window (s.throughWindows t.core ls))
      else later k f.hdr dst 1) s

end Sys2Proof.Machine
end

