-- ==== Sys2Proof/Machine/Completion.lean ====
section
/-! DEFINITION. Landing and completion: fixed-latency results, variable-latency completions in issue order, threads released from a hold, yields and timeouts that run out (R27 to R31, R80, R140, R314, R315, R412, R413). -/
namespace Sys2Proof.Machine

/-! ### Completion of variable-latency instructions (R28, R412) -/

/-- Whether the accesses of some serials have been performed: SC accesses that homes held, stream elements that waited for their results. -/
def State.passed (s : State) (ids : List Nat) : Bool :=
  ids.isEmpty || ((s.scHeld.all fun a => !ids.contains a.id) && s.threads.all fun e => e.2.outst.all fun o => !ids.contains o.id)
/-- Whether the counter of a completed command may fall: counters of one engine queue fall in queue order (R187). A signal of the copy queue leaves the queue when it is sent, so no later counter waits for its answer (R304; log entry 24). -/
def State.counterTurn (s : State) (i bit id : Nat) : Bool :=
  (s.threadsOf i).all fun k => (s.thr k).outst.all fun o => match o.wait with
    | .inQueue b j => b != bit || id ≤ j
    | _ => true
/-- Whether what an outstanding instruction of thread k waits for has come; waits that other events decide turn into `time`. -/
def State.waitOver (s : State) (k : Nat) : Wait → Bool
  | .time => true
  | .sc id => s.scHeld.all fun a => a.id != id
  | .window ids => s.passed ids
  | .fence => true
  | .floor c => clkLt c s.podFloor
  | .barrier b p => phasePast (dget Barrier.empty (s.team (s.thr k).team).barriers b).phase p
  | .slotDone slot upto => (s.team (s.thr k).team).queues.all fun c => c.slot != some slot || upto ≤ c.id
  | .inQueue b id => s.counterTurn (s.thr k).team b id
  | .queues mask upto => s.queuesDone (s.thr k).team mask upto
  | .map _ _ _ => true
  | .arrival off _ => match s.arrivalAt (s.thr k).team off with
    | none => true
    | some _ => s.arrivalTarget (s.thr k).team off ≤ s.arrivalCount (s.thr k).team off
  | .allFabric _ upto => s.fabric.writes.all fun w => w.th != k || upto ≤ w.id
  | _ => false
/-- Whether an outstanding fence still waits for an earlier access of its thread (R230, R264, R265, R315). -/
def State.fenceHeld (s : State) (k : Nat) (o : Outst) : Bool :=
  match o.wait with
  | .floor _ => s.unperformed k false o.id || s.fabric.reqs.any fun r => r.th == k && r.sc && r.id < o.id
  | .fence | .allFabric _ _ => s.unperformed k false o.id
  | _ => false
/-- Whether a stream element must wait: behind an acquire or a fence, behind the elements of its port used before it, and behind the thread's earlier accesses to the same bytes (R85, R86, R91, R230). -/
def State.elementWaits (s : State) (k : Nat) (o : Outst) : Bool :=
  match o.dest with
  | .element p q _ => s.acquiring k false o.id || s.acquireWaits k o.id || ((s.thr k).outst.any fun x => x.id < o.id && x.dest.onPort p)
      || s.scBehind k q 8 o.id || s.elemBehind k q 8 o.id
  | _ => false
/-- Whether an outstanding instruction may complete now. -/
def State.mayComplete (s : State) (k : Nat) (o : Outst) : Bool :=
  o.doneAt ≤ s.now && s.waitOver k o.wait && !s.fenceHeld k o && !s.elementWaits k o
/-- The result of an instruction whose wait is over; none when it has to wait on after all. -/
def finalValue (k : Nat) (o : Outst) : M (Option Nat) := do
  let s ← get
  let i := (s.thr k).team
  match o.wait with
  | .map base len off => tryMap k base len off
  | .arrival off _ => match s.arrivalAt i off with
    | none => return some (3 * 2 ^ 60)
    | some _ => return some (low 40 (s.arrivalCount i off))
  | .allFabric _ upto =>
    modify fun s => s.ffenceClear k upto
    return some (s.ffenceWord k upto)
  | _ => return some o.val
/-- The sticky error of a counter, set by the first failure, with the conflict report of a failed fabric check (R316, R412). -/
def Thread.setErr (t : Thread) (o : Outst) : Thread :=
  match o.err with
  | none => t
  | some e => if (tget t.dcErr o.dc).isSome then t
    else { t with dcErr := tset t.dcErr o.dc (e, o.src % 16), dcReport := if o.report.isEmpty then t.dcReport else tset t.dcReport o.dc o.report }
/-- The writes of a result; a contested register keeps one of the two values (R31). -/
def keptWrites (f : Nat) (o : Outst) (v : Nat) : List (Loc × Nat) :=
  ((o.dest.writes v).zipIdx.filter fun w => !o.contested.contains w.1.1 || bitAt f w.2).map (·.1)
/-- An outstanding instruction completes: its result is written and its counter falls; a thread that drains is freed with its last (R28, R140). An earlier fixed-latency write to the same register that has not landed yet lands over it: R29 orders fixed-latency writes alone (DESIGN CHOICE, log entry 42). -/
def completeOutst (k : Nat) (o : Outst) : M Unit := asParty k do
  let r ← finalValue k o
  match r with
  | none => pure ()
  | some v =>
    let f ← if o.contested.isEmpty then pure 0 else freeM
    match o.dest with
    | .element _ q w => landElem k q (low w v)
    | _ => pure ()
    modT k fun t => ((t.closeVar o).putAll (keptWrites f o v)).setErr o
    modT k fun t => { t with outst := t.outst.filter fun x => x.id != o.id }
    modify fun s => if (s.thr k).status == .draining && (s.thr k).outst.isEmpty && (tget s.threads k).isSome then s.freeThread k else s
/-- VARIABLE_LATENCY_COMPLETION: the oldest instruction of a counter completes when it may. -/
def execVariableLatencyCompletion (th dc : Nat) (s : State) : Host.Outcome State Fault Refusal :=
  runEvent (do
    let s ← get
    match (s.thr th).outst.find? (·.dc == dc) with
    | none => pure ()
    | some o => if s.mayComplete th o then completeOutst th o else pure ()) s
/-- FIXED_LATENCY_WRITEBACK: the results of a thread that are due are written. -/
def execFixedLatencyWriteback (th : Nat) (s : State) : Host.Outcome State Fault Refusal :=
  runEvent (modT th fun t => t.land s.now) s

/-! ### Release of Held threads and of yields (R80, R140) -/

/-- A thread held behind a gate that is open again: one at a run head stands there as R140 says; one at a word goes on in a solo gang, ranked by the present tick (R141). -/
def State.openGate (s : State) (k : Nat) : State :=
  s.modThr k fun t => if t.mid then { t with status := .ready, stamp := s.now, resume := some s.now } else { t with status := s.headStatus k, stamp := s.now }
/-- HELD_RELEASE: a thread held at a trailer, or behind a gate that is open again. -/
def execHeldRelease (th : Nat) (s : State) : Host.Outcome State Fault Refusal :=
  runEvent (do
    let s ← get
    match (s.thr th).status with
    | .held .gate => if s.gateClosed (s.launchOf th).tenant then pure () else modify fun s => s.openGate th
    | _ => releaseHeld th) s
/-- YIELD_EXPIRY: the head of a thread under yield is a candidate again. -/
def execYieldExpiry (th : Nat) (s : State) : Host.Outcome State Fault Refusal :=
  runEvent (modT th fun t => match t.yielded with
    | some y => if y.till ≤ s.now then { t with yielded := none } else t
    | none => t) s

/-! ### Timeouts of acwait and ffence (R314, R315) -/

def execAcwaitTimeout (th oid : Nat) (s : State) : Host.Outcome State Fault Refusal :=
  runEvent (modify fun s => s.modOutst th oid fun o => match o.wait with
    | .arrival off d => if d ≠ 0 && d ≤ s.now then o.decide (2 * 2 ^ 60 + low 40 (s.arrivalCount (s.thr th).team off)) else o
    | _ => o) s
def execFfenceTimeout (th oid : Nat) (s : State) : Host.Outcome State Fault Refusal :=
  runEvent (modify fun s => match (s.thr th).outst.find? (·.id == oid) with
    | some o => match o.wait with
      | .allFabric d upto => if d ≤ s.now then (s.modOutst th oid fun o => o.decide (s.ffenceWord th upto)).ffenceClear th upto else s
      | _ => s
    | none => s) s

/-! ### What is due for a thread -/

/-- The first outstanding instruction of each counter. -/
def Thread.heads (t : Thread) : List Outst := (List.range 16).filterMap fun dc => t.outst.find? (·.dc == dc)
/-- The events of a thread that are due; a thread held at a trailer is looked at after what is written and completed in the cycle (Table 06-3). -/
def State.threadDue (s : State) (k : Nat) (t : Thread) : List Instr :=
  let land := if t.pend.any fun p => p.land ≤ s.now then [Instr.fixedLatencyWriteback k] else []
  let out := t.outst.filterMap fun o => match o.wait with
    | .arrival _ d => if d ≠ 0 && d ≤ s.now && !s.waitOver k o.wait then some (Instr.acwaitTimeout k o.id) else none
    | .allFabric d _ => if d ≤ s.now && !(s.waitOver k o.wait && !s.fenceHeld k o) then some (Instr.ffenceTimeout k o.id) else none
    | _ => none
  let comp := (t.heads.filter (s.mayComplete k)).map fun o => Instr.variableLatencyCompletion k o.dc
  let held := match t.status, t.twait with
    | .held .trailer, some w => if t.trailerMet w || !land.isEmpty || !out.isEmpty || !comp.isEmpty then [Instr.heldRelease k] else []
    | .held .gate, _ => if s.gateClosed (s.launchOf k).tenant then [] else [Instr.heldRelease k]
    | _, _ => []
  let yld := match t.yielded with
    | some y => if y.till ≤ s.now then [Instr.yieldExpiry k] else []
    | none => []
  land ++ out ++ comp ++ held ++ yld

end Sys2Proof.Machine
end

