-- ==== Sys2Proof/Machine/Placement.lean ====
section
/-! DEFINITION. Placement of teams, binding of tasks, pre-emption, save and resume (R128 to R137, R238, R242, R245, R415 to R418, R440, R441). -/
namespace Sys2Proof.Machine

/-! ### Threads at their start (Table 06-1, R135) -/

/-- Slots of a list of groups, and the offset O(g) of a group. -/
def groupSlots (l : List Group) : Nat := (l.map (·.width)).foldl (· + ·) 0
def groupOffset (l : List Group) (g : Nat) : Nat := groupSlots (l.take g)
/-- A thread of team i at its start, with its program counter. -/
def State.newThread (s : State) (i g j : Nat) (pc : Word) : Thread :=
  let t := s.team i
  let x := s.launch t.launch
  let gr := (t.groups[g]?).getD Group.blank
  let o := groupOffset t.groups g + j
  let tid := t.index * groupSlots t.groups + o
  let base := low 64 (x.prvb.toNat + x.prv * tid)
  { Thread.blank with
    status := .ready, stamp := s.now, team := i, grp := g, j := j, tid := tid, pc := pc, alloc := gr.alloc,
    cstk := wd (base + x.prv), cstkTop := wd (base + x.prv),
    cstkBase := wd (if x.save = 0 then base + 256 else base),
    cairn := if x.save = 0 then wd base else x.save + BitVec.ofNat 64 (256 * o),
    fmode := x.fround, sgen := wd (seedOf (Nat.xor x.seed.toNat (low 64 ((tid + 1) * golden)))),
    checkOn := bitAt t.tstat.toNat 3 }
/-- The key of a team's thread slot. -/
def State.slotKey (s : State) (i g j : Nat) : Nat := 2048 * (s.team i).core + (((s.team i).groups[g]?).getD Group.blank).base + j
/-- The slots of a team's groups as pairs of group and index. -/
def Team.slots (t : Team) (which : Group → Bool) : List (Nat × Nat) :=
  t.groups.zipIdx.flatMap fun e => if which e.1 then (List.range e.1.width).map fun j => (e.2, j) else []

/-! ### Room on a core (R128, R130, R133, R134, R439, R441) -/

/-- The slots of a core that are taken: by a thread, by the task group of a placed team, or by the cluster's atomic service group (R253). -/
def State.usedSlots (s : State) (c : Nat) : List Nat :=
  (if c % 4 = 3 then (List.range 32).map (2016 + ·) else []) ++ (s.threads.filter fun e => keyCore e.1 == c).map (fun e => keySlot e.1)
    ++ s.teams.flatMap fun e => if e.2.placed && e.2.core == c then
        e.2.groups.flatMap fun g => if g.task then (List.range g.width).map (g.base + ·) else [] else []
/-- Slices taken on each home lane of a core. The threads of an atomic service group, in slots 2016 to 2047 of a cluster's core 3 (R253), take none: the spec gives no number for them (DESIGN CHOICE, log entry 27). -/
def State.laneUse (s : State) (c : Nat) : List Nat :=
  let one (l : List Nat) (slot a : Nat) : List Nat := l.modify (slot % 32) (· + a)
  let l := s.threads.foldl (fun l e => if keyCore e.1 == c && !(s.groupOf e.1).task then one l (keySlot e.1) e.2.alloc else l) (List.replicate 32 0)
  s.teams.foldl (fun l e => if e.2.placed && e.2.core == c then
    e.2.groups.foldl (fun l g => if g.task then (List.range g.width).foldl (fun l j => one l (g.base + j) g.alloc) l else l) l else l) l
/-- The lowest free span for a group on each run of lanes where its allocations fit. -/
def groupSpans (g : Group) (used lanes : List Nat) : List Nat :=
  let w := g.width
  let step := if w = 64 then 64 else w
  (List.range (if w < 32 then 32 / w else 1)).filterMap fun p =>
    let need := if w = 64 then 2 * g.alloc else g.alloc
    if (List.range (min w 32)).all fun j => lanes.getD (p * w % 32 + j) 0 + need ≤ Config.slicesPerLane then
      ((List.range (2048 / max step 32)).map fun r => r * max step 32 + p * w).find? fun b => (List.range w).all fun j => !used.contains (b + j)
    else none
/-- Spans for groups in turn, all at once or none: each as its place in the list and its base. -/
def placeInTurn : List (Group × Nat) → List Nat → List Nat → Option (List (Nat × Nat))
  | [], _, _ => some []
  | e :: r, used, lanes => (groupSpans e.1 used lanes).findSome? fun b =>
    let slots := (List.range e.1.width).map (b + ·)
    (placeInTurn r (slots ++ used) (slots.foldl (fun l x => l.modify (x % 32) (· + e.1.alloc)) lanes)).map ((e.2, b) :: ·)
/-- Bases for all groups of a team at once, or none: the widest first, so that a narrow group never splits a span that a wide one needs (R130, R133). -/
def placeGroups (l : List Group) (used lanes : List Nat) : Option (List Nat) :=
  let wider (n : Nat) : List (Group × Nat) := l.zipIdx.filter fun e => e.1.width == n
  (placeInTurn ([64, 32, 16, 8].flatMap wider) used lanes).map fun p => (List.range l.length).map fun n => ((p.find? fun e => e.1 == n).map (·.2)).getD 0
/-- Whether a list of groups makes a pair team (R134). -/
def pairTeam (l : List Group) : Bool := l.any fun g => g.role == .matrix || g.role == .rotate
/-- The cores that a placed team holds. -/
def Team.cores (t : Team) : List Nat := if t.pair then [t.core, t.core + 1] else [t.core]
/-- The cores that hold a team of a tenant. -/
def State.tenantCores (s : State) (tenant : Nat) : List Nat :=
  ((s.teams.filter fun e => e.2.placed && (s.launch e.2.launch).tenant == tenant).flatMap fun e => e.2.cores).eraseDups
/-- A free team slot of a core whose next incarnation the floor admits, and that incarnation (R238, R245). -/
def State.teamSlot (s : State) (c : Nat) : Option (Nat × Nat) :=
  (List.range Config.teamSlots).findSome? fun n =>
    if s.teams.any fun e => e.2.placed && e.2.core == c && e.2.slot == n then none
    else
      let inc := low 8 (dget 0 (s.core c).incs n)
      match (dget [] (s.core c).ends n).find? fun e => e.1 == inc with
      | some e => if clkLt e.2 s.podFloor then some (n, inc) else none
      | none => some (n, inc)
/-- Where a team of a launch fits on a core: team slot, incarnation and bases; only cores whose stack is ready take teams (R453). -/
def State.fits (s : State) (x : Launch) (c : Nat) : Option (Nat × Nat × List Nat) :=
  let pair := pairTeam x.groups
  let spad := ((s.teams.filter fun e => e.2.placed && e.2.core == c).map fun e => e.2.spadSize).foldl (· + ·) 0
  let cores := (s.tenantCores x.tenant ++ (if pair then [c, c + 1] else [c])).eraseDups
  if !bitAt s.trust.ready (12 + coreStack c) then none
  else if (pair && (c % 2 == 1 || s.teams.any fun e => e.2.placed && e.2.pair && e.2.core == c)) || Config.spadPerCore < spad + x.spad
      || (dget Budget.unset s.host.budgets x.tenant).cores < cores.length then none
  else match s.teamSlot c with
    | none => none
    | some (n, inc) => (placeGroups x.groups (s.usedSlots c) (s.laneUse c)).map fun b => (n, inc, b)
/-- The first core after the launch's previous placement that has room (R441). -/
def State.roomFor (s : State) (x : Launch) : Option (Nat × Nat × Nat × List Nat) :=
  (List.range Config.cores).findSome? fun n =>
    let c := (x.lastCore + 1 + n) % Config.cores
    (s.fits x c).map fun r => (c, r)

/-! ### Which team comes next (R437, R440) -/

/-- Effective priority of a launch; one that waits for nothing more stands at its own (R440). -/
def State.effPrio (s : State) (l : Nat) : Nat :=
  let x := s.launch l
  match x.eligible with
  | some e => if x.placed < x.teams then min 7 (x.prio + (s.now - e) / (100000 * Config.ticksPerNs)) else x.prio
  | none => x.prio
/-- What may be placed: a launch whose next team waits, or a saved team whose stamp the floor has passed (R418, R437). -/
def State.waiting (s : State) : List (Nat × Option Nat) :=
  let news := (s.host.launches.filter fun e => !e.2.fin && e.2.placed < e.2.teams && e.2.eligible.isSome && !s.gateClosed e.2.tenant
      && s.host.launches.all fun f => f.2.q != e.2.q || e.1 ≤ f.1 || f.2.teams ≤ f.2.placed).map fun e => (e.1, none)
  let saved := (s.teams.filter fun e => !e.2.placed && !e.2.fin && !s.gateClosed (s.launch e.2.launch).tenant
      && (match e.2.preempt with | some p => clkLt p.saveStamp s.podFloor | none => false)).map fun e => (e.2.launch, some e.1)
  let before (a b : Nat × Option Nat) : Bool :=
    let x := s.launch a.1
    let y := s.launch b.1
    let p := s.effPrio a.1
    let q := s.effPrio b.1
    let ex := x.eligible.getD 0
    let ey := y.eligible.getD 0
    q < p || (p == q && (ex < ey || (ex == ey && (x.q < y.q || (x.q == y.q && a.1 < b.1)))))
  sortBy before (saved ++ news)
/-- The placement to make next. -/
def State.nextPlacement (s : State) : Option (Nat × Option Nat × Nat × Nat × Nat × List Nat) :=
  s.waiting.findSome? fun w => (s.roomFor (s.launch w.1)).map fun r => (w.1, w.2, r)
/-- Launches that find no room are marked with the time from which they wait; those that do are not. -/
def State.markRoom (s : State) : State :=
  s.waiting.foldl (fun s w =>
    if (s.roomFor (s.launch w.1)).isSome then s.modLaunch w.1 fun x => { x with roomSince := none }
    else s.modLaunch w.1 fun x => { x with roomSince := some (x.roomSince.getD s.now) }) s

/-! ### Placement (R129, R133, R212, R242) -/

/-- The floors that a team on a core starts with. -/
def State.startFloors (s : State) (c : Nat) : Floors :=
  { stack := (s.node (coreStack c)).floor, package := (s.node nodePackage).floor, pod := s.podFloor }
/-- A team put on a core: its slot, bases, empty scratchpad and tables. The core's clock stands no lower than the time base (R231). -/
def State.seat (s : State) (i c slot inc : Nat) (bases : List Nat) : State :=
  let s : State := s.modCore c fun x => { x with incs := dset 0 x.incs slot (low 8 (inc + 1)), clock := clkMax x.clock (low 50 s.podTime), tbase := low 50 s.podTime }
  let f := s.startFloors c
  let s : State := s.modTeam i fun t => { t with
    placed := true, core := c, slot := slot, inc := inc, spad := [], acq := [], floors := f, placeAt := s.now, maps := [], windows := [], rings := [],
    groups := t.groups.zipIdx.map fun e => { e.1 with base := bases.getD e.2 0 } }
  s.modLaunch (s.team i).launch fun x => { x with lastCore := c, roomSince := none }
/-- A new team of a launch placed on a core, with all its threads but those of the task group Ready. A team whose only group is its task group ends at once, since the conditions of R138 hold. -/
def State.placeTeam (s : State) (l c slot inc : Nat) (bases : List Nat) : State :=
  let x := s.launch l
  let i := s.nextId
  let s : State := { s with nextId := i + 1 }
  let t : Team := { Team.blank with
    launch := l, index := x.placed, pair := pairTeam x.groups, groups := x.groups.map fun g => { g with live := true }, spadSize := x.spad,
    tstat := wd (8 * b2n x.check) }
  let t : Team := { t with carabiner := t.carList.head? }
  let s : State := { s with teams := tset s.teams i t }
  let s : State := (s.seat i c slot inc bases).modLaunch l fun x => { x with placed := x.placed + 1 }
  let s : State := ((s.team i).slots fun g => !g.task).foldl (fun s e =>
    s.setThr (s.slotKey i e.1 e.2) (s.newThread i e.1 e.2 ((t.groups[e.1]?).getD Group.blank).code)) s
  (s.owe (.team i)).groupsCheck i false
/-- TEAM_PLACEMENT: the team that comes next is placed whole. -/
def execTeamPlacement (s : State) : Host.Outcome State Fault Refusal :=
  runEvent (modify fun s => match s.nextPlacement with
    | some (l, none, c, slot, inc, bases) => s.placeTeam l c slot inc bases
    | _ => s) s

/-! ### Tasks (R137) -/

/-- The lowest Free slot of a team's task group. -/
def State.freeTaskSlot (s : State) (i : Nat) : Option (Nat × Nat) :=
  ((s.team i).slots fun g => g.task && g.live).find? fun e => (tget s.threads (s.slotKey i e.1 e.2)).isNone
def State.bindDue (s : State) (i : Nat) : Bool :=
  (s.team i).placed && (s.team i).preempt.isNone && !(s.team i).taskQ.isEmpty && (s.freeTaskSlot i).isSome
/-- TASK_BIND: the oldest task on the lowest Free slot, its argument in slices 0 to 63. -/
def execTaskBind (team : Nat) (s : State) : Host.Outcome State Fault Refusal :=
  runEvent (modify fun s =>
    if s.bindDue team then
      match (s.team team).taskQ, s.freeTaskSlot team with
      | q :: r, some (g, j) =>
        let t := s.newThread team g j q.entry
        let t := t.putAll ((digits 4 64 (ofLe q.args)).zipIdx.map fun e => (Loc.slice (64 + e.2), e.1))
        let s : State := (s.setThr (s.slotKey team g j) t).modTeam team fun x => { x with taskQ := r }
        s.modThr (s.slotKey team g j) fun t => { t with status := s.headStatus (s.slotKey team g j) }
      | _, _ => s
    else s) s

/-! ### Pre-emption (R415, R417, R440) -/

/-- What a read of a trap table gives: a handler address, a page fault that the fault service is to answer, or a table that cannot be read (R406). -/
inductive Vector' where
  | at' (v : Nat) | wait | bad
deriving DecidableEq, Repr
/-- The handler address of a class in a team's trap table, as far as it can be read now. -/
def vectorOf (i cls : Nat) : M Vector' := do
  let s ← get
  let r ← engReadSpan i (low 64 ((s.launch (s.team i).launch).traps.toNat + 8 * cls)) 8
  match r with
  | .ok b => return .at' (ofLe b)
  | .error (.stall _ _) => return .wait
  | .error (.fatal _ _) => return .bad
/-- Whether a team holds an armed arrival counter (R313, R417). -/
def State.armed (s : State) (i : Nat) : Bool := s.fabric.arrivals.any fun e => e.2.team == i
/-- Whether a thread stands at a run head with its own counters at zero. -/
def Thread.atRest (t : Thread) : Bool := !t.handler && !t.mid && t.outst.all fun o => 8 ≤ o.dc
/-- PREEMPTION_REQUEST: refused at once without a save area or vectors, or with an armed arrival counter; else threads at rest are held, and the guest die is told. -/
def requestPreempt (team : Nat) : M Unit := do
  let s ← get
  let t := s.team team
  if !t.placed || t.fin || t.preempt.isSome then pure ()
  else
    let v ← vectorOf team 21
    let w ← vectorOf team 22
    if (s.launch t.launch).save = 0 || v = .at' 0 || w = .at' 0 || s.armed team then refusePreempt team
    else
      let quiet := t.guest.isEmpty || s.socket.fenced || !s.socket.ready
      modTm team fun t => { t with preempt := some { at' := s.now, guestAck := quiet, entered := false, saveStamp := 0 } }
      if quiet then pure ()
      else
        let id ← newId
        modify fun s => ({ s with socket := { s.socket with preempts := s.socket.preempts ++ [(id, team, s.now, false)] } }).emit (.guestPreempt id (s.tagOf team) false)
      forM' (s.threadsOf team) fun k => modT k fun t =>
        if (t.status == .ready || t.status == .held .gate) && t.atRest then { t with status := .held .preempt } else t
def execPreemptionRequest (team : Nat) (s : State) : Host.Outcome State Fault Refusal := runEvent (requestPreempt team) s
/-- Whether a team under pre-emption is ready to enter its handlers. -/
def State.entryDue (s : State) (i : Nat) : Bool :=
  match (s.team i).preempt with
  | some p => (s.team i).placed && !p.entered && p.guestAck && (s.threadsOf i).all fun k => (s.thr k).status == .held .preempt
  | none => false
/-- The held threads of a team go on unchanged, and the queue engine is told that the pre-emption is refused (R417); saved guest packets are posted again. -/
def dropPreempt (team : Nat) : M Unit := do
  refusePreempt team
  let s ← get
  forM' (s.threadsOf team) fun k => modT k fun t =>
    if t.status == .held .preempt then { t with status := if s.gateClosed (s.launchOf k).tenant then .held .gate else .ready } else t
  modify fun s => s.repost team
/-- PREEMPTION_ENTRY: all threads enter the class-21 vector together. A counter armed since the request, or a vector of 0, which a page fault on the table kept from sight then, refuses the pre-emption (R417). -/
def execPreemptionEntry (team : Nat) (s : State) : Host.Outcome State Fault Refusal :=
  runEvent (do
    let s ← get
    let v ← if s.entryDue team then vectorOf team 22 else pure .wait
    if !s.entryDue team then pure ()
    else if s.armed team || v = .at' 0 then dropPreempt team
    else if v = .wait then pure ()
    else
      modTm team fun t => { t with preempt := t.preempt.map fun p => { p with entered := true } }
      forM' (s.threadsOf team) fun k =>
        takeTrap k { cls := 21, code := 0, addr := 0, det1 := 0, det2 := 0, det3 := 0, pos := (s.thr k).pc, mid := false }) s
/-- The 500 µs of R417 in ticks. -/
def preemptLimit : Nat := 500000 * Config.ticksPerNs
/-- PREEMPTION_TIMEOUT: the pre-emption is refused, and the held threads are released unchanged. -/
def execPreemptionTimeout (team : Nat) (s : State) : Host.Outcome State Fault Refusal :=
  runEvent (do
    let s ← get
    match (s.team team).preempt with
    | some p =>
      if !p.entered && (s.team team).placed && p.at' + preemptLimit ≤ s.now then dropPreempt team else pure ()
    | none => pure ()) s
/-- PLACEMENT_PREEMPT: a launch that has waited 200 µs for room asks for the latest-placed team whose effective priority is at least 2 below. -/
def State.victimFor (s : State) (l : Nat) : Option Nat :=
  let p := s.effPrio l
  (minBy (fun a b => decide ((s.team b).placeAt < (s.team a).placeAt)) ((s.teams.filter fun e =>
    e.2.placed && e.2.preempt.isNone && s.effPrio e.2.launch + 2 ≤ p).map (·.1)))
def State.roomLate (s : State) (x : Launch) : Bool :=
  !x.fin && x.placed < x.teams && x.roomSince.elim false fun t => t + 200000 * Config.ticksPerNs ≤ s.now
def execPlacementPreempt (launch : Nat) (s : State) : Host.Outcome State Fault Refusal :=
  runEvent (do
    let s ← get
    if s.roomLate (s.launch launch) then
      modify fun s => s.modLaunch launch fun x => { x with roomSince := some s.now }
      match s.victimFor launch with
      | some i => requestPreempt i
      | none => pure ()
    else pure ()) s

/-! ### Save and resume (R416, R418) -/

/-- A thread key of a team as an index into its slots, and back; barriers keep their arrivals by it. An arrival whose thread has gone keeps its mark (R266). -/
def State.slotIndex (s : State) (k : Nat) : Nat :=
  if k = noThread then k else groupOffset (s.team (s.thr k).team).groups (s.thr k).grp + (s.thr k).j
def State.indexKey (s : State) (i n : Nat) : Nat :=
  if n = noThread then n else match ((s.team i).slots fun _ => true)[n]? with
  | some (g, j) => s.slotKey i g j
  | none => 0
/-- The key under which a Saved thread of a team waits, by its index; no core has it. -/
def savedKey (i n : Nat) : Nat := 2 ^ 41 + 4096 * i + n
/-- A thread under another key, with the fabric writes that name it. -/
def State.rekey (s : State) (k k' : Nat) (t : Thread) : State :=
  let w (x : FabWrite) : FabWrite := if x.th == k then { x with th := k' } else x
  { s with threads := tset (tdel s.threads k) k' t, fabric := { s.fabric with writes := s.fabric.writes.map w } }
def State.saveDue (s : State) (i : Nat) : Bool :=
  match (s.team i).preempt with
  | some p => (s.team i).placed && p.entered && (s.threadsOf i).all fun k => (s.thr k).status == .saved
  | none => false
/-- Bytes of the team block that stand for a barrier: phase, group mask, arrivals by place in the team's slots. An arrival whose thread has gone is none of these (R266). -/
def Barrier.bytes (b : Barrier) : Bytes := leBytes 4 b.phase ++ leBytes 4 b.mask ++ leBytes 256 ((b.arrived.filter (· < 2048)).foldl (fun a n => setBits a n 1 1) 0)
/-- Bytes that stand for an accumulator slot: type and progress. -/
def AccSlot.bytes (a : AccSlot) : Bytes :=
  leBytes 8 ((match a.ty with | .f32 => 0 | .f64 => 1 | .s32 => 2) + 4 * a.state) ++ leBytes 8 a.groups ++ leBytes 8 a.progress
/-- The team block of 16 KiB in the device's own layout (R416; DESIGN CHOICE, log entry 12). -/
def TeamBlock.bytes (b : TeamBlock) : Bytes :=
  let x := (List.range 16).flatMap (fun n => (dget Barrier.empty b.barriers n).bytes) ++ leBytes 8 (b.carabiner.elim 0 (· + 1))
    ++ (List.range 16).flatMap (fun n => ((b.acc.find? fun e => e.1 == n).elim AccSlot.empty (·.2)).bytes)
    ++ leBytes 8 b.taskQ.length ++ b.taskQ.flatMap fun e => leBytes 8 e.entry.toNat ++ e.args
  x ++ List.replicate (16384 - x.length) 0
/-- The address of a team's block: behind one cairn record for each of its slots (R416). -/
def State.blockAddr (s : State) (i : Nat) : Nat := low 64 ((s.launch (s.team i).launch).save.toNat + 256 * groupSlots (s.team i).groups)
/-- The team block of a team as it stands. -/
def State.blockOf (s : State) (i : Nat) : TeamBlock :=
  let t := s.team i
  let keep (b : Barrier) : Barrier := { b with arrived := b.arrived.map s.slotIndex }
  { barriers := t.barriers.map fun e => (e.1, keep e.2), carabiner := t.carabiner, acc := t.acc.map fun e => (e.1, { e.2 with vals := [] }), taskQ := t.taskQ }
/-- TEAM_SAVE: mappings end, the team block is written to the save area, the save stamp is taken, slots and scratchpad are freed. While a page of the save area waits for the fault service the team stays; a page that cannot be written makes the save fatal (DEDUCED, log entry 12). -/
def execTeamSave (team : Nat) (s : State) : Host.Outcome State Fault Refusal :=
  runEvent (do
    let s ← get
    if !s.saveDue team then pure ()
    else
      modify fun s => s.unmapAll team
      let blk := s.blockOf team
      let r ← engWriteSpan team (s.blockAddr team) blk.bytes
      match r with
      | .error (.stall _ _) => pure ()
      | .error (.fatal _ _) => modify fun s => s.fatalTeam team
      | .ok _ => modify fun s =>
        let stamp := (s.core (s.team team).core).clock
        let s : State := (s.threadsOf team).foldl (fun s k => s.rekey k (savedKey team (s.slotIndex k)) (s.thr k)) s
        s.modTeam team fun t => { t with
          placed := false, block := some blk, spad := [], rings := [], acc := [], taskQ := [],
          preempt := t.preempt.map fun p => { p with saveStamp := stamp } }) s
/-- A Saved thread Ready at the class-22 vector: started anew, with its counter errors and its record of failed fabric writes (R418, R426). -/
def State.resumeThread (s : State) (i k v : Nat) : State :=
  let t := s.thr k
  let n : Thread := { s.newThread i t.grp t.j (wd v) with handler := true, dcErr := t.dcErr, dcReport := t.dcReport, fabFail := t.fabFail, boundIds := t.boundIds, boundFail := t.boundFail, paged := t.paged }
  s.rekey k (s.slotKey i t.grp t.j) n
/-- The reads of a resume: the class-22 vector and the team block; none while a page waits for the fault service, `some none` where the resume is fatal: a table or block that cannot be read, a handler address of 0, misaligned, not mapped or not executable, a block that is not as it was saved (R406, R416, R418; an address of 0 DEDUCED, log entry 12). -/
def resumeReads (team : Nat) (b : TeamBlock) : M (Option (Option Nat)) := do
  let s ← get
  let v ← vectorOf team 22
  match v with
  | .wait => return none
  | .bad => return some none
  | .at' v =>
    let r ← engReadSpan team (s.blockAddr team) 16384
    match r with
    | .error (.stall _ _) => return none
    | .error (.fatal _ _) => return some none
    | .ok x =>
      let p ← tryTranslate (s.engAsker team) (s.launch (s.team team).launch).ctx v 4
      return some (if v = 0 || v % 8 ≠ 0 || x ≠ b.bytes then none else match p with | .ok _ => some v | .error _ => none)
/-- TEAM_RESUME: a saved team on a core again; its threads enter the class-22 vector. -/
def execTeamResume (team : Nat) (s : State) : Host.Outcome State Fault Refusal :=
  runEvent (do
    let s ← get
    let t := s.team team
    match t.block, s.roomFor (s.launch t.launch), t.preempt with
    | some b, some (c, slot, inc, bases), some p =>
      if t.placed || t.fin || !clkLt p.saveStamp s.podFloor then pure ()
      else
        let v ← resumeReads team b
        match v with
        | none => pure ()
        | some v =>
          let ks := s.threadsOf team
          modify fun s => s.seat team c slot inc bases
          let s' ← get
          let back (e : Nat × Barrier) : Nat × Barrier := (e.1, { e.2 with arrived := e.2.arrived.map (s'.indexKey team) })
          modTm team fun t => { t with
            preempt := none, block := none, carabiner := b.carabiner, acc := b.acc, taskQ := b.taskQ, barriers := b.barriers.map back,
            tstat := wd (setBits t.tstat.toNat 2 1 1) }
          forM' ks fun k => modify fun s => s.resumeThread team k (v.getD 0)
          modify fun s => s.repost team
          if v.isNone then modify fun s => s.fatalTeam team else pure ()
    | _, _, _ => pure ()) s

/-! ### What is due -/

/-- The events of a team that are due. -/
def State.teamDue (s : State) (i : Nat) : List Instr :=
  let t := s.team i
  let pre := match t.preempt with
    | some p => if t.placed && !p.entered && p.at' + preemptLimit ≤ s.now then [Instr.preemptionTimeout i] else []
    | none => []
  (if s.bindDue i then [Instr.taskBind i] else []) ++ (if s.entryDue i then [Instr.preemptionEntry i] else []) ++ pre
    ++ (if s.saveDue i then [Instr.teamSave i] else [])
/-- The placement events that are due. -/
def State.placeDue (s : State) : List Instr :=
  (match s.nextPlacement with
   | some (_, none, _) => [Instr.teamPlacement]
   | some (_, some i, _) => [Instr.teamResume i]
   | none => [])
    ++ (s.host.launches.filter fun e => s.roomLate e.2).map fun e => Instr.placementPreempt e.1

end Sys2Proof.Machine
end

