-- ==== Sys2Proof/Machine/Faults.lean ====
section
/-! DEFINITION. The fault service: page walks, answers and timeouts of fault tickets, replay of held accesses, trap entries that had to wait; and the host's cancel (R146, R421 to R424, R442). -/
namespace Sys2Proof.Machine

/-- PAGE_WALK: a walk for a requester. -/
def execPageWalk (req : WalkReq) (s : State) : Host.Outcome State Fault Refusal :=
  runEvent (pageWalk { core := none, die := req.stack, src := req.src } req.ctx req.va.toNat req.acc (2 ^ req.src)) s
/-- TRAP_ENTRY: a thread takes a trap, or takes up again a trap entry that had to wait; a fatal answer to it makes the trap fatal (R406, R410). -/
def execTrapEntry (th : Nat) (trp : TrapInfo) (s : State) : Host.Outcome State Fault Refusal :=
  runEvent (do
    let s ← get
    if (tget s.threads th).isNone then pure ()
    else if (s.thr th).faultWait.elim false fun w => w.entry && w.answer.isSome then modify fun s => s.fatalTeam (s.thr th).team
    else
      modT th fun t => { t with faultWait := t.faultWait.filter fun w => !w.entry }
      takeTrap th trp) s
/-- A trap's details after a fatal answer: ticket 0 and the reason (R424). The fault of a fetch becomes the instruction-fetch fault (R12, R24). -/
def TrapInfo.fatal (i : TrapInfo) (r : Nat) : TrapInfo :=
  { i with cls := if i.cls = 11 && bits i.det1.toNat 56 8 = 4 then 14 else i.cls, det1 := wd (setBits (setBits i.det1.toNat 48 8 r) 0 32 0) }
/-- FAULT_REPLAY: a thread held at a word replays its access once its ticket is answered, inside a run in a solo gang ranked by this release (R141); a fatal answer raises class 11 again, or class 14 for a fetch. Behind a closed gate the thread goes on once the gate opens (R140). -/
def execFaultReplay (th : Nat) (s : State) : Host.Outcome State Fault Refusal :=
  runEvent (do
    let s ← get
    let t := s.thr th
    match t.status, t.faultWait with
    | .held .word, some w =>
      if w.entry || s.ticketOpen w.stack w.ticket then pure ()
      else
        modT th fun t => { t with faultWait := none }
        match w.answer with
        | some r => takeTrap th (TrapInfo.fatal w.info r)
        | none =>
          if s.gateClosed (s.launchOf th).tenant then modT th fun t => { t with status := .held .gate }
          else modify fun s => s.openGate th
    | _, _ => pure ()) s

/-! ### Answers (R422, R423, R442) -/

/-- A ticket's entry leaves with a fatal answer: threads, commands and bulk transfers that wait for it learn of it; what tries again meets it. -/
def State.fatalTicket (s : State) (d ticket reason : Nat) : State :=
  let mark (m : Miss) : Miss := if m.ticket == ticket then { m with fatal := some (reason, s.now) } else m
  let s : State := s.modDie d fun x => { x with misses := x.misses.map mark }
  let tell (t : Thread) : Thread := { t with faultWait := t.faultWait.map fun w => if w.stack == d && w.ticket == ticket then { w with answer := some reason } else w }
  let s : State := (s.threads.map (·.1)).foldl (fun s k => s.modThr k tell) s
  let s : State := (s.teams.map (·.1)).foldl (fun s i => ((s.team i).queues.filter fun c => c.stall == some (d, ticket)).foldl (fun s c => s.failCmd i c 2 1) s) s
  (s.fabric.bulks.filter fun b => b.stall == some (d, ticket)).foldl (fun s b =>
    (s.modBulk b.id fun b => { b with sent := b.bytes, stall := none, status := max b.status 9 }).bulkCheck b.id) s
/-- FAULT_ANSWER: the value written to fans. A retry walks again, and posts a new record when the entry is still invalid (R426); a ticket that no stack holds, or an answer that is none, is ignored and counted. -/
def execFaultAnswer (ans : Word) (s : State) : Host.Outcome State Fault Refusal :=
  runEvent (do
    let s ← get
    let x := ans.toNat
    let d := bits x 62 2
    match (s.die d).misses.find? (fun m => m.ticket == low 32 x && m.fatal.isNone), bits x 60 2, bits x 32 24 with
    | some m, 1, 0 =>
      modify fun s => s.modDie d fun x => { x with misses := x.misses.filter fun y => y.ticket != m.ticket }
      pageWalk { core := none, die := d, src := 0 } m.ctx (m.page * 2 ^ 12) m.acc m.src
    | some m, 2, 0 => modify fun s => s.fatalTicket d m.ticket (bits x 56 4)
    | _, _, _ => modify fun s => { s with host := { s.host with fansMiss := s.host.fansMiss + 1 } }) s
/-- The fault timeout of a context in ticks (Table 24-8). -/
def State.faultLimit (s : State) (ctx : Nat) : Nat :=
  let ms := (s.ctxAt ctx).elim 0 (·.timeoutMs)
  (if ms = 0 then 20 else ms) * 1000000 * Config.ticksPerNs
/-- FAULT_TIMEOUT: a record unanswered within its context's timeout counts as fatal with reason 1. -/
def execFaultTimeout (stack ticket : Nat) (s : State) : Host.Outcome State Fault Refusal :=
  runEvent (modify fun s => match (s.die stack).misses.find? (fun m => m.ticket == ticket && m.fatal.isNone) with
    | some m => if m.at' + s.faultLimit m.ctx ≤ s.now then s.fatalTicket stack ticket 1 else s
    | none => s) s

/-! ### Host cancel (R146) -/

/-- HOST_CANCEL: the host cancels a unit. -/
def execHostCancel (unit : UnitRef) (s : State) : Host.Outcome State Fault Refusal := runEvent (modify fun s => s.cancelUnit unit) s

/-! ### What is due -/

/-- Entries whose fatal answer every waiter has had a cycle to meet leave the table. -/
def State.ageMisses (s : State) : State :=
  let old (m : Miss) : Bool := match m.fatal with
    | some (_, t) => t + 2 * Config.ticksPerCycle < s.now
    | none => false
  let d (e : Nat × Stack) : Nat × Stack := (e.1, { e.2 with misses := e.2.misses.filter fun m => !old m })
  { s with dies := s.dies.map d }
/-- The fault events that are due. -/
def State.faultDue (s : State) : List Instr :=
  let late := s.dies.flatMap fun e => (e.2.misses.filter fun m => m.fatal.isNone && m.at' + s.faultLimit m.ctx ≤ s.now).map fun m => Instr.faultTimeout e.1 m.ticket
  let held := s.threads.filterMap fun e => match e.2.status, e.2.faultWait with
    | .held .word, some w =>
      if s.ticketOpen w.stack w.ticket then none
      else if w.entry then some (Instr.trapEntry e.1 w.info)
      else some (Instr.faultReplay e.1)
    | _, _ => none
  late ++ held

end Sys2Proof.Machine
end

