-- ==== Sys2Proof/Machine/CoherenceEvents.lean ====
section
/-! DEFINITION. Transactions at a home as events of their own, and the host's accesses to device memory (14, R279 to R293, R448). -/
namespace Sys2Proof.Machine

/-! ### Requests of the cores (R282 to R286) -/

/-- READ_SHARED, READ_OWN, UPGRADE: the home serves a core's request. -/
def execReadShared (core line : Nat) (s : State) : Host.Outcome State Fault Refusal :=
  runEvent (do
    snoopSectors (128 * line) 128 false
    let _ ← readShared core line
    pure ()) s
def execReadOwn (core line : Nat) (s : State) : Host.Outcome State Fault Refusal :=
  runEvent (do
    let _ ← readOwn core line
    pure ()) s
/-- An Upgrade whose S copy is gone is served as ReadOwn; one whose copy still stands raises it to M. -/
def execUpgrade (core line : Nat) (s : State) : Host.Outcome State Fault Refusal :=
  runEvent (do
    let _ ← readOwn core line
    pure ()) s
/-- JOIN: a core admitted to the Churn state of a line. -/
def execJoin (core line : Nat) (tag : ChTag) (sigma : Int) (s : State) : Host.Outcome State Fault Refusal :=
  runEvent (do
    let _ ← joinLine core line tag sigma
    pure ()) s
/-- The home's vector without a core. -/
def LineState.without (d : LineState) (c : Nat) : LineState :=
  match d with
  | .shared v => if (v.filter (· != c)).isEmpty then .uncached else .shared (v.filter (· != c))
  | .owned o => if o = c then .uncached else d
  | d => d
/-- INVALIDATE: a core's copy goes, an M copy giving its data. -/
def execInvalidate (core line : Nat) (s : State) : Host.Outcome State Fault Refusal :=
  runEvent (modify fun s => let s : State := s.invalidateAt core line; s.setDir line ((s.dirOf line).without core)) s
/-- RECALL: an M or E copy goes to S, or to I. -/
def execRecall (core line : Nat) (keep : Bool) (s : State) : Host.Outcome State Fault Refusal :=
  runEvent (modify fun s =>
    if keep then
      let s : State := s.recallShared core line
      match s.dirOf line with
      | .owned c => if c = core then s.setDir line (if (s.l1Of core line).isSome then .shared [core] else .uncached) else s
      | _ => s
    else let s : State := s.invalidateAt core line; s.setDir line ((s.dirOf line).without core)) s
/-- MERGE_RECALL: a core gives its partial to the merge of the line, which takes every partial in the order of R288. -/
def execMergeRecall (core line : Nat) (s : State) : Host.Outcome State Fault Refusal :=
  runEvent (do
    modify fun s => s.unbusy line
    let s ← get
    if (s.partialAt core line).isSome then mergeRead line else pure ()) s

/-! ### Write-back (R285) -/

/-- WBREQ: an M line or a partial moves into the victim buffer, unless that is full. -/
def execWbreq (core line : Nat) (s : State) : Host.Outcome State Fault Refusal :=
  runEvent (modify fun s =>
    if 32 ≤ (s.core core).victim.length then s
    else
      let go (v : L1Line) : State := (s.setL1 core line none).modCore core fun x => { x with victim := tset x.victim line v }
      match s.l1Of core line with
      | some (.m d) => go (.m d)
      | some (.c g sg d) => go (.c g sg d)
      | _ => s) s
/-- The home makes a line that is not Busy Busy for a core whose entry stands in its victim buffer (R285). -/
def State.grant (s : State) (core line : Nat) : State :=
  if s.peerAcks.any (·.line == line) then s
  else match tget (s.core core).victim line, s.dirOf line with
    | some (.m _), .owned c => if c = core then s.setDir line (.busy core (.owned c)) else s
    | some (.c _ _ _), .churn g sg v => s.setDir line (.busy core (.churn g sg v))
    | _, _ => s
/-- WBGRANT. -/
def execWbgrant (core line : Nat) (s : State) : Host.Outcome State Fault Refusal := runEvent (modify fun s => s.grant core line) s
/-- WB_DATA: the data phase, empty when the entry was served meanwhile. -/
def execWbData (core line : Nat) (s : State) : Host.Outcome State Fault Refusal := runEvent (modify fun s => s.writeBack core line) s
/-- One entry of a victim buffer a phase further: its data once the home has granted it, else the grant, once the line is not Busy; an entry served meanwhile just goes (R285). -/
def State.drainOne (s : State) (c line : Nat) : State :=
  match s.dirOf line with
  | .busy b _ => if b = c then s.writeBack c line else s
  | .owned _ | .churn _ _ _ => s.grant c line
  | _ => s.writeBack c line
/-- Every entry of the victim buffers one phase further. -/
def State.drainVictims (s : State) : State :=
  s.cores.foldl (fun s c => c.2.victim.foldl (fun s e => s.drainOne c.1 e.1) s) s

/-! ### The host at the home (R292, R293, R448) -/

/-- Whether a physical range lies in one that a confidential domain has been assigned (R448). -/
def State.domainRange (s : State) (pa n : Nat) : Bool :=
  s.trust.domains.any fun d => d.2.ranges.any fun r => pa < r.1 + r.2 && r.1 < pa + n
/-- Whether the host is refused a physical range: one of a domain, the context table, or the ring of a guest queue (R370, R430, R448). -/
def State.barred (s : State) (pa n : Nat) : Bool := s.domainRange pa n || s.ctxGuard pa n || s.ringGuard pa n
/-- A refusal counted. -/
def State.countRefusal (s : State) : State := { s with trust := { s.trust with sealRefused := s.trust.sealRefused + 1 } }
/-- The other outside party's hold on a sector snooped: an owner down to S for a read, any holder down to I for a write. -/
def snoopOther (toHost : Bool) (write : Bool) (n : Nat) : M Unit := do
  let s ← get
  let x := s.sector n
  let st := if toHost then x.host else x.guest
  if (if write then st != .i else st == .m) then do
    if toHost then
      if x.hostSnoop then pure () else modify fun s => (s.setSector n { x with hostSnoop := true }).emit (.backInvalidate n write)
    else
      if x.guestSnoop.isSome then pure () else modify fun s => (s.setSector n { x with guestSnoop := some s.now }).emit (.guestSnoop n write)
    holdM
  else pure ()
/-- The lines that n bytes touch. -/
def linesOf (pa n : Nat) : List Nat := (List.range ((pa + n - 1) / 128 - pa / 128 + 1)).map (pa / 128 + ·)
/-- Bytes read at the home, a Churn line merged and left Churn. -/
def homeBytes (pa n : Nat) : M Bytes := do
  forM' (linesOf pa n) homeReady
  let s ← get
  return ((linesOf pa n).flatMap s.lineView |>.drop (pa % 128)).take n
/-- Bytes written at the home by the host or the guest die: records of kind none; a mapped line refuses them (R240, R269). -/
def outsideWrite (pa : Nat) (b : Bytes) : M Unit := do
  forM' (linesOf pa b.length) homeOwn
  forM' (byteSegs pa b) fun g => modify fun s =>
    if (s.mapOf (lineOf g.1)).isSome then s
    else (s.putAt g.1 g.2).recordWrite (lineOf g.1) 0 0 .external
/-- Whether a sector of a line may be handed out to the host or the guest die: reads of Churn and mapped lines are delivered uncached, and a mapped line takes no other party's writes (R288, R290). -/
def State.handsOut (s : State) (line : Nat) : Bool := match s.dirOf line with
  | .churn _ _ _ | .mapped _ _ => false
  | _ => true
/-- Device copies of the lines dropped to S, or given up, before a sector is handed out. -/
def State.handOut (s : State) (line : Nat) (own : Bool) : State :=
  if own then ((s.gather line).invalidateOthers none line).setDir line (match (s.gather line).dirOf line with | .mapped c i => .mapped c i | _ => .uncached)
  else s.gather line
/-- The lowest stack whose stack and hbm bits are both set (R454). -/
def State.bivouacStack (s : State) : Option Nat := (List.range 4).find? fun i => bitAt s.trust.ready (12 + i) && bitAt s.trust.ready (16 + i)
/-- Whether the host's window holds n bytes: all device memory, in bivouac mode the 192 GiB of one stack (R427, R454). -/
def State.hostSees (s : State) (pa n : Nat) : Bool :=
  if bitAt s.trust.ready 39 then s.bivouacStack.elim false fun i => i * (192 * 2 ^ 30) ≤ pa && pa + n ≤ (i + 1) * (192 * 2 ^ 30)
  else pa + n ≤ Config.memBytes
/-- A host read of device memory. An address outside the host's window is not this device's, which does nothing (R427; DEDUCED, log entry 8). -/
def hostRead (pa n : Nat) (keep : Bool) : M Unit := do
  let s ← get
  if !s.hostSees pa n then pure ()
  else if s.barred pa n then modify fun s => s.countRefusal.emit (.hostData (List.replicate n 0))
  else
    forM' (sectorsOf pa n) (snoopOther false false)
    let b ← homeBytes pa n
    let s ← get
    if keep then forM' ((sectorsOf pa n).filter fun x => s.handsOut (x / 2)) fun x => modify fun s => s.setSector x { s.sector x with host := if (s.sector x).host = .m then .m else .s } else pure ()
    modify fun s => s.emit (.hostData b)
/-- A host write, or a host request to own a sector. -/
def hostWrite (pa : Nat) (b : Bytes) (own : Bool) : M Unit := do
  let s ← get
  let n := if b.isEmpty then 64 else b.length
  if !s.hostSees pa n then pure ()
  else if s.barred pa n then modify State.countRefusal
  else
    forM' (sectorsOf pa n) (snoopOther false true)
    forM' (linesOf pa n) homeOwn
    if b.isEmpty then pure () else outsideWrite pa b
    let s ← get
    if own then forM' ((sectorsOf pa n).filter fun x => s.handsOut (x / 2)) fun x => modify fun s => s.setSector x { s.sector x with host := .m } else pure ()
/-- A request that cannot be served yet waits at its home in arrival order. -/
def orWait (r : PortReq) (m : M Unit) : M Unit := fun s =>
  match m s with
  | (.error .hold, s') => (.ok (), { s' with portWait := s'.portWait ++ [r] })
  | x => x
/-- HOST_MEM_READ, HOST_MEM_WRITE. -/
def execHostMemRead (pa n : Nat) (keep : Bool) (s : State) : Host.Outcome State Fault Refusal :=
  runEvent (orWait (.hostRead pa n keep) (asParty partyHost (hostRead pa n keep))) s
def execHostMemWrite (pa : Nat) (data : Bytes) (own : Bool) (s : State) : Host.Outcome State Fault Refusal :=
  runEvent (orWait (.hostWrite pa data own) (asParty partyHost (hostWrite pa data own))) s
/-- The data of a sector that its outside owner gives back, merged into the line (R293). -/
def State.mergeSector (s : State) (n : Nat) (data : Bytes) : State :=
  if data.length = 64 then (s.putAt (64 * n) data).recordWrite (n / 2) 0 0 .external else s
/-- HOST_WRITEBACK: only the sector's bytes change. -/
def execHostWriteback (sector : Nat) (data : Bytes) (s : State) : Host.Outcome State Fault Refusal :=
  runEvent (modify fun s =>
    let x := s.sector sector
    if x.host = .m then (s.mergeSector sector data).setSector sector { x with host := .i, hostSnoop := false } else s) s
/-- BISNP_RESPONSE: a sector comes down to S or I, an owned one with its data. -/
def execBisnpResponse (sector : Nat) (inv : Bool) (data : Bytes) (s : State) : Host.Outcome State Fault Refusal :=
  runEvent (modify fun s =>
    let x := s.sector sector
    if x.hostSnoop then
      let s : State := if x.host = .m then s.mergeSector sector data else s
      s.setSector sector { x with host := if inv then .i else if x.host = .i then .i else .s, hostSnoop := false }
    else s) s
/-- HOST_SNOOP: the first-level copies of a host-memory line go. -/
def execHostSnoop (line : Nat) (s : State) : Host.Outcome State Fault Refusal :=
  runEvent (modify fun s => (s.cores.map (·.1)).foldl (fun s c => s.setL1 c (2 ^ 45 + line) none) s) s

end Sys2Proof.Machine
end

