-- ==== Sys2Proof/Machine/Guest.lean ====
section
/-! DEFINITION. The anchor socket: the guest die's messages and coherent-port requests, completions in queue order, duties and the fence (20, R369 to R382). -/
namespace Sys2Proof.Machine

/-! ### The hub's translation agent (R375, R421) -/

/-- The stack that serves the agent's misses for an address, and who asks (source bit 2 guest die, 3 fabric target). -/
def hubAsker (va src : Nat) : Asker := { core := none, die := bits va 21 2, src := src }
/-- The context that serves a tenant at this device: the tenant context map's, else one given (R431). -/
def State.tenantCtx (s : State) (tenant own : Nat) : Nat :=
  let q := s.tmapAt tenant
  if bitAt q 63 then low 16 q else own
def State.setSocket (s : State) (f : Socket → Socket) : State := { s with socket := f s.socket }
def State.discard (s : State) : State := s.setSocket fun x => { x with discarded := x.discarded + 1 }
/-- The packet under a ticket of a queue. -/
def State.guestPacket (s : State) (q ticket : Nat) : Option GuestPacket :=
  (tget s.socket.queues q).bind fun x => x.packets.find? (·.ticket == ticket)
def State.modPacket (s : State) (q ticket : Nat) (f : GuestPacket → GuestPacket) : State :=
  s.setSocket fun x => { x with queues := tmod x.queues q fun y => { y with packets := y.packets.map fun p => if p.ticket == ticket then f p else p } }

/-! ### Completion (R372) -/

/-- The completion record written at cpl, once no outside party owns its sector. A mapped line takes no other party's writes (R269): there it stays unwritten and is counted, as where the page cannot be written. -/
def writeRecord (p : GuestPacket) (status : Nat) (result : Word) : M Unit := do
  let cpl := (p.quads.getD 3 0).toNat
  let b := leBytes 16 (status + p.ticket * 2 ^ 40 + result.toNat * 2 ^ 64)
  let miss : M Unit := modify fun s => s.setSocket fun x => { x with faults := x.faults + 1 }
  if cpl = 0 then pure ()
  else if cpl % 16 ≠ 0 then miss
  else
    let r ← tryTranslate (hubAsker cpl 2) p.ctx cpl 2
    match r with
    | .ok (true, pa) => modify fun s => s.hostStore pa b
    | .ok (false, pa) =>
      let s ← get
      if (s.mapOf (lineOf pa)).isSome then miss
      else
        snoopOther true true (pa / 64)
        snoopOther false true (pa / 64)
        outsideWrite pa b
    | .error _ => miss
/-- A packet leaves its queue and its team; its gwaits and the qfences behind it learn the status. -/
def State.retireGuest (s : State) (q : Nat) (p : GuestPacket) (status : Nat) : State :=
  let gone := (s.team p.team).guest.filter fun g => g.2.1 == q && g.2.2 == p.ticket
  let s : State := match p.fatalAt, p.faultAt with
    | some t, none => s.setSocket fun x => { x with owed := x.owed ++ [(q, p.ticket, t)] }
    | _, _ => s
  let s : State := s.setSocket fun x => { x with queues := tmod x.queues q fun y => { y with packets := y.packets.filter (·.ticket != p.ticket) } }
  let s : State := s.modTeam p.team fun t => { t with guest := t.guest.filter fun g => !(g.2.1 == q && g.2.2 == p.ticket) }
  let s : State := gone.foldl (fun s g => s.noteDone p.team 3 g.1 none status) s
  let s : State := (s.threads.map (·.1)).foldl (fun s k => s.finish k (.guest q p.ticket) status (if bits status 12 4 = 0 then none else some status)) s
  s.teamCheck p.team
/-- The completions that stand at the head of a queue are delivered in order. -/
def flushQueue (q : Nat) : Nat → M Unit
  | 0 => pure ()
  | n + 1 => do
    let s ← get
    match (tget s.socket.queues q).bind (·.packets.head?) with
    | none => pure ()
    | some p => match p.held with
      | none => pure ()
      | some (code, reason, result) =>
        let status := code * 2 ^ 12 + reason * 2 ^ 8
        writeRecord p status result
        modify fun s => s.retireGuest q p status
        flushQueue q n
/-- The completions due in a queue; one whose record's line must be waited for stays. -/
def flush (q : Nat) : M Unit := fun s =>
  match asParty partyGuest (flushQueue q 4096) s with
  | (.error .hold, s') => (.ok (), s')
  | r => r

/-! ### The fence (R382) -/

/-- A duty failure: the guest die is fenced off. -/
def fenceGuest : M Unit := do
  let s ← get
  if s.socket.fenced || !s.socket.ready then pure ()
  else
    let lost := (s.sectors.filter fun e => e.2.guest == .m).length
    modify fun s => { s with
      sectors := s.sectors.foldl (fun l e => dset Sector.empty l e.1 { e.2 with guest := .i, guestSnoop := none }) s.sectors,
      trust := { s.trust with ready := setBits s.trust.ready 31 1 0 } }
    modify fun s => s.setSocket fun x => { x with
      fenced := true, ready := false, xlates := [], pending := [], owed := [], lostSectors := x.lostSectors + lost, fences := x.fences + 1 }
    let s ← get
    modify fun s => s.socket.shootdowns.foldl (fun s d => s.endShootdown d.id) s
    modify fun s => s.socket.preempts.foldl (fun s p => s.modTeam p.2.1 fun t => { t with preempt := t.preempt.map fun x => { x with guestAck := true } }) s
    let seven (y : GuestQueue) : GuestQueue := { y with packets := y.packets.map fun p => { p with held := some (7, 0, 0), saved := false } }
    modify fun s => s.setSocket fun x => { x with shootdowns := [], preempts := [], queues := x.queues.map fun e => (e.1, seven e.2) }
    forM' (s.socket.queues.map (·.1)) flush
/-- Whether the hub takes messages of the guest die. -/
def guestOn (m : M Unit) : M Unit := do
  let s ← get
  if s.socket.ready && !s.socket.fenced then m else pure ()
/-- A microsecond in ticks. -/
def usTicks : Nat := 1000 * Config.ticksPerNs

/-! ### Completions and faults of packets (R372, R376, R380) -/

/-- GUEST_COMPLETION: held until every earlier ticket of the queue has completed; one that breaks R380 fences the guest die. -/
def execGuestCompletion (q ticket : Nat) (result : Word) (code reason : Nat) (s : State) : Host.Outcome State Fault Refusal :=
  runEvent (guestOn (do
    let s ← get
    match tget s.socket.queues q with
    | none => fenceGuest
    | some x =>
      if x.late.contains ticket then
        modify fun s => (s.discard).setSocket fun y => { y with queues := tset y.queues q { x with late := x.late.filter (· != ticket) } }
      else match x.packets.find? (·.ticket == ticket) with
        | none => fenceGuest
        | some p =>
          if p.saved || p.held.isSome then fenceGuest
          else
            let r : Nat × Nat := match p.faultAt with
              | some (fr, _) => (2, fr)
              | none => if code = 0 || code = 2 || code = 4 || code = 7 then (code, if code = 2 then low 4 reason else 0) else (2, 0)
            modify fun s => s.modPacket q ticket fun p => { p with held := some (r.1, r.2, result) }
            flush q)) s
/-- The reason of Table 09-1 for an access that failed: protection when a leaf stands there, else translation. -/
def faultReason (ctx va acc : Nat) : M Nat := do
  let w ← walk ctx va
  return match w with
    | .leaf e => if e.permits acc then 1 else 2
    | _ => 1
/-- A Fault message taken for its packet: the reason it will complete with, and when the message came. -/
def takeFault (q ticket : Nat) (addr : Word) (acc at' : Nat) : M Unit := do
  let s ← get
  match s.guestPacket q ticket with
  | none => pure ()
  | some p =>
    let r ← faultReason (s.tenantCtx p.tenant p.ctx) addr.toNat acc
    modify fun s => s.modPacket q ticket fun p => { p with faultAt := some (r, at'), fatalAt := none }
/-- GUEST_FAULT: a fatal fault of a packet; the hub completes it with code 2. One for a packet that has completed meets its deadline alone (R376). -/
def execGuestFault (q ticket : Nat) (addr : Word) (acc : Nat) (fatal : Bool) (s : State) : Host.Outcome State Fault Refusal :=
  runEvent (guestOn (do
    let s ← get
    match s.guestPacket q ticket with
    | none =>
      if s.socket.owed.any fun o => o.1 == q && o.2.1 == ticket then
        modify fun s => s.setSocket fun x => { x with owed := if fatal then x.owed.filter fun o => !(o.1 == q && o.2.1 == ticket) else x.owed }
      else modify State.discard
    | some p =>
      if !fatal || p.faultAt.isSome then pure ()
      else
        modify fun s => s.modPacket q ticket fun p => { p with faultAt := some (1, s.now), fatalAt := none }
        orWait (.guestFault q ticket addr acc s.now) (asParty partyGuest (takeFault q ticket addr acc s.now)))) s
/-- GUEST_FAULT_DEADLINE: no Fault message within 2 µs of a fatal answer of the hub, whether or not the packet has completed meanwhile (R376). -/
def State.late (s : State) (t : Nat) : Bool := t + 2 * usTicks ≤ s.now
def State.faultLate (s : State) (p : GuestPacket) : Bool := p.faultAt.isNone && p.fatalAt.elim false s.late
def State.owedLate (s : State) (q ticket : Nat) : Bool := s.socket.owed.any fun o => o.1 == q && o.2.1 == ticket && s.late o.2.2
def execGuestFaultDeadline (q ticket : Nat) (s : State) : Host.Outcome State Fault Refusal :=
  runEvent (guestOn (do
    let s ← get
    if (s.guestPacket q ticket).elim false s.faultLate || s.owedLate q ticket then fenceGuest else pure ())) s
/-- GUEST_FAULT_COMPLETION_TIMEOUT: 100 µs after its Fault message a packet completes with code 2. -/
def State.faultDone (s : State) (p : GuestPacket) : Bool :=
  p.held.isNone && p.faultAt.elim false fun f => f.2 + 100 * usTicks ≤ s.now
def execGuestFaultCompletionTimeout (q ticket : Nat) (s : State) : Host.Outcome State Fault Refusal :=
  runEvent (guestOn (do
    let s ← get
    match s.guestPacket q ticket, tget s.socket.queues q with
    | some p, some x =>
      if s.faultDone p then
        modify fun s => s.setSocket fun y => { y with queues := tset y.queues q { x with late := x.late ++ [ticket] } }
        modify fun s => s.modPacket q ticket fun p => { p with held := some (2, (p.faultAt.elim 1 (·.1)), 0) }
        flush q
      else pure ()
    | _, _ => pure ())) s

/-! ### Translation (R375) -/

/-- A translation for a packet: handed out with the permissions of its leaf (Table 20-4), pending, or failed; the answer's code is 0, 1 or 2. It tells whether it is still pending. -/
def answerXlate (w : XlateWait) : M Bool := do
  let s ← get
  match s.guestPacket w.q w.ticket with
  | none => return false
  | some p =>
    let ctx := s.tenantCtx p.tenant p.ctx
    let r ← translate (hubAsker w.va.toNat 2) ctx w.va.toNat w.acc
    let fail : M Bool := do
      modify fun s => (s.modPacket w.q w.ticket fun p => { p with fatalAt := some s.now }).emit (.guestAnswer 0 0 0 2)
      return false
    match r with
    | .ok (false, pa) =>
      let id ← newId
      let s ← get
      let leaf := (s.tlbFind (hubAsker w.va.toNat 2) ctx w.va.toNat).map (·.2)
      let size := leaf.elim 12 (·.size)
      let x : GuestXlate := { id := id, ctx := ctx, va := w.va.toNat / 2 ^ size, size := size, pa := pa / 2 ^ size * 2 ^ size,
                              r := leaf.elim (bitAt w.acc 0) (·.r), w := leaf.elim (bitAt w.acc 1) (·.w) }
      modify fun s => (s.setSocket fun y => { y with xlates := y.xlates ++ [x] }).emit (.guestAnswer x.pa size (b2n x.r + 2 * b2n x.w) 0)
      return false
    | .ok (true, _) => fail
    | .error (.page _ _ _) => return true
    | .error _ => fail
/-- TRANSLATE: answered at once, or fault-pending and answered when the fault service has. -/
def execTranslate (q ticket : Nat) (va : Word) (acc : Nat) (s : State) : Host.Outcome State Fault Refusal :=
  runEvent (guestOn (do
    let s ← get
    if (s.guestPacket q ticket).isNone then modify State.discard
    else
      let w : XlateWait := { q := q, ticket := ticket, va := va, acc := acc }
      let again ← (fun s => match asParty partyGuest (answerXlate w) s with
        | (.error .hold, s') => (.ok true, s')
        | r => r : M Bool)
      if again then
        modify fun s => (s.setSocket fun y => { y with pending := if y.pending.contains w then y.pending else y.pending ++ [w] }).emit (.guestAnswer 0 0 0 1)
      else pure ())) s
/-- The waiting translations tried again. -/
def xlateTick : M Unit := do
  let s ← get
  forM' s.socket.pending fun w => do
    let again ← (fun s => match asParty partyGuest (answerXlate w) s with
      | (.error .hold, s') => (.ok true, s')
      | r => r : M Bool)
    if again then pure () else modify fun s => s.setSocket fun y => { y with pending := y.pending.filter (· != w) }
/-- SHOOTDOWN_ACK: the covered translations that were handed out before the Shootdown are gone, and the tlbinv that asked may complete. -/
def execShootdownAck (sid : Nat) (s : State) : Host.Outcome State Fault Refusal :=
  runEvent (guestOn (modify fun s =>
    match s.socket.shootdowns.find? (·.id == sid) with
    | none => s.discard
    | some d =>
      let gone (x : GuestXlate) : Bool := x.id < sid && (d.kind == 2 || (x.ctx == d.ctx && (d.kind == 1 || d.va / 2 ^ x.size == x.va)))
      let s : State := s.setSocket fun y => { y with shootdowns := y.shootdowns.filter (·.id != sid), xlates := y.xlates.filter fun x => !gone x }
      s.endShootdown sid)) s

/-! ### Pre-emption, cancel and gates (R377, R378) -/

/-- PREEMPT_ACK: the packets named are saved, or end with code 4 when their team has been cancelled, or are posted again when its pre-emption has been refused meanwhile; an acknowledgement that leaves a packet neither completed nor saved breaks the duty of R377. -/
def execPreemptAck (pid : Nat) (saved : GuestTickets) (s : State) : Host.Outcome State Fault Refusal :=
  runEvent (guestOn (do
    let s ← get
    match s.socket.preempts.find? (·.1 == pid) with
    | none => modify State.discard
    | some (_, team, _, cancel) =>
      modify fun s => s.setSocket fun y => { y with preempts := y.preempts.filter (·.1 != pid) }
      let open' := (s.team team).guest.filter fun g => (s.guestPacket g.2.1 g.2.2).elim false fun p => p.held.isNone && !p.saved
      if open'.any fun g => !saved.contains (g.2.1, g.2.2) then fenceGuest
      else
        let ended := cancel || 3 ≤ (s.team team).status
        forM' open' fun g => modify fun s => s.modPacket g.2.1 g.2.2 fun p =>
          if ended then { p with held := some (4, 0, 0) } else { p with saved := true }
        if (s.team team).preempt.isSome then modTm team fun t => { t with preempt := t.preempt.map fun p => { p with guestAck := true } }
        else modify fun s => s.repost team
        forM' ((open'.map (·.2.1)).eraseDups) flush)) s
/-- PREEMPT_ACK_TIMEOUT: no acknowledgement within 100 µs. -/
def execPreemptAckTimeout (pid : Nat) (s : State) : Host.Outcome State Fault Refusal :=
  runEvent (guestOn (do
    let s ← get
    match s.socket.preempts.find? (·.1 == pid) with
    | some (_, _, t, _) => if t + 100 * usTicks ≤ s.now then fenceGuest else pure ()
    | none => pure ())) s
/-- Whether a tenant's Gate has been closed for more than 2 µs. -/
def State.gateBroken (s : State) (tenant : Nat) : Bool := (tget s.socket.gates tenant).elim false fun t => t + 2 * usTicks < s.now
/-- GATE_VIOLATION: a request for a tenant whose Gate closed more than 2 µs ago. -/
def execGateViolation (tenant : Nat) (s : State) : Host.Outcome State Fault Refusal :=
  runEvent (guestOn (do
    let s ← get
    if s.gateBroken tenant then fenceGuest else pure ())) s

/-! ### Hello and other messages (R369, R374) -/

/-- HELLO: the ready bit is raised when the contract version is 1 and the image's digest is the expected one; bivouac mode never raises it. A link that trained on one half runs at x32, which is counted and asks for a replacement (R368, R458). -/
def execHello (h : Hello) (s : State) : Host.Outcome State Fault Refusal :=
  runEvent (modify fun s =>
    if s.socket.fenced || s.socket.ready || bitAt s.trust.ready 39 || h.version ≠ 1 || h.digest ≠ s.socket.expected || !bitAt s.trust.ready 25 then s
    else
      let q (e : Nat × Nat × Nat) : Nat × GuestQueue := (e.1, { base := e.2.1, size := e.2.2, posted := 0, nextTicket := 1, packets := [], late := [] })
      let narrow := h.lanes < 64
      let s : State := s.setSocket fun x => { x with ready := true, queues := x.config.map q, lanes := if narrow then 32 else 64, narrowed := x.narrowed + b2n narrow }
      let s : State := if narrow then s.askReplace (64 + 31) else s
      { s with trust := { s.trust with ready := setBits s.trust.ready 31 1 1 } }) s
/-- GUEST_OTHER_MESSAGE: discarded and counted. -/
def execGuestOtherMessage (s : State) : Host.Outcome State Fault Refusal := runEvent (guestOn (modify State.discard)) s

/-! ### The coherent port (R375, R378, R381) -/

def State.modBudget (s : State) (t : Nat) (f : Budget → Budget) : State :=
  { s with host := { s.host with budgets := dset Budget.unset s.host.budgets t (f (dget Budget.unset s.host.budgets t)) } }
/-- The window of 10 µs that runs now: windows follow one another without overlap (DESIGN CHOICE, log entry 32). -/
def State.meterWindow (s : State) : Nat := s.now / (10 * usTicks)
/-- The bytes that the guest die has moved for a tenant in this window. -/
def State.guestBytes (s : State) (tenant : Nat) : Nat :=
  let b := dget Budget.unset s.host.budgets tenant
  if b.window = s.meterWindow then b.meter else 0
def State.meterGuest (s : State) (tenant n : Nat) : State :=
  s.modBudget tenant fun b => { b with meter := s.guestBytes tenant + n, window := s.meterWindow }
/-- The bytes that a bandwidth budget, in GB/s, admits in 10 µs; no budget admits any number. -/
def bandwidthBytes (b : Budget) : Nat := if b.bandwidth = 0 then 2 ^ 64 else b.bandwidth * 10000
/-- A tenant's gate closes: Ready threads of the tenant are Held at once; the host and the guest die are told (R378, R439). -/
def State.closeGate (s : State) (tenant : Nat) (power : Bool) : State :=
  if s.gateClosed tenant then s
  else
    let s : State := s.modBudget tenant fun b => { b with closed := true, closedAt := s.now }
    let s : State := (s.setSocket fun x => { x with gates := tset x.gates tenant s.now }).emit (.guestGate tenant true)
    let ks := (s.threads.filter fun e => e.2.status == .ready && (s.launchOf e.1).tenant == tenant).map (·.1)
    (ks.foldl (fun s k => s.modThr k fun t => { t with status := .held .gate }) s).postEvent 3 tenant (wd (b2n power))
/-- The gates that the guest die's bytes alone close (R378). -/
def State.meterGates (s : State) : State :=
  ((s.host.budgets.filter fun e => !e.2.closed && bandwidthBytes e.2 < s.guestBytes e.1).map (·.1)).foldl (fun s t => s.closeGate t false) s

/-- A request on the coherent port: one whose packet is unknown, whose address is not covered for its context, or whose tenant's Gate is closed is a duty failure, answered with GO-Err; one in a domain's range or in the context table is refused (R430, R448). The rings of the guest queues need no translation to be read (R370; DEDUCED, log entry 30). What is performed is metered against the tenant's bandwidth (R378). -/
def portCheck (g : GuestAcc) (write : Bool) (refused m : M Unit) : M Unit := do
  let s ← get
  if !s.socket.ready || s.socket.fenced then pure ()
  else
    let bad : M Unit := do
      modify fun s => s.emit (.guestGo true)
      fenceGuest
    match s.guestPacket g.q g.ticket with
    | none => bad
    | some p =>
      let ctx := s.tenantCtx p.tenant p.ctx
      let ok (x : GuestXlate) : Bool := x.ctx == ctx && x.pa ≤ g.pa && g.pa < x.pa + 2 ^ x.size && (if write then x.w else x.r)
      let ring := !write && s.ringGuard g.pa 1
      if !(s.socket.xlates.any ok || ring) || s.gateBroken p.tenant then bad
      else if s.domainRange (g.pa / 64 * 64) 64 || s.ctxGuard (g.pa / 64 * 64) 64 then
        modify State.countRefusal
        refused
      else
        m
        modify fun s => s.meterGuest p.tenant 64
/-- Sector of a request. -/
def GuestAccSector (g : GuestAcc) : Nat := g.pa / 64
def setGuest (n : Nat) (x : SectorState) : M Unit := modify fun s => s.setSector n { s.sector n with guest := x }
/-- A read at the home, with the sector held in GS when it is kept. -/
def guestRead (g : GuestAcc) (keep : Bool) : M Unit :=
  portCheck g false (modify fun s => s.emit (.guestData (List.replicate 64 0))) (do
    let n := GuestAccSector g
    snoopOther true false n
    let b ← homeBytes (64 * n) 64
    let s ← get
    if keep && s.handsOut (n / 2) then setGuest n .s else pure ()
    modify fun s => s.emit (.guestData b))
/-- Ownership of a sector, with its data or without. -/
def guestOwn (g : GuestAcc) (data : Bool) : M Unit :=
  portCheck g true (modify fun s => s.emit (.guestData (List.replicate 64 0))) (do
    let n := GuestAccSector g
    snoopOther true true n
    homeOwn (n / 2)
    let b ← homeBytes (64 * n) 64
    let s ← get
    if s.handsOut (n / 2) then
      setGuest n .m
      modify fun s => s.emit (if data then .guestData b else .guestGo false)
    else modify fun s => s.emit (.guestGo true))
/-- A whole sector written at the home; its data are pulled first (Table 20-5). -/
def guestWrite (g : GuestAcc) (data : Bytes) : M Unit :=
  portCheck g true (pure ()) (do
    let n := GuestAccSector g
    snoopOther true true n
    modify fun s => s.emit .guestPull
    if data.length = 64 then outsideWrite (64 * n) data else pure ()
    setGuest n .i
    modify fun s => s.emit (.guestGo false))
/-- The sector invalidated everywhere, modified data first written back: the requester's own is fetched from it as by a snoop (DEDUCED, log entry 30). -/
def guestFlush (g : GuestAcc) : M Unit :=
  portCheck g false (pure ()) (do
    let n := GuestAccSector g
    snoopOther true true n
    snoopOther false true n
    homeOwn (n / 2)
    setGuest n .i
    modify fun s => s.emit (.guestGo false))
/-- What a waiting request does. -/
def portAct : PortReq → M Unit
  | .hostRead pa n keep => hostRead pa n keep
  | .hostWrite pa b own => hostWrite pa b own
  | .guestRead g keep => guestRead g keep
  | .guestOwn g data => guestOwn g data
  | .guestWrite g b => guestWrite g b
  | .guestFlush g => guestFlush g
  | .guestFault q ticket addr acc t => takeFault q ticket addr acc t
/-- The party in whose name a waiting request acts. -/
def PortReq.party : PortReq → Nat
  | .hostRead _ _ _ | .hostWrite _ _ _ => partyHost
  | _ => partyGuest
/-- The waiting requests tried again in their order. -/
def portTick : M Unit := do
  let s ← get
  let rs := s.portWait
  modify fun s => { s with portWait := [] }
  forM' rs fun r => orWait r (asParty r.party (portAct r))
def execRdcurr (g : GuestAcc) (s : State) : Host.Outcome State Fault Refusal := runEvent (orWait (.guestRead g false) (asParty partyGuest (guestRead g false))) s
def execRdshared (g : GuestAcc) (s : State) : Host.Outcome State Fault Refusal := runEvent (orWait (.guestRead g true) (asParty partyGuest (guestRead g true))) s
def execRdown (g : GuestAcc) (s : State) : Host.Outcome State Fault Refusal := runEvent (orWait (.guestOwn g true) (asParty partyGuest (guestOwn g true))) s
def execRdownnodata (g : GuestAcc) (s : State) : Host.Outcome State Fault Refusal := runEvent (orWait (.guestOwn g false) (asParty partyGuest (guestOwn g false))) s
def execItomwr (g : GuestAcc) (data : Bytes) (s : State) : Host.Outcome State Fault Refusal := runEvent (orWait (.guestWrite g data) (asParty partyGuest (guestWrite g data))) s
def execWrcur (g : GuestAcc) (data : Bytes) (s : State) : Host.Outcome State Fault Refusal := runEvent (orWait (.guestWrite g data) (asParty partyGuest (guestWrite g data))) s
def execClflush (g : GuestAcc) (s : State) : Host.Outcome State Fault Refusal := runEvent (orWait (.guestFlush g) (asParty partyGuest (guestFlush g))) s
/-- Evictions: the sector goes to GI, a dirty one with its data. A snoop on its way is still to be answered (R379). -/
def execCleanevict (g : GuestAcc) (s : State) : Host.Outcome State Fault Refusal :=
  runEvent (portCheck g false (pure ()) (setGuest (GuestAccSector g) .i)) s
def execCleanevictnodata (g : GuestAcc) (s : State) : Host.Outcome State Fault Refusal :=
  runEvent (portCheck g false (pure ()) (setGuest (GuestAccSector g) .i)) s
def execDirtyevict (g : GuestAcc) (data : Bytes) (s : State) : Host.Outcome State Fault Refusal :=
  runEvent (portCheck g true (pure ()) (modify fun s =>
    let n := GuestAccSector g
    let x := s.sector n
    let s : State := s.emit .guestPull
    let s : State := if x.guest = .m then s.mergeSector n data else s
    s.setSector n { x with guest := .i })) s
/-- GUEST_UNSUPPORTED_REQUEST: GO-Err, discarded and counted. -/
def execGuestUnsupportedRequest (_pa : Nat) (s : State) : Host.Outcome State Fault Refusal :=
  runEvent (guestOn (modify fun s => s.discard.emit (.guestGo true))) s
/-- GUEST_SNOOP_RESPONSE: a sector comes down to GS or GI, an owned one with its data. -/
def execGuestSnoopResponse (sector : Nat) (inv : Bool) (data : Bytes) (s : State) : Host.Outcome State Fault Refusal :=
  runEvent (guestOn (modify fun s =>
    let x := s.sector sector
    if x.guestSnoop.isSome then
      let s : State := if x.guest = .m then s.mergeSector sector data else s
      s.setSector sector { x with guest := if inv then .i else if x.guest = .i then .i else .s, guestSnoop := none }
    else s)) s
/-- SNOOP_TIMEOUT: a snoop unanswered at 1 µs. -/
def execSnoopTimeout (sector : Nat) (s : State) : Host.Outcome State Fault Refusal :=
  runEvent (guestOn (do
    let s ← get
    match (s.sector sector).guestSnoop with
    | some t => if t + usTicks ≤ s.now then fenceGuest else pure ()
    | none => pure ())) s

/-! ### What is due -/

/-- The deadlines of the guest die that have passed. -/
def State.guestDue (s : State) : List Instr :=
  if !s.socket.ready || s.socket.fenced then []
  else
    (s.sectors.filter fun e => e.2.guestSnoop.elim false fun t => t + usTicks ≤ s.now).map (fun e => Instr.snoopTimeout e.1)
      ++ (s.socket.preempts.filter fun p => p.2.2.1 + 100 * usTicks ≤ s.now).map (fun p => Instr.preemptAckTimeout p.1)
      ++ ((s.socket.owed.filter fun o => s.late o.2.2).map fun o => Instr.guestFaultDeadline o.1 o.2.1)
      ++ s.socket.queues.flatMap fun e => e.2.packets.flatMap fun p =>
        (if s.faultLate p then [Instr.guestFaultDeadline e.1 p.ticket] else []) ++ (if s.faultDone p then [Instr.guestFaultCompletionTimeout e.1 p.ticket] else [])
/-- Whether a Shootdown has stood unacknowledged for 10 µs (Table 20-4). -/
def State.shootdownLate (s : State) : Bool := s.socket.shootdowns.any fun d => d.at' + 10 * usTicks ≤ s.now
/-- Descriptor commands complete once their Shootdown is acknowledged and the accesses translated before are performed (R387, R430). -/
def State.endCommands (s : State) : State :=
  let ready := s.host.cmdWaits.filter fun w => w.shootdown.isNone && s.passed w.ids
  ready.foldl (fun s w => s.emit (.commandDone w.ctx)) { s with host := { s.host with cmdWaits := s.host.cmdWaits.filter fun w => !(w.shootdown.isNone && s.passed w.ids) } }
/-- The completion records that a reset of the site left unwritten (R382). -/
def recordTick : M Unit := do
  let s ← get
  forM' s.socket.records fun p => orElse (do
    writeRecord p 0x7000 0
    modify fun s => s.setSocket fun x => { x with records := x.records.filter (· != p) }) (fun _ => pure ()) (fun _ => pure ())
/-- Completions that waited for a line are tried again; a Shootdown not acknowledged within 10 µs is a duty failure (Table 20-4; DEDUCED, log entry 30). -/
def guestTick : M Unit := do
  let s ← get
  if s.shootdownLate then guestOn fenceGuest else pure ()
  let s ← get
  forM' (s.socket.queues.map (·.1)) flush
  xlateTick
  portTick
  recordTick
  modify fun s => s.endCommands.meterGates

end Sys2Proof.Machine
end

