-- ==== Sys2Proof/Machine/Queue.lean ====
section
/-! DEFINITION. The queue engine: kicks, fetch and retry of ring entries, launch packets, leg marks, phaser allocation, predecessor words, mirrors, budget gates, and the host's registers (24, R325, R326, R427 to R443). -/
namespace Sys2Proof.Machine

/-! ### Waking (R236, R455) -/

/-- The device wakes from retention sleep: every core clock starts at the pod time base; when an epoch boundary passed, every record reads as kind none. -/
def State.wake (s : State) : State :=
  if !s.trust.sleeping then s
  else
    let c (e : Nat × Core) : Nat × Core := (e.1, { e.2 with clock := low 50 s.podTime, tbase := low 50 s.podTime })
    { s with trust := { s.trust with sleeping := false }, cores := s.cores.map c,
             records := if s.podTime / 2 ^ 48 = s.trust.sleepEpoch then s.records else [] }

/-! ### Kicks (R429, R430, R432, R433) -/

def State.modQueue (s : State) (q : Nat) (f : WorkQueue → WorkQueue) : State :=
  { s with host := { s.host with queues := tmod s.host.queues q f } }
/-- Entries of a ring. -/
def WorkQueue.size (w : WorkQueue) : Nat := 2 ^ w.desc.z
/-- The tail that a kick names: the least value at or above head with its low 32 bits. -/
def WorkQueue.kickTail (w : WorkQueue) (v : Nat) : Nat := w.head + low 32 (low 32 v + 2 ^ 32 - low 32 w.head)
/-- A kick that does not count is counted as one. -/
def State.missKick (s : State) : State := { s with host := { s.host with kickMiss := s.host.kickMiss + 1 } }
/-- A write to a kick register. A queue without a descriptor, or whose context is not installed, ignores it. -/
def State.kicked (s : State) (q v : Nat) (restart : Bool) : State :=
  let s : State := s.wake
  match tget s.host.queues q with
  | none => s
  | some w =>
    if (s.ctxAt w.desc.ctx).isNone then s
    else if bits v 32 31 ≠ 0 || w.size < w.kickTail v - w.head then s.missKick
    else
      let w := { w with tail := max w.tail (w.kickTail v) }
      let w := if w.state = .stalled then (if restart then { w with state := .fetch, tries := 0 } else w)
        else if w.state = .idle && w.head < w.tail then { w with state := .fetch } else w
      { s with host := { s.host with queues := tset s.host.queues q w } }
/-- KICK: the host writes a queue's kick register; bit 63 of the value asks for a restart. -/
def execKick (q : Nat) (v : Word) (s : State) : Host.Outcome State Fault Refusal :=
  runEvent (modify fun s => s.kicked q v.toNat (bitAt v.toNat 63)) s
/-- KICK_RESTART: the same with restart set. -/
def execKickRestart (q : Nat) (v : Word) (s : State) : Host.Outcome State Fault Refusal :=
  runEvent (modify fun s => s.kicked q v.toNat true) s

/-! ### Reads and writes of the queue engine in a queue's context (R429, R437, R438) -/

/-- How an access of the queue engine fails: it waits for the fault service or for a line, or it cannot be made. -/
inductive QFail where
  | wait | bad
deriving DecidableEq, Repr
/-- An action that may be held, which then waits. -/
def qWait {α : Type} (m : M (Except QFail α)) : M (Except QFail α) := fun s =>
  match m s with
  | (.error .hold, s') => (.ok (.error .wait), s')
  | r => r
/-- A translation of the queue engine; a page fault on it is served as an engine's is. -/
def qXlate (ctx va acc : Nat) : M (Except QFail (Bool × Nat)) := do
  let r ← translate (hubAsker va 1) ctx va acc
  return match r with
    | .ok p => .ok p
    | .error (.page _ _ _) => .error .wait
    | .error _ => .error .bad
/-- Whether every address has a translation: what the tables do not map is untranslatable, and posts no fault record (R436); permissions are judged when the address is used. -/
def qReach (ctx : Nat) : List Nat → M Bool
  | [] => return true
  | va :: r => do
    if 2 ^ 50 ≤ va then return false
    else
      let s ← get
      if (s.tlbFind (hubAsker va 1) ctx va).isSome then qReach ctx r
      else
        let w ← walk ctx va
        match w with
        | .leaf _ => qReach ctx r
        | _ => return false
/-- The same, where a table's line may still be waited for. -/
def qKnown (ctx : Nat) (l : List Nat) : M (Except QFail Bool) := qWait (qReach ctx l >>= fun b => pure (.ok b))
/-- A line piece read. -/
def qReadPiece (ctx va n : Nat) : M (Except QFail Bytes) := qWait do
  let r ← qXlate ctx va 1
  match r with
  | .error e => return .error e
  | .ok (true, pa) =>
    let s ← get
    return .ok (memGetN s.hostMem pa n)
  | .ok (false, pa) =>
    let b ← homeRead pa n
    return .ok b
/-- Pieces read in order, up to the first failure. -/
def qReadSegs (ctx : Nat) : List (Nat × Nat) → M (Except QFail Bytes)
  | [] => return .ok []
  | g :: r => do
    let x ← qReadPiece ctx g.1 g.2
    match x with
    | .error e => return .error e
    | .ok b =>
      let y ← qReadSegs ctx r
      return y.map (b ++ ·)
def qRead (ctx va n : Nat) : M (Except QFail Bytes) := qReadSegs ctx (segs va n)
/-- Eight bytes written, with window records of kind none (R438, R440). -/
def qWrite8 (ctx va v : Nat) : M (Except QFail Unit) := qWait do
  let r ← qXlate ctx va 2
  match r with
  | .error e => return .error e
  | .ok (true, pa) =>
    modify fun s => s.hostStore pa (leBytes 8 v)
    return .ok ()
  | .ok (false, pa) =>
    outsideWrite pa (leBytes 8 v)
    return .ok ()

/-! ### Launch packets (R435, R436, R437) -/

/-- A group list entry, or none when it lies outside Table 24-6 or asks for a privilege its queue lacks. -/
def decodeGroup (priv : Bool) (lo code : Nat) : Option Group :=
  if bits lo 18 46 ≠ 0 || code % 8 ≠ 0 || bits lo 4 12 = 0 || 256 < bits lo 4 12 || (bitAt lo 17 && !priv)
      || (bitAt lo 16 && bits lo 4 12 < 4) then none
  else
    let role : Role := match bits lo 0 2 with | 0 => .copy | 1 => .matrix | 2 => .vector | _ => .rotate
    some { code := wd code, role := role, width := 8 * 2 ^ bits lo 2 2, alloc := 16 * bits lo 4 12, priv := bitAt lo 17,
           task := bitAt lo 16, base := 0, live := false }
/-- The groups of a group list as read: every entry admitted, at most one task group, and room on an empty core (R436). -/
def decodeGroups (priv : Bool) (b : Bytes) : Option (List Group) :=
  match ((List.range (b.length / 16)).mapM fun n => decodeGroup priv (ofLe (cut b (16 * n) 8)) (ofLe (cut b (16 * n + 8) 8))) with
  | none => none
  | some l =>
    if 2 ≤ (l.filter (·.task)).length || (placeGroups l [] (List.replicate 32 0)).isNone then none else some l
/-- Whether the fields of a packet lie within Table 24-5 (R436). -/
def packetOk (e : Nat → Nat) : Bool :=
  let al (n i : Nat) : Bool := e i % n == 0 && e i < 2 ^ 50
  1 ≤ bits (e 0) 32 32 && 1 ≤ bits (e 0) 24 8 && bits (e 0) 24 8 ≤ 32 && bits (e 0) 20 3 ≤ 5
    && al 16 1 && bits (e 2) 32 32 % 16 == 0 && low 32 (e 2) % 128 == 0 && low 32 (e 2) ≤ Config.spadPerCore
    && e 3 < 2 ^ 50 && al 256 5 && al 256 6 && al 8 7 && al 8 8 && al 8 9 && al 8 10 && al 8 11 && al 8 12 && al 8 13
    && bits (e 14) 48 16 == 0 && bits (e 14) 32 16 ≤ 4096 && al 8 15
    && (e 6 != 0 || 512 ≤ bits (e 2) 32 32)
/-- The serial that no unit has. -/
def noUnit : Nat := 2 ^ 63
/-- The key of a graph number within a queue, and of a job number of a tenant. -/
def graphKey (q g : Nat) : Nat := q * 2 ^ 32 + g
def jobKey (tenant job : Nat) : Nat := tenant * 2 ^ 32 + job
/-- A launch joins its graph, which its first launch opens in the queue's open leg (R437, Table 06-7). -/
def State.joinGraph (s : State) (q : Nat) (w : WorkQueue) (g mirror : Nat) (close : Bool) : State :=
  let k := graphKey q g
  let fresh : State :=
    let c : Counter := { status := 0, count := 0, mirror := wd mirror, q := q, closed := false, fin := false, parent := w.leg.getD noUnit }
    let s : State := { s with host := { s.host with graphs := tset s.host.graphs k c } }
    match w.leg with
    | none => s
    | some l => (s.modLeg l fun c => { c with count := c.count + 1 }).owe (.leg l)
  let s : State := match tget s.host.graphs k with
    | none => fresh
    | some c => if c.fin then fresh else s
  (s.modGraph k fun c => { c with count := c.count + 1, closed := c.closed || close }).owe (.graph k)
/-- A launch that ends with no team placed (R436, R437). -/
def State.endUnplaced (s : State) (l st : Nat) : State :=
  (s.modLaunch l fun x => { x with status := max x.status st, count := 0, placed := x.teams }).launchCheck l
/-- A launch of a queue, with its groups and task entries, or none when a check of R436 fails. -/
def newLaunch (w : WorkQueue) (q : Nat) (e : Nat → Nat) (now : Nat) (gl : Option (List Group)) (ents : List Word) : Launch :=
  let waits := ([10, 11, 12, 13].map e).filter (· != 0)
  { q := q, tenant := w.desc.tenant, ctx := w.desc.ctx, teams := bits (e 0) 32 32, groups := gl.getD [], check := bitAt (e 0) 19,
    fround := bits (e 0) 20 3, prio := min (bits (e 0) 16 3) w.desc.cap, prv := bits (e 2) 32 32, spad := low 32 (e 2), prvb := wd (e 3),
    seed := wd (e 4), traps := wd (e 5), save := wd (e 6), lmir := wd (e 7), tmir := wd (e 8),
    graph := if e 9 = 0 then none else some (graphKey q (low 32 (e 14))),
    waits := waits.map wd, entries := ents, placed := 0, eligible := if waits.isEmpty then some now else none, roomSince := none,
    status := 0, count := bits (e 0) 32 32, fin := false, lastCore := Config.cores - 1 }
/-- LAUNCH_PACKET: a launch packet is checked, task entries included (R9), and becomes a launch, or completes faulted (R436). It answers whether it still waits for the fault service. -/
def launchPacket (q : Nat) (entry : Quads) : M Bool := do
  let s ← get
  match tget s.host.queues q with
  | none => return false
  | some w =>
    let e (i : Nat) : Nat := (entry.getD i 0).toNat
    let put (gl : Option (List Group)) (ents : List Word) : M Bool := do
      let id ← newId
      modify fun s =>
        let s : State := { s with host := { s.host with launches := tset s.host.launches id (newLaunch w q e s.now gl ents) } }
        let s : State := if e 9 = 0 then s else s.joinGraph q w (low 32 (e 14)) (e 9) (bitAt (e 0) 23)
        if gl.isNone then s.endUnplaced id 3 else s.owe (.launch id)
      return false
    if !packetOk e then put none []
    else
      let lists := (segs (e 1) (16 * bits (e 0) 24 8) ++ segs (e 15) (8 * bits (e 14) 32 16)).map (·.1)
      let named := [e 3, e 5] ++ ([6, 7, 8, 9, 10, 11, 12, 13].map e).filter (· ≠ 0)
      let ok ← qKnown w.desc.ctx (lists ++ named)
      match ok with
      | .error _ => return true
      | .ok false => put none []
      | .ok true =>
        let g ← qRead w.desc.ctx (e 1) (16 * bits (e 0) 24 8)
        let t ← qRead w.desc.ctx (e 15) (8 * bits (e 14) 32 16)
        match g, t with
        | .error .wait, _ => return true
        | _, .error .wait => return true
        | .ok gb, .ok tb =>
          let gl := decodeGroups w.desc.priv gb
          let ents := (List.range (tb.length / 8)).map fun n => wd (ofLe (cut tb (8 * n) 8))
          let code ← qKnown w.desc.ctx ((gl.getD []).map (·.code.toNat) ++ ents.map (·.toNat))
          match code with
          | .error _ => return true
          | .ok c =>
            put (if c && ents.all (fun a => low 3 a.toNat == 0) then gl else none) ents
        | _, _ => put none []
def execLaunchPacket (q : Nat) (entry : Quads) (s : State) : Host.Outcome State Fault Refusal :=
  runEvent (do
    let again ← launchPacket q entry
    if again then modify fun s => s.modQueue q fun w => { w with packet := some entry } else pure ()) s

/-! ### Leg marks and bad packets (R435) -/

/-- LEG_MARK: the open leg of a queue closes, and a new one opens under the queue's job. -/
def State.legMark (s : State) (q : Nat) (mirror : Word) : State :=
  match tget s.host.queues q with
  | none => s
  | some w =>
    let s : State := match w.leg with
      | none => s
      | some l => (s.modLeg l fun c => { c with closed := true }).legCheck l
    let j := jobKey w.desc.tenant w.desc.job
    let id := s.nextId
    let job : Counter := { status := 0, count := 0, mirror := 0, q := q, closed := true, fin := false, parent := noUnit }
    let leg : Counter := { status := 0, count := 0, mirror := mirror, q := q, closed := false, fin := false, parent := j }
    let c := (tget s.host.jobs j).getD job
    let s : State := { s with nextId := id + 1, host := { s.host with
      legs := tset s.host.legs id leg, jobs := tset s.host.jobs j { c with count := c.count + 1, fin := false } } }
    (s.modQueue q fun w => { w with leg := some id }).owe (.leg id)
def execLegMark (q : Nat) (mirror : Word) (s : State) : Host.Outcome State Fault Refusal := runEvent (modify fun s => s.legMark q mirror) s
/-- BAD_PACKET: an event for an entry of unknown type. -/
def execBadPacket (q idx : Nat) (s : State) : Host.Outcome State Fault Refusal := runEvent (modify fun s => s.postEvent 5 q (wd idx)) s

/-! ### Phaser slots (R325, R326) -/

/-- Phaser slots of a node (Table 17-1). -/
def nodeSlots (n : Nat) : Nat := if n < 4 then 1024 else 4096
/-- The handle of a slot of a node (Table 15-3). -/
def State.handleOf (s : State) (n slot : Nat) : Nat :=
  if n < 4 then low 15 s.devno * 2 ^ 44 + n * 2 ^ 42 + slot
  else if n = nodePackage then 2 ^ 62 + low 15 s.devno * 2 ^ 44 + slot
  else 2 ^ 63 + (n - 8) * 2 ^ 12 + slot
/-- The lowest switch that covers every device of the pod, and so every device of a job: a leaf, a middle switch, or the root (R323, R325; the devices of a job are not known here, log entry 10). -/
def State.coverSwitch (s : State) : Nat :=
  let leaves := ((s.devno :: s.fabric.present).map fun d => (s.uplinkOf d 0).1).eraseDups
  match leaves with
  | [l] => l
  | l :: r => if r.all fun x => x / 64 == l / 64 then 513 + l / 64 else 522
  | [] => 522
/-- The node that a record names, or none when it cannot be met (Table 17-3). -/
def State.allocNode (s : State) (r tenant : Nat) : Option Nat :=
  if 2 ≤ bits r 88 8 || bits r 64 5 ≠ 0 || low 24 r ≠ 0 || 64 < bits r 24 8 || (bits r 24 8 ≠ 0 && s.domainOf tenant ≠ bits r 24 8) then none
  else
    let n : Option Nat := match bits r 86 2 with
      | 0 => if bits r 71 15 = s.devno then some (bits r 69 2) else none
      | 1 => if bits r 71 15 = s.devno && bits r 69 2 = 0 then some nodePackage else none
      | 2 => if s.inPod && bits r 69 17 = 0 then some (nodeSwitch s.coverSwitch) else none
      | _ => none
    n.filter fun n => (s.node n).alive
/-- The tenant and context for which a slot is allocated: those of the queue, or for a management command those of the lowest queue of the record's job. -/
def State.allocOwner (s : State) (a : PhaserAlloc) : Nat × Nat :=
  let q : Option WorkQueue := match a.q with
    | some q => tget s.host.queues q
    | none => (s.host.queues.find? fun (e : Nat × WorkQueue) => bits a.record 32 32 != 0 && e.2.desc.job == bits a.record 32 32).map Prod.snd
  q.elim (0, 0) fun w => (w.desc.tenant, w.desc.ctx)
/-- A phaser right after its allocation. -/
def Phaser.fresh (r tenant ctx : Nat) : Phaser :=
  { anyOf := bits r 88 8 == 1, p := bits r 96 32, regs := [], c0 := 0, c1 := 0, events := false, broken := false, broken1 := false, found := false,
    ann := 0, words := [], ctx := ctx, tenant := tenant, job := bits r 32 32, domain := bits r 24 8 }
/-- PHASER_ALLOCATION: the lowest free slot of the node; its handle, or 0, is written where the command directs. It answers whether the write still waits; an address that cannot be written leaves no slot taken. -/
def phaserAlloc (a : PhaserAlloc) : M Bool := do
  let s ← get
  let o := s.allocOwner a
  let slot := (s.allocNode a.record o.1).bind fun n =>
    ((List.range (nodeSlots n)).find? fun x => (tget s.belay.phasers (n * 2 ^ 24 + x)).isNone).map fun x => (n, x)
  let r ← qWrite8 o.2 a.addr.toNat (slot.elim 0 fun x => s.handleOf x.1 x.2)
  match r, slot with
  | .error .wait, _ => return true
  | .ok _, some x =>
    modify fun s => { s with belay := { s.belay with phasers := tset s.belay.phasers (x.1 * 2 ^ 24 + x.2) (Phaser.fresh a.record o.1 o.2) } }
    return false
  | _, _ => return false
/-- An allocation by management command, kept until its handle can be written. -/
def allocTry (a : PhaserAlloc) : M Unit := do
  let again ← phaserAlloc a
  if again then modify fun s => { s with host := { s.host with allocs := s.host.allocs ++ [a] } } else pure ()
def execPhaserAllocation (a : PhaserAlloc) (s : State) : Host.Outcome State Fault Refusal := runEvent (allocTry a) s
/-- The signals for a phaser that stand in a team's copy queue end with status 6 (R304, R326). -/
def State.dropSignals (s : State) (i : Nat) (h : Word) : State :=
  let hit (c : Cmd) : Bool := c.kind == .phsig && c.quads.getD 0 0 == h.toNat
  ((s.team i).queues.filter hit).foldl (fun s c =>
    (s.modTeam i fun t => { t with queues := t.queues.filter (·.id != c.id) }).finish c.th (.command c.id) (6 * 2 ^ 60) none) s
/-- PHASER_FREE: the slot is freed; its waiters and the messages on their way to it end with status 6 (R326). -/
def State.freePhaser (s : State) (h : Word) : State :=
  match handleKey h.toNat with
  | none => s
  | some k =>
    if (tget s.belay.phasers k).isNone then s
    else
      let ms := s.belay.msgs.filter fun m => m.handle == h
      let s : State := { s with belay := { s.belay with phasers := tdel s.belay.phasers k, msgs := s.belay.msgs.filter fun m => m.handle != h,
                                                        deliveries := s.belay.deliveries.filter fun d => d.2.handle != h } }
      let s : State := ms.foldl (fun s m => s.answer m 6 0) s
      let s : State := (s.teams.map (·.1)).foldl (fun s i => s.dropSignals i h) s
      let lost (o : Outst) : Outst := match o.wait with | .phase x _ => if x = h then o.decide (6 * 2 ^ 60) else o | _ => o
      ((s.threads.map (·.1)).foldl (fun s k => s.modThr k fun t => { t with outst := t.outst.map lost }) s).teamsCheck
def execPhaserFree (handle : Word) (s : State) : Host.Outcome State Fault Refusal := runEvent (modify fun s => s.freePhaser handle) s

/-! ### The ring (R432, R433, R434) -/

/-- The address of entry I, and its expected sequence. -/
def WorkQueue.entryAt (w : WorkQueue) (i : Nat) : Nat := w.desc.base + 128 * (i % w.size)
def WorkQueue.expected (w : WorkQueue) (i : Nat) : Nat := i / w.size % 255 + 1
/-- A piece of the ring read in host or device physical memory; where no device memory is, it reads as zeros, which no entry's sequence number is (DEDUCED, log entry 8). -/
def ringRead (w : WorkQueue) (pa n : Nat) : M Bytes :=
  if w.desc.inHost then do
    let s ← get
    return memGetN s.hostMem pa n
  else if Config.memBytes < pa + n then return List.replicate n 0
  else homeRead pa n
/-- A consumed entry acts by its type; it answers whether it still waits for the fault service. -/
def packetAct (q : Nat) (e : Quads) : M Bool := do
  let x (i : Nat) : Nat := (e.getD i 0).toNat
  match bits (x 0) 8 8 with
  | 1 => launchPacket q e
  | 2 =>
    modify fun s => s.legMark q (wd (x 1))
    return false
  | _ => phaserAlloc { record := x 2 + x 3 * 2 ^ 64, q := some q, addr := wd (x 1) }
/-- A consumed entry, tried until its addresses are served; the queue goes on after it. -/
def packetTry (q : Nat) (e : Quads) : M Unit := do
  let again ← packetAct q e
  modify fun s => s.modQueue q fun w => { w with packet := if again then some e else none }
/-- Entry head read: its sequence byte, and when it matches all of it; it is then consumed. It answers whether the byte matched. -/
def consume (q : Nat) (w : WorkQueue) : M Bool := do
  let b ← ringRead w (w.entryAt w.head) 128
  if (b.getD 0 0).toNat ≠ w.expected w.head then return false
  else
    let e : Quads := (List.range 16).map fun n => wd (ofLe (cut b (8 * n) 8))
    modify fun s => s.modQueue q fun x => { x with head := x.head + 1, state := if x.head + 1 < x.tail then .fetch else .idle, tries := 0 }
    if 1 ≤ (b.getD 1 0).toNat && (b.getD 1 0).toNat ≤ 3 then packetTry q e
    else modify fun s => s.postEvent 5 q (wd w.head)
    return true
/-- Whether the queue engine works: its ready bit is set and the device is awake (R453, R455). -/
def State.queueOn (s : State) : Bool := bitAt s.trust.ready 27 && !s.trust.sleeping
/-- QUEUE_FETCH: the entry at head is read; a mismatch puts the queue into Retry. -/
def execQueueFetch (q : Nat) (s : State) : Host.Outcome State Fault Refusal :=
  runEvent (do
    let s ← get
    match tget s.host.queues q with
    | some w =>
      if s.queueOn && w.state = .fetch && w.packet.isNone && w.head < w.tail then
        let ok ← consume q w
        if ok then pure () else modify fun s => s.modQueue q fun x => { x with state := .retry, retryAt := s.now, tries := 0 }
      else pure ()
    | none => pure ()) s
/-- The times of the re-reads after the first read, in ns, and the limit (R434). -/
def retryTimes : List Nat := [250, 750, 1750, 3750, 7750, 11750, 15750]
/-- Whether a re-read of a queue in Retry is due. -/
def WorkQueue.rereadDue (w : WorkQueue) (now : Nat) : Bool :=
  w.state == .retry && (match retryTimes[w.tries]? with | some t => decide (w.retryAt + t * Config.ticksPerNs ≤ now) | none => false)
/-- QUEUE_RETRY_READ: byte 0 is read again. -/
def execQueueRetryRead (q : Nat) (s : State) : Host.Outcome State Fault Refusal :=
  runEvent (do
    let s ← get
    match tget s.host.queues q with
    | some w =>
      if w.rereadDue s.now then
        let ok ← consume q w
        if ok then pure () else modify fun s => s.modQueue q fun x => { x with tries := x.tries + 1 }
      else pure ()
    | none => pure ()) s
/-- Whether a queue in Retry has exhausted its reads. -/
def WorkQueue.stallDue (w : WorkQueue) (now : Nat) : Bool :=
  w.state == .retry && decide (retryTimes.length ≤ w.tries) && decide (w.retryAt + 16000 * Config.ticksPerNs ≤ now)
/-- QUEUE_STALL: the queue is Stalled, and an event names it and the entry. -/
def execQueueStall (q : Nat) (s : State) : Host.Outcome State Fault Refusal :=
  runEvent (modify fun s => match tget s.host.queues q with
    | some w => if w.stallDue s.now then (s.modQueue q fun x => { x with state := .stalled }).postEvent 1 q (wd w.head) else s
    | none => s) s

/-! ### Predecessors (R437) -/

/-- The words of a launch's predecessors read: each status, or a failure. -/
def waitWords (ctx : Nat) : List Word → M (Except QFail (List Nat))
  | [] => return .ok []
  | a :: r => do
    let x ← qRead ctx a.toNat 8
    match x with
    | .error e => return .error e
    | .ok b =>
      let y ← waitWords ctx r
      return y.map (ofLe b :: ·)
/-- WAIT_POLL: a launch whose predecessors are all done becomes eligible, or ends unplaced with the greatest status above 1; a fatal answer ends it faulted. -/
def execWaitPoll (launch : Nat) (s : State) : Host.Outcome State Fault Refusal :=
  runEvent (do
    let s ← get
    let x := s.launch launch
    if x.fin || x.eligible.isSome || (tget s.host.launches launch).isNone then pure ()
    else
      let r ← waitWords x.ctx x.waits
      match r with
      | .error .wait => pure ()
      | .error .bad => modify fun s => s.endUnplaced launch 3
      | .ok l =>
        if l.any fun v => low 32 v != 0 || bits v 61 3 == 0 then pure ()
        else
          let st := (l.map fun v => bits v 61 3).foldl max 0
          if 1 < st then modify fun s => s.endUnplaced launch st
          else modify fun s => s.modLaunch launch fun x => { x with eligible := some s.now }) s

/-! ### Mirrors (R145, R438) -/

/-- The mirror address of a unit, 0 for none, and the context of its queue. -/
def State.mirrorOf (s : State) (u : UnitRef) : Nat × Nat :=
  let of (c : Option Counter) : Nat × Nat := c.elim (0, 0) fun c => (c.mirror.toNat, (tget s.host.queues c.q).elim 0 (·.desc.ctx))
  match u with
  | .team i =>
    let l := s.launch (s.team i).launch
    (if l.tmir = 0 then 0 else low 64 (l.tmir.toNat + 8 * (s.team i).index), l.ctx)
  | .launch l => ((s.launch l).lmir.toNat, (s.launch l).ctx)
  | .graph g => of (tget s.host.graphs g)
  | .leg g => of (tget s.host.legs g)
  | .job g => of (tget s.host.jobs g)
/-- Whether a launch belongs to a unit. -/
def State.under (s : State) (l : Nat) : UnitRef → Bool
  | .team _ => false
  | .launch x => l == x
  | .graph g => (s.launch l).graph == some g
  | .leg g => (s.launch l).graph.elim false fun x => (tget s.host.graphs x).elim false fun c => c.parent == g
  | .job j => (s.launch l).graph.elim false fun x => (tget s.host.graphs x).elim false fun c => (tget s.host.legs c.parent).elim false fun d => d.parent == j
/-- Whether the pod floor has passed the end stamps of every team of a unit. -/
def State.endsPassed (s : State) (u : UnitRef) : Bool :=
  s.teams.all fun e => !e.2.fin || !(s.under e.2.launch u || u == .team e.1) || clkLt e.2.endStamp s.podFloor
/-- A unit's completion counter word (Table 06-6). -/
def State.counterWord (s : State) (u : UnitRef) : Nat := s.unitStatus u * 2 ^ 61 + low 32 ((s.unitCount u).getD 0)
/-- MIRROR_WRITE: the word is written once it may be; a page that cannot be written skips it. -/
def mirrorWrite (u : UnitRef) : M Unit := do
  let s ← get
  let m := s.mirrorOf u
  let done : M Unit := modify fun s => { s with host := { s.host with mirrors := s.host.mirrors.filter (· != u) } }
  if m.1 = 0 then done
  else if low 32 ((s.unitCount u).getD 0) = 0 && !s.endsPassed u then pure ()
  else
    let r ← qWrite8 m.2 m.1 (s.counterWord u)
    match r with
    | .ok _ => done
    | .error .wait => pure ()
    | .error .bad =>
      done
      modify fun s => { s with trust := { s.trust with mirrorSkipped := s.trust.mirrorSkipped + 1 } }
def execMirrorWrite (unit : UnitRef) (s : State) : Host.Outcome State Fault Refusal := runEvent (mirrorWrite unit) s

/-! ### Budget gates (R439) -/

/-- GATE_CLOSE: Ready threads of the tenant are Held at once; the host and the guest die are told. -/
def execGateClose (tenant : Nat) (power : Bool) (s : State) : Host.Outcome State Fault Refusal :=
  runEvent (modify fun s => s.closeGate tenant power) s
/-- GATE_OPEN: the tenant's threads may start runs again; those held are released in the next cycle. The metered values are the meters' own, but the guest die's bytes, which must have fallen below 95 % of the budget, are counted here (R378, R439; log entry 32). -/
def execGateOpen (tenant : Nat) (s : State) : Host.Outcome State Fault Refusal :=
  runEvent (modify fun s =>
    if s.gateClosed tenant && s.guestBytes tenant * 100 < 95 * bandwidthBytes (dget Budget.unset s.host.budgets tenant) then
      ((s.modBudget tenant fun b => { b with closed := false, closedAt := 0 }).setSocket fun x => { x with gates := tdel x.gates tenant }).emit (.guestGate tenant false)
    else s) s

/-! ### The register window (R428, R443, Tables 24-2 and 24-4) -/

/-- The number of a queue state. -/
def QueueState.code : QueueState → Nat
  | .idle => 0
  | .fetch => 1
  | .retry => 2
  | .stalled => 3
/-- qstat of a queue; a queue without a descriptor reads 0. -/
def State.qstat (s : State) (q : Nat) : Nat :=
  match tget s.host.queues q with
  | none => 0
  | some w => w.state.code * 2 ^ 62 + low 16 (w.head % w.size) * 2 ^ 32 + low 32 w.head
/-- What an aligned 8-byte read of BAR0 gives; everything but qstat and the event ring indices reads zero. -/
def State.bar0 (s : State) (off : Nat) : Nat :=
  if 0x20000 ≤ off && off < 0x40000 && off % 8 = 0 then s.qstat ((off - 0x20000) / 8)
  else if off = 0x40008 then low 64 s.host.evHead
  else if off = 0x40010 then low 64 s.host.evTail
  else 0
/-- EVHEAD_WRITE: the host's read index moves up to the value written, taken as the least running index at or above it; entries before it are read. A value beyond the write index moves nothing (log entry 16). -/
def execEvheadWrite (v : Word) (s : State) : Host.Outcome State Fault Refusal :=
  runEvent (modify fun s =>
    let n := low 64 (v.toNat + 2 ^ 64 - low 64 s.host.evHead)
    if n ≤ s.host.evTail - s.host.evHead then { s with host := { s.host with evHead := s.host.evHead + n, evRing := s.host.evRing.drop n } } else s) s
/-- BAR0_OTHER_ACCESS: no effect but the count; a read gives zero. -/
def execBar0OtherAccess (_off : Nat) (isWrite : Bool) (s : State) : Host.Outcome State Fault Refusal :=
  runEvent (modify fun s =>
    let s : State := { s with host := { s.host with bar0Miss := s.host.bar0Miss + 1 } }
    if isWrite then s else s.emit (.hostRead 0)) s

/-! ### What is due -/

/-- The consumed entries that wait, and the mirrors that are owed, tried again. -/
def queueTick : M Unit := do
  let s ← get
  if s.queueOn then
    forM' s.host.queues fun e => match e.2.packet with
      | some p => packetTry e.1 p
      | none => pure ()
    modify fun s => { s with host := { s.host with allocs := [] } }
    forM' s.host.allocs allocTry
  else pure ()
/-- The queue engine's events that are due. A waiting launch's words are read, and an owed mirror is tried, in every cycle (log entry 17). -/
def State.queueDue (s : State) : List Instr :=
  if !s.queueOn then []
  else
    let ring (e : Nat × WorkQueue) : List Instr :=
      if e.2.state == .fetch && e.2.packet.isNone && e.2.head < e.2.tail then [Instr.queueFetch e.1]
      else if e.2.rereadDue s.now then [Instr.queueRetryRead e.1]
      else if e.2.stallDue s.now then [Instr.queueStall e.1] else []
    let done (e : Nat × Phaser) : Bool := e.2.job != 0 && (tget s.host.jobs (jobKey e.2.tenant e.2.job)).elim false (·.fin)
    s.host.queues.flatMap ring
      ++ (s.host.launches.filter fun e => !e.2.fin && e.2.eligible.isNone).map (fun e => Instr.waitPoll e.1)
      ++ s.host.mirrors.map Instr.mirrorWrite
      ++ (s.belay.phasers.filter done).map fun e => Instr.phaserFree (wd (s.handleOf (e.1 / 2 ^ 24) (low 24 e.1)))

end Sys2Proof.Machine
end

