-- ==== Sys2Proof/Machine/FabricTarget.lean ====
section
/-! DEFINITION. Fabric packets at their target and the answers at their source; sequentially consistent accesses at their homes (15, R234, R294 to R296, R309 to R316, R425, R431, R449 to R451). -/
namespace Sys2Proof.Machine

/-! ### Answers -/

/-- A response or acknowledgement to a packet, sealed in the same domain; the record of the window read, and whether the reader is left a copy, travel beside the header. A response that leaves a copy names in its va the physical address of the line, by which the home later invalidates it; every other answer repeats the request's va (log entry 9). -/
def State.respond (s : State) (p : Packet) (kind st : Nat) (payload : Bytes) (r : WinRec) (copy : Option Nat := none) : State :=
  let q : Packet := { s.bare kind p.src (copy.getD p.va) p.tag with
    status := st, bytes := payload.length, payload := payload, tenant := p.tenant, team := r.writer, stamp := r.w, ext := r.kind + 4 * b2n r.rel + 8 * r.scope + 64 * b2n copy.isSome }
  s.send (p.sealed.elim 0 (·.domain)) q
/-- The record that a response carries. -/
def recOf (p : Packet) : WinRec := { writer := p.team, kind := bits p.ext 0 2, rel := bitAt p.ext 2, scope := bits p.ext 3 3, w := p.stamp }
/-- The kind of the answer to a packet of class 0. -/
def answerKind (p : Packet) : Nat :=
  match p.kind with
  | 0 => 7
  | 2 => 8
  | _ => 9
/-- A packet answered with a status and nothing else. -/
def State.refusePacket (s : State) (p : Packet) (st : Nat) : State := s.respond p (answerKind p) st [] WinRec.empty

/-! ### Seals (R451) -/

/-- Whether a sealed packet passes the checks of its domain, and the state with its sequence noted or its refusal counted. -/
def State.sealCheck (s : State) (p : Packet) : Bool × State :=
  match p.sealed with
  | none => (true, s)
  | some e =>
    match tget s.trust.domains e.domain with
    | none => (false, s.countRefusal)
    | some d =>
      let old := e.epoch + 1 == d.epoch && s.now ≤ d.switchAt + 20 * usTicks
      let key := pairKey (if e.epoch = d.epoch then d.secret else d.prevSecret) e.domain e.epoch p.src s.devno
      let ok := d.members.contains s.devno && d.members.contains p.src && !d.removed.contains p.src && (e.epoch == d.epoch || old)
        && !d.seen.contains (p.src, e.epoch, e.seqn) && Config.mac key (sealText p e.seqn e.domain e.epoch) == e.tag
      if ok then (true, { s with trust := { s.trust with domains := tset s.trust.domains e.domain { d with seen := (p.src, e.epoch, e.seqn) :: d.seen } } })
      else (false, s.countRefusal)

/-! ### Translation and checks at the target (R316, R425, R431) -/

/-- The team that a tag names, when it is placed here. -/
def State.teamOfTag (s : State) (tag : Nat) : Option Nat := (s.teams.find? fun e => e.2.placed && s.tagOf e.1 == tag).map (·.1)
/-- The launch whose count a fabric write of this device holds, if any: its team may have ended before it (R78, R365). -/
def State.launchOfWrite (s : State) (p : Packet) : Option Nat :=
  match s.fabric.writes.find? fun w => low 22 w.id == p.tag && w.dst == p.dst with
  | some w => if w.launch = noLaunch then none else some w.launch
  | none => none
/-- The context of a packet: the tenant context map's, else for a packet of this device the issuing team's own, also when that team has ended, else none. -/
def State.targetCtx (s : State) (p : Packet) : Option Nat :=
  let q := s.tmapAt p.tenant
  if bitAt q 63 then some (low 16 q)
  else if p.src = s.devno then
    match s.teamOfTag p.team with
    | some i => some (s.launch (s.team i).launch).ctx
    | none => (s.launchOfWrite p).map fun l => (s.launch l).ctx
  else none
/-- Where a packet's access lands: a status that refuses it, or the place, or none while the fault service is awaited. -/
def targetXlate (p : Packet) (acc : Nat) : M (Except Nat (Option (Bool × Nat))) := do
  let s ← get
  match s.targetCtx p with
  | none => return .error 3
  | some ctx =>
    let r ← translate (hubAsker p.va 3) ctx p.va acc
    return match r with
      | .ok x => .ok (some x)
      | .error (.page _ _ _) => .ok none
      | .error (.prot _) => .error 3
      | .error (.fatal _ _) => .error 2
/-- Floor(B, A) of R242 for the issuing team of a packet and writer a, by the packet's view. -/
def packetFloor (p : Packet) (a : Nat) : Nat :=
  if a = tagMany then p.view.pod
  else if tagDev a = low 15 p.src then
    if coreStack (tagCore a) = coreStack (tagCore p.team) then p.view.stack else p.view.package
  else p.view.pod
/-- The check of R243 at the target. The issuing team's floors and table are those of the packet's view (log entry 9); whether the pod floor that has passed the stamp since has reached that team is a free value (log entry 1). -/
def targetCheck (p : Packet) (pa : Nat) (sync : Bool) : M Bool := do
  let s ← get
  let r := s.winRec (lineOf pa)
  match (if p.src = s.devno then s.teamOfTag p.team else none) with
  | some i => return s.checkRec i r sync false
  | none =>
    if r.kind = 0 || r.writer = p.team || (sync && r.kind == 2) || clkLt r.w (packetFloor p r.writer)
      || (r.writer != tagMany && p.view.acquired.any fun e => e.1 == r.writer && !clkLt e.2 r.w) then return true
    else if clkLt r.w s.podFloor then
      let f ← freeM
      return bitAt f 0
    else return false
/-- The conflict report of a fabric access whose check fails: the fabric address, the record, the floor that covers its writer (R316, Table 11-8). -/
def State.targetReport (s : State) (p : Packet) (pa acc : Nat) : Bytes :=
  let r := s.winRec (lineOf pa)
  let f := match (if p.src = s.devno then s.teamOfTag p.team else none) with
    | some i => s.floorFor i r.writer
    | none => packetFloor p r.writer
  leBytes 8 (p.dst * 2 ^ 49 + low 49 p.va) ++ leBytes 8 r.w ++ leBytes 8 (r.reportQuad acc) ++ leBytes 8 f
/-- A packet answered with status 4 and the conflict report, which travels as its payload (log entry 9). -/
def State.conflictPacket (s : State) (p : Packet) (pa acc : Nat) : State := s.respond p (answerKind p) 4 (s.targetReport p pa acc) WinRec.empty
/-- Whether a packet's write may reach a line that a mapping may hold (R269). -/
def State.targetMayWrite (s : State) (p : Packet) (line : Nat) : Bool :=
  s.mapWriteOk line Config.cores (if p.src = s.devno then s.teamOfTag p.team else none)
/-- Whether a read packet leaves its source a copy: not of a Churn or mapped line, nor of one whose sector the host or the guest die owns (R288, R290, R293, R309). -/
def State.copyLeft (s : State) (p : Packet) (line : Nat) : Bool := p.src != s.devno && s.handsOut line && !s.lineOwnedOut line
/-- The line is noted as held at the packet's source (R294, R309). -/
def State.notePeer (s : State) (p : Packet) (line : Nat) : State :=
  if !s.copyLeft p line then s else s.setPeer (line / 16) ((s.peer (line / 16)).add line p.src)

/-! ### Atomics over the fabric (R311) -/

/-- The operation of a control word. -/
def fatmOp (op : Nat) : AtomOp :=
  match bits op 4 4 with
  | 0 => .add
  | 1 => if bitAt op 3 then .minS else .minZ
  | 2 => if bitAt op 3 then .maxS else .maxZ
  | 3 => .and
  | 4 => .or
  | 5 => .xor
  | 6 => .exch
  | _ => .cas
/-- Bytes that a control word's width names. -/
def fatmBytes (op : Nat) : Nat := if bitAt op 0 then 8 else 4
/-- An operation on n bytes of device memory under a record of a tag and stamp, performed at the home. -/
def homeAtomic (pa n : Nat) (op : AtomOp) (b d tag w : Nat) (k : RecKind) : M Nat := do
  if op.writes then
    snoopSectors pa n true
    homeOwn (lineOf pa)
  else snoopSectors pa n false
  let old ← homeRead pa n
  let m := ofLe old
  match atomNew op (8 * n) m b d with
  | none => pure ()
  | some v =>
    homeWrite pa (leBytes n v)
    modify fun s => s.recordWrite (lineOf pa) tag w k
  return atomRet op m b

/-! ### Packets of class 0 (R296, R309 to R312, R350) -/

/-- A packet that an SC access brought is held at its home; from then on this device's own report no longer holds its stamp (R233, R234). -/
def holdPacket (p : Packet) (pa n : Nat) (host : Bool) (op : AtomOp) (b d : Nat) : M Unit := do
  let id ← newId
  modify fun s => { s with scHeld := s.scHeld ++
    [{ id := id, clk := p.stamp, core := tagCore p.team, th := noThread, oid := 0, va := p.va, pa := pa, team := 0, spad := false, host := host,
       n := n, op := op, data := b, cmp := d, reply := some p, pos := 0, mid := false, ports := [] }] }
  modify fun s => if p.src = s.devno then s.reachHome p s.now else s
/-- A fabric load. It answers whether it has to wait. -/
def readAct (p : Packet) : M Bool := do
  let x ← targetXlate p 1
  match x with
  | .error st => modify fun s => s.refusePacket p st; return false
  | .ok none => return true
  | .ok (some (true, pa)) =>
    if low 3 p.op = 4 then holdPacket p pa p.bytes true .load 0 0
    else modify fun s => s.respond p 7 0 (memGetN s.hostMem pa p.bytes) WinRec.empty
    return false
  | .ok (some (false, pa)) =>
    let o := low 3 p.op
    let ok ← targetCheck p pa (o != 0)
    if !ok then modify fun s => s.conflictPacket p pa (if o = 0 then 0 else 2)
    else if o = 4 then holdPacket p pa p.bytes false .load 0 0
    else
      let b ← homeRead pa p.bytes
      let s ← get
      if s.copyLeft p (lineOf pa) then peerRoom (lineOf pa) else pure ()
      modify fun s => (s.notePeer p (lineOf pa)).respond p 7 0 b (s.winRec (lineOf pa)) (if s.copyLeft p (lineOf pa) then some (pa / 128 * 128) else none)
    return false
/-- A fabric store or a bulk piece in device memory. -/
def writeAct (p : Packet) (k : RecKind) : M (Option Nat) := do
  let x ← targetXlate p 2
  match x with
  | .error st => return some st
  | .ok none => return none
  | .ok (some (true, pa)) =>
    modify fun s => s.hostStore pa p.payload
    return some 0
  | .ok (some (false, pa)) =>
    let s ← get
    if !s.targetMayWrite p (lineOf pa) then return some 3
    else
      let ok ← targetCheck p pa (match k with | .sync _ _ => true | _ => false)
      if !ok then return some 4
      else
        homeWrite pa p.payload
        modify fun s => s.recordWrite (lineOf pa) p.team p.stamp k
        return some 0
/-- A write acknowledged once it is performed or dropped; it answers whether it has to wait. -/
def acked (p : Packet) (r : Option Nat) : M Bool := do
  match r with
  | none => return true
  | some st =>
    modify fun s => s.respond p 9 st [] WinRec.empty
    return false
/-- A fabric atomic. -/
def atomicAct (p : Packet) : M Bool := do
  let x ← targetXlate p 3
  match x with
  | .error st => modify fun s => s.refusePacket p st; return false
  | .ok none => return true
  | .ok (some (true, _)) => modify fun s => s.refusePacket p 3; return false
  | .ok (some (false, pa)) =>
    let s ← get
    if !s.targetMayWrite p (lineOf pa) then modify fun s => s.refusePacket p 3; return false
    else if (s.cluster (homeCluster pa)).faulted then return true
    else
      let o := bits p.op 8 3
      let ok ← targetCheck p pa true
      let n := fatmBytes p.op
      let b := ofLe (cut p.payload 0 n)
      let d := ofLe (cut p.payload n n)
      if !ok then modify fun s => s.conflictPacket p pa 3
      else if (s.mapOf (lineOf pa)).isNone && (if o = 4 then s.serviceFull (homeCluster pa) else s.groupBehind pa n) then return true
      else if o = 4 then holdPacket p pa n false (fatmOp p.op) b d
      else
        let r := s.winRec (lineOf pa)
        let v ← homeAtomic pa n (fatmOp p.op) b d p.team p.stamp (.sync (ordRel o) (if ordRel o then 6 else 0))
        modify fun s => s.respond p 8 0 (leBytes n v) r
      return false
/-- The arrival counter that a handle names at this device (R312, R313). -/
def State.arrivalOf (s : State) (h : Nat) : Option Arrival :=
  if bits h 46 18 = low 15 s.devno && bits h 16 30 = 0 && h ≠ 0 then tget s.fabric.arrivals (low 16 h) else none
/-- Bytes counted; a counter that reaches its target is in state reached. -/
def State.countArrival (s : State) (a : Arrival) (n : Nat) : State :=
  let c := low 64 (s.arrivalCount a.team a.off + n)
  let s : State := s.spadPut a.team a.off (leBytes 8 c)
  if s.arrivalTarget a.team a.off ≤ c then s.spadPut a.team (a.off + 13) [2] else s
/-- A bulk piece: scratchpad of the counter's team, or device memory; counted once when it is performed. -/
def pieceAct (p : Packet) : M Bool := do
  let s ← get
  let h := low 64 p.ext
  let a := s.arrivalOf h
  if bitAt p.ext 127 then
    match a with
    | none => acked p (some 7)
    | some a =>
      if (s.team a.team).spadSize < p.va + p.payload.length || s.controlBytes a.team p.va p.payload.length then acked p (some 3)
      else
        modify fun s => ((s.spadPut a.team p.va p.payload).padRecords a.team p.va p.payload.length p.team p.stamp .plain).countArrival a p.payload.length
        acked p (some 0)
  else
    let r ← writeAct p .plain
    match r, a with
    | some 0, some a => modify fun s => s.countArrival a p.payload.length
    | _, _ => pure ()
    acked p r
/-- An invalidation or a merge recall of a line of another device (R295): the copy goes, a partial travels to its home. -/
def recallAct (p : Packet) : M Bool := do
  let s ← get
  let key := p.src * 2 ^ 40 + lineOf p.va
  match tget s.peerCopies key with
  | some (.part _ _ d) => modify fun s => ({ s with peerCopies := tdel s.peerCopies key }).respond p 11 0 d WinRec.empty
  | _ => modify fun s => ({ s with peerCopies := tdel s.peerCopies key }).respond p 10 0 [] WinRec.empty
  return false
/-- Class 0 at the target. -/
def requestAct (p : Packet) : M Bool :=
  match p.kind with
  | 0 => readAct p
  | 1 => do
    let r ← writeAct p (if low 3 p.op = 2 then .sync true 6 else .plain)
    acked p r
  | 2 => atomicAct p
  | 3 => pieceAct p
  | _ => recallAct p

/-! ### Answers at the source (R295, R309 to R312, R315) -/

/-- The request or write of this device that an answer's tag names. -/
def State.reqFor (s : State) (p : Packet) : Option FabReq := s.fabric.reqs.find? fun r => low 22 r.id == p.tag && r.dst == p.src
def State.writeFor (s : State) (p : Packet) : Option Nat := (s.fabric.writes.find? fun w => low 22 w.id == p.tag && w.dst == p.src).map (·.id)
/-- A read or atomic response: an acquire takes its entry first; the line read is then held at this device's peer home. -/
def responseAct (p : Packet) : M Bool := do
  let s ← get
  match s.reqFor p with
  | none => return false
  | some r =>
    if p.status = 0 then
      if r.acq && (tget s.threads r.th).isSome then acquireRec r.th (recOf p) 6 else pure ()
      if r.atomic || p.src = s.devno || !bitAt p.ext 6 then pure ()
      else
        if (tget s.peerCopies (p.src * 2 ^ 40 + lineOf p.va)).isSome then pure () else sliceRoom (peerSlice (lineOf p.va))
        modify fun s => { s with peerCopies := tset s.peerCopies (p.src * 2 ^ 40 + lineOf p.va) .shared }
    else pure ()
    modify fun s => s.endReq r.id p.status (ofLe p.payload) p.payload
    return false
/-- A device's answer to an invalidation of a line; once all have answered, the region's entry empties when every line is clear (R294, R295). -/
def State.peerAnswered (s : State) (line dev : Nat) : State :=
  let s : State := { s with peerAcks := s.peerAcks.filter fun a => !(a.line == line && a.dev == dev) }
  if s.peerAcks.any (fun a => a.line == line) then s
  else
    let p := s.peer (line / 16)
    let clear := if p.clear.contains line then p.clear else p.clear ++ [line]
    if 16 ≤ clear.length then s.setPeer (line / 16) Peer.empty else s.setPeer (line / 16) { p with clear := clear }
/-- The total of another device's partials is kept for the merge of the line (R288). -/
def State.takePartial (s : State) (line dev : Nat) (b : Bytes) : State :=
  match s.dirOf line with
  | .churn _ _ _ => if b.length = 128 then { s with peerParts := s.peerParts ++ [{ line := line, dev := dev, data := b }] } else s
  | _ => s
/-- Classes 1 and 2 at the source. -/
def answerAct (p : Packet) : M Bool := do
  let s ← get
  match p.kind with
  | 7 | 8 => responseAct p
  | 9 =>
    match s.writeFor p with
    | some id => modify fun s => s.endWrite id p.status
    | none => pure ()
    return false
  | 10 =>
    if s.peerAcks.any (fun a => a.line == lineOf p.va && a.dev == p.src) then modify fun s => s.peerAnswered (lineOf p.va) p.src else pure ()
    return false
  | _ =>
    if s.peerAcks.any (fun a => a.line == lineOf p.va && a.dev == p.src) then
      modify fun s => (s.takePartial (lineOf p.va) p.src p.payload).peerAnswered (lineOf p.va) p.src
    else pure ()
    return false

/-! ### Packets in their order (R283, R354) -/

/-- A packet acts, or waits at its home; one that follows a waiting packet of its line from its source waits behind it. -/
def packetAt (p : Packet) : M Unit := fun s =>
  let behind (q : Packet) : Bool := q.src == p.src && lineOf q.va == lineOf p.va && q.kind < 7 && p.kind < 7
  let wait (s : State) : State := { s with fabric := { s.fabric with stalled := s.fabric.stalled ++ [p] } }
  if s.fabric.stalled.any behind then (.ok (), wait s)
  else match asParty (partyPacket p) (if p.kind < 7 then requestAct p else answerAct p) s with
    | (.ok again, s') => (.ok (), if again then wait s' else s')
    | (.error .hold, s') => (.ok (), wait s')
    | (.error e, s') => (.error e, s')
/-- The packets that wait, tried again in their order. -/
def stalledTick : M Unit := do
  let s ← get
  let l := s.fabric.stalled
  modify fun s => { s with fabric := { s.fabric with stalled := [] } }
  forM' l packetAt
/-- A packet under another kind number, as the event that names its kind takes it. -/
def asKind (p : Packet) (n : Nat) : Packet := { p with kind := n }
def execFabricRead (p : Packet) (s : State) : Host.Outcome State Fault Refusal := runEvent (packetAt (asKind p 0)) s
def execFabricWrite (p : Packet) (s : State) : Host.Outcome State Fault Refusal := runEvent (packetAt (asKind p 1)) s
def execFabricAtomic (p : Packet) (s : State) : Host.Outcome State Fault Refusal := runEvent (packetAt (asKind p 2)) s
def execBulkPiece (p : Packet) (s : State) : Host.Outcome State Fault Refusal := runEvent (packetAt (asKind p 3)) s
def execFabricInvalidate (p : Packet) (s : State) : Host.Outcome State Fault Refusal := runEvent (packetAt (asKind p 5)) s
def execFabricMergeRecall (p : Packet) (s : State) : Host.Outcome State Fault Refusal := runEvent (packetAt (asKind p 6)) s
def execReadResponse (p : Packet) (s : State) : Host.Outcome State Fault Refusal := runEvent (packetAt (asKind p 7)) s
def execAtomicResponse (p : Packet) (s : State) : Host.Outcome State Fault Refusal := runEvent (packetAt (asKind p 8)) s
def execWriteAcknowledgement (p : Packet) (s : State) : Host.Outcome State Fault Refusal := runEvent (packetAt (asKind p 9)) s
def execInvalidateAcknowledgement (p : Packet) (s : State) : Host.Outcome State Fault Refusal := runEvent (packetAt (asKind p 10)) s
def execPartialPacket (p : Packet) (s : State) : Host.Outcome State Fault Refusal := runEvent (packetAt (asKind p 11)) s

/-! ### SC accesses at their homes (R234) -/

/-- The floor that an SC access waits for: the pod floor at its home, or the core's copy of it for the aperture. -/
def State.scFloor (s : State) (a : ScAccess) : Nat := if a.spad then (s.core a.core).floors.pod else s.podFloor
/-- Whether the floor has passed an SC access. -/
def State.scReady (s : State) (a : ScAccess) : Bool := clkLt a.clk (s.scFloor a)
/-- The device of an SC access. -/
def State.scDev (s : State) (a : ScAccess) : Nat := a.reply.elim s.devno (·.src)
/-- The order of stamps: clock, device, core (R232). -/
def State.stampLt (s : State) (a b : ScAccess) : Bool :=
  clkLt a.clk b.clk || (a.clk == b.clk && (s.scDev a < s.scDev b || (s.scDev a == s.scDev b && a.core < b.core)))
/-- What the check of R243 says of an SC access where it is performed, after the one made when it came (DEDUCED, log entry 43): none, or the packet's answer with the conflict, or the trap of a thread's word (R243, R244, R316). Aperture accesses and host memory have no record that is checked. -/
def scCheck (a : ScAccess) : M Bool := do
  let acc := if a.op = .load then 2 else 3
  if a.spad || a.host then return true
  else match a.reply with
    | some p => targetCheck p a.pa true
    | none =>
      raceCheck a.th a.va a.pa true false acc
      return true
/-- An SC access performed: its value, and the record it read. -/
def scAct (a : ScAccess) : M (Nat × WinRec) := do
  let s ← get
  let tag := match a.reply with
    | some p => p.team
    | none => s.tagOf a.team
  let acquires : Bool := a.op != .store && a.reply.isNone && (tget s.threads a.th).isSome
  if a.spad then
    if acquires then acquirePad a.th a.team a.pa a.n 6 else pure ()
    let m := ofLe (s.spadGet a.team a.pa a.n)
    match atomNew a.op (8 * a.n) m a.data a.cmp with
    | none => pure ()
    | some v => modify fun s => (s.spadPut a.team a.pa (leBytes a.n v)).padRecords a.team a.pa a.n tag a.clk (.sync true 6)
    return (atomRet a.op m a.data, WinRec.empty)
  else if a.host then
    let m := ofLe (memGetN s.hostMem a.pa a.n)
    match atomNew a.op (8 * a.n) m a.data a.cmp with
    | none => pure ()
    | some v => modify fun s => s.hostStore a.pa (leBytes a.n v)
    return (atomRet a.op m a.data, WinRec.empty)
  else if (s.cluster (homeCluster a.pa)).faulted && (s.mapOf (lineOf a.pa)).isNone && a.op != .load && a.op != .store then holdM
  else
    let r := s.winRec (lineOf a.pa)
    if acquires then acquireRec a.th r 6 else pure ()
    let v ← homeAtomic a.pa a.n a.op a.data a.cmp tag a.clk (.sync true 6)
    match a.reply with
    | some p =>
      let s ← get
      if a.op == .load && s.copyLeft p (lineOf a.pa) then peerRoom (lineOf a.pa) else pure ()
    | none => pure ()
    return (v, r)
/-- An action whose trap is an answer; a hold stays a hold. -/
def caught {α : Type} (m : M α) : M (Except Stop α) := fun s =>
  match m s with
  | (.ok a, s') => (.ok (.ok a), s')
  | (.error .hold, s') => (.error .hold, s')
  | (.error e, s') => (.ok (.error e), s')
/-- A thread leaves its gang. -/
def State.leaveGang (s : State) (k : Nat) : State :=
  { s with gangs := (s.gangs.map fun e => (e.1, { e.2 with members := e.2.members.filter (· != k), done := e.2.done.filter (· != k) })).filter fun e => !e.2.members.isEmpty }
/-- An SC access whose check fails where it is performed: nothing of its word stands, and its thread takes the exception precisely there (R244). -/
def failSc (a : ScAccess) (e : Stop) : M Unit := do
  modify fun s => (s.leaveGang a.th).modThr a.th fun t =>
    { t with outst := t.outst.filter fun o => o.id != a.oid, varDest := t.varDest.filter fun v => v.oid != a.oid, streams := a.ports }
  match e.info a.pos a.mid with
  | some i => takeTrap a.th i
  | none => pure ()
/-- The access with the least stamp among those whose floor has come is checked, performed and leaves its home; one that must wait for a line holds the others back. -/
def scStep : M Unit := do
  let s ← get
  match minBy s.stampLt (s.scHeld.filter s.scReady) with
  | none => pure ()
  | some a => asParty (partySc a.id) do
    let leave : State → State := fun s => { s with scHeld := s.scHeld.filter fun x => x.id != a.id }
    let c ← caught (scCheck a)
    match c, a.reply with
    | .error e, _ =>
      modify leave
      failSc a e
    | .ok false, some p => modify fun s => (leave s).conflictPacket p a.pa (if a.op = .load then 2 else 3)
    | .ok _, _ =>
      let r ← scAct a
      modify leave
      match a.reply with
      | some p =>
        let load := a.op == .load
        modify fun s =>
          let copy := load && !a.host && s.copyLeft p (lineOf a.pa)
          (if copy then s.notePeer p (lineOf a.pa) else s).respond p (if load then 7 else 8) 0 (leBytes a.n r.1) r.2 (if copy then some (a.pa / 128 * 128) else none)
      | none => modify fun s => s.modOutst a.th a.oid fun o => { o with val := r.1, fixed := true }
/-- SC_PERFORM. -/
def execScPerform (s : State) : Host.Outcome State Fault Refusal := runEvent scStep s
/-- Whether an SC access is due. -/
def State.scDue (s : State) : List Instr := if s.scHeld.any s.scReady then [Instr.scPerform] else []

end Sys2Proof.Machine
end

