-- ==== Sys2Proof/Machine/Links.lean ====
section
/-! DEFINITION. Links, flits, slots and credits; circuit slots, send queues and drain markers; retired links and lost devices (19, R236, R295, R345 to R367). -/
namespace Sys2Proof.Machine

/-! ### Flits (R347 to R349, R351) -/

/-- Flits of a replay buffer, and buffer slots of a lane. -/
def replayCap (l : Nat) : Nat := if isGlobal l then 1024 else 64
def laneCap (l : Nat) : Nat := if isGlobal l then 2048 else 128
/-- Header, extension, seal and payload of a packet in bytes, and the buffer slots it takes. -/
def packetExt (p : Packet) : Nat := (if p.kind = 3 then 16 else 0) + (if p.sealed.isSome then 32 else 0)
def packetSize (p : Packet) : Nat := 16 + packetExt p + (p.payload.length + 15) / 16 * 16
def packetSlots (p : Packet) : Nat := (16 + packetExt p + p.payload.length + 63) / 64
/-- The 32-byte seal of a packet (R449). -/
def sealLayout (x : Seal) : Bytes := leBytes 16 x.tag ++ leBytes 8 x.seqn ++ leBytes 1 x.domain ++ leBytes 4 x.epoch ++ leBytes 3 0
/-- The header of a packet (Table 19-3). -/
def packetHeader (p : Packet) : Nat :=
  low 4 p.kind * 2 ^ 124 + low 15 p.src * 2 ^ 109 + low 15 p.dst * 2 ^ 94 + low 8 p.bytes * 2 ^ 86 + low 4 p.status * 2 ^ 82
    + b2n p.sealed.isSome * 2 ^ 81 + low 50 p.va * 2 ^ 30 + low 22 p.tag * 2 ^ 8 + low 8 p.op
/-- The bytes of a packet: header, extension, seal and payload, a multiple of 16 (R349). -/
def packetLayout (p : Packet) : Bytes :=
  leBytes 16 (packetHeader p) ++ (if p.kind = 3 then leBytes 16 p.ext else []) ++ p.sealed.elim [] sealLayout
    ++ p.payload ++ List.replicate ((16 - p.payload.length % 16) % 16) 0
/-- The packet area of a flit (R347, R349, R352, R357): packets back to back, the eight counts of a census, the seq that a replay request names in its first 4 bytes, or device and link number of an identification in 2 bytes each (DESIGN CHOICE for the last two, log entry 35). -/
def flitArea (f : Flit) : Bytes :=
  let b := match f.kind with
    | 2 => f.info.flatMap (leBytes 4)
    | 3 => f.info.flatMap (leBytes 4)
    | 4 => f.info.flatMap (leBytes 2)
    | _ => f.packets.flatMap packetLayout
  (b ++ List.replicate 224 0).take 224
/-- The header of a flit (Table 19-2). -/
def flitHeader (f : Flit) : Nat :=
  low 4 f.kind * 2 ^ 124 + low 12 f.seq * 2 ^ 112 + low 12 f.ack * 2 ^ 100 + (f.ret.zipIdx.map fun e => low 12 e.1 * 2 ^ (12 * e.2)).foldl (· + ·) 0
/-- Bytes 0 to 247 of a flit, and the CRC-32C over them (R347). -/
def flitBody (f : Flit) : Bytes := leBytes 16 (flitHeader f) ++ flitArea f ++ leBytes 8 0
def flitCheck (f : Flit) : Nat := crc32c (flitBody f)
def flitOk (f : Flit) : Bool := f.crc == flitCheck f
/-- A flit with its CRC filled in. -/
def flitSigned (f : Flit) : Flit := { f with crc := flitCheck f }
/-- The class of a packet kind (Table 19-3). -/
def packetClass (k : Nat) : Nat := if k ≤ 6 then 0 else if k ≤ 8 then 1 else 2
/-- The lane in which a packet crosses a link of this device. -/
def State.lane (s : State) (l : Nat) (p : Packet) : Nat :=
  2 * packetClass p.kind + (if isGlobal l then 0 else b2n (devGroup p.dst == devGroup s.devno))
/-- A table of counts raised. -/
def tadd (t : Tbl Nat) (k n : Nat) : Tbl Nat := dset 0 t k (dget 0 t k + n)
/-- The returns that a flit sent now carries for each lane: slots freed as the receiver and not yet reported (R351). -/
def Link.returns (x : Link) : List Nat := (List.range 8).map fun n => min 4095 (dget 0 x.given n - dget 0 x.told n)
def Link.tell (x : Link) (ret : List Nat) : Link := { x with told := ret.zipIdx.foldl (fun t e => tadd t e.2 e.1) x.told, flitsSinceCensus := x.flitsSinceCensus + 1 }
/-- Buffer slots of an input freed: the packets of this hub's transit among those given have left it (R351). -/
def State.freeTransit (s : State) (ps : List Packet) : State :=
  ps.foldl (fun s p => match s.fabric.transit.find? (·.packet == p) with
    | none => s
    | some t =>
      let s : State := { s with fabric := { s.fabric with transit := s.fabric.transit.erase t } }
      let n := s.lane t.link p
      s.modLink t.link fun x =>
        if x.circuit = t.circuit then { x with given := tadd x.given n (packetSlots p) }
        else { x with parked := tmod x.parked t.circuit fun y => { y with given := tadd y.given n (packetSlots p) } }) s
/-- A flit sent on a link: numbered, kept for replay, with the returns not yet reported. -/
def State.sendFlit (s : State) (l kind : Nat) (ps : List Packet) (info : List Nat := []) : State :=
  let x := s.link l
  let ret := x.returns
  let f : Flit := flitSigned { crc := 0, kind := kind, seq := x.txSeq, ack := x.lastGood, ret := ret, packets := ps, info := info }
  let sent := ps.foldl (fun t p => tadd t (s.lane l p) (packetSlots p)) x.sent
  ((((s.modLink l fun x => { x.tell ret with txSeq := (x.txSeq + 1) % 4096, replay := x.replay ++ [f], sent := sent }).freeTransit ps).leaveDevice ps)).emit (.flit l f)
/-- The counts of a census: the totals of slots freed on each lane since the link came up, modulo 2^32 (R352). -/
def Link.counts (x : Link) : List Nat := (List.range 8).map fun n => low 32 (dget 0 x.given n)
/-- The flit of a replay buffer with a seq sent again, its ack and its returns filled afresh (R348), and a census's counts with them, which its returns are part of (R352; DEDUCED, log entry 35). -/
def State.resendFlit (s : State) (l : Nat) (f : Flit) : State :=
  let x := s.link l
  let f : Flit := flitSigned { f with ack := x.lastGood, ret := x.returns, info := if f.kind = 2 then x.counts else f.info }
  (s.modLink l fun x => x.tell x.returns).emit (.flit l f)
/-- A census, a replay request or an identification sent (R348, R352, R357). -/
def State.special (s : State) (l kind : Nat) : State :=
  let x := s.link l
  if kind = 2 then
    ((s.sendFlit l 2 [] x.counts).modLink l fun y => { y with flitsSinceCensus := 0, censusAt := s.now, told := x.given }).emit (.census l x.counts)
  else if kind = 3 then (s.sendFlit l 3 [] [x.rxSeq]).emit (.replayRequest l x.rxSeq)
  else (s.sendFlit l 4 [] [s.devno, l - 32]).emit (.identify l)
/-- Whether flits may cross a link now: it is up, and a global link is in data time, has a circuit in this slot, and that is not wrong (R355 to R357). -/
def State.carries (s : State) (l : Nat) : Bool :=
  let x := s.link l
  x.up && (!isGlobal l || (s.ownData l && (s.ownEntry l).isSome && !x.wrong))
/-- Whether a new flit may be sent now: a full replay buffer holds it back, and a flit being sent again goes first (R348). -/
def State.maySend (s : State) (l : Nat) : Bool := s.carries l && (s.link l).replay.length < replayCap l && (s.link l).resendFrom.isNone
/-- A special flit sent, or owed until the link may send it. -/
def State.oweFlit (s : State) (l kind : Nat) : State :=
  if s.maySend l then s.special l kind
  else s.modLink l fun x => if x.owed.contains kind then x else { x with owed := x.owed ++ [kind] }
/-- The packets that the next flit takes from a link's queue, in their order by lane, within the packet area and the credits; and those left. -/
def fillFlit (lane : Packet → Nat) (may : Packet → Bool) : List Packet → Nat → (Nat → Nat) → List Nat → List Packet × List Packet
  | [], _, _, _ => ([], [])
  | p :: r, area, room, blocked =>
    let n := lane p
    if !may p then let x := fillFlit lane may r area room blocked; (x.1, p :: x.2)
    else if packetSize p ≤ area && packetSlots p ≤ room n && !blocked.contains n then
      let x := fillFlit lane may r (area - packetSize p) (fun m => if m = n then room m - packetSlots p else room m) blocked
      (p :: x.1, x.2)
    else let x := fillFlit lane may r area room (n :: blocked); (x.1, p :: x.2)
/-- Whether packets may cross a link now: a global link's circuit must have been identified. -/
def State.linkOpen (s : State) (l : Nat) : Bool := s.maySend l && (!isGlobal l || (s.link l).identOk)
/-- The free slots of a lane at the far end, as the sender counts them (R351). -/
def Link.room (x : Link) (l n : Nat) : Nat := laneCap l + dget 0 x.freed n - dget 0 x.sent n
/-- The part of a replay buffer that is to be sent again from a seq; what has been acknowledged since is left out (R348). -/
def Link.again (x : Link) (n : Nat) : List Flit := if x.replay.any (·.seq == n) then x.replay.dropWhile (·.seq != n) else x.replay
/-- One cycle of a link: a flit sent again, a special flit owed, a flit of waiting packets, or an idle flit (R347). -/
def State.linkTick (s : State) (l : Nat) : State :=
  let x := s.link l
  if !s.carries l then s
  else match x.resendFrom with
    | some n => match x.again n with
      | [] => s.modLink l fun x => { x with resendFrom := none }
      | f :: r => (s.modLink l fun x => { x with resendFrom := r.head?.map (·.seq) }).resendFlit l f
    | none =>
      if !s.maySend l then s
      else match x.owed with
        | k :: r => (s.modLink l fun x => { x with owed := r }).special l k
        | [] =>
          let may (p : Packet) : Bool := !isGlobal l || (s.ownEntry l).elim false fun e => devGroup e.peer == devGroup p.dst
          let r := if s.linkOpen l then fillFlit (s.lane l) may x.waiting 224 (x.room l) [] else ([], x.waiting)
          if r.1.isEmpty then s.sendFlit l 0 []
          else (s.modLink l fun x => { x with waiting := r.2 }).sendFlit l 1 r.1
/-- All links in one cycle. -/
def State.linksTick (s : State) : State := (s.fabric.links.map (·.1)).foldl State.linkTick s.backlogTick

/-! ### Arrival (R348, R349, R351, R353, R451) -/

/-- A packet for which this hub has no way is dropped; the slots it held are free. -/
def State.strand (s : State) (p : Packet) : State :=
  let s : State := s.freeTransit [p]
  { s with fabric := { s.fabric with drops := s.fabric.drops + 1 } }
/-- A packet put at the end of a link's queue, or stranded. -/
def State.giveLink (s : State) (p : Packet) (l : Option Nat) : State := match l with
  | some l => s.modLink l fun x => { x with waiting := x.waiting ++ [p] }
  | none => s.strand p
/-- The global link, by its table key, that joins this group to another in a later slot, when it serves; of this device's own links only, where that is asked (R359). -/
def State.laterKey (s : State) (own : Bool) (g : Nat) : Option Nat :=
  (s.fabric.tables.find? fun t => (!own || t.1 / 16 == devPos s.devno) && s.linkServes t.1 && t.2.entries.any fun e => e.elim false fun x => devGroup x.peer == g).map (·.1)
/-- A packet on its way through this hub: to its group by a local link; to another by the global link that its source chose, where it waits for a slot in which the circuit reaches the group (R353, R354, R359). One that names none of this device's links takes the first of them that reaches the group, now or later (log entry 14). A drain marker follows its path, which its tag names. -/
def State.relay (s : State) (p : Packet) : State :=
  let g := devGroup p.dst
  if g = devGroup s.devno then s.giveLink p (s.localPath p.dst)
  else
    let mine (k : Nat) : Bool := k / 16 == devPos s.devno
    let key : Option Nat :=
      if p.via ≠ 0 && mine (p.via - 1) then some (p.via - 1)
      else if p.kind = 4 && mine (p.tag / 64) then some (p.tag / 64)
      else (((s.circuitsIf s.linkServes g).find? fun e => mine e.1).map (·.1)).orElse fun _ => s.laterKey true g
    s.giveLink p ((s.cutOff p.dst).orElse fun _ => key.map fun k => 32 + k % 16)
/-- A packet that has crossed a link. -/
def State.arrived (s : State) (p : Packet) : State :=
  if 12 ≤ p.kind || 128 < p.bytes then { s with fabric := { s.fabric with discarded := s.fabric.discarded + 1 } }
  else if s.fabric.lost.contains p.src || s.fabric.lost.contains p.dst then { s with fabric := { s.fabric with drops := s.fabric.drops + 1 } }
  else if p.dst ≠ s.devno then s.relay p
  else
    let c := s.sealCheck p
    if c.1 then { c.2 with agenda := c.2.agenda ++ [packetEvent p] }
    else match p.kind with
      | 0 | 1 | 2 | 3 => c.2.refusePacket p 6
      | 7 | 8 => match c.2.reqFor p with
        | some r => c.2.endReq r.id 6 0
        | none => c.2
      | 9 => match c.2.writeFor p with
        | some id => c.2.endWrite id 6
        | none => c.2
      | _ => c.2
/-- The replay buffer without what an ack covers. -/
def ackedReplay (ack : Nat) (l : List Flit) : List Flit := if l.any (·.seq == ack) then (l.dropWhile (·.seq != ack)).drop 1 else l
/-- Whether a packet goes on through this hub. -/
def State.passes (s : State) (p : Packet) : Bool := p.kind < 12 && p.bytes ≤ 128 && !s.fabric.lost.contains p.src && !s.fabric.lost.contains p.dst && p.dst != s.devno
/-- Every flit from a number on is to be sent again, one after another (R348). -/
def State.replayFrom (s : State) (l seq : Nat) : State :=
  s.modLink l fun x => { x with
    nReplay := x.nReplay + 1, replays := s.now :: x.replays.filter fun t => s.now ≤ t + usTicks,
    resendFrom := if x.replay.any (·.seq == seq) then some seq else x.resendFrom }
/-- A census: freed becomes the count of each lane, modulo 2^32 the value nearest to the one held; each lane whose value differs counts as a resynchronisation (R352). -/
def State.countsIn (s : State) (l : Nat) (counts : Counts) : State :=
  let x := s.link l
  if !x.up then s
  else
    let up (n : Nat) : Nat := let f := dget 0 x.freed n; ((f : Int) + toS 32 (counts.getD n 0 + 2 ^ 32 - low 32 f)).toNat
    let freed := (List.range 8).foldl (fun t n => dset 0 t n (up n)) x.freed
    let differ := ((List.range 8).filter fun n => up n != dget 0 x.freed n).length
    s.modLink l fun x => { x with freed := freed, nResync := x.nResync + differ }
/-- A circuit that is wrong carries nothing in this slot. -/
def State.wrongCircuit (s : State) (l : Nat) : State :=
  let s : State := s.modLink l fun x => { x with wrong := true, identFails := x.identFails + 1 }
  { s with fabric := { s.fabric with wrong := s.fabric.wrong + 1 } }
/-- An identification: the far end's device and link against the slot table (R357). -/
def State.identified (s : State) (l dev plink : Nat) : State :=
  match s.ownEntry l with
  | some e =>
    if !s.ownData l || (s.link l).identOk || (s.link l).wrong then s
    else if e.peer = dev && e.plink = plink then s.modLink l fun x => { x with identOk := true, identFails := 0 }
    else s.wrongCircuit l
  | none => s
/-- What the packet area of a good census, replay request or identification asks of this end; one whose words are not given leaves it to its own event. -/
def State.asked (s : State) (l : Nat) (f : Flit) : State := match f.kind, f.info with
  | 2, n :: c => s.countsIn l (n :: c)
  | 3, [n] => s.replayFrom l n
  | 4, [d, n] => s.identified l d n
  | _, _ => s
/-- FLIT_RECEIVE: a damaged flit is discarded and a replay asked for, again when the flit awaited is damaged once more; a good one gives its ack, its returns and its packets. The slots of a packet that goes on are freed when it leaves. -/
def State.flitIn (s : State) (l : Nat) (f : Flit) : State :=
  let x := s.link l
  if !x.up then s
  else if !flitOk f || 5 ≤ f.kind || f.seq ≠ x.rxSeq then
    let s : State := s.modLink l fun x => { x with nDamage := x.nDamage + 1, skipping := true }
    if x.skipping && f.seq ≠ x.rxSeq then s else s.oweFlit l 3
  else
    let freed := f.ret.zipIdx.foldl (fun t e => tadd t e.2 e.1) x.freed
    let passing := f.packets.filter s.passes
    let given := (f.packets.filter fun p => !s.passes p).foldl (fun t p => tadd t (s.lane l p) (packetSlots p)) x.given
    let s : State := s.modLink l fun x => { x with
      rxSeq := (x.rxSeq + 1) % 4096, lastGood := f.seq, lastGoodAt := s.now, skipping := false, replay := ackedReplay f.ack x.replay,
      freed := freed, given := given }
    let s : State := { s with fabric := { s.fabric with transit := s.fabric.transit ++ passing.map fun p => { packet := p, link := l, circuit := x.circuit } } }
    f.packets.foldl State.arrived (s.asked l f)
def execFlitReceive (link : Nat) (flit : Flit) (s : State) : Host.Outcome State Fault Refusal := runEvent (modify fun s => s.flitIn link flit) s
/-- REPLAY_REQUEST. -/
def execReplayRequest (link seq : Nat) (s : State) : Host.Outcome State Fault Refusal := runEvent (modify fun s => s.replayFrom link seq) s

/-! ### The census (R352) -/

/-- Whether a census is due on a link. -/
def State.censusDue (s : State) (l : Nat) : Bool :=
  s.maySend l && (1024 ≤ (s.link l).flitsSinceCensus || (s.link l).censusAt + 2 * usTicks ≤ s.now)
/-- CENSUS_SEND: the totals of slots freed; one that the link may not carry now is owed. -/
def execCensusSend (link : Nat) (s : State) : Host.Outcome State Fault Refusal :=
  runEvent (modify fun s => if (s.link link).up then s.oweFlit link 2 else s) s
/-- CENSUS. -/
def execCensus (link : Nat) (counts : Counts) (s : State) : Host.Outcome State Fault Refusal := runEvent (modify fun s => s.countsIn link counts) s

/-! ### Circuit slots (R355 to R358) -/

/-- The tables that begin a slot, or the data time of one, and those whose slot ends (R355, R356). Tables with one start, as a pod's have, go together (log entry 14). -/
def State.phaseOf (s : State) (key : Nat) : Option (Nat × Nat) := (tget s.fabric.tables key).bind fun t => t.phaseAt s.podTime
def State.newSlots (s : State) : List Nat :=
  (s.fabric.tables.map (·.1)).filter fun k => (s.phaseOf k).elim false fun p => (s.phase k).slot != p.1 + 1
def State.newData (s : State) : List Nat :=
  (s.fabric.tables.map (·.1)).filter fun k => (s.phaseOf k).elim false fun p => (s.phase k).slot == p.1 + 1 && 1000 ≤ p.2 && !(s.phase k).data
def State.endData (s : State) : List Nat :=
  (s.fabric.phases.filter fun e => e.2.data && (s.phaseOf e.1).elim true fun p => e.2.slot != p.1 + 1).map (·.1)
/-- The phases of some tables set. -/
def State.setPhases (s : State) (ks : List Nat) (f : Nat → CircuitPhase) : State :=
  { s with fabric := { s.fabric with phases := ks.foldl (fun t k => tset t k (f k)) s.fabric.phases } }
/-- SLOT_START: a guard interval begins; every send queue gets the slot's allowance. -/
def execSlotStart (s : State) : Host.Outcome State Fault Refusal :=
  runEvent (modify fun s =>
    let ks := s.newSlots
    if ks.isEmpty then s
    else
      let s : State := (s.fabric.links.map (·.1)).foldl (fun s l => if isGlobal l && ks.contains (s.ownKey l) then s.modLink l fun x =>
        { x with identOk := false, wrong := false, owed := x.owed.filter (· != 4) } else s) s
      let s : State := s.setPhases ks fun k => { slot := (s.phaseOf k).elim 0 (·.1 + 1), data := false }
      let q (e : Nat × SendQueue) : Nat × SendQueue := (e.1, { e.2 with allow := s.slotAllow e.1, used := e.2.used.filter fun k => !ks.contains k })
      { s with fabric := { s.fabric with sendQ := (s.fabric.sendQ.filter fun e => e.2.inUse).map q } }) s
/-- The stream a link holds now, and the link with a stream in its place. -/
def Link.stream (x : Link) : Stream :=
  { txSeq := x.txSeq, rxSeq := x.rxSeq, lastGood := x.lastGood, replay := x.replay, sent := x.sent, freed := x.freed, given := x.given, told := x.told, skipping := x.skipping, resendFrom := x.resendFrom, owed := x.owed }
def Link.withStream (x : Link) (y : Stream) : Link :=
  { x with txSeq := y.txSeq, rxSeq := y.rxSeq, lastGood := y.lastGood, replay := y.replay, sent := y.sent, freed := y.freed, given := y.given, told := y.told, skipping := y.skipping, resendFrom := y.resendFrom, owed := y.owed }
/-- The number of the circuit a slot table entry names: its far end and that end's link. -/
def SlotEntry.circuit (e : SlotEntry) : Nat := 16 * e.peer + e.plink + 1
/-- A global link taken up by a circuit: a replay buffer and its numbers apply only to the circuit they were filled on (R356). -/
def Link.takeUp (x : Link) (c : Nat) : Link :=
  if x.circuit = c then x
  else
    let parked := if x.circuit = 0 then x.parked else tset x.parked x.circuit x.stream
    { x.withStream ((tget parked c).getD Stream.fresh) with circuit := c, parked := parked }
/-- The circuit of a global link in the present slot takes the link up; a link with none keeps what it holds. -/
def State.takeUp (s : State) (l : Nat) : State := match s.ownEntry l with
  | some e => s.modLink l fun x => x.takeUp e.circuit
  | none => s
/-- DATA_TIME_START: the circuit of each global link of this device takes it up and is identified. -/
def execDataTimeStart (s : State) : Host.Outcome State Fault Refusal :=
  runEvent (modify fun s =>
    let ks := s.newData
    let s : State := s.setPhases ks fun k => { s.phase k with data := true }
    (s.fabric.links.map (·.1)).foldl (fun s l =>
      if !isGlobal l || !ks.contains (s.ownKey l) then s
      else
        let s : State := s.takeUp l
        if (s.link l).up && (s.ownEntry l).isSome then (s.modLink l fun x => { x with lastGoodAt := s.now }).oweFlit l 4 else s) s) s
/-- IDENTIFICATION. -/
def execIdentification (link dev plink : Nat) (s : State) : Host.Outcome State Fault Refusal := runEvent (modify fun s => s.identified link dev plink) s
/-- Whether the identification of a circuit is overdue. -/
def State.identLate (s : State) (l : Nat) : Bool :=
  isGlobal l && s.ownData l && (s.link l).up && (s.ownEntry l).isSome && !(s.link l).identOk && !(s.link l).wrong
    && (s.ownTable l).elim false fun t => 1100 ≤ (s.podTime - t.start) % 10000
/-- IDENTIFICATION_TIMEOUT: none within 0.1 µs of the start of data time. -/
def execIdentificationTimeout (link : Nat) (s : State) : Host.Outcome State Fault Refusal :=
  runEvent (modify fun s => if s.identLate link then s.wrongCircuit link else s) s

/-! ### Send queues and drain markers (R358, R360, R361) -/

def State.modSendQ (s : State) (d : Nat) (f : SendQueue → SendQueue) : State :=
  { s with fabric := { s.fabric with sendQ := tmod s.fabric.sendQ d f } }
/-- A packet given to the first link of its path, with the path's global link named. -/
def State.toPath (s : State) (p : Packet) (key : Nat) : State :=
  match s.linkTo key with
  | some l => s.modLink l fun x => { x with waiting := x.waiting ++ [{ p with via := key + 1 }] }
  | none => s.dropAs p 1
/-- Whether a send queue's head may leave. -/
def State.departs (s : State) (d : Nat) (q : SendQueue) : Bool :=
  if devGroup d = devGroup s.devno then !q.free.isEmpty || !q.charged.isEmpty
  else if !s.joins (devGroup d) then !q.free.isEmpty || !q.charged.isEmpty
  else s.settled (devGroup d) && !(s.circuits (devGroup d)).isEmpty && (s.cutOff d).isNone
    && (!q.free.isEmpty || (q.held.isEmpty && q.charged.head?.elim false fun p => (packetCharge p).getD 0 ≤ q.allow))
/-- SEND_QUEUE_DEPART: uncharged packets go first; a charged head needs its allowance free and large enough; with no slot that joins the groups the packets are dropped. -/
def execSendQueueDepart (dest : Nat) (s : State) : Host.Outcome State Fault Refusal :=
  runEvent (modify fun s =>
    match tget s.fabric.sendQ dest with
    | none => s
    | some q =>
      if !s.departs dest q then s
      else if devGroup dest = devGroup s.devno then
        (q.free ++ q.charged).foldl (fun s p => s.relay p) (s.modSendQ dest fun q => { q with free := [], charged := [] })
      else if !s.joins (devGroup dest) then
        (q.free ++ q.charged).foldl (fun s p => s.dropAs p 1) (s.modSendQ dest fun q => { q with free := [], charged := [] })
      else match q.free, q.charged with
        | p :: r, _ => match s.pathOf p with
          | some k =>
            -- a packet of a retired link, which was charged, has a marker behind it on its new path too (R361)
            let used := if (packetCharge p).isNone || q.used.contains k then q.used else q.used ++ [k]
            (s.modSendQ dest fun q => { q with free := r, used := used }).toPath p k
          | none => s
        | [], p :: r => match s.pathOf p with
          | some k =>
            let used := if q.used.contains k then q.used else q.used ++ [k]
            let s : State := (s.modSendQ dest fun q => { q with charged := r, allow := q.allow - (packetCharge p).getD 0, used := used }).toPath p k
            match s.writeOf p with
            | some id => (s.fabric.writes.find? (·.id == id)).elim s fun w => s.finish w.th (.sent id) 0 none
            | none => s
          | none => s
        | [], [] => s) s
/-- The tag of a drain marker: its path and the slot number modulo 64. -/
def State.drainTag (s : State) (key : Nat) : Nat := key * 64 + ((s.phase key).slot - 1) % 64
/-- A drain marker behind the last packet of a path to a destination; the destination's allowance is held until its return. On this device's own link with nothing left to cross and a free slot at the far end it crosses at once; the slot's data time is just ending. Where the path's device can be reached no more, the marker goes behind what is sent again (R361, R363). -/
def State.drainPath (s : State) (dst key : Nat) : State :=
  let tag := s.drainTag key
  let m : Packet := { s.bare 4 dst 0 tag with via := key + 1 }
  let s : State := s.modSendQ dst fun q => { q with held := q.held ++ [tag] }
  match s.linkTo key with
  | none => s.modSendQ dst fun q => { q with free := q.free ++ [{ m with via := 0 }] }
  | some l =>
    let ahead (p : Packet) : Bool := devGroup p.dst == devGroup dst
    let x := s.link l
    let may := x.up && x.identOk && !x.wrong && (s.phase key).data && x.resendFrom.isNone && x.replay.length < replayCap l && packetSlots m ≤ x.room l (s.lane l m)
    if isGlobal l && may && !x.waiting.any ahead then s.sendFlit l 1 [m]
    else s.modLink l fun x => { x with waiting := x.waiting ++ [m] }
/-- A path that its destinations have used leaves C: each gets a marker behind its packets there (R360, R361). -/
def State.drainKey (s : State) (key : Nat) : State :=
  s.fabric.sendQ.foldl (fun s e =>
    if e.2.used.contains key then (s.drainPath e.1 key).modSendQ e.1 fun q => { q with used := q.used.filter (· != key) } else s) s
/-- DATA_TIME_END: a marker on every path used in the slot. -/
def execDataTimeEnd (s : State) : Host.Outcome State Fault Refusal :=
  runEvent (modify fun s =>
    let ks := s.endData
    (ks.foldl State.drainKey s).setPhases ks fun k => { s.phase k with data := false }) s
/-- DRAIN_MARKER at the destination: every earlier packet of its path is in the home queue; the return leaves on the belay network. -/
def execDrainMarker (p : Packet) (s : State) : Host.Outcome State Fault Refusal := runEvent (modify fun s => s.emit (.drainReturn p.src p.tag)) s
/-- DRAIN_RETURN at the source: one marker fewer is awaited. -/
def execDrainReturn (dest path : Nat) (s : State) : Host.Outcome State Fault Refusal :=
  runEvent (modify fun s => s.modSendQ dest fun q => { q with held := q.held.erase path }) s

/-! ### New slot tables (R355, R362) -/

def SlotTable.switchDue (t : SlotTable) (time : Nat) : Bool := t.next.isSome && t.nextAt ≤ time
/-- SLOT_TABLE_SWITCH: the newer table of a global link takes effect. A queue whose destination it no longer reaches drops its packets when it next departs. -/
def execSlotTableSwitch (link : Nat) (s : State) : Host.Outcome State Fault Refusal :=
  runEvent (modify fun s =>
    match tget s.fabric.tables link with
    | none => s
    | some t =>
      if t.switchDue s.podTime then
        match t.next with
        | some (es, start) => { s with fabric := { s.fabric with tables := tset s.fabric.tables link { entries := es, start := start, next := none, nextAt := 0 }, phases := tdel s.fabric.phases link } }
        | none => s
      else s) s

/-! ### Retired links (R363) -/

/-- Whether a link meets a condition of R363. -/
def State.retireDue (s : State) (l : Nat) : Bool :=
  let x := s.link l
  let carries := if isGlobal l then s.ownData l && (s.ownEntry l).isSome && !x.wrong else true
  x.up && (16 ≤ (x.replays.filter fun t => s.now ≤ t + usTicks).length || (carries && x.lastGoodAt + 2 * usTicks ≤ s.now) || 8 ≤ x.identFails)
/-- A link goes out of service: the far end is told, and the paths it carried in this slot are drained. -/
def State.retire (s : State) (l : Nat) : State :=
  let s : State := s.modLink l fun x => { x with up := false, retired := true, identOk := false }
  let s : State := { s with fabric := { s.fabric with retired := s.fabric.retired + 1 } }
  let s : State := if isGlobal l then s.drainKey (s.ownKey l) else s
  (s.askReplace 9).emit (.retireNotice l (s.link l).lastGood)
/-- LINK_RETIRE. -/
def execLinkRetire (link : Nat) (s : State) : Host.Outcome State Fault Refusal :=
  runEvent (modify fun s => if s.retireDue link then s.retire link else s) s
/-- A packet of a retired link on its new path, ahead of every later packet to its destination. One on its way through this hub that no circuit takes on now waits for the first link that will; with none its group is reached no more, and it is dropped (R364). -/
def State.resend (s : State) (p : Packet) : State :=
  let p := { p with via := 0 }
  let g := devGroup p.dst
  if p.src = s.devno && g ≠ devGroup s.devno then
    let q := (tget s.fabric.sendQ p.dst).getD { SendQueue.empty with allow := s.slotAllow p.dst }
    { s with fabric := { s.fabric with sendQ := tset s.fabric.sendQ p.dst { q with free := p :: q.free } } }
  else
    let key := if g = devGroup s.devno then none else (s.pathOf p).orElse fun _ => (s.laterKey true g).orElse fun _ => s.laterKey false g
    match (if g = devGroup s.devno then s.localHop p.dst else key.bind s.linkTo) with
    | some l => s.modLink l fun x => { x with waiting := { p with via := key.elim 0 (· + 1) } :: x.waiting }
    | none => if p.src = s.devno then s.dropAs p 1 else s.strand p
/-- Drain markers to be sent again take the line of the last packet before them to their destination, so that they stay behind it on its new path (R361). -/
def markersBehind : List Packet → Tbl Nat → List Packet
  | [], _ => []
  | p :: r, seen => if p.kind = 4 then { p with va := dget p.va seen p.dst } :: markersBehind r seen else p :: markersBehind r (tset seen p.dst p.va)
/-- What a link still holds, from behind the last flit that its far end received, put on other paths; of the streams of its other circuits what no ack has covered (R356, R363; DEDUCED, log entry 14). -/
def State.reroute (s : State) (l seq : Nat) : State :=
  let x := s.link l
  let parked := x.parked.flatMap fun e => e.2.replay.flatMap (·.packets)
  let again := markersBehind (parked ++ (ackedReplay seq x.replay).flatMap (·.packets) ++ x.waiting) []
  let s : State := s.modLink l fun x => { x with replay := [], waiting := [], parked := [] }
  again.reverse.foldl State.resend s
/-- RETIRE_NOTICE: the far end received flits up to the number named; what follows is sent again on other paths, each packet once. A link number from 64 on names a global link of another device of the group by its table key: it leaves C, and is drained; one from 1,024 on names the local link between two other positions, 32 times the one and the other (log entry 14). -/
def execRetireNotice (link seq : Nat) (s : State) : Host.Outcome State Fault Refusal :=
  runEvent (modify fun s =>
    if 1024 ≤ link then
      let e := ((link - 1024) / 32, (link - 1024) % 32)
      { s with fabric := { s.fabric with farDown := s.fabric.farDown.filter (· != e) ++ [e] } }
    else if 64 ≤ link then
      let s : State := s.drainKey (link - 64)
      { s with fabric := { s.fabric with away := s.fabric.away.filter (· != link - 64) ++ [link - 64] } }
    else (if (s.link link).retired then s else s.retire link).reroute link seq) s
/-- LINK_RESTORE: the management controller brings a retired link back, its counts begun anew, or lets this hub know that another device's link is back. -/
def execLinkRestore (link : Nat) (s : State) : Host.Outcome State Fault Refusal :=
  runEvent (modify fun s =>
    let x := s.link link
    if 1024 ≤ link then { s with fabric := { s.fabric with farDown := s.fabric.farDown.filter (· != ((link - 1024) / 32, (link - 1024) % 32)) } }
    else if 64 ≤ link then { s with fabric := { s.fabric with away := s.fabric.away.filter (· != link - 64) } }
    else if x.retired then s.modLink link fun x =>
      { Link.reset with up := true, lastGoodAt := s.now, censusAt := s.now, nReplay := x.nReplay, nDamage := x.nDamage, nResync := x.nResync, waiting := x.waiting }
    else s) s

/-! ### Lost devices (R236, R295, R335, R364) -/

/-- A device's registrants leave a phaser, with the broken bit set for a phase they owed; phases that are then due complete. -/
def State.dropRegs (s : State) (key dev : Nat) : State :=
  match tget s.belay.phasers key with
  | none => s
  | some p =>
    let units := (p.regs.filter fun r => r.dev == dev && r.left.isNone).map (·.unit)
    let q := units.foldl (fun p u => p.leave dev u true) p
    let r := q.settle (q.regs.length + 2)
    let node := key / 2 ^ 24
    let h := wd (s.handleOf node (low 24 key))
    let s : State := { s with belay := { s.belay with phasers := tset s.belay.phasers key r.1 } }
    r.2.foldl (fun s c => s.deliver h node c.1 c.2) s
/-- The peer directory without a lost device; in coarse mode the bit of its 32 devices goes with the last of them that can still hold a copy (R295). -/
def Peer.without (p : Peer) (d : Nat) (live : List Nat) : Peer :=
  if p.mode = 1 then
    let l := p.pointers.filter (· != d)
    if l.isEmpty then Peer.empty else { p with pointers := l }
  else if p.mode = 2 && bitAt p.coarse (d / 32 % 64) && live.all fun n => n == d || n / 32 % 64 != d / 32 % 64 then
    let c := p.coarse - 2 ^ (d / 32 % 64)
    if c = 0 then Peer.empty else { p with coarse := c }
  else p
/-- A device is declared lost: every packet to or from it is dropped, its acknowledgements are awaited no more, its SC accesses and registrations go. -/
def State.loseDevice (s : State) (d : Nat) : State :=
  if d = s.devno || s.fabric.lost.contains d then s
  else
    let s : State := { s with fabric := { s.fabric with lost := s.fabric.lost ++ [d], lostCount := s.fabric.lostCount + 1 } }
    let q := (tget s.fabric.sendQ d).getD SendQueue.empty
    let s : State := { s with fabric := { s.fabric with sendQ := tdel s.fabric.sendQ d } }
    let s : State := (q.free ++ q.charged).foldl (fun s p => s.dropAs p 1) s
    let touches (p : Packet) : Bool := p.src == d || p.dst == d
    let s : State := (s.fabric.links.map (·.1)).foldl (fun s l =>
      let gone := (s.link l).waiting.filter touches
      let clean (f : Flit) : Flit := { f with packets := f.packets.filter fun p => !touches p }
      let s : State := s.modLink l fun x => { x with waiting := x.waiting.filter fun p => !touches p, replay := x.replay.map clean,
                                                     parked := x.parked.map fun e => (e.1, { e.2 with replay := e.2.replay.map clean }) }
      gone.foldl (fun s p => if p.src = s.devno then s.dropAs p 1 else s.strand p) s) s
    let near := localLink (devPos s.devno) (devPos d)
    let s : State := if devGroup d = devGroup s.devno && (s.link near).retired then s.reroute near (s.link near).lastGood else s
    let reads := (s.fabric.reqs.filter fun r => r.dst == d && !r.atomic).length
    let s : State := { s with fabric := { s.fabric with stalled := s.fabric.stalled.filter fun p => !touches p, backlog := s.fabric.backlog.filter fun p => !touches p,
                                                        drops := s.fabric.drops + reads + (s.fabric.stalled.filter touches).length + (s.fabric.backlog.filter touches).length } }
    let s : State := ((s.fabric.reqs.filter fun r => r.dst == d).map (·.id)).foldl (fun s id => s.endReq id 1 0) s
    let s : State := ((s.fabric.bulks.filter fun b => fabDev b.dst == d).map (·.id)).foldl State.stopBulk s
    let s : State := ((s.fabric.writes.filter fun w => w.dst == d && w.launch != noLaunch && s.fabric.bulks.all fun b => b.id != w.id).map (·.id)).foldl (fun s id => s.endWrite id 1) s
    let s : State := { s with peers := s.peers.foldl (fun t e => dset Peer.empty t e.1 (e.2.without d (s.fabric.present.filter fun n => !s.fabric.lost.contains n))) s.peers,
                              scHeld := s.scHeld.filter fun a => a.reply.elim true fun p => p.src != d }
    let s : State := (s.peerAcks.filter fun a => a.dev == d).foldl (fun s a => s.peerAnswered a.line d) s
    (s.belay.phasers.map (·.1)).foldl (fun s k => s.dropRegs k d) s
/-- DEVICE_LOST. -/
def execDeviceLost (dev : Nat) (s : State) : Host.Outcome State Fault Refusal := runEvent (modify fun s => s.loseDevice dev) s
/-- Whether a device has not acknowledged an invalidation for 64 µs. -/
def State.ackLate (s : State) (a : PeerAck) : Bool := a.at' + 64 * usTicks ≤ s.now
/-- PEER_ACK_TIMEOUT: the device is declared lost. -/
def execPeerAckTimeout (dev line : Nat) (s : State) : Host.Outcome State Fault Refusal :=
  runEvent (modify fun s => if s.peerAcks.any fun a => a.dev == dev && a.line == line && s.ackLate a then s.loseDevice dev else s) s

/-! ### What is due -/

/-- The events of the slots, the links and the send queues that are due. -/
def State.fabricDue (s : State) : List Instr :=
  let on (l : List Nat) (i : Instr) : List Instr := if l.isEmpty then [] else [i]
  let link (e : Nat × Link) : List Instr :=
    (if s.retireDue e.1 then [Instr.linkRetire e.1] else []) ++ (if s.identLate e.1 then [Instr.identificationTimeout e.1] else [])
      ++ (if s.censusDue e.1 then [Instr.censusSend e.1] else [])
  on s.endData .dataTimeEnd ++ (s.fabric.tables.filter fun t => t.2.switchDue s.podTime).map (fun t => Instr.slotTableSwitch t.1)
    ++ (if s.newSlots.isEmpty && !s.fabric.tables.any (fun t => t.2.switchDue s.podTime) then [] else [.slotStart])
    ++ on s.newData .dataTimeStart ++ s.fabric.links.flatMap link
    ++ (s.fabric.sendQ.filter fun e => s.departs e.1 e.2).map (fun e => Instr.sendQueueDepart e.1)
    ++ (s.peerAcks.filter s.ackLate).map fun a => Instr.peerAckTimeout a.dev a.line

end Sys2Proof.Machine
end

