-- ==== Sys2Proof/Machine/BelayEvents.lean ====
section
/-! DEFINITION. Floors, beats, epochs, and the belay network's nodes as events (11, 17, R231 to R237, R323 to R337). -/
namespace Sys2Proof.Machine

/-! ### Floor values (R233) -/

/-- The least of some clocks below a first one. -/
def clkMin (a : Nat) (l : List Nat) : Nat := l.foldl (fun a b => if clkLt b a then b else a) a
/-- The serials of a core's phaser signals that have not reached their hosts (R330). -/
def State.signalsOf (s : State) (c : Nat) : List Nat :=
  s.belay.msgs.filterMap fun m => match m.op, m.th with
    | .signal _ _ serial _, some k => if keyCore k = c && (m.held || !m.path.isEmpty || s.now < m.at') then some serial else none
    | _, _ => none
/-- The SC requests over the fabric whose homes have not accepted them (R233). -/
def State.scLeaving (s : State) : List FabReq := s.fabric.reqs.filter fun r => r.sc && r.reached.elim true (s.now < ·)
/-- The floor value of a core: its clock, its signals on their way, its fabric writes in flight, and its SC requests that have not reached their homes. -/
def State.coreFloor (s : State) (c : Nat) : Nat :=
  clkMin (s.core c).clock (s.signalsOf c ++ (s.fabric.writes.filter fun w => w.core == c && !w.sc).map (·.clk) ++ (s.scLeaving.filter (·.core == c)).map (·.clk))
/-- The floor value that the hub reports for the fabric ports. -/
def State.hubFloor (s : State) : Nat := clkMin (low 50 s.podTime) ((s.fabric.writes.filter fun w => !w.sc).map (·.clk) ++ s.scLeaving.map (·.clk))
/-- The values reported into a die node by its cores, and into the package node by its die nodes and the hub, by child port. -/
def State.reportsInto (s : State) (n : Nat) : Tbl Nat :=
  if n < 4 then (s.cores.filter fun e => coreStack e.1 == n).map fun e => (e.1 % 192, s.coreFloor e.1)
  else ((List.range 4).filter fun d => (s.node d).alive).map (fun d => (d, (s.node d).floor)) ++ [(4, s.hubFloor)]
/-- FLOOR_REPORT: a node forms its floor from what is reported below it; it never falls. The pod floor is formed outside: it is a free value between its last one and this device's package floor (log entry 1). -/
def execFloorReport (node : Nat) (s : State) : Host.Outcome State Fault Refusal :=
  runEvent (do
    let s ← get
    if s.trust.sleeping || !(s.node node).alive then pure ()
    else if node ≤ nodePackage then
      let r := s.reportsInto node
      let f := clkMin (low 50 s.podTime) (r.map (·.2))
      modify fun s => s.modNode node fun x => { x with reports := r, floor := clkMax x.floor f }
    else if node = nodePod && s.inPod then
      let f ← freeM
      let room := (clkDiff (s.node nodePackage).floor (s.node nodePod).floor).toNat
      modify fun s => s.modNode nodePod fun x => { x with floor := low 50 (x.floor + f % (room + 1)) }
    else pure ()) s
/-- The scope of a node's broadcast: the floors that it raises. -/
def Floors.beat (f : Floors) (node v : Nat) (pod : Bool) : Floors :=
  if node < 4 then { f with stack := clkMax f.stack v }
  else if node = nodePackage then { f with package := clkMax f.package v, pod := if pod then f.pod else clkMax f.pod v }
  else { f with pod := clkMax f.pod v }
/-- BELAY_BEAT: a node's floor and the time base reach the cores below it, and the teams there (R231, R242, R337). -/
def execBelayBeat (node : Nat) (s : State) : Host.Outcome State Fault Refusal :=
  runEvent (modify fun s =>
    if s.trust.sleeping || !(s.node node).alive then s
    else
      let v := (s.node node).floor
      let below (c : Nat) : Bool := 4 ≤ node || coreStack c == node
      let core (e : Nat × Core) : Nat × Core :=
        if below e.1 then (e.1, { e.2 with floors := e.2.floors.beat node v s.inPod, tbase := low 50 s.podTime, clock := clkMax e.2.clock (low 50 s.podTime) }) else e
      let team (e : Nat × Team) : Nat × Team := if e.2.placed && below e.2.core then (e.1, { e.2 with floors := e.2.floors.beat node v s.inPod }) else e
      ({ s with cores := s.cores.map core, teams := s.teams.map team }).modNode node fun x => { x with lastBeat := s.now }) s
/-- EPOCH_ADVANCE: the homes set every record two epochs behind to kind none (R237). -/
def execEpochAdvance (s : State) : Host.Outcome State Fault Refusal :=
  runEvent (modify fun s => { s with records := s.records.filter fun e => !s.stale e.2 }) s

/-! ### Nodes (R327, R331) -/

/-- BELAY_NODE_CYCLE: a host applies what has arrived; a team whose last registration is gone may then be done (R335). -/
def execBelayNodeCycle (node : Nat) (s : State) : Host.Outcome State Fault Refusal :=
  runEvent (modify fun s => if (s.node node).alive then (s.nodeCycle node).teamsCheck else s) s
/-- A message of another device taken in at a switch: a slot that its queue engine has taken or freed there, or a message on its way (R324, R325, R326). -/
def State.takeIn (s : State) (n : Nat) (x : BelayIn) : State :=
  if !s.inPod || x.dev = s.devno then s
  else match x.op with
    | .alloc record tenant =>
      if bits x.handle.toNat 62 2 = 2 && (s.phaser x.handle.toNat).isNone then s.setPhaser x.handle.toNat (Phaser.fresh record tenant 0) else s
    | .free => if bits x.handle.toNat 62 2 = 2 then s.freePhaser x.handle else s
    | _ => s.arriveAt n x
/-- What has come to a switch from other devices taken in, in its order. -/
def State.takeInbox (s : State) (n : Nat) : State :=
  (s.belay.inbox.filter fun e => e.1 == n).foldl (fun s e => s.takeIn n e.2) { s with belay := { s.belay with inbox := s.belay.inbox.filter fun e => e.1 != n } }
/-- NODE_FORWARD: a node takes in what other devices send it, and one that is not the host passes messages on. -/
def execNodeForward (node : Nat) (s : State) : Host.Outcome State Fault Refusal :=
  runEvent (modify fun s => if (s.node node).alive then (s.takeInbox node).forward node else s) s
/-- COMPLETION_DELIVERY: a completion reaches this device's waiters. -/
def execCompletionDelivery (d : PhaseDelivery) (s : State) : Host.Outcome State Fault Refusal :=
  runEvent (modify fun s => ({ s with belay := { s.belay with deliveries := s.belay.deliveries.filter fun x => x.2 != d } }).deliverTo d) s
/-- Whether a message held at the fabric port may leave (R334). -/
def BelayMsg.free' (m : BelayMsg) : Bool := m.held && m.covers.isEmpty
/-- BOUND_SIGNAL_RELEASE: a bound signal whose covered writes are acknowledged or dropped is sent. -/
def execBoundSignalRelease (bid : Nat) (s : State) : Host.Outcome State Fault Refusal :=
  runEvent (modify fun s =>
    let go (m : BelayMsg) : BelayMsg := if m.id == bid && m.free' then { m with held := false, at' := s.now + firstDelay none m.node * Config.ticksPerNs } else m
    { s with belay := { s.belay with msgs := s.belay.msgs.map go } }) s

/-! ### Failures (R336) -/

/-- A failure of the network counted. -/
def State.countBelay (s : State) : State := { s with trust := { s.trust with belayFailures := s.trust.belayFailures + 1 } }
/-- A pod message of this device put at the start of the path that its uplink now gives (R336). -/
def State.repath (s : State) (m : BelayMsg) : BelayMsg :=
  match s.podPath (bits m.handle.toNat 12 12) with
  | [] => m
  | (n, p) :: r => { m with node := n, port := p, path := r, at' := if m.held then m.at' else s.now + nodeLatency n * Config.ticksPerNs }
/-- Whether a message is one of this device's to a pod phaser. -/
def State.podMsg (s : State) (m : BelayMsg) : Bool := m.dev == s.devno && bits m.handle.toNat 62 2 == 2
/-- Whether a unit's leave or deregistration at a phaser is on its way. -/
def State.unitLeaves (s : State) (h : Nat) (u : RegUnit) : Bool :=
  s.belay.msgs.any fun m => m.handle.toNat == h && m.unit == u && (match m.op with | .leave | .dereg _ => true | _ => false)
/-- The pod messages that a device sends again along its new path: registrations of its units, but those that are leaving, and signals that their hosts have not acknowledged, under their own ids (R329, R336). -/
def State.resends (s : State) : List BelayMsg :=
  let signals := s.belay.msgs.filter fun m => s.podMsg m && m.isSignal && !m.held
  let reg (h : Nat) (r : Registrant) : BelayMsg :=
    { id := s.nextId, th := none, dev := s.devno, unit := r.unit, handle := wd h, op := .reg r.sig r.wait, node := nodePackage, port := 4, path := [], at' := s.now, held := false, covers := [] }
  let regs := (s.belay.phasers.filter fun e => 8 ≤ e.1 / 2 ^ 24).flatMap fun e =>
    let h := s.handleOf (e.1 / 2 ^ 24) (low 12 e.1)
    (e.2.regs.filter fun r => r.dev == s.devno && r.left.isNone && !s.unitLeaves h r.unit).map (reg h)
  (regs ++ signals).map s.repath
/-- What of this device's pod messages stands at the package node, and takes the new uplink from there: signals held at the fabric port, and registrations, leaves and deregistrations that no host has applied (R336; DEDUCED, log entry 35). -/
def State.repathed (s : State) : List BelayMsg :=
  s.belay.msgs.map fun m => if s.podMsg m && (m.held || !m.isSignal) then s.repath m else m
/-- UPLINK_FAILOVER: the package node moves to uplink 1, registers its device's pod registrations again and resends what is not acknowledged. -/
def execUplinkFailover (s : State) : Host.Outcome State Fault Refusal :=
  runEvent (modify fun s =>
    if s.inPod && (s.node nodePackage).uplink = 0 then
      let s : State := s.modNode nodePackage fun x => { x with uplink := 1 }
      { s with nextId := s.nextId + 1, belay := { s.belay with msgs := s.repathed ++ s.resends, uplinkFailures := s.belay.uplinkFailures + 1 } }.countBelay
    else s) s
/-- BELAY_NODE_FAILURE: every phaser of the node is lost, as if freed. -/
def execBelayNodeFailure (node : Nat) (s : State) : Host.Outcome State Fault Refusal :=
  runEvent (modify fun s =>
    if (s.node node).alive then
      let keys := (s.belay.phasers.filter fun e => e.1 / 2 ^ 24 == node).map (·.1)
      let s : State := s.modNode node fun x => { x with alive := false }
      (keys.foldl (fun s k => s.freePhaser (wd (s.handleOf node (low 24 k)))) s).countBelay
    else s) s

/-! ### What is due -/

/-- The interval of a node's reports and beats, in ns (Table 11-4). -/
def beatEvery (n : Nat) : Nat := if n < 4 then 8 else if n = nodePackage then 20 else 150
/-- Whether a message can act at its host. -/
def State.actsNow (s : State) (m : BelayMsg) : Bool := m.here m.node s.now && m.path.isEmpty && s.cycleNow m.node && s.eligible m
/-- Whether the switch that this device's present uplink leads to works: its beats bring the pod floor (R336, R337). -/
def State.leafAlive (s : State) : Bool := (s.node (nodeSwitch (s.uplinkOf s.devno (s.node nodePackage).uplink).1)).alive
/-- The belay events that are due. -/
def State.belayDue (s : State) : List Instr :=
  let beat (n : Nat) : List Instr :=
    if !s.trust.sleeping && (s.node n).alive && (s.node n).lastBeat + beatEvery n * Config.ticksPerNs ≤ s.now then [Instr.floorReport n, Instr.belayBeat n] else []
  let nodes (p : BelayMsg → Bool) : List Nat := sortBy (fun a b => decide (a < b)) ((s.belay.msgs.filter p).map (·.node)).eraseDups
  ([0, 1, 2, 3, nodePackage] ++ (if s.inPod && s.leafAlive then [nodePod] else [])).flatMap beat
    ++ (if s.inPod && !s.leafAlive && (s.node nodePackage).uplink = 0 && (s.node nodePod).lastBeat + 2 * usTicks ≤ s.now then [Instr.uplinkFailover] else [])
    ++ (if s.records.any fun e => s.stale e.2 then [Instr.epochAdvance] else [])
    ++ (nodes (fun m => m.here m.node s.now && !m.path.isEmpty && s.cycleNow m.node) ++ (s.belay.inbox.map (·.1)).eraseDups).eraseDups.map Instr.nodeForward
    ++ (nodes s.actsNow).map Instr.belayNodeCycle
    ++ (s.belay.deliveries.filter fun d => d.1 ≤ s.now).map (fun d => Instr.completionDelivery d.2)
    ++ (s.belay.msgs.filter BelayMsg.free').map fun m => Instr.boundSignalRelease m.id

end Sys2Proof.Machine
end

