-- ==== Sys2Proof/Machine/Control.lean ====
section
/-! DEFINITION. Control, task and window instructions, and the trailer (03, R74 to R82). -/
namespace Sys2Proof.Machine

/-- A pc bit pattern that is not 8-aligned cannot be a branch target; the instruction-fetch fault names it as a fetch (R9, R75, Table 23-2). -/
def goto' (k : Nat) (target : Word) : M Unit := do
  let s ← get
  if low 3 target.toNat ≠ 0 then throw (.trap 14 0 target (det1Of 4 0 (s.ctxOf k) 0) 0 0)
  else
    checkTarget k target
    modT k fun t => { t with nextHead := some target }
/-- Target of a Format J word (R12). -/
def jTarget (pc : Word) (f : FmtJ) : Word := wd (ofI 64 ((pc.toNat : Int) + 8 * toS 40 f.off.toNat))
def branchMeta : Meta := { branch := true }
def execBra (f : FmtJ) (s : State) : Host.Outcome State Fault Refusal :=
  runWord branchMeta f.hdr (fun k => do
    let pc ← curPc
    goto' k (jTarget pc f)) s
def execBrx (f : FmtA) (s : State) : Host.Outcome State Fault Refusal :=
  runWord branchMeta f.hdr (fun k => do
    let (vs, _) ← operands k [plainOp f.a] none
    goto' k (wd (src vs 0).zx)) s
/-- call: window step, call-stack record, target (R76). A target that is no run head comes before the other faults (R407); where the target's fetch and a store both fault, the fetch's fault is taken, and the record of a stack fault names address 0 (DESIGN CHOICE, log entry 42). -/
def execCall (f : FmtJ) (s : State) : Host.Outcome State Fault Refusal :=
  runWord branchMeta f.hdr (fun k => do
    let pc ← curPc
    let t ← getT k
    let newbase := t.wbase + 64 * f.link.toNat
    let sp := t.cstk.toNat
    checkHead k (jTarget pc f)
    if t.alloc ≤ newbase then trapC 6
    else if sp % 8 ≠ 0 then trapAt 9 t.cstk
    else if sp < t.cstkBase.toNat + 16 then trapC 13
    else
      checkTarget k (jTarget pc f)
      let p ← storeCheck k (sp - 16) 8 false .rlx
      let q ← storeCheck k (sp - 8) 8 false .rlx
      storePlace k p (leBytes 8 (pc + 16).toNat) .rlx
      storePlace k q (leBytes 8 t.wbase) .rlx
      modT k fun t => { t with cstk := wd (sp - 16), wbase := newbase, nextHead := some (jTarget pc f) }) s
/-- ret: the record at cstk gives the return address and the window base (R77). -/
def execRet (f : FmtA) (s : State) : Host.Outcome State Fault Refusal :=
  runWord branchMeta f.hdr (fun k => do
    let t ← getT k
    let sp := t.cstk.toNat
    if sp % 8 ≠ 0 then trapAt 9 t.cstk
    else if t.cstk = t.cstkTop then trapC 13
    else
      let a ← loadPlain k sp 8
      let b ← loadPlain k (low 64 (sp + 8)) 8
      goto' k (wd (ofLe a))
      modT k fun t => { t with cstk := wd (sp + 16), wbase := low 16 (ofLe b) }) s
/-- exit: the thread stops issuing and drains (R78); the waits of one that has been killed end with it (R459). -/
def execExit (f : FmtA) (s : State) : Host.Outcome State Fault Refusal :=
  runWord branchMeta f.hdr (fun k => modify fun s => (if (s.thr k).killed then s.endWaits k else s).drain k) s
/-- Depth of a team's task queue (R136). -/
def taskDepth : Nat := 256
/-- task: the pair of entry and argument record is queued when it can be; the thread's earlier accesses are performed first, as by st.rel (R79, R136). -/
def execTask (f : FmtA) (s : State) : Host.Outcome State Fault Refusal :=
  runWord { var := true } f.hdr (fun k => do
    roomFor k f.hdr
    let (vs, dst) ← operands k (plainOps [f.a, f.b]) (some (f.d, none))
    let va := (src vs 1).zx
    checkAlign va 32
    let b ← loadSpanPlain k va 32
    order k true false
    let s ← get
    let i := (s.thr k).team
    let entry := wd (src vs 0).zx
    if !((s.team i).groups.any (·.task)) then later k f.hdr dst 3
    else if !((s.launchOf k).entries.contains entry) then later k f.hdr dst 2
    else if taskDepth ≤ (s.team i).taskQ.length then later k f.hdr dst 1
    else
      modTm i fun t => { t with taskQ := t.taskQ ++ [{ entry := entry, args := b }] }
      later k f.hdr dst 0) s
/-- yield: the next run head waits for the ready team-mates, or 64 cycles, counted from the issue of the yield (R80; DESIGN CHOICE, log entry 38: the spec does not say from where they count). -/
def execYield (f : FmtA) (s : State) : Host.Outcome State Fault Refusal :=
  runWord {} f.hdr (fun k => do
    let s ← get
    let mates := ((s.threads.filter fun e => e.2.team == (s.thr k).team && e.1 != k && e.2.status == .ready)).map (·.1)
    modT k fun t => { t with yielded := some { till := s.now + 64 * Config.ticksPerCycle, mates := mates } }) s
/-- winb: the window base moves by 64 × s (R81). -/
def execWinb (f : FmtL) (s : State) : Host.Outcome State Fault Refusal :=
  runWord {} f.hdr (fun k => do
    let t ← getT k
    let w : Int := t.wbase + 64 * toS 30 f.imm.toNat
    if w < 0 || (t.alloc : Int) ≤ w then trapC 6
    else modT k fun t => { t with wbase := w.toNat }) s
def execNop (f : FmtA) (s : State) : Host.Outcome State Fault Refusal := runWord {} f.hdr (fun _ => pure ()) s
/-- The trailer: every member leaves the run, or traps there (R16, R25, R30). -/
def execTrail (f : FmtT) (s : State) : Host.Outcome State Fault Refusal :=
  match s.cur with
  | none => .next s
  | some gid =>
    match tget s.gangs gid with
    | none => .next { s with cur := none }
    | some g =>
      let ms := g.members.filter fun k => !g.done.contains k
      if ms.any s.serial then .next (advance gid g ms 1 1 s)
      else
        let r : Run Unit := ms.foldl (fun r k => r.act k (trailMember g f k)) { s := s, on := [], off := [], stops := [] }
        let held := (r.stops.filter fun e => e.2 == .hold).map (·.1)
        .next (afterWord gid g held 1 1 s (forM' r.stops (fun e => trapMember g e.1 e.2) r.s).2)

end Sys2Proof.Machine
end

