-- ==== Sys2Proof/Machine/Special.lean ====
section
/-! DEFINITION. The special functions (R107, R108): the exact function to far more bits than any result keeps, and the result within the bound of Table 04-6 that the part gives. -/
namespace Sys2Proof.Machine

/-- Fraction bits of the fixed-point work. -/
def fxBits : Nat := 320
/-- 2^q × atan(1/n), by its series. -/
def atanInv (q n : Nat) : Nat → Nat → Nat → Int
  | 0, _, _ => 0
  | f + 1, k, p => (p / (2 * k + 1) : Nat) - atanInv q n f (k + 1) (p / (n * n))
/-- 2^q × π (Machin). -/
def piFx (q : Nat) : Int := 16 * atanInv q 5 (q / 4 + 4) 0 (2 ^ q / 5) - 4 * atanInv q 239 (q / 15 + 4) 0 (2 ^ q / 239)
/-- The sum z + z³/3 + z⁵/5 + … for p = z^(2k+1), in fixed point. -/
def atanhFx (q : Nat) (z2 : Int) : Nat → Nat → Int → Int
  | 0, _, _ => 0
  | f + 1, k, p => p / (2 * k + 1 : Nat) + atanhFx q z2 f (k + 1) (p * z2 / 2 ^ q)
def ln2Fx (q : Nat) : Int := 2 * atanhFx q (2 ^ q / 9) (q / 3 + 4) 0 (2 ^ q / 3)
/-- The sum t + t·x/(k+1) + … of the exponential series. -/
def expSeries (q : Nat) (x : Int) : Nat → Nat → Int → Int
  | 0, _, _ => 0
  | f + 1, k, t => t + expSeries q x f (k + 1) (t * x / 2 ^ q / (k + 1 : Nat))
/-- Terms of a series whose argument is at most 1. -/
def serTerms : Nat := 96
/-- e^x as a mantissa with q fraction bits and a power of two. -/
def expFx (q : Nat) (x : Int) : Int × Int :=
  let l := ln2Fx q
  let n := x / l
  (expSeries q (x - n * l) serTerms 0 (2 ^ q), n)
/-- The series of sine (k = 1, t = x) and cosine (k = 0, t = 1): t − t·x²/((k+1)(k+2)) + … -/
def trigSeries (q : Nat) (x2 : Int) : Nat → Nat → Int → Int
  | 0, _, _ => 0
  | f + 1, k, t => t - trigSeries q x2 f (k + 2) (t * x2 / 2 ^ q / ((k + 1) * (k + 2) : Nat))
/-- m × 2^e in fixed point with q fraction bits, cut toward zero. -/
def toFx (q m : Nat) (e : Int) : Int := (shiftI m (e + q) : Nat)
/-- A fixed-point number as a value. -/
def ofFx (q : Nat) (x : Int) : FVal := .fin (x < 0) x.natAbs (-(q : Int))
/-- sin (c = 0) or cos (c = 1) of m × 2^e, with exact argument reduction. -/
def trigOf (c m : Nat) (e : Int) : FVal :=
  let qx := fxBits + (e + bitLen m).toNat
  let p := piFx qx
  let x := toFx qx m e
  let k := (4 * x + p) / (2 * p)
  let r := (2 * x - k * p) / 2 / 2 ^ (qx - fxBits)
  let r2 := r * r / 2 ^ fxBits
  let sn := trigSeries fxBits r2 serTerms 1 r
  let cs := trigSeries fxBits r2 serTerms 0 (2 ^ fxBits)
  match ((k + c) % 4).toNat with
  | 0 => ofFx fxBits sn
  | 1 => ofFx fxBits cs
  | 2 => (ofFx fxBits sn).neg
  | _ => (ofFx fxBits cs).neg
/-- 2^a of a finite a. -/
def exp2Of (s : Bool) (m : Nat) (e : Int) : FVal :=
  if 12 < e + bitLen m then .fin false 1 (if s then -5000 else 5000)
  else
    let x := if s then -toFx fxBits m e else toFx fxBits m e
    let n := x / 2 ^ fxBits
    let f := x % 2 ^ fxBits
    if f = 0 then .fin false 1 n
    else
      let y := expSeries fxBits (f * ln2Fx fxBits / 2 ^ fxBits) serTerms 0 (2 ^ fxBits)
      .fin false y.natAbs (n - fxBits)
/-- log₂ of m × 2^e, m > 0. -/
def log2Of (m : Nat) (e : Int) : FVal :=
  let l := bitLen m - 1
  if m = 2 ^ l then FVal.ofInt (e + l)
  else
    let z : Int := ((m - 2 ^ l) * 2 ^ fxBits / (m + 2 ^ l) : Nat)
    let ln := 2 * atanhFx fxBits (z * z / 2 ^ fxBits) (fxBits / 3 + 4) 0 z
    ofFx fxBits (ln * 2 ^ fxBits / ln2Fx fxBits + (e + l) * 2 ^ fxBits)
/-- e^−|x| for |x| = m × 2^e, as mantissa and power of two; nothing remains of it beyond 2^12. -/
def expNeg (m : Nat) (e : Int) : Int × Int :=
  if 12 < e + bitLen m then (2 ^ fxBits, -8192) else expFx fxBits (-toFx fxBits m e)
def tanhOf (s : Bool) (m : Nat) (e : Int) : FVal :=
  let x := expNeg m (e + 1)
  let t := if x.2 < 0 then x.1 / 2 ^ (-x.2).toNat else x.1
  .fin s ((2 ^ fxBits - t) * 2 ^ fxBits / (2 ^ fxBits + t)).natAbs (-(fxBits : Int))
def sigOf (s : Bool) (m : Nat) (e : Int) : FVal :=
  let x := expNeg m e
  let t := if x.2 < 0 then x.1 / 2 ^ (-x.2).toNat else x.1
  if s then .fin false (x.1 * 2 ^ fxBits / (2 ^ fxBits + t)).natAbs (x.2 - fxBits)
  else .fin false (2 ^ (2 * fxBits) / (2 ^ fxBits + t)).natAbs (-(fxBits : Int))
/-- The special functions, in the order of Table 04-6. -/
inductive SpecFn where
  | rcp | rsq | exp2 | log2 | sin | cos | tanh | sig
deriving DecidableEq, Repr
def fvOne : FVal := .fin false 1 0
/-- The exact function, with the special values of Table 04-7. -/
def specExact (fn : SpecFn) (a : FVal) : FVal :=
  match fn, a with
  | _, .nan => .nan
  | .rcp, a => fvOne.div a
  | .rsq, a => fvOne.div a.sqrt
  | .exp2, .inf s => if s then .fin false 0 0 else .inf false
  | .exp2, .fin s m e => exp2Of s m e
  | .log2, .inf s => if s then .nan else .inf false
  | .log2, .fin s m e => if m = 0 then .inf true else if s then .nan else log2Of m e
  | .sin, .inf _ => .nan
  | .sin, .fin s m e => if m = 0 then .fin s 0 0 else if s then (trigOf 0 m e).neg else trigOf 0 m e
  | .cos, .inf _ => .nan
  | .cos, .fin _ m e => if m = 0 then fvOne else trigOf 1 m e
  | .tanh, .inf s => .fin s 1 0
  | .tanh, .fin s m e => if m = 0 then .fin s 0 0 else tanhOf s m e
  | .sig, .inf s => if s then .fin false 0 0 else fvOne
  | .sig, .fin s m e => sigOf s m e
/-- The inputs whose result Table 04-7 fixes. -/
def specFixed (fn : SpecFn) (a : FVal) : Bool :=
  match a with
  | .fin s m e => m = 0 || (s && (fn = .rsq || fn = .log2)) || (fn = .log2 && shiftI m e == 1 && a.eqv fvOne)
  | _ => true
/-- The error bound of Table 04-6 around a result with least bit 2^u. -/
def specBound (fn : SpecFn) (wide : Bool) (u : Int) : FVal :=
  let ulps (n : Nat) : FVal := .fin false n u
  let abs' (k : Int) : FVal := .fin false 1 k
  match fn with
  | .rcp => ulps 1
  | .rsq => if wide then ulps 2 else ulps 1
  | .exp2 => ulps 2
  | .log2 => let x := ulps 2; let y := abs' (if wide then -53 else -24); if x.lt y then y else x
  | _ => abs' (if wide then -50 else -22)
/-- Whether a result lies in the range that R107 keeps. -/
def specRange (fn : SpecFn) (y : FVal) : Bool :=
  match fn with
  | .sin | .cos | .tanh => !fvOne.lt y.abs
  | .sig => !y.lt (.fin false 0 0) && !fvOne.lt y
  | _ => true
/-- A special function on a pattern: correctly rounded in the 16-bit types; in f32 and f64 what the part gives for that input, within the bound (log entry 5). -/
def specF (fn : SpecFn) (f : Fmt) (x : Nat) : Nat :=
  let a := decF f x
  let v := specExact fn a
  let y := roundF f 0 0 false v
  if specFixed fn a || f.width = 16 then y
  else match decF f y, v with
    | .fin _ _ _, .fin _ m e =>
      let c := low f.width (Config.special fn.ctorIdx f.width x)
      let cv := decF f c
      let near := !(specBound fn (f.width == 64) (f.ulpExp m e)).lt (cv.add false v.neg).abs
      if cv.isFin && near && specRange fn cv then c else y
    | _, _ => y

end Sys2Proof.Machine
end

