-- ==== Sys2Proof/Machine/Float.lean ====
section
/-! DEFINITION. Float arithmetic, comparison, special functions, conversion (04, R101 to R110). -/
namespace Sys2Proof.Machine

/-- Fixed latency of arithmetic and of the special functions (Table 04-3). -/
def arithLat (t : FType) : Nat := if t = .f64 then 6 else 4
def specLat (t : FType) : Nat := if t = .f64 then 16 else 8
def vecMeta (m : Option Modifier) : Meta := { roles := vecRoles, words := wordsOf m }
/-- A fixed-latency element-wise word with the exact result of Table 04-4. -/
def floatWord (t : FType) (f : FmtM) (srcs : List Operand) (lat : Nat) (op : Bool → FVal → FVal → FVal → FVal) (s : State) : Host.Outcome State Fault Refusal :=
  runWord (vecMeta f.mod) f.hdr (fun k => do
    let (a, b, c, dst) ← elemOperands k (ftFmt t) srcs f.d f.mod
    let e (i : Nat) (l : List Nat) := elemAt (ftFmt t) l i
    let v ← roundElems k (ftFmt t) f.mod (fun dn i => op dn (e i a) (e i b) (e i c)) (fieldBits f.d / ftBits t)
    result k dst v lat) s
def execFadd (t : FType) (f : FmtM) (s : State) : Host.Outcome State Fault Refusal := floatWord t f [f.a, f.b] (arithLat t) (fun dn a b _ => a.add dn b) s
def execFsub (t : FType) (f : FmtM) (s : State) : Host.Outcome State Fault Refusal := floatWord t f [f.a, f.b] (arithLat t) (fun dn a b _ => a.add dn b.neg) s
def execFmul (t : FType) (f : FmtM) (s : State) : Host.Outcome State Fault Refusal := floatWord t f [f.a, f.b] (arithLat t) (fun _ a b _ => a.mul b) s
def execFma (t : FType) (f : FmtM) (s : State) : Host.Outcome State Fault Refusal := floatWord t f [f.a, f.b] (arithLat t) (fun dn a b c => (a.mul b).add dn c) s
def execFms (t : FType) (f : FmtM) (s : State) : Host.Outcome State Fault Refusal := floatWord t f [f.a, f.b] (arithLat t) (fun dn a b c => (a.mul b).add dn c.neg) s
def execFnma (t : FType) (f : FmtM) (s : State) : Host.Outcome State Fault Refusal := floatWord t f [f.a, f.b] (arithLat t) (fun dn a b c => c.add dn (a.mul b).neg) s
/-- fmin and fmax: exact, with no rounding (R102). -/
def minMaxWord (t : FType) (mx : Bool) (f : FmtM) (s : State) : Host.Outcome State Fault Refusal :=
  runWord (vecMeta f.mod) f.hdr (fun k => do
    let (a, b, _, dst) ← elemOperands k (ftFmt t) [f.a, f.b] f.d f.mod
    result k dst (ofDigits (ftBits t) (List.zipWith (minMaxF (ftFmt t) mx) a b)) 2) s
def execFmin (t : FType) (f : FmtM) (s : State) : Host.Outcome State Fault Refusal := minMaxWord t false f s
def execFmax (t : FType) (f : FmtM) (s : State) : Host.Outcome State Fault Refusal := minMaxWord t true f s
/-- fcmp compares one element and writes both predicates (R104). -/
def execFcmp (t : FType) (f : FmtPM) (s : State) : Host.Outcome State Fault Refusal :=
  let m := f.mod.getD Modifier.none'
  let fm := ftFmt t
  let val (ab ng : Bool) (x : SVal) := decF fm (signMod fm ab ng ((elemsOf fm.width 1 (intToF fm) x).headD 0))
  predWord (vecMeta f.mod) f.hdr [f.a, f.b] f.d (fun vs => fcmpCond f.d.cond.toNat (val m.absA m.negA (src vs 0)) (val m.absB m.negB (src vs 1))) s
/-- Earliest and latest completion of division and root (Table 04-11). -/
def divCycles : FType → Nat × Nat
  | .f64 => (14, 32)
  | .f32 => (10, 18)
  | _ => (8, 12)
/-- fdiv and fsqrt: variable-latency, correctly rounded (R103, R461). -/
def divWord (t : FType) (f : FmtM) (srcs : List Operand) (op : FVal → FVal → FVal) (s : State) : Host.Outcome State Fault Refusal :=
  runWord { vecMeta f.mod with var := true } f.hdr (fun k => do
    roomFor k f.hdr
    let (a, b, _, dst) ← elemOperands k (ftFmt t) srcs f.d f.mod
    let v ← roundElems k (ftFmt t) f.mod (fun _ i => op (elemAt (ftFmt t) a i) (elemAt (ftFmt t) b i)) (fieldBits f.d / ftBits t)
    let _ ← issueVar k f.hdr.sc.toNat dst v (divCycles t).1 (some (divCycles t).2) .time true none 0) s
def execFdiv (t : FType) (f : FmtM) (s : State) : Host.Outcome State Fault Refusal := divWord t f [f.a, f.b] (fun a b => a.div b) s
def execFsqrt (t : FType) (f : FmtM) (s : State) : Host.Outcome State Fault Refusal := divWord t f [f.a] (fun a _ => a.sqrt) s
/-- The special functions (R107, R108). -/
def specWord (fn : SpecFn) (t : FType) (f : FmtM) (s : State) : Host.Outcome State Fault Refusal :=
  runWord (vecMeta f.mod) f.hdr (fun k => do
    let (a, _, _, dst) ← elemOperands k (ftFmt t) [f.a] f.d f.mod
    let m := f.mod.getD Modifier.none'
    result k dst (ofDigits (ftBits t) (a.map fun x => clampF (ftFmt t) m.clamp.toNat (specF fn (ftFmt t) x))) (specLat t)) s
def execFrcp (t : FType) (f : FmtM) (s : State) : Host.Outcome State Fault Refusal := specWord .rcp t f s
def execFrsq (t : FType) (f : FmtM) (s : State) : Host.Outcome State Fault Refusal := specWord .rsq t f s
def execFexp2 (t : FType) (f : FmtM) (s : State) : Host.Outcome State Fault Refusal := specWord .exp2 t f s
def execFlog2 (t : FType) (f : FmtM) (s : State) : Host.Outcome State Fault Refusal := specWord .log2 t f s
def execFsin (t : FType) (f : FmtM) (s : State) : Host.Outcome State Fault Refusal := specWord .sin t f s
def execFcos (t : FType) (f : FmtM) (s : State) : Host.Outcome State Fault Refusal := specWord .cos t f s
def execFtanh (t : FType) (f : FmtM) (s : State) : Host.Outcome State Fault Refusal := specWord .tanh t f s
def execFsig (t : FType) (f : FmtM) (s : State) : Host.Outcome State Fault Refusal := specWord .sig t f s
/-- fclass: the class mask of one element (R105). -/
def execFclass (t : FType) (f : FmtM) (s : State) : Host.Outcome State Fault Refusal :=
  let m := f.mod.getD Modifier.none'
  pureWord (vecMeta f.mod) f.hdr [f.a] f.d 2 (fun vs =>
    classOf (ftFmt t) (signMod (ftFmt t) m.absA m.negA ((elemsOf (ftBits t) 1 (intToF (ftFmt t)) (src vs 0)).headD 0))) s
/-- An element rounded to an integral value of its type, keeping its sign (R106). -/
def roundIntegral (f : Fmt) (mode r x : Nat) : Nat :=
  match decF f x with
  | .nan => f.nan
  | .inf _ => x
  | .fin s m e => roundF f 0 0 false (.fin s (roundAt mode r s m e 0) 0)
def execFround (t : FType) (f : FmtM) (s : State) : Host.Outcome State Fault Refusal :=
  runWord (vecMeta f.mod) f.hdr (fun k => do
    let (a, _, _, dst) ← elemOperands k (ftFmt t) [f.a] f.d f.mod
    let mode ← roundMode k f.mod
    let rs ← drawsFor k mode a.length
    result k dst (ofDigits (ftBits t) (List.zipWith (roundIntegral (ftFmt t) mode) rs a)) 3) s

/-! ### Conversion (R109, R110) -/

/-- The float format of a type of cvt; none for an integer. -/
def cvtFmt : CvtType → Option Fmt
  | .f64 => some fmtF64
  | .f32 => some fmtF32
  | .f16 => some fmtF16
  | .bf16 => some fmtBf16
  | .e4m3 => some fmtE4m3
  | .e5m2 => some fmtE5m2
  | .e2m1 => some fmtE2m1
  | .sint => none
/-- The source values of cvt, after abs and neg. -/
def cvtSources (ts : CvtType) (n : Nat) (m : Modifier) (x : SVal) : List FVal :=
  match cvtFmt ts with
  | some f => (elemsOf f.width n (intToF f) x).map fun e => decF f (signMod f m.absA m.negA e)
  | none =>
    let v := FVal.ofInt (toS x.w x.v)
    let v := if m.absA then v.abs else v
    [if m.negA then v.neg else v]
/-- One element converted: scaled, rounded once, and brought into the destination's range. -/
def cvtElem (td : CvtType) (dbits : Nat) (m : Modifier) (mode r : Nat) (v : FVal) : Nat :=
  let v := v.scale (toS 6 m.scale.toNat)
  match cvtFmt td with
  | some f => roundF f mode r m.sat v
  | none => match v with
    | .nan => 0
    | .inf s => if s then 2 ^ (dbits - 1) else 2 ^ (dbits - 1) - 1
    | v => satTo dbits true (roundInt mode r v)
def execCvt (td ts : CvtType) (f : FmtM) (s : State) : Host.Outcome State Fault Refusal :=
  fixedWord (vecMeta f.mod) f.hdr [f.a] f.d 3 (fun k vs => do
    let w := (cvtBits td).getD (fieldBits f.d)
    let n := fieldBits f.d / w
    let m := f.mod.getD Modifier.none'
    let mode ← roundMode k f.mod
    let rs ← drawsFor k mode n
    return ofDigits w (List.zipWith (cvtElem td (fieldBits f.d) m mode) rs (cvtSources ts n m (src vs 0)))) s
/-- pack: each 2p-bit element cut or saturated to p bits (R111). -/
def execPack (f : FmtM) (s : State) : Host.Outcome State Fault Refusal :=
  let p := (packWidth f.b).getD (4, false)
  let n := fieldBits f.d / p.1
  let narrow (x : Nat) : Nat := if modSat f.mod then satTo p.1 p.2 (if p.2 then toS (2 * p.1) x else (x : Int)) else low p.1 x
  pureWord (vecMeta f.mod) f.hdr [f.a] f.d 2 (fun vs => ofDigits p.1 ((elemsOf (2 * p.1) n (ofI (2 * p.1)) (src vs 0)).map narrow)) s
/-- unpack: each p-bit element extended to 2p bits (R112). -/
def execUnpack (f : FmtM) (s : State) : Host.Outcome State Fault Refusal :=
  let p := (packWidth f.b).getD (4, false)
  let n := fieldBits f.d / (2 * p.1)
  pureWord (vecMeta f.mod) f.hdr [f.a] f.d 2 (fun vs =>
    ofDigits (2 * p.1) ((elemsOf p.1 n (ofI p.1) (src vs 0)).map fun x => if p.2 then sextTo p.1 (2 * p.1) x else x)) s

end Sys2Proof.Machine
end

