-- ==== Sys2Proof/Machine/System.lean ====
section
/-! DEFINITION. Software traps, return from traps, system registers, TLB and cache maintenance, cancel (21, R383 to R389). -/
namespace Sys2Proof.Machine

/-! ### Traps (R383 to R385) -/

/-- trap n: a precise trap of class software (R384). -/
def execTrap (f : FmtA) (s : State) : Host.Outcome State Fault Refusal :=
  runWord {} f.hdr (fun _ => throw (.trap 18 ((immOf f.b).getD 0).toNat 0 0 0 0)) s
/-- brk n: a precise trap of class breakpoint (R384). -/
def execBrk (f : FmtA) (s : State) : Host.Outcome State Fault Refusal :=
  runWord {} f.hdr (fun _ => throw (.trap 19 ((immOf f.b).getD 0).toNat 0 0 0 0)) s
/-- rfx: the record is read here, and the thread returns with the trailer of its run (R25, R385). -/
def execRfx (f : FmtA) (s : State) : Host.Outcome State Fault Refusal :=
  let m := ((immOf f.b).getD 0).toNat
  runWord { branch := true, priv := true } f.hdr (fun k => readReturn k (bitAt m 0) (bitAt m 1)) s

/-! ### System registers (R386, Table 21-2) -/

/-- The fields of the team status word (Table 23-3). -/
def tstatMask (x : Nat) : Nat := bits x 36 12 * 2 ^ 36 + bits x 16 16 * 2 ^ 16 + bits x 0 4
/-- The value of a register of thread k. -/
def State.sysRead (s : State) (k n : Nat) : Nat :=
  let t := s.thr k
  if 0x10 ≤ n && n < 0x28 then
    let p := t.port ((n - 0x10) / 3)
    match (n - 0x10) % 3 with
    | 0 => p.base.toNat
    | 1 => p.desc.toNat
    | _ => p.pos.toNat
  else match n with
    | 0 => t.fmode
    | 1 => t.sgen.toNat
    | 2 => t.cstk.toNat
    | 3 => setBits t.preds.toNat 31 1 1
    | 4 => t.wbase
    | 5 => t.alloc
    | 6 => (s.core (keyCore k)).clock
    | 7 => (s.core (keyCore k)).tbase
    | 8 => ofDigits 6 ((List.range 8).map t.dcount)
    | 0xC => t.cairn.toNat
    | 0x30 => (s.team t.team).tstat.toNat
    | 0x31 => (s.launchOf k).tenant
    | 0x32 => ((s.trust.domains.find? fun e => e.2.tenants.contains (s.launchOf k).tenant).map (·.1)).getD 0
    | 0x33 => s.devno
    | _ => keyCore k
def execSysrd (f : FmtA) (s : State) : Host.Outcome State Fault Refusal :=
  let n := ((immOf f.b).getD 0).toNat
  runWord { varMeta with priv := n == 0xC } f.hdr (fun k => do
    roomFor k f.hdr
    let (_, dst) ← operands k [] (some (plainOp f.d))
    let s ← get
    later k f.hdr dst (s.sysRead k n)) s
/-- Whether a register takes a value (Table 21-2). -/
def sysTakes (t : Thread) (n v : Nat) : Bool :=
  match n with
  | 0 => low 3 v ≤ 5
  | 4 => v % 64 == 0 && v < t.alloc
  | 0xC => v % 256 == 0
  | _ => true
/-- A thread's register written. -/
def Thread.sysWrite (t : Thread) (n v : Nat) : Thread :=
  if 0x10 ≤ n && n < 0x28 then
    let i := (n - 0x10) / 3
    let p := t.port i
    let p := match (n - 0x10) % 3 with
      | 0 => { p with base := wd v }
      | 1 => { p with desc := wd v }
      | _ => { p with pos := wd v }
    { t with streams := dset StreamPort.unbound t.streams i p }
  else match n with
    | 0 => { t with fmode := low 3 v }
    | 1 => { t with sgen := wd (seedOf v) }
    | 2 => { t with cstk := wd v }
    | 3 => { t with preds := BitVec.ofNat 32 (setBits (low 32 v) 31 1 1) }
    | 4 => { t with wbase := v }
    | 0xC => { t with cairn := wd v }
    | _ => t
/-- syswr: serialising; a predicate image is covered once a trailer has waited on the counter (R386). -/
def execSyswr (f : FmtA) (s : State) : Host.Outcome State Fault Refusal :=
  let n := ((immOf f.b).getD 0).toNat
  runWord { varMeta with priv := true } f.hdr (fun k => do
    roomFor k f.hdr
    let (vs, dst) ← operands k [plainOp f.a] (some (plainOp f.d))
    let v := (src vs 0).zx
    let t ← getT k
    let ok := sysTakes t n v
    let id ← issueVar k f.hdr.sc.toNat dst (b2n !ok) 1 none .time true none 15
    if ok then
      if n = 3 then
        modT k fun x => { x with pend := x.pend.map (dropWrites ((List.range 31).map Loc.pred)), varDest := x.varDest ++ (List.range 31).map fun p =>
          { oid := id, dc := x.counter f.hdr.sc.toNat, loc := .pred p, old := t.base (.pred p) } }
      else pure ()
      if n = 0x30 then modTm t.team fun x => { x with tstat := wd (tstatMask v) }
      else modT k fun t => t.sysWrite n v
    else pure ()) s

/-! ### tlbinv (R387) -/

/-- Whether a TLB entry is one that an invalidation names. -/
def TlbEntry.covered (e : TlbEntry) (kind ctx va : Nat) : Bool :=
  kind == 2 || (e.ctx == ctx && (kind == 1 || va / 2 ^ e.size == e.va))
/-- Matching entries leave the TLBs of one stack or of all. -/
def State.dropTlb (s : State) (die : Option Nat) (kind ctx va : Nat) : State :=
  let cut (l : List TlbEntry) : List TlbEntry := l.filter fun e => !e.covered kind ctx va
  let here (d : Nat) : Bool := match die with | some x => x == d | none => true
  let c (e : Nat × Core) : Nat × Core := if here (coreStack e.1) then (e.1, { e.2 with tlb := cut e.2.tlb }) else e
  let u (e : Nat × Cluster) : Nat × Cluster := if here (e.1 / 48) then (e.1, { e.2 with tlb := cut e.2.tlb }) else e
  let d (e : Nat × Stack) : Nat × Stack := if here e.1 then (e.1, { e.2 with tlb := cut e.2.tlb }) else e
  { s with cores := s.cores.map c, clusters := s.clusters.map u, dies := s.dies.map d }
/-- The serials of accesses that were translated before and are not performed: SC accesses that their homes still hold, stream elements that wait for their results; of one stack or of all (R387). -/
def State.translated (s : State) (die : Option Nat) : List Nat :=
  let here (c : Nat) : Bool := match die with | some x => x == coreStack c | none => true
  ((s.scHeld.filter fun a => here a.core || a.reply.isSome).map (·.id))
    ++ s.threads.flatMap fun e => if here (keyCore e.1) then (e.2.outst.filter (·.dest.isElement)).map (·.id) else []
/-- A Shootdown sent to the guest die, when there is one. -/
def State.shootdown (s : State) (id kind ctx va : Nat) : State :=
  let x : Shootdown := { id := id, kind := kind, ctx := ctx, va := va, at' := s.now }
  ({ s with socket := { s.socket with shootdowns := s.socket.shootdowns ++ [x] } }).emit (.guestShootdown id kind ctx va)
/-- tlbinv: the entries go at once; it completes when every access that was translated before is performed, and the guest die has acknowledged (R387). -/
def execTlbinv (f : FmtA) (s : State) : Host.Outcome State Fault Refusal :=
  runWord { varMeta with priv := true } f.hdr (fun k => do
    roomFor k f.hdr
    let (vs, dst) ← operands k (plainOps [f.a, f.b]) (some (plainOp f.d))
    let va := (src vs 0).zx
    let c := (src vs 1).zx
    let kind := low 2 c
    if kind = 3 || bits c 3 13 ≠ 0 || bits c 32 32 ≠ 0 then later k f.hdr dst 3
    else
      let ctx := bits c 16 16
      let all := bitAt c 2
      let die := if all then none else some (coreStack (keyCore k))
      modify fun s => s.dropTlb die kind ctx va
      let s ← get
      let before := s.translated die
      if all && s.socket.ready && !s.socket.fenced then
        let id ← newId
        laterWait k f.hdr dst 0 (.shootdown id before)
        modify fun s => s.shootdown id kind ctx va
      else laterWait k f.hdr dst 0 (.window before)) s

/-! ### cacheop (R388) -/

/-- The line that an address names, translated and checked as for ld; its faults name the address. -/
def lineAt (k va : Nat) : M Place := do
  let p ← locate k va 1 1
  return match p with
    | .spad off => .spad (off / 128 * 128)
    | .dev pa => .dev (pa / 128 * 128)
    | .hostm pa => .hostm (pa / 128 * 128)
/-- A cacheop on one line, behind the thread's own accesses to it: D = 1 for a mapped line, which it leaves; a line of host memory has first-level copies alone, and a scratchpad row none (R86, R293, R388). -/
def lineOp (f : FmtA) (host : Nat → Nat → State → State) (body : Nat → Nat → M Unit) (s : State) : Host.Outcome State Fault Refusal :=
  runWord varMeta f.hdr (fun k => do
    roomFor k f.hdr
    let (vs, dst) ← operands k [plainOp f.a] (some (plainOp f.d))
    let p ← lineAt k (src vs 0).zx
    ownOrder k p 128
    let s ← get
    match p with
    | .spad _ => later k f.hdr dst 0
    | .hostm pa =>
      modify (host k (hostLine pa))
      later k f.hdr dst 0
    | .dev pa =>
      if (s.mapOf (lineOf pa)).isSome then later k f.hdr dst 1
      else
        body k (lineOf pa)
        later k f.hdr dst 0) s
/-- Operation 0: M copies and owned sectors written back; copies stay (Table 21-3). -/
def execCacheopClean (f : FmtA) (s : State) : Host.Outcome State Fault Refusal :=
  lineOp f (fun _ _ s => s) (fun _ line => do
    snoopSectors (128 * line) 128 false
    modify fun s => match s.dirOf line with
      | .owned c =>
        let dirty : Bool := match s.l1Of c line with
          | some (.m _) => true
          | _ => (tget (s.core c).victim line).isSome
        if dirty then (s.recallShared c line).setDir line (.shared [c]) else s.cleanAgents line
      | .busy _ _ => s.unbusy line
      | _ => s) s
/-- Operation 1: every copy written back and invalidated; a Churn line leaves the state. -/
def execCacheopFlush (f : FmtA) (s : State) : Host.Outcome State Fault Refusal :=
  lineOp f (fun _ l s => (s.cores.map (·.1)).foldl (fun s c => s.setL1 c l none) s) (fun _ line => do
    snoopSectors (128 * line) 128 true
    homeOwn line) s
/-- The issuing core's copy of a line dropped: written back when M, parked when a partial (R287). -/
def State.dropCopy (s : State) (c line : Nat) : State :=
  match s.l1Of c line with
  | some (.m d) => ((s.putLine line d).setL1 c line none).setDir line .uncached
  | some .e => (s.setL1 c line none).setDir line .uncached
  | some .s => s.setL1 c line none
  | some (.c g sg d) => (s.setL1 c line none).modCluster (coreCluster c) fun x =>
      { x with parked := x.parked.filter (fun p => !(p.1 == line && p.2.1 == c)) ++ [(line, c, .c g sg d)] }
  | none => s
def execCacheopDrop (f : FmtA) (s : State) : Host.Outcome State Fault Refusal :=
  lineOp f (fun k l s => s.setL1 (keyCore k) l none) (fun k line => modify fun s => s.dropCopy (keyCore k) line) s
/-- A translation or protection fault that names an address. -/
def Stop.naming (va : Nat) : Stop → Stop
  | .trap cls code addr d1 d2 d3 => .trap cls code (if cls = 11 || cls = 12 then wd va else addr) d1 d2 d3
  | e => e
/-- Operation 3: one plain write of zeros, checked as st.rlx. -/
def execCacheopZero (f : FmtA) (s : State) : Host.Outcome State Fault Refusal :=
  runWord varMeta f.hdr (fun k => do
    roomFor k f.hdr
    let (vs, dst) ← operands k [plainOp f.a] (some (plainOp f.d))
    let va := (src vs 0).zx
    let p ← lineAt k va
    let s ← get
    let mapped : Bool := match p with | .dev pa => (s.mapOf (lineOf pa)).isSome | _ => false
    if mapped then later k f.hdr dst 1
    else
      mapStop (Stop.naming va) (storePiece k (va / 128 * 128) (List.replicate 128 0) true .rlx)
      later k f.hdr dst 0) s
def cacheMeta : Meta := { varMeta with priv := true }
/-- Operation 4: operation 2 on every line of the issuing core's first-level cache. -/
def execCacheopL1all (f : FmtA) (s : State) : Host.Outcome State Fault Refusal :=
  runWord cacheMeta f.hdr (fun k => do
    roomFor k f.hdr
    let (_, dst) ← operands k [] (some (plainOp f.d))
    modify fun s => ((s.core (keyCore k)).l1.map (·.1)).foldl (fun s l =>
      if l < 2 ^ 45 then s.dropCopy (keyCore k) l else s.setL1 (keyCore k) l none) s
    later k f.hdr dst 0) s
/-- What a stack's slices hold modified, as the agent of lines of other stacks, written to memory; the copies stay (R285, R388). A home's own bytes are those of device memory already. -/
def State.cleanStack (s : State) (st : Nat) : State :=
  (s.agents.map (·.1)).foldl (fun s n => if n / 2 ^ 40 == st then s.cleanAgent (n % 2 ^ 40) st else s) s
/-- Operation 5: the modified lines of the second-level slices of the issuing core's stack are written to HBM4E. -/
def execCacheopL2all (f : FmtA) (s : State) : Host.Outcome State Fault Refusal :=
  runWord cacheMeta f.hdr (fun k => do
    roomFor k f.hdr
    let (_, dst) ← operands k [] (some (plainOp f.d))
    modify fun s => s.cleanStack (coreStack (keyCore k))
    later k f.hdr dst 0) s

/-! ### cancel (R389) -/

/-- The unit of a level that holds a thread. -/
def State.unitOfThread (s : State) (k level : Nat) : Option UnitRef :=
  let i := (s.thr k).team
  let l := (s.team i).launch
  let x := s.launch l
  let leg : Option Nat := ((x.graph.bind (tget s.host.graphs)).map (·.parent)).filter fun g => (tget s.host.legs g).isSome
  match level with
  | 0 => some (.team i)
  | 1 => some (.launch l)
  | 2 => x.graph.map .graph
  | 3 => leg.map .leg
  | _ => leg.bind fun g => (tget s.host.legs g).map fun c => .job c.parent
/-- Mirror address of a unit's counter, and the tenant it belongs to (R145, R438). -/
def State.mirrorWord (s : State) : UnitRef → Word
  | .team i => let x := s.launch (s.team i).launch; if x.tmir = 0 then 0 else x.tmir + BitVec.ofNat 64 (8 * (s.team i).index)
  | .launch l => (s.launch l).lmir
  | .graph g => (tget s.host.graphs g).elim 0 (·.mirror)
  | .leg g => (tget s.host.legs g).elim 0 (·.mirror)
  | .job g => (tget s.host.jobs g).elim 0 (·.mirror)
def State.tenantOf (s : State) : UnitRef → Option Nat
  | .team i => some (s.launch (s.team i).launch).tenant
  | .launch l => some (s.launch l).tenant
  | .graph g => (tget s.host.graphs g).bind fun c => (tget s.host.queues c.q).map (·.desc.tenant)
  | .leg g => (tget s.host.legs g).bind fun c => (tget s.host.queues c.q).map (·.desc.tenant)
  | .job g => (tget s.host.jobs g).bind fun c => (tget s.host.queues c.q).map (·.desc.tenant)
/-- The units of a level. -/
def State.unitsAt (s : State) (level : Nat) : List UnitRef :=
  match level with
  | 0 => s.teams.map fun e => .team e.1
  | 1 => s.host.launches.map fun e => .launch e.1
  | 2 => s.host.graphs.map fun e => .graph e.1
  | 3 => s.host.legs.map fun e => .leg e.1
  | _ => s.host.jobs.map fun e => .job e.1
/-- The context in which a unit's mirror is written: its queue's (R438). -/
def State.mirrorCtx (s : State) : UnitRef → Option Nat
  | .team i => some (s.launch (s.team i).launch).ctx
  | .launch l => some (s.launch l).ctx
  | .graph g => (tget s.host.graphs g).bind fun c => (tget s.host.queues c.q).map (·.desc.ctx)
  | .leg g => (tget s.host.legs g).bind fun c => (tget s.host.queues c.q).map (·.desc.ctx)
  | .job g => (tget s.host.jobs g).bind fun c => (tget s.host.queues c.q).map (·.desc.ctx)
/-- The unit of a level whose word is mirrored at an address of thread k's context: the one that is not yet done, when an earlier unit has used the word before it (R389). -/
def State.unitMirrored (s : State) (k level : Nat) (addr : Word) : Option UnitRef :=
  let us := if addr = 0 then [] else (s.unitsAt level).filter fun u =>
    s.mirrorWord u == addr && s.tenantOf u == some (s.launchOf k).tenant && s.mirrorCtx u == some (s.ctxOf k)
  (us.find? fun u => s.unitCount u != some 0).or us.head?
def execCancel (f : FmtA) (s : State) : Host.Outcome State Fault Refusal :=
  let level := ((immOf f.b).getD 0).toNat
  runWord { varMeta with priv := 2 ≤ level || !unused f.a } f.hdr (fun k => do
    roomFor k f.hdr
    let a := if unused f.a then [] else [plainOp f.a]
    let (vs, dst) ← operands k a (some (plainOp f.d))
    let s ← get
    let addr := wd (src vs 0).zx
    let u := if unused f.a then s.unitOfThread k level else s.unitMirrored k level addr
    match u with
    | none => later k f.hdr dst 2
    | some u =>
      if s.unitCount u = some 0 then later k f.hdr dst 1
      else
        later k f.hdr dst 0
        modify fun s => s.cancelUnit u) s

end Sys2Proof.Machine
end

