-- ==== Sys2Proof/Machine/Health.lean ====
section
/-! DEFINITION. The trust core and the management controller: starts, signed commands, confidential domains, sleep, attestation, errors and their counters (25, R236, R382, R429 to R431, R439, R442, R444 to R458). -/
namespace Sys2Proof.Machine

def State.setTrust (s : State) (f : Trust → Trust) : State := { s with trust := f s.trust }
def State.setReady (s : State) (bit v : Nat) : State := s.setTrust fun t => { t with ready := setBits t.ready bit 1 v }

/-! ### Starts (R445, R453, R454) -/

/-- What a start keeps: the key store, the device's memory and its records, time, the counters of the management controller, and what has left the device; everything else is as after reset. -/
def State.restart (s : State) : State :=
  let t := s.trust
  { State.reset with
    mem := s.mem, hostMem := s.hostMem, records := s.records, now := s.now, podTime := s.podTime, podTick := s.podTick, free := s.free, nextId := s.nextId,
    agenda := s.agenda, out := s.out,
    trust := { t with domains := [], ready := 0, sleeping := false, sleepEpoch := 0 } }
/-- A start fails: the count rises, and on the third failure in a row the device is in bivouac mode (Table 25-4). -/
def State.failStart (s : State) (reason : Nat) : State :=
  let n := s.trust.failedStarts + 1
  (s.setTrust fun t => { t with failedStarts := n, ready := low 7 reason * 2 ^ 32 + (if 3 ≤ n then 2 ^ 39 else 0) }).askReplace 96
/-- Whether the guest queues of an image keep the limits of R370: numbers 0 to 63, each once, rings of 16 to 4096 entries in device memory. -/
def guestQueuesOk (l : List (Nat × Nat × Nat)) : Bool :=
  (l.map (·.1)).eraseDups.length == l.length
    && l.all fun e => e.1 < 64 && 16 ≤ e.2.2 && e.2.2 ≤ 4096 && e.2.1 + 64 * e.2.2 ≤ Config.memBytes
/-- Whether the trust core accepts the image of a start. One whose guest queues or context table break their limits is none that it accepts (DEDUCED, log entry 36). -/
def State.imageOk (s : State) (st : StartInput) : Bool :=
  Config.sigValid s.trust.vendorRoot st.image st.sig && st.digestsOk && s.trust.imageVersion ≤ st.version
    && guestQueuesOk st.guestQueues && st.ctxTable % 4096 == 0 && st.ctxTable + ctxGuardBytes ≤ Config.memBytes
/-- An entry of a slot table; none when it is not one of Table 19-4. -/
def decodeSlot (present : List Nat) (x : Nat) : Option (Option SlotEntry) :=
  if !bitAt x 63 then (if x = 0 then some none else none)
  else if low 28 x ≠ 0 || !present.contains (bits x 48 15) then none
  else some (some { peer := bits x 48 15, plink := bits x 44 4, allow := bits x 28 16 })
/-- Whether a slot table with its control word is one that R355 admits. -/
def State.tableOk (link : Nat) (ctl : Word) (entries : Quads) (s : State) : Bool :=
  let x := ctl.toNat
  link < 512 && bits x 50 8 == 0 && bits x 58 6 + 1 == entries.length && low 50 x % 1000 == 0 && (entries.mapM fun e => decodeSlot s.fabric.present e.toNat).isSome
/-- A slot table kept until its start comes (R355, R362). -/
def State.installTable (link : Nat) (ctl : Word) (entries : Quads) (s : State) : State :=
  let t := (tget s.fabric.tables link).getD { entries := [], start := 0, next := none, nextAt := 0 }
  let start := ((s.podTime : Int) + clkDiff (low 50 ctl.toNat) (low 50 s.podTime)).toNat
  let es := (entries.mapM fun e => decodeSlot s.fabric.present e.toNat).getD []
  { s with fabric := { s.fabric with tables := tset s.fabric.tables link { t with next := some (es, start), nextAt := t.switchAt start s.podTime } } }
/-- The slot tables of an image installed, those that R355 admits (R355, R445). -/
def State.imageTables (s : State) (l : List (Nat × Word × Quads)) : State :=
  l.foldl (fun s e => if State.tableOk e.1 e.2.1 e.2.2 s then State.installTable e.1 e.2.1 e.2.2 s else s) s
/-- Whether a queue descriptor is one that is taken (R429). -/
def queueOk (q : Nat) (d : QueueDesc) : Bool :=
  q < Config.workQueues && d.base % 128 == 0 && 4 ≤ d.z && d.z ≤ 16 && d.tenant < 256 && d.ctx < 65536 && d.cap < 8
/-- A descriptor installed: the queue is idle at head and tail 0 (R432). -/
def State.installQueue (s : State) (q : Nat) (d : QueueDesc) : State :=
  { s with host := { s.host with queues := tset s.host.queues q { desc := d, head := 0, tail := 0, state := .idle, retryAt := 0, tries := 0, packet := none, leg := none } } }
/-- Whether budgets are ones that are taken (Table 24-7). -/
def budgetOk (tenant : Nat) (b : BudgetVals) : Bool := tenant < 256 && b.cores ≤ 768
def State.setBudget (s : State) (tenant : Nat) (b : BudgetVals) : State :=
  s.modBudget tenant fun x => { x with cores := b.cores, bandwidth := b.bandwidth, power := b.power }
/-- Whether a fault ring is one that is taken: in device memory (R442). -/
def ringOk (stack addr : Nat) : Bool := stack < 4 && addr + 131072 ≤ Config.memBytes
def State.setRing' (s : State) (stack addr : Nat) : State := s.modDie stack fun d => { d with ringBase := addr, ringIdx := 0 }
/-- The other items of an image: queue descriptors, budgets and fault rings, those that a command could set (R445), and the width of the host link, where a degraded one is counted and asks for a replacement (R427, R458). -/
def State.imageItems (s : State) (st : StartInput) : State :=
  let s : State := (st.queues.filter fun e => queueOk e.1 e.2).foldl (fun s e => s.installQueue e.1 e.2) s
  let s : State := (st.budgets.filter fun e => budgetOk e.1 e.2).foldl (fun s e => s.setBudget e.1 e.2) s
  let s : State := (st.faultRings.filter fun e => ringOk e.1 e.2).foldl (fun s e => s.setRing' e.1 e.2) s
  let narrow := st.hostLanes < 16
  let s : State := { s with host := { s.host with lanes := st.hostLanes, narrowed := s.host.narrowed + b2n narrow } }
  if narrow then s.askReplace (64 + 26) else s
/-- DEVICE_START: firmware and image are checked; the image's configuration is taken, and the functions start. -/
def execDeviceStart (st : StartInput) (s : State) : Host.Outcome State Fault Refusal :=
  runEvent (modify fun s =>
    let s : State := s.restart
    if !st.firmwareOk then s.failStart 1
    else if !s.imageOk st then (s.setTrust fun t => { t with cmdRefused := t.cmdRefused + 1 }).failStart 2
    else
      let s : State := { s with devno := st.devno, inPod := st.inPod,
                                fabric := { s.fabric with present := st.present },
                                belay := { s.belay with uplinks := st.uplinks.foldl (fun l e => tset l e.1 e.2) [] },
                                host := { s.host with ctxTable := some st.ctxTable },
                                socket := { s.socket with config := st.guestQueues, expected := st.guestDigest } }
      ((s.imageTables st.slotTables).imageItems st).setTrust fun t => { t with imageVersion := st.version, image := st.image, ready := 2 ^ 25 }) s
/-- Whether a start has not failed: host link, queue engine, and a stack with both bits (Table 25-4). -/
def State.started (s : State) : Bool := bitAt s.trust.ready 26 && bitAt s.trust.ready 27 && s.bivouacStack.isSome
/-- The bits that a self-test can raise: stacks, HBM, and hub functions but the trust core and the anchor socket; in bivouac mode only those of one stack, the host link and the queue engine. -/
def State.mayRaise (s : State) (bit : Nat) : Bool :=
  let stack := 12 ≤ bit && bit < 20
  if bitAt s.trust.ready 39 then (stack && (s.bivouacStack.isNone || s.bivouacStack == some (bit % 4))) || bit == 26 || bit == 27
  else bitAt s.trust.ready 25 && (stack || (26 ≤ bit && bit < 31))
/-- Links of a kind that come into service: local ones to positions present in the configuration, and all global ones. -/
def State.linksUp (s : State) (ls : List Nat) : State :=
  ls.foldl (fun s l => s.modLink l fun x => { x with up := !x.retired, lastGoodAt := s.now, censusAt := s.now }) s
/-- FUNCTION_READY: a function's bit is raised; links come up with theirs. A start that does not fail clears the count of failed starts. -/
def execFunctionReady (bit : Nat) (s : State) : Host.Outcome State Fault Refusal :=
  runEvent (modify fun s =>
    if !s.mayRaise bit then s
    else
      let s : State := s.setReady bit 1
      let i := devPos s.devno
      let s : State := if bit = 28 then s.linksUp ((List.range 31).filter fun l => s.fabric.present.contains (32 * devGroup s.devno + (i + l + 1) % 32)) else s
      let s : State := if bit = 29 then s.linksUp ((List.range 16).map (32 + ·)) else s
      if s.started && !bitAt s.trust.ready 39 then s.setTrust fun t => { t with failedStarts := 0 } else s) s
/-- START_FAILURE: a function of Table 25-4 does not come up. -/
def execStartFailure (reason : Nat) (s : State) : Host.Outcome State Fault Refusal :=
  runEvent (modify fun s => if 1 ≤ reason && reason ≤ 5 then s.restart.failStart reason else s) s

/-! ### Signed commands (R445) -/

/-- A command under a root: one whose signature or count fails, or whose contents are refused, changes nothing and is counted; a management command wakes the device. -/
def State.command (s : State) (root : Nat) (c : Signed) (ok : State → Bool) (f : State → State) : State :=
  let s : State := s.wake
  if Config.sigValid root c.msg c.sig && s.trust.count < c.count && ok s then f (s.setTrust fun t => { t with count := c.count })
  else s.setTrust fun t => { t with cmdRefused := t.cmdRefused + 1 }
/-- A management command, under the owner root. -/
def State.manage (s : State) (c : Signed) (ok : State → Bool) (f : State → State) : State := s.command s.trust.ownerRoot c ok f
/-- QUEUE_DESCRIPTOR_INSTALL (R429, R432). -/
def execQueueDescriptorInstall (c : Signed) (q : Nat) (d : QueueDesc) (s : State) : Host.Outcome State Fault Refusal :=
  runEvent (modify fun s => s.manage c (fun _ => queueOk q d) fun s => s.installQueue q d) s
/-- Whether a context descriptor is one that is taken (Table 24-8). -/
def ctxOk (ctx : Nat) (d : CtxWrite) : Bool :=
  let q (i : Nat) : Nat := (d.getD i 0).toNat
  ctx < 65536 && q 0 == 0 && q 1 == 0 && low 32 (q 2) == 0 && bits (q 2) 48 7 == 0 && bits (q 2) 32 16 ≤ 1000
    && q 3 % 16384 == 0 && q 3 < Config.memBytes
/-- Every TLB and miss-table entry of a context removed, and the guest die told; the command completes when the Shootdown is acknowledged and what was translated before is performed (R387, R430). -/
def State.dropContext (s : State) (ctx : Nat) : State :=
  let s : State := s.dropTlb none 1 ctx 0
  let d (e : Nat × Stack) : Nat × Stack := (e.1, { e.2 with misses := e.2.misses.filter fun m => m.ctx != ctx })
  let s : State := { s with dies := s.dies.map d }
  let on := s.socket.ready && !s.socket.fenced
  let w : CmdWait := { ctx := ctx, shootdown := if on then some s.nextId else none, ids := s.translated none }
  let s : State := { s with host := { s.host with cmdWaits := s.host.cmdWaits ++ [w] } }
  if on then { s.shootdown s.nextId 1 ctx 0 with nextId := s.nextId + 1 } else s
/-- CONTEXT_DESCRIPTOR_WRITE: the descriptor is written in the table in device memory; with no image there is no table (R430). -/
def execContextDescriptorWrite (c : Signed) (ctx : Nat) (d : CtxWrite) (s : State) : Host.Outcome State Fault Refusal :=
  runEvent (modify fun s => s.manage c (fun s => ctxOk ctx d && s.host.ctxTable.isSome) fun s =>
    let b := (d.take 4).flatMap fun w => leBytes 8 w.toNat
    { s.dropContext ctx with mem := memPutN s.mem (s.host.ctxTable.getD 0 + 32 * ctx) b }) s
/-- TENANT_CONTEXT_MAP_WRITE: the context named must be installed and owned by the tenant (R431). -/
def execTenantContextMapWrite (c : Signed) (tenant : Nat) (v : Word) (s : State) : Host.Outcome State Fault Refusal :=
  runEvent (modify fun s =>
    let x := v.toNat
    let ok (s : State) : Bool := tenant < 256 && bits x 16 47 == 0 && s.host.ctxTable.isSome
      && (!bitAt x 63 || (s.ctxAt (low 16 x)).elim false fun d => d.tenant == tenant)
    s.manage c ok fun s => { s with mem := memPutN s.mem (s.host.ctxTable.getD 0 + ctxTableBytes + 8 * tenant) (leBytes 8 x) }) s
/-- BUDGET_SET (R439). -/
def execBudgetSet (c : Signed) (tenant : Nat) (b : BudgetVals) (s : State) : Host.Outcome State Fault Refusal :=
  runEvent (modify fun s => s.manage c (fun _ => budgetOk tenant b) fun s => s.setBudget tenant b) s
/-- SLOT_TABLE_INSTALL: the table of a global link of this group, by 16 × position + link (R355). -/
def execSlotTableInstall (c : Signed) (link : Nat) (ctl : Word) (entries : Quads) (s : State) : Host.Outcome State Fault Refusal :=
  runEvent (modify fun s => s.manage c (State.tableOk link ctl entries) (State.installTable link ctl entries)) s
/-- FAULT_RING_SET (R442). -/
def execFaultRingSet (c : Signed) (stack addr : Nat) (s : State) : Host.Outcome State Fault Refusal :=
  runEvent (modify fun s => s.manage c (fun _ => ringOk stack addr) fun s => s.setRing' stack addr) s
/-- ROOT_ROTATION: a vendor-signed command changes a root in the key store (R444). -/
def execRootRotation (c : Signed) (vendor : Bool) (root : Nat) (s : State) : Host.Outcome State Fault Refusal :=
  runEvent (modify fun s => s.command s.trust.vendorRoot c (fun _ => true) fun s =>
    s.setTrust fun t => if vendor then { t with vendorRoot := root } else { t with ownerRoot := root }) s
/-- COUNTER_CLEAR: the counters of Table 25-5 (R457). -/
def execCounterClear (c : Signed) (s : State) : Host.Outcome State Fault Refusal :=
  runEvent (modify fun s => s.manage c (fun _ => true) fun s =>
    let s : State := s.setTrust fun t => { t with sramc := 0, sramu := 0, hbmc := 0, hbmu := 0, tile := 0, sealRefused := 0, cmdRefused := 0, mirrorSkipped := 0, belayFailures := 0 }
    let l (e : Nat × Link) : Nat × Link := (e.1, { e.2 with nReplay := 0, nDamage := 0, nResync := 0 })
    { s with fabric := { s.fabric with links := s.fabric.links.map l, wrong := 0, retired := 0, drops := 0, lostCount := 0 },
             socket := { s.socket with fences := 0, lostSectors := 0 } }) s

/-! ### Confidential domains (R446, R452) -/

/-- DOMAIN_COMMAND: a domain is created or changed. -/
def execDomainCommand (c : Signed) (d : DomainCmd) (s : State) : Host.Outcome State Fault Refusal :=
  runEvent (modify fun s =>
    let ok (s : State) : Bool := 1 ≤ d.domain && d.domain ≤ 64 && d.members.contains s.devno && !bitAt s.trust.ready 39
    s.manage c ok fun s =>
      let old := tget s.trust.domains d.domain
      let same := old.filter fun x => x.epoch == d.epoch
      let x : Domain := { members := d.members, epoch := d.epoch, secret := d.secret, prevSecret := old.elim 0 (·.secret), switchAt := s.now,
                          tenants := d.tenants, ranges := d.ranges, removed := [], seen := old.elim [] (·.seen), sendSeq := same.elim [] (·.sendSeq) }
      let x : Domain := same.elim x fun o => { x with prevSecret := o.prevSecret, switchAt := o.switchAt }
      s.setTrust fun t => { t with domains := tset t.domains d.domain x }) s
/-- This device is removed: its teams in the domain end as revoked, it leaves the domain's phasers as a registrant of its own (R335), and the secret is erased. -/
def State.revoked (s : State) (k : Nat) (d : Domain) : State :=
  let ls := (s.host.launches.filter fun e => !e.2.fin && d.tenants.contains e.2.tenant).map (·.1)
  let s : State := ls.foldl (fun s l => (s.teamsOf l).foldl (fun s i => s.modTeam i fun t => { t with status := max t.status 5 }) s) s
  let s : State := ls.foldl State.cancelLaunch s
  let s : State := s.deregisterIn (fun p => p.domain == k) none (.device s.devno) true
  s.setTrust fun t => { t with domains := tdel t.domains k }
/-- A device is removed from a domain of this one: its registrants leave the domain's phasers, and queued packets of the domain to it are dropped. -/
def State.expel (s : State) (k dev : Nat) : State :=
  let s : State := ((s.belay.phasers.filter fun e => e.2.domain == k).map (·.1)).foldl (fun s p => s.dropRegs p dev) s
  let mine (p : Packet) : Bool := p.src == s.devno && p.dst == dev && p.sealed.elim false fun e => e.domain == k
  let q := (tget s.fabric.sendQ dev).getD SendQueue.empty
  let gone := (q.free ++ q.charged).filter mine ++ s.fabric.links.flatMap fun e => e.2.waiting.filter mine
  let s : State := s.modSendQ dev fun q => { q with free := q.free.filter fun p => !mine p, charged := q.charged.filter fun p => !mine p }
  let l (e : Nat × Link) : Nat × Link := (e.1, { e.2 with waiting := e.2.waiting.filter fun p => !mine p })
  let s : State := { s with fabric := { s.fabric with links := s.fabric.links.map l } }
  gone.foldl (fun s p => s.dropAs p 1) s
/-- REVOCATION: the domain goes on without the devices removed, in the next epoch. -/
def execRevocation (c : Signed) (d : RevokeCmd) (s : State) : Host.Outcome State Fault Refusal :=
  runEvent (modify fun s => s.manage c (fun s => (tget s.trust.domains d.domain).isSome) fun s =>
    match tget s.trust.domains d.domain with
    | none => s
    | some x =>
      if d.removed.contains s.devno then s.revoked d.domain x
      else
        let y : Domain := { x with members := x.members.filter fun m => !d.removed.contains m, removed := x.removed ++ d.removed, epoch := x.epoch + 1,
                                   secret := d.secret, prevSecret := x.secret, switchAt := s.now, sendSeq := [] }
        let s : State := s.setTrust fun t => { t with domains := tset t.domains d.domain y }
        d.removed.foldl (fun s n => s.expel d.domain n) s) s

/-! ### Retention sleep, the anchor site, attestation (R236, R382, R447, R455) -/

/-- Whether the device may sleep. -/
def State.maySleep (s : State) : Bool :=
  s.teams.all (fun e => !e.2.placed) && s.fabric.arrivals.isEmpty && s.belay.phasers.all (fun e => 8 ≤ e.1 / 2 ^ 24)
    && s.socket.queues.all fun e => e.2.packets.isEmpty
/-- RETENTION_SLEEP. -/
def execRetentionSleep (c : Signed) (s : State) : Host.Outcome State Fault Refusal :=
  runEvent (modify fun s => s.manage c State.maySleep fun s => s.setTrust fun t => { t with sleeping := true, sleepEpoch := s.podTime / 2 ^ 48 }) s
/-- RETENTION_WAKE. -/
def execRetentionWake (s : State) : Host.Outcome State Fault Refusal := runEvent (modify State.wake) s
/-- ANCHOR_SITE_RESET: the site is empty until the guest die's next hello. Packets whose completion records the fence could not write yet complete, and their records follow (R382). -/
def execAnchorSiteReset (s : State) : Host.Outcome State Fault Refusal :=
  runEvent (do
    fenceGuest
    modify fun s => s.socket.queues.foldl (fun s e => e.2.packets.foldl (fun s p => s.retireGuest e.1 p 0x7000) s)
      (s.setSocket fun x => { x with records := x.records ++ x.queues.flatMap fun e => e.2.packets })
    modify fun s => (s.setSocket fun x => { x with ready := false, fenced := false, queues := [], xlates := [], pending := [], shootdowns := [], preempts := [] }).setReady 31 0) s
/-- The attestation report of Table 25-2 in bytes. -/
def State.report (s : State) (nonce domain : Nat) : Bytes :=
  let d := tget s.trust.domains domain
  let b := leBytes 48 nonce ++ leBytes 48 s.trust.image ++ leBytes 48 s.trust.identity ++ leBytes 2 (low 15 s.devno)
    ++ leBytes 1 (d.elim 0 fun _ => domain) ++ leBytes 1 0 ++ leBytes 4 (d.elim 0 (·.epoch)) ++ leBytes 8 s.trust.ready
  b ++ leBytes 96 (Config.mac s.trust.identity [ofLe b])
/-- ATTESTATION_REQUEST: the report, in quads. -/
def execAttestationRequest (nonce domain : Nat) (s : State) : Host.Outcome State Fault Refusal :=
  runEvent (modify fun s => s.emit (.attestation (digits 64 32 (ofLe (s.report nonce domain))))) s

/-! ### Errors (R253, R456 to R458) -/

/-- An hour in ticks. -/
def hourTicks : Nat := 3600 * 1000000000 * Config.ticksPerNs
/-- Times of the last hour with a new one; whether they are sixteen. -/
def lastHour (now : Nat) (l : List Nat) : List Nat := now :: l.filter fun t => now ≤ t + hourTicks
/-- An uncorrectable SRAM word or HBM word counted; sixteen within an hour ask for a replacement. -/
def State.countSramu (s : State) : State :=
  let l := lastHour s.now s.trust.sramuTimes
  let s : State := s.setTrust fun t => { t with sramu := t.sramu + 1, sramuTimes := l }
  if 16 ≤ l.length then s.askReplace 1 else s
def State.countHbmu (s : State) : State :=
  let l := lastHour s.now s.trust.hbmuTimes
  let s : State := s.setTrust fun t => { t with hbmu := t.hbmu + 1, hbmuTimes := l }
  if 16 ≤ l.length then s.askReplace 3 else s
/-- The word of an accumulator that holds an element reads zero: two elements of 32 bits, or one of 64. -/
def AccSlot.zeroWord (a : AccSlot) (row col : Nat) : AccSlot :=
  match a.ty with
  | .f64 => { a with vals := tdel a.vals (128 * row + col) }
  | _ => { a with vals := tdel (tdel a.vals (128 * row + col / 2 * 2)) (128 * row + col / 2 * 2 + 1) }
/-- The atomics that a faulted service group holds complete with an error whose code, and whose result, the spec does not state; one that came over the fabric is answered with a free status that is not 0 (R253, log entry 1). -/
def State.failAtomics (s : State) (cluster : Nat) : State :=
  let fail (s : State) (a : ScAccess) : State :=
    let f := s.nextFree
    match a.reply with
    | none => f.2.modOutst a.th a.oid fun o => { o with val := f.1, fixed := true, err := some (low 16 f.1), src := 4 }
    | some p => f.2.respond p 8 (1 + f.1 % 9) [] WinRec.empty
  let s : State := (s.scHeld.filter (·.atGroup cluster)).foldl fail s
  { s with scHeld := s.scHeld.filter fun a => !a.atGroup cluster }
/-- A word that cannot be corrected reads as zero from then on. -/
def State.zeroPlace (s : State) : SramPlace → State
  | .slices th first => s.modThr th fun t => t.putAll ((List.range 16).map fun n => (.slice (first / 16 * 16 + n), 0))
  | .scratchpad team off => s.spadPut team (off / 8 * 8) (List.replicate 8 0)
  | .accumulator team slot row col => s.modTeam team fun t => { t with acc := tmod t.acc slot fun a => a.zeroWord row col }
  | .line pa => (s.putLine (lineOf pa) (List.replicate 128 0)).setWin (lineOf pa) WinRec.empty
  | .serviceGroup c => (s.modCluster c fun x => { x with faulted := true }).failAtomics c
  | .other => s
/-- SRAM_ERROR. -/
def execSramError (x : SramError) (s : State) : Host.Outcome State Fault Refusal :=
  runEvent (modify fun s =>
    if x.unc then (s.zeroPlace x.place).countSramu
    else s.setTrust fun t => { t with sramc := t.sramc + 1 }) s
/-- SERVICE_GROUP_RESTART. -/
def execServiceGroupRestart (cluster : Nat) (s : State) : Host.Outcome State Fault Refusal :=
  runEvent (modify fun s => s.modCluster cluster fun x => { x with faulted := false }) s
/-- HBM4E_ERROR: a word of device memory is counted, and when it cannot be corrected replaced by zero. -/
def execHbm4eError (line word : Nat) (unc : Bool) (s : State) : Host.Outcome State Fault Refusal :=
  runEvent (modify fun s =>
    if unc then ({ s with mem := memPutN s.mem (128 * line + 8 * (word % 16)) (List.replicate 8 0) }).countHbmu
    else s.setTrust fun t => { t with hbmc := t.hbmc + 1 }) s

end Sys2Proof.Machine
end

