-- ==== Sys2Proof/Machine/Lanes.lean ====
section
/-! DEFINITION. Cross-lane operations, dot products and the dual-shift multiply (04, R113 to R121). -/
namespace Sys2Proof.Machine

/-- A cross-lane word: every participant's sources are read, then each participant's result is formed from all of them (R113). -/
def laneWord (md : Option Modifier) (h : Hdr) (srcs : List Operand) (d : Operand) (lat : Nat)
    (f : Nat → (Nat → Option (List SVal)) → List SVal → M Nat) (s : State) : Host.Outcome State Fault Refusal :=
  runWordX { vecMeta md with lane := true } h (fun k => operands k (plainOps srcs) (some (d, none))) (fun on k a => do
    let s ← get
    let t := s.thr k
    let at' (l : Nat) : Option (List SVal) := (on.find? fun e => keyLane e.1 == l && (s.thr e.1).team == t.team && (s.thr e.1).grp == t.grp).map (·.2.1)
    let v ← f k at' a.1
    result k a.2 (low (fieldBits d) v) lat) s
/-- lshf and lbcast: sub-element j of lane L's A (R114, R115). -/
def shuffle (d a : Operand) (at' : Nat → Option (List SVal)) (own : List SVal) : Nat :=
  let b := (src own 1).v
  let j := bits b 5 4 % (fieldBits a / fieldBits d)
  let v := ((at' (bits b 0 5)).map fun l => (src l 0).zx).getD (src own 0).zx
  bits v (fieldBits d * j) (fieldBits d)
def execLshf (f : FmtM) (s : State) : Host.Outcome State Fault Refusal := laneWord f.mod f.hdr [f.a, f.b] f.d 3 (fun _ at' own => pure (shuffle f.d f.a at' own)) s
def execLbcast (f : FmtM) (s : State) : Host.Outcome State Fault Refusal := laneWord f.mod f.hdr [f.a, f.b] f.d 3 (fun _ at' own => pure (shuffle f.d f.a at' own)) s
/-- lrot: A of the lane that lies B further within the group's span (R116). -/
def execLrot (f : FmtM) (s : State) : Host.Outcome State Fault Refusal :=
  laneWord f.mod f.hdr [f.a, f.b] f.d 3 (fun k at' own => do
    let s ← get
    let g := s.groupOf k
    let base := g.base % 32
    let w := min g.width 32
    let off : Int := (keyLane k : Int) - base + toS 64 (src own 1).sx
    let l := base + (off % w).toNat
    return ((at' l).map fun x => (src x 0).zx).getD (src own 0).zx) s
/-- lvote (R117). -/
def voteOf (mode : Nat) (ps : List (Nat × Bool)) : Nat :=
  match mode with
  | 0 => ps.foldl (fun x p => if p.2 then x + 2 ^ p.1 else x) 0
  | 1 => b2n (ps.any (·.2))
  | 2 => b2n (ps.all (·.2))
  | _ => ps.foldl (fun x p => x + 2 ^ p.1) 0
def execLvote (f : FmtVM) (s : State) : Host.Outcome State Fault Refusal :=
  runWordX { vecMeta f.mod with lane := true } f.hdr (fun k => do
    let p ← readPSrc k f.a
    let r ← operands k [] (some (f.d, none))
    return (p, r.2)) (fun on k a => do
    let s ← get
    let t := s.thr k
    let ps := (on.filter fun e => (s.thr e.1).team == t.team && (s.thr e.1).grp == t.grp).map fun e => (keyLane e.1, e.2.1)
    result k a.2 (low (fieldBits f.d) (voteOf ((immOf f.b).getD 0).toNat ps)) 3) s

/-! ### Reduction and scan (R118, R119) -/

/-- Op on positions that may hold nothing. -/
def optOp (op : Nat → Nat → Nat) : Option Nat → Option Nat → Option Nat
  | some x, some y => some (op x y)
  | some x, none => some x
  | none, y => y
/-- Adjacent positions combined, the lower on the left. -/
def pairUp (op : Nat → Nat → Nat) : List (Option Nat) → List (Option Nat)
  | x :: y :: r => optOp op x y :: pairUp op r
  | l => l
/-- The tree of R118 over 32 lanes. -/
def redTree (op : Nat → Nat → Nat) (v : List (Option Nat)) : Option Nat :=
  ((pairUp op (pairUp op (pairUp op (pairUp op (pairUp op v))))).head?).join
/-- One doubling step of R119, all from the step's inputs. -/
def scanStep (op : Nat → Nat → Nat) (v : List (Option Nat)) (d : Nat) : List (Option Nat) :=
  v.zipIdx.map fun e => if d ≤ e.2 then optOp op ((v[e.2 - d]?).join) e.1 else e.1
def scanAll (op : Nat → Nat → Nat) (v : List (Option Nat)) : List (Option Nat) := [1, 2, 4, 8, 16].foldl (scanStep op) v
/-- The mode of lred.add and lscan.add: a thread default of stochastic acts as nearest-even, and takes no draw. Where the participants' defaults differ, each thread's result is rounded by its own (DESIGN CHOICE, log entry 42). -/
def laneMode (k : Nat) (md : Option Modifier) : M Nat := do
  let m ← roundMode k md
  return if m = 5 then 0 else m
/-- A pattern, a NaN as the canonical one (R165). -/
def canonF (f : Fmt) (x : Nat) : Nat := if (decF f x).isNan then f.nan else x
/-- A reduction or scan of each element position over the participants' lanes. -/
def foldLanes (t : FType) (md : Option Modifier) (h : Hdr) (a d : Operand) (lat : Nat) (op : Nat → Nat → Nat → Nat)
    (pick : (Nat → Nat → Nat) → List (Option Nat) → Nat → Option Nat) (s : State) : Host.Outcome State Fault Refusal :=
  laneWord md h [a] d lat (fun k at' _ => do
    let mode ← laneMode k md
    let w := ftBits t
    let n := fieldBits d / w
    let col (i : Nat) : List (Option Nat) := (List.range 32).map fun l => (at' l).map fun x => (elemsOf w n (intToF (ftFmt t)) (src x 0)).getD i 0
    return ofDigits w ((List.range n).map fun i => canonF (ftFmt t) ((pick (op mode) (col i) (keyLane k)).getD 0))) s
def pickRed (op : Nat → Nat → Nat) (v : List (Option Nat)) (_ : Nat) : Option Nat := redTree op v
def pickScan (op : Nat → Nat → Nat) (v : List (Option Nat)) (l : Nat) : Option Nat := ((scanAll op v)[l]?).join
def execLredAdd (t : FType) (f : FmtM) (s : State) : Host.Outcome State Fault Refusal := foldLanes t f.mod f.hdr f.a f.d 8 (fun m => addF (ftFmt t) m) pickRed s
def execLredMin (t : FType) (f : FmtM) (s : State) : Host.Outcome State Fault Refusal := foldLanes t f.mod f.hdr f.a f.d 8 (fun _ => minMaxF (ftFmt t) false) pickRed s
def execLredMax (t : FType) (f : FmtM) (s : State) : Host.Outcome State Fault Refusal := foldLanes t f.mod f.hdr f.a f.d 8 (fun _ => minMaxF (ftFmt t) true) pickRed s
def execLscanAdd (t : FType) (f : FmtM) (s : State) : Host.Outcome State Fault Refusal := foldLanes t f.mod f.hdr f.a f.d 10 (fun m => addF (ftFmt t) m) pickScan s
def execLscanMin (t : FType) (f : FmtM) (s : State) : Host.Outcome State Fault Refusal := foldLanes t f.mod f.hdr f.a f.d 10 (fun _ => minMaxF (ftFmt t) false) pickScan s
def execLscanMax (t : FType) (f : FmtM) (s : State) : Host.Outcome State Fault Refusal := foldLanes t f.mod f.hdr f.a f.d 10 (fun _ => minMaxF (ftFmt t) true) pickScan s

/-! ### Dot products and dual-shift multiply (R120, R121) -/

/-- The float format of a dot element; none for s8. -/
def dotFmt : DotType → Option Fmt
  | .f16 => some fmtF16
  | .bf16 => some fmtBf16
  | .e4m3 => some fmtE4m3
  | .e5m2 => some fmtE5m2
  | .s8 => none
/-- The elements of an operand as integers. -/
def intElems (w n : Nat) (x : SVal) : List Int := (elemsOf w n (ofI w) x).map (toS w)
/-- dot: the exact sum of all products and of c, rounded once to f32; or the s32 sum. negC on the integer c negates its value exactly, from -2^31 to 2^31, before the sum: the spec has no rule for neg on an integer C outside cvt (DESIGN CHOICE, log entry 42). -/
def dotOf (dt : DotType) (m : Modifier) (mode r n : Nat) (a b : SVal) (c : Option SVal) : Nat :=
  match dotFmt dt with
  | some f =>
    let el (x : SVal) := (elemsOf f.width n (intToF f) x).map (decF f)
    let cv := (c.elim [0] fun x => elemsOf 32 1 (intToF fmtF32) x).headD 0
    let c0 := decF fmtF32 (signMod fmtF32 false m.negC cv)
    let sum := (List.zipWith FVal.mul (el a) (el b)).foldl (FVal.add (mode = 3)) c0
    roundF fmtF32 mode r m.sat sum
  | none =>
    let c0 : Int := c.elim 0 fun x => toS 32 x.v
    let sum := (List.zipWith (· * ·) (intElems 8 n a) (intElems 8 n b)).foldl (· + ·) (if m.negC then -c0 else c0)
    if m.sat then satTo 32 true sum else ofI 32 sum
def execDot (dt : DotType) (f : FmtM) (s : State) : Host.Outcome State Fault Refusal :=
  fixedWord (vecMeta f.mod) f.hdr ([f.a, f.b] ++ cOps f.mod) f.d 5 (fun k vs => do
    let mode ← if (dotFmt dt).isSome then roundMode k f.mod else pure 0
    let rs ← drawsFor k mode 1
    return dotOf dt (f.mod.getD Modifier.none') mode (rs.headD 0) (fieldBits f.a / dotBits dt) (src vs 0) (src vs 1) vs[2]?) s
def halfFmt : HalfType → Fmt
  | .f16 => fmtF16
  | .bf16 => fmtBf16
/-- dsmul: a × w + c with ds8 weights, formed exactly and rounded once (R121). A zero weight is +0 (R168). The special operand sub gives weight i the bits of i (DESIGN CHOICE, log entry 42). -/
def execDsmul (h : HalfType) (f : FmtM) (s : State) : Host.Outcome State Fault Refusal :=
  fixedWord (vecMeta f.mod) f.hdr ([f.a, f.b] ++ cOps f.mod) f.d 4 (fun k vs => do
    let fm := halfFmt h
    let n := fieldBits f.d / 16
    let m := f.mod.getD Modifier.none'
    let a := (elemsOf 16 n (intToF fm) (src vs 0)).map (signMod fm m.absA m.negA)
    let b := elemsOf 8 n (ofI 8) (src vs 1)
    let c := ((vs[2]?).elim (List.replicate n 0) (elemsOf 16 n (intToF fm))).map (signMod fm m.absC m.negC)
    roundElems k fm f.mod (fun dn i => ((elemAt fm a i).mul (decDs8 (b.getD i 0))).add dn (elemAt fm c i)) n) s

end Sys2Proof.Machine
end

