-- ==== Sys2Proof/WellFormed.lean ====
section
/-! DEFINITION. Well-formed instructions: the syntax that the fields of a legal word make (R33, R40). The checks themselves are in Sys2Proof/Machine/Form.lean. -/
namespace Sys2Proof

/-- An instruction is well-formed when every condition that its fields decide holds; cvt's eight codes with equal types are unassigned (R49). -/
def Instr.WellFormed (i : Instr) : Prop := Machine.formOk i = true

end Sys2Proof
end

