-- ==== Sys2Proof/Decode.lean ====
section
/-! DEFINITION. The decoder and the encoder of the word formats (01, 02): total on any word, rejecting by name. -/
namespace Sys2Proof
open Machine

/-! ### Type codes -/

/-- The code of a type in Table 02-2, and the type of a code. -/
def itCode : IType → Nat
  | .s8 => 0
  | .z8 => 1
  | .s16 => 2
  | .z16 => 3
  | .s32 => 4
  | .z32 => 5
  | .s64 => 6
  | .z64 => 7
def itOf : Nat → Option IType
  | 0 => some .s8
  | 1 => some .z8
  | 2 => some .s16
  | 3 => some .z16
  | 4 => some .s32
  | 5 => some .z32
  | 6 => some .s64
  | 7 => some .z64
  | _ => none
/-- The code of a type in R43, and the type of a code. -/
def ftCode : FType → Nat
  | .f64 => 0
  | .f32 => 1
  | .f16 => 2
  | .bf16 => 3
def ftOf : Nat → Option FType
  | 0 => some .f64
  | 1 => some .f32
  | 2 => some .f16
  | 3 => some .bf16
  | _ => none
/-- The code of a type in R44, and the type of a code. -/
def scCode : Scope → Nat
  | .thread => 0
  | .team => 1
  | .core => 2
  | .cluster => 3
  | .stack => 4
  | .package => 5
  | .pod => 6
def scOf : Nat → Option Scope
  | 0 => some .thread
  | 1 => some .team
  | 2 => some .core
  | 3 => some .cluster
  | 4 => some .stack
  | 5 => some .package
  | 6 => some .pod
  | _ => none
/-- The code of a type in R49, and the type of a code. -/
def cvCode : CvtType → Nat
  | .f64 => 0
  | .f32 => 1
  | .f16 => 2
  | .bf16 => 3
  | .e4m3 => 4
  | .e5m2 => 5
  | .e2m1 => 6
  | .sint => 7
def cvOf : Nat → Option CvtType
  | 0 => some .f64
  | 1 => some .f32
  | 2 => some .f16
  | 3 => some .bf16
  | 4 => some .e4m3
  | 5 => some .e5m2
  | 6 => some .e2m1
  | 7 => some .sint
  | _ => none
/-- The code of a type in Table 02-6, and the type of a code. -/
def dtCode : DotType → Nat
  | .f16 => 0
  | .bf16 => 1
  | .s8 => 2
  | .e4m3 => 3
  | .e5m2 => 4
def dtOf : Nat → Option DotType
  | 0 => some .f16
  | 1 => some .bf16
  | 2 => some .s8
  | 3 => some .e4m3
  | 4 => some .e5m2
  | _ => none
/-- The code of a type in Table 02-6, and the type of a code. -/
def hfCode : HalfType → Nat
  | .f16 => 0
  | .bf16 => 1
def hfOf : Nat → Option HalfType
  | 0 => some .f16
  | 1 => some .bf16
  | _ => none
/-- The code of a type in R52, and the type of a code. -/
def dvCode : DistType → Nat
  | .f16 => 0
  | .bf16 => 1
  | .s8 => 2
  | .ds8 => 3
def dvOf : Nat → Option DistType
  | 0 => some .f16
  | 1 => some .bf16
  | 2 => some .s8
  | 3 => some .ds8
  | _ => none
/-- The code of a type in Table 02-9, and the type of a code. -/
def tgCode : ChTag → Nat
  | .addS32 => 0
  | .addS64 => 1
  | .addF32 => 2
  | .addF64 => 3
  | .addBf16x2 => 4
  | .addF16x2 => 5
  | .addQ32 => 6
  | .minS32 => 7
  | .minZ32 => 8
  | .minF32 => 9
  | .maxS32 => 10
  | .maxZ32 => 11
  | .maxF32 => 12
  | .and => 13
  | .or => 14
  | .xor => 15
def tgOf : Nat → Option ChTag
  | 0 => some .addS32
  | 1 => some .addS64
  | 2 => some .addF32
  | 3 => some .addF64
  | 4 => some .addBf16x2
  | 5 => some .addF16x2
  | 6 => some .addQ32
  | 7 => some .minS32
  | 8 => some .minZ32
  | 9 => some .minF32
  | 10 => some .maxS32
  | 11 => some .maxZ32
  | 12 => some .maxF32
  | 13 => some .and
  | 14 => some .or
  | 15 => some .xor
  | _ => none

/-! ### Fields -/

/-- The operand fields of an instruction word, by format. -/
inductive Fields where
  | a (f : FmtA) | m (f : FmtM) | p (f : FmtP) | pm (f : FmtPM) | q (f : FmtQ) | r (f : FmtR) | vm (f : FmtVM) | l (f : FmtL) | j (f : FmtJ) | t (f : FmtT)
deriving DecidableEq, Repr
/-- What an opcode selects: a format and the instruction that its fields make. -/
inductive OpForm where
  | a (mk : FmtA → Instr) | m (mk : FmtM → Instr) | p (mk : FmtP → Instr) | pm (mk : FmtPM → Instr) | q (mk : FmtQ → Instr)
  | r (mk : FmtR → Instr) | vm (mk : FmtVM → Instr) | l (mk : FmtL → Instr) | j (mk : FmtJ → Instr) | t (mk : FmtT → Instr)

/-- Opcode and fields of an instruction word; none for an event (Tables 02-3 to 02-10). -/
def wordOf : Instr → Option (Nat × Fields)
  | .iadd t f => some (0x000 + itCode t, .m f)
  | .isub t f => some (0x008 + itCode t, .m f)
  | .imul t f => some (0x010 + itCode t, .m f)
  | .imulh t f => some (0x018 + itCode t, .a f)
  | .imad t f => some (0x020 + itCode t, .m f)
  | .idiv t f => some (0x028 + itCode t, .a f)
  | .irem t f => some (0x030 + itCode t, .a f)
  | .imin t f => some (0x038 + itCode t, .a f)
  | .imax t f => some (0x040 + itCode t, .a f)
  | .iabs t f => some (0x048 + itCode t, .m f)
  | .ineg t f => some (0x050 + itCode t, .m f)
  | .icmp t f => some (0x058 + itCode t, .p f)
  | .sxt f => some (0x060, .a f)
  | .zxt f => some (0x061, .a f)
  | .mov f => some (0x062, .a f)
  | .movi f => some (0x063, .l f)
  | .lea f => some (0x064, .a f)
  | .isel f => some (0x065, .m f)
  | .shl f => some (0x068, .a f)
  | .shr f => some (0x069, .a f)
  | .sar f => some (0x06A, .a f)
  | .rot f => some (0x06B, .a f)
  | .land f => some (0x06C, .a f)
  | .lor f => some (0x06D, .a f)
  | .lxor f => some (0x06E, .a f)
  | .landn f => some (0x06F, .a f)
  | .popc f => some (0x070, .a f)
  | .clz f => some (0x071, .a f)
  | .ctz f => some (0x072, .a f)
  | .brev f => some (0x073, .a f)
  | .bfxS f => some (0x078, .m f)
  | .bfxZ f => some (0x079, .m f)
  | .bfi f => some (0x07A, .m f)
  | .ffcs f => some (0x07B, .a f)
  | .plset f => some (0x07C, .a f)
  | .perm f => some (0x07D, .a f)
  | .pset f => some (0x080, .p f)
  | .pand f => some (0x081, .q f)
  | .por f => some (0x082, .q f)
  | .pxor f => some (0x083, .q f)
  | .pmov f => some (0x084, .r f)
  | .bra f => some (0x100, .j f)
  | .brx f => some (0x101, .a f)
  | .call f => some (0x102, .j f)
  | .ret f => some (0x103, .a f)
  | .exit f => some (0x104, .a f)
  | .task f => some (0x105, .a f)
  | .yield f => some (0x106, .a f)
  | .winb f => some (0x107, .l f)
  | .nop f => some (0x108, .a f)
  | .trail f => some (0x3FF, .t f)
  | .ldRlx f => some (0x180, .a f)
  | .stRlx f => some (0x181, .a f)
  | .ldSc f => some (0x182, .a f)
  | .stSc f => some (0x183, .a f)
  | .ldx f => some (0x184, .a f)
  | .ldAcq sco f => some (0x188 + scCode sco, .a f)
  | .stRel sco f => some (0x190 + scCode sco, .a f)
  | .spill f => some (0x1A8, .a f)
  | .fill f => some (0x1A9, .a f)
  | .pf f => some (0x1AA, .a f)
  | .sbind f => some (0x1AB, .a f)
  | .fadd ty f => some (0x200 + ftCode ty, .m f)
  | .fsub ty f => some (0x204 + ftCode ty, .m f)
  | .fmul ty f => some (0x208 + ftCode ty, .m f)
  | .fma ty f => some (0x20C + ftCode ty, .m f)
  | .fms ty f => some (0x210 + ftCode ty, .m f)
  | .fnma ty f => some (0x214 + ftCode ty, .m f)
  | .fmin ty f => some (0x218 + ftCode ty, .m f)
  | .fmax ty f => some (0x21C + ftCode ty, .m f)
  | .fcmp ty f => some (0x220 + ftCode ty, .pm f)
  | .fdiv ty f => some (0x224 + ftCode ty, .m f)
  | .fsqrt ty f => some (0x228 + ftCode ty, .m f)
  | .frcp ty f => some (0x22C + ftCode ty, .m f)
  | .frsq ty f => some (0x230 + ftCode ty, .m f)
  | .fexp2 ty f => some (0x234 + ftCode ty, .m f)
  | .flog2 ty f => some (0x238 + ftCode ty, .m f)
  | .fsin ty f => some (0x23C + ftCode ty, .m f)
  | .fcos ty f => some (0x240 + ftCode ty, .m f)
  | .ftanh ty f => some (0x244 + ftCode ty, .m f)
  | .fsig ty f => some (0x248 + ftCode ty, .m f)
  | .fclass ty f => some (0x24C + ftCode ty, .m f)
  | .fround ty f => some (0x250 + ftCode ty, .m f)
  | .cvt td ts f => some (0x2C0 + 8 * cvCode td + cvCode ts, .m f)
  | .pack f => some (0x260, .m f)
  | .unpack f => some (0x261, .m f)
  | .lshf f => some (0x268, .m f)
  | .lbcast f => some (0x269, .m f)
  | .lrot f => some (0x26A, .m f)
  | .lvote f => some (0x26B, .vm f)
  | .lredAdd ty f => some (0x270 + ftCode ty, .m f)
  | .lredMin ty f => some (0x274 + ftCode ty, .m f)
  | .lredMax ty f => some (0x278 + ftCode ty, .m f)
  | .lscanAdd ty f => some (0x280 + ftCode ty, .m f)
  | .lscanMin ty f => some (0x284 + ftCode ty, .m f)
  | .lscanMax ty f => some (0x288 + ftCode ty, .m f)
  | .dot dt f => some (0x290 + dtCode dt, .m f)
  | .dsmul h f => some (0x298 + hfCode h, .m f)
  | .mma f => some (0x300, .a f)
  | .mwait f => some (0x301, .a f)
  | .mrow f => some (0x302, .a f)
  | .macc f => some (0x303, .a f)
  | .mzero f => some (0x304, .a f)
  | .cpy f => some (0x308, .a f)
  | .cpy2d f => some (0x309, .a f)
  | .cpyg f => some (0x30A, .a f)
  | .cvq f => some (0x30C, .a f)
  | .cvd f => some (0x30D, .a f)
  | .pinit f => some (0x310, .a f)
  | .pwait f => some (0x311, .a f)
  | .prelRelease f => some (0x312, .a f)
  | .prelLeave f => some (0x312, .a f)
  | .prelJoin f => some (0x312, .a f)
  | .pphase f => some (0x313, .a f)
  | .cbpass f => some (0x318, .a f)
  | .cbwait f => some (0x319, .a f)
  | .qfence f => some (0x31C, .a f)
  | .gsub f => some (0x320, .a f)
  | .gwait f => some (0x321, .a f)
  | .atmAdd f => some (0x340, .a f)
  | .atmMinS f => some (0x341, .a f)
  | .atmMinZ f => some (0x342, .a f)
  | .atmMaxS f => some (0x343, .a f)
  | .atmMaxZ f => some (0x344, .a f)
  | .atmAnd f => some (0x345, .a f)
  | .atmOr f => some (0x346, .a f)
  | .atmXor f => some (0x347, .a f)
  | .atmExch f => some (0x348, .a f)
  | .atmCas f => some (0x349, .a f)
  | .atmCas128 f => some (0x34A, .a f)
  | .atmBfi f => some (0x34B, .a f)
  | .atmFfcs f => some (0x34C, .a f)
  | .atmPlset f => some (0x34D, .a f)
  | .atmAddFloat ty f => some (0x34E + ftCode ty, .a f)
  | .atmMinFloat ty f => some (0x352 + ftCode ty, .a f)
  | .atmMaxFloat ty f => some (0x356 + ftCode ty, .a f)
  | .redAdd f => some (0x35A, .a f)
  | .redMinS f => some (0x35B, .a f)
  | .redMinZ f => some (0x35C, .a f)
  | .redMaxS f => some (0x35D, .a f)
  | .redMaxZ f => some (0x35E, .a f)
  | .redAnd f => some (0x35F, .a f)
  | .redOr f => some (0x360, .a f)
  | .redXor f => some (0x361, .a f)
  | .redAddFloat ty f => some (0x362 + ftCode ty, .a f)
  | .chup g f => some (0x370 + tgCode g, .a f)
  | .chfl f => some (0x366, .a f)
  | .fence f => some (0x367, .a f)
  | .sfence f => some (0x368, .a f)
  | .bar f => some (0x369, .a f)
  | .barw f => some (0x36A, .a f)
  | .twait f => some (0x36B, .a f)
  | .map f => some (0x36C, .a f)
  | .unmap f => some (0x36D, .a f)
  | .wopen f => some (0x36E, .a f)
  | .wclose f => some (0x36F, .a f)
  | .phreg f => some (0x380, .a f)
  | .phleave f => some (0x381, .a f)
  | .phsig f => some (0x382, .a f)
  | .phsigb f => some (0x383, .a f)
  | .phany f => some (0x384, .a f)
  | .phwait f => some (0x385, .a f)
  | .phtry f => some (0x386, .a f)
  | .phget f => some (0x387, .a f)
  | .fld f => some (0x388, .a f)
  | .fst f => some (0x389, .a f)
  | .fatm f => some (0x38A, .a f)
  | .bulk f => some (0x38B, .a f)
  | .acset f => some (0x38C, .a f)
  | .acwait f => some (0x38D, .a f)
  | .ffence f => some (0x38E, .a f)
  | .trap f => some (0x3B0, .a f)
  | .rfx f => some (0x3B1, .a f)
  | .brk f => some (0x3B2, .a f)
  | .sysrd f => some (0x3B3, .a f)
  | .syswr f => some (0x3B4, .a f)
  | .tlbinv f => some (0x3B5, .a f)
  | .cacheopClean f => some (0x3B6, .a f)
  | .cacheopFlush f => some (0x3B6, .a f)
  | .cacheopDrop f => some (0x3B6, .a f)
  | .cacheopZero f => some (0x3B6, .a f)
  | .cacheopL1all f => some (0x3B6, .a f)
  | .cacheopL2all f => some (0x3B6, .a f)
  | .cancel f => some (0x3B7, .a f)
  | .topk f => some (0x3BB, .a f)
  | .kmerge f => some (0x3BC, .a f)
  | .skim f => some (0x3BD, .a f)
  | .kfilt f => some (0x3BE, .p f)
  | .distL2 v f => some (0x3C0 + dvCode v, .a f)
  | .distIp v f => some (0x3C4 + dvCode v, .a f)
  | .distCos v f => some (0x3C8 + dvCode v, .a f)
  | _ => none

/-- The integer families, by family number (Table 02-3). -/
def intForm (t : IType) : Nat → Option OpForm
  | 0 => some (.m (.iadd t))
  | 1 => some (.m (.isub t))
  | 2 => some (.m (.imul t))
  | 3 => some (.a (.imulh t))
  | 4 => some (.m (.imad t))
  | 5 => some (.a (.idiv t))
  | 6 => some (.a (.irem t))
  | 7 => some (.a (.imin t))
  | 8 => some (.a (.imax t))
  | 9 => some (.m (.iabs t))
  | 10 => some (.m (.ineg t))
  | 11 => some (.p (.icmp t))
  | _ => none
/-- The float families, by family number (Table 02-6). -/
def floatForm (t : FType) : Nat → Option OpForm
  | 0 => some (.m (.fadd t))
  | 1 => some (.m (.fsub t))
  | 2 => some (.m (.fmul t))
  | 3 => some (.m (.fma t))
  | 4 => some (.m (.fms t))
  | 5 => some (.m (.fnma t))
  | 6 => some (.m (.fmin t))
  | 7 => some (.m (.fmax t))
  | 8 => some (.pm (.fcmp t))
  | 9 => some (.m (.fdiv t))
  | 10 => some (.m (.fsqrt t))
  | 11 => some (.m (.frcp t))
  | 12 => some (.m (.frsq t))
  | 13 => some (.m (.fexp2 t))
  | 14 => some (.m (.flog2 t))
  | 15 => some (.m (.fsin t))
  | 16 => some (.m (.fcos t))
  | 17 => some (.m (.ftanh t))
  | 18 => some (.m (.fsig t))
  | 19 => some (.m (.fclass t))
  | 20 => some (.m (.fround t))
  | _ => none
/-- The float families across lanes (Table 02-6). -/
def laneForm (t : FType) : Nat → Option OpForm
  | 0 => some (.m (.lredAdd t))
  | 1 => some (.m (.lredMin t))
  | 2 => some (.m (.lredMax t))
  | 4 => some (.m (.lscanAdd t))
  | 5 => some (.m (.lscanMin t))
  | 6 => some (.m (.lscanMax t))
  | _ => none
/-- The float atomics and reduction (Table 02-8). -/
def atomForm (t : FType) : Nat → Option OpForm
  | 0 => some (.a (.atmAddFloat t))
  | 1 => some (.a (.atmMinFloat t))
  | 2 => some (.a (.atmMaxFloat t))
  | 5 => some (.a (.redAddFloat t))
  | _ => none
/-- The distances (Table 02-10). -/
def distForm (t : DistType) : Nat → Option OpForm
  | 0 => some (.a (.distL2 t))
  | 1 => some (.a (.distIp t))
  | 2 => some (.a (.distCos t))
  | _ => none
/-- prel and cacheop carry their operation in the immediate B (R209, Table 21-3); any other B makes an instruction whose form is illegal. -/
def prelOf (f : FmtA) : Instr :=
  if f.b = .imm 1 then .prelLeave f else if f.b = .imm 2 then .prelJoin f else .prelRelease f
def cacheopOf (f : FmtA) : Instr :=
  if f.b = .imm 1 then .cacheopFlush f else if f.b = .imm 2 then .cacheopDrop f else if f.b = .imm 3 then .cacheopZero f
  else if f.b = .imm 4 then .cacheopL1all f else if f.b = .imm 5 then .cacheopL2all f else .cacheopClean f
/-- Single codes of Table 02-3. -/
def coreForm : Nat → Option OpForm
  | 0x060 => some (.a .sxt)
  | 0x061 => some (.a .zxt)
  | 0x062 => some (.a .mov)
  | 0x063 => some (.l .movi)
  | 0x064 => some (.a .lea)
  | 0x065 => some (.m .isel)
  | 0x068 => some (.a .shl)
  | 0x069 => some (.a .shr)
  | 0x06A => some (.a .sar)
  | 0x06B => some (.a .rot)
  | 0x06C => some (.a .land)
  | 0x06D => some (.a .lor)
  | 0x06E => some (.a .lxor)
  | 0x06F => some (.a .landn)
  | 0x070 => some (.a .popc)
  | 0x071 => some (.a .clz)
  | 0x072 => some (.a .ctz)
  | 0x073 => some (.a .brev)
  | 0x078 => some (.m .bfxS)
  | 0x079 => some (.m .bfxZ)
  | 0x07A => some (.m .bfi)
  | 0x07B => some (.a .ffcs)
  | 0x07C => some (.a .plset)
  | 0x07D => some (.a .perm)
  | 0x080 => some (.p .pset)
  | 0x081 => some (.q .pand)
  | 0x082 => some (.q .por)
  | 0x083 => some (.q .pxor)
  | 0x084 => some (.r .pmov)
  | _ => none
/-- Single codes of Tables 02-4 and 02-5. -/
def controlForm : Nat → Option OpForm
  | 0x100 => some (.j .bra)
  | 0x101 => some (.a .brx)
  | 0x102 => some (.j .call)
  | 0x103 => some (.a .ret)
  | 0x104 => some (.a .exit)
  | 0x105 => some (.a .task)
  | 0x106 => some (.a .yield)
  | 0x107 => some (.l .winb)
  | 0x108 => some (.a .nop)
  | 0x180 => some (.a .ldRlx)
  | 0x181 => some (.a .stRlx)
  | 0x182 => some (.a .ldSc)
  | 0x183 => some (.a .stSc)
  | 0x184 => some (.a .ldx)
  | 0x1A8 => some (.a .spill)
  | 0x1A9 => some (.a .fill)
  | 0x1AA => some (.a .pf)
  | 0x1AB => some (.a .sbind)
  | _ => none
/-- Single codes of Table 02-6. -/
def vectorForm : Nat → Option OpForm
  | 0x260 => some (.m .pack)
  | 0x261 => some (.m .unpack)
  | 0x268 => some (.m .lshf)
  | 0x269 => some (.m .lbcast)
  | 0x26A => some (.m .lrot)
  | 0x26B => some (.vm .lvote)
  | _ => none
/-- Codes of Table 02-7. -/
def engineForm : Nat → Option OpForm
  | 0x300 => some (.a .mma)
  | 0x301 => some (.a .mwait)
  | 0x302 => some (.a .mrow)
  | 0x303 => some (.a .macc)
  | 0x304 => some (.a .mzero)
  | 0x308 => some (.a .cpy)
  | 0x309 => some (.a .cpy2d)
  | 0x30A => some (.a .cpyg)
  | 0x30C => some (.a .cvq)
  | 0x30D => some (.a .cvd)
  | 0x310 => some (.a .pinit)
  | 0x311 => some (.a .pwait)
  | 0x312 => some (.a prelOf)
  | 0x313 => some (.a .pphase)
  | 0x318 => some (.a .cbpass)
  | 0x319 => some (.a .cbwait)
  | 0x31C => some (.a .qfence)
  | 0x320 => some (.a .gsub)
  | 0x321 => some (.a .gwait)
  | _ => none
/-- Single codes of Table 02-8. -/
def atomicForm : Nat → Option OpForm
  | 0x340 => some (.a .atmAdd)
  | 0x341 => some (.a .atmMinS)
  | 0x342 => some (.a .atmMinZ)
  | 0x343 => some (.a .atmMaxS)
  | 0x344 => some (.a .atmMaxZ)
  | 0x345 => some (.a .atmAnd)
  | 0x346 => some (.a .atmOr)
  | 0x347 => some (.a .atmXor)
  | 0x348 => some (.a .atmExch)
  | 0x349 => some (.a .atmCas)
  | 0x34A => some (.a .atmCas128)
  | 0x34B => some (.a .atmBfi)
  | 0x34C => some (.a .atmFfcs)
  | 0x34D => some (.a .atmPlset)
  | 0x35A => some (.a .redAdd)
  | 0x35B => some (.a .redMinS)
  | 0x35C => some (.a .redMinZ)
  | 0x35D => some (.a .redMaxS)
  | 0x35E => some (.a .redMaxZ)
  | 0x35F => some (.a .redAnd)
  | 0x360 => some (.a .redOr)
  | 0x361 => some (.a .redXor)
  | 0x366 => some (.a .chfl)
  | 0x367 => some (.a .fence)
  | 0x368 => some (.a .sfence)
  | 0x369 => some (.a .bar)
  | 0x36A => some (.a .barw)
  | 0x36B => some (.a .twait)
  | 0x36C => some (.a .map)
  | 0x36D => some (.a .unmap)
  | 0x36E => some (.a .wopen)
  | 0x36F => some (.a .wclose)
  | _ => none
/-- Single codes of Table 02-10. -/
def systemForm : Nat → Option OpForm
  | 0x380 => some (.a .phreg)
  | 0x381 => some (.a .phleave)
  | 0x382 => some (.a .phsig)
  | 0x383 => some (.a .phsigb)
  | 0x384 => some (.a .phany)
  | 0x385 => some (.a .phwait)
  | 0x386 => some (.a .phtry)
  | 0x387 => some (.a .phget)
  | 0x388 => some (.a .fld)
  | 0x389 => some (.a .fst)
  | 0x38A => some (.a .fatm)
  | 0x38B => some (.a .bulk)
  | 0x38C => some (.a .acset)
  | 0x38D => some (.a .acwait)
  | 0x38E => some (.a .ffence)
  | 0x3B0 => some (.a .trap)
  | 0x3B1 => some (.a .rfx)
  | 0x3B2 => some (.a .brk)
  | 0x3B3 => some (.a .sysrd)
  | 0x3B4 => some (.a .syswr)
  | 0x3B5 => some (.a .tlbinv)
  | 0x3B6 => some (.a cacheopOf)
  | 0x3B7 => some (.a .cancel)
  | 0x3BB => some (.a .topk)
  | 0x3BC => some (.a .kmerge)
  | 0x3BD => some (.a .skim)
  | 0x3BE => some (.p .kfilt)
  | _ => none
/-- A typed family's form at an offset from its base, with blocks of a size. -/
def famAt {α : Type} (ty : Nat → Option α) (fam : α → Nat → Option OpForm) (size off : Nat) : Option OpForm :=
  match ty (off % size) with
  | none => none
  | some t => fam t (off / size)
/-- What an opcode selects; none for a code that no table assigns (R40). -/
def opForm (op : Nat) : Option OpForm :=
  if op < 0x60 then famAt itOf intForm 8 op
  else if op < 0x100 then coreForm op
  else if 0x188 ≤ op && op < 0x190 then (scOf (op - 0x188)).map fun s => .a (.ldAcq s)
  else if 0x190 ≤ op && op < 0x198 then (scOf (op - 0x190)).map fun s => .a (.stRel s)
  else if op < 0x200 then controlForm op
  else if op < 0x254 then famAt ftOf floatForm 4 (op - 0x200)
  else if 0x270 ≤ op && op < 0x290 then famAt ftOf laneForm 4 (op - 0x270)
  else if 0x290 ≤ op && op < 0x298 then (dtOf (op - 0x290)).map fun t => .m (.dot t)
  else if 0x298 ≤ op && op < 0x2A0 then (hfOf (op - 0x298)).map fun t => .m (.dsmul t)
  else if op < 0x2C0 then vectorForm op
  else if op < 0x300 then
    match cvOf ((op - 0x2C0) / 8), cvOf ((op - 0x2C0) % 8) with
    | some d, some e => if d = e then none else some (.m (.cvt d e))
    | _, _ => none
  else if op < 0x340 then engineForm op
  else if (0x34E ≤ op && op < 0x35A) || (0x362 ≤ op && op < 0x366) then famAt ftOf atomForm 4 (op - 0x34E)
  else if 0x370 ≤ op && op < 0x380 then (tgOf (op - 0x370)).map fun g => .a (.chup g)
  else if op < 0x380 then atomicForm op
  else if 0x3C0 ≤ op && op < 0x3E0 then famAt dvOf distForm 4 (op - 0x3C0)
  else if op < 0x3E0 then systemForm op
  else if op = 0x3FF then some (.t .trail)
  else none

/-! ### Decoding -/

/-- A field of a word. -/
def fld' (w : Word) (lo n : Nat) : BitVec n := w.extractLsb' lo n
/-- The opcode of a word (R9). -/
def wordOp (w : Word) : Nat := (fld' w 54 10).toNat
/-- The opcodes of the modifier and the trailer (R14, R16). -/
def opModifier : Nat := 0x3FE
def opTrailer : Nat := 0x3FF
/-- An operand field (Table 01-5). -/
def decOperand (x : BitVec 15) : Operand :=
  if x.extractLsb' 13 2 = 0 then .slice (x.extractLsb' 3 10) (x.extractLsb' 0 3)
  else if x.extractLsb' 13 2 = 1 then .special (x.extractLsb' 3 10) (x.extractLsb' 0 3)
  else if x.extractLsb' 13 2 = 2 then .indexed (x.extractLsb' 11 2) (x.extractLsb' 3 8) (x.extractLsb' 0 3)
  else .imm (x.extractLsb' 0 13)
/-- Guard and stall or counter field (R9, R13). -/
def decHdr (w : Word) : Hdr := { guard := { neg := fld' w 53 1 = 1, pred := fld' w 48 5 }, sc := fld' w 45 3 }
/-- A predicate destination field (Table 03-3). -/
def decPDst (x : BitVec 15) : PDst := { pa := x.extractLsb' 10 5, pb := x.extractLsb' 5 5, cond := x.extractLsb' 0 5 }
/-- A predicate source field; none when its zero bits are not zero (Table 03-4). -/
def decPSrc (x : BitVec 15) : Option PSrc :=
  if x.extractLsb' 6 9 = 0 then some { neg := x.extractLsb' 5 1 = 1, pred := x.extractLsb' 0 5 } else none
/-- A modifier word; none when its zero bits are not zero (Table 01-3). -/
def decModifier (w : Word) : Option Modifier :=
  if fld' w 0 21 = 0 then
    some { c := decOperand (fld' w 39 15), sat := fld' w 38 1 = 1, clamp := fld' w 36 2, negA := fld' w 35 1 = 1, absA := fld' w 34 1 = 1,
           negB := fld' w 33 1 = 1, absB := fld' w 32 1 = 1, negC := fld' w 31 1 = 1, absC := fld' w 30 1 = 1, scale := fld' w 24 6, round := fld' w 21 3 }
  else none
/-- The D, A and B fields of a Format A word (Table 01-1). -/
def fldD (w : Word) : BitVec 15 := fld' w 30 15
def fldA (w : Word) : BitVec 15 := fld' w 15 15
def fldB (w : Word) : BitVec 15 := fld' w 0 15
/-- The instruction that a word's fields make under a form, with a modifier; none for a nonzero zero field. -/
def build (w : Word) (md : Option Modifier) : OpForm → Option Instr
  | .a mk => some (mk { hdr := decHdr w, d := decOperand (fldD w), a := decOperand (fldA w), b := decOperand (fldB w) })
  | .m mk => some (mk { hdr := decHdr w, d := decOperand (fldD w), a := decOperand (fldA w), b := decOperand (fldB w), mod := md })
  | .p mk => some (mk { hdr := decHdr w, d := decPDst (fldD w), a := decOperand (fldA w), b := decOperand (fldB w) })
  | .pm mk => some (mk { hdr := decHdr w, d := decPDst (fldD w), a := decOperand (fldA w), b := decOperand (fldB w), mod := md })
  | .q mk => match decPSrc (fldA w), decPSrc (fldB w) with
    | some a, some b => some (mk { hdr := decHdr w, d := decPDst (fldD w), a := a, b := b })
    | _, _ => none
  | .r mk => match decPSrc (fldA w) with
    | some a => some (mk { hdr := decHdr w, d := decPDst (fldD w), a := a, b := decOperand (fldB w) })
    | none => none
  | .vm mk => match decPSrc (fldA w) with
    | some a => some (mk { hdr := decHdr w, d := decOperand (fldD w), a := a, b := decOperand (fldB w), mod := md })
    | none => none
  | .l mk => some (mk { hdr := decHdr w, d := decOperand (fldD w), imm := fld' w 0 30 })
  | .j mk => some (mk { hdr := decHdr w, link := fld' w 40 5, off := fld' w 0 40 })
  | .t mk => if fld' w 0 10 = 0 then
      some (mk { len := fld' w 49 5, wait := fld' w 41 8, yld := fld' w 40 1 = 1, pub0 := decOperand (fld' w 25 15), pub1 := decOperand (fld' w 10 15) })
    else none
/-- The branch class (R25). -/
def isBranch : Instr → Bool
  | .bra _ | .brx _ | .call _ | .ret _ | .exit _ | .rfx _ => true
  | _ => false
/-- What a word decodes to: an instruction of one or two words, or a rejection by name (Table 01-9). -/
inductive Decoded where
  | ok (i : Instr) (words : Nat) | illegalOpcode | illegalForm
deriving DecidableEq, Repr
/-- The decoder: a word, and the word after it, which decides whether a modifier is attached and whether a branch stands last. A modifier that may not be attached is left to trap at its own word, and the instruction stands without it (log entry 11). -/
def decode (w next : Word) : Decoded :=
  match opForm (wordOp w) with
  | none => if wordOp w = opModifier then .illegalForm else .illegalOpcode
  | some fm =>
    match build w none fm with
    | none => .illegalForm
    | some i =>
      if !formOk i then .illegalForm
      else if isBranch i && wordOp next != opTrailer && wordOp next != opModifier then .illegalForm
      else match honours i with
        | none => .ok i 1
        | some h =>
          if wordOp next = opModifier then
            match decModifier next with
            | none => .ok i 1
            | some m =>
              if modOk h m then
                match build w (some m) fm with
                | none => .illegalForm
                | some i' => if formOk i' then .ok i' 2 else .illegalForm
              else .ok i 1
          else .ok i 1
/-- Whether decoding a word looks at the word after it. -/
def needsNext (w : Word) : Bool :=
  match opForm (wordOp w) with
  | some (.m _) => true
  | some (.pm _) => true
  | some (.vm _) => true
  | some (.j _) => true
  | some (.a _) => [0x101, 0x103, 0x104, 0x3B1].contains (wordOp w)
  | _ => false

/-! ### Encoding -/

def bit1 (b : Bool) : BitVec 1 := BitVec.ofBool b
/-- The bits of an operand field (Table 01-5). -/
def encOperand : Operand → BitVec 15
  | .slice s w => (0#2 ++ s ++ w : BitVec 15)
  | .special c w => (1#2 ++ c ++ w : BitVec 15)
  | .indexed x o w => (2#2 ++ x ++ o ++ w : BitVec 15)
  | .imm v => (3#2 ++ v : BitVec 15)
def encHdr (h : Hdr) : BitVec 9 := (bit1 h.guard.neg ++ h.guard.pred ++ h.sc : BitVec 9)
def encPDst (d : PDst) : BitVec 15 := (d.pa ++ d.pb ++ d.cond : BitVec 15)
def encPSrc (p : PSrc) : BitVec 15 := (0#9 ++ bit1 p.neg ++ p.pred : BitVec 15)
def encModifier (m : Modifier) : Word :=
  (BitVec.ofNat 10 opModifier ++ encOperand m.c ++ bit1 m.sat ++ m.clamp ++ bit1 m.negA ++ bit1 m.absA ++ bit1 m.negB ++ bit1 m.absB ++ bit1 m.negC
    ++ bit1 m.absC ++ m.scale ++ m.round ++ 0#21 : BitVec 64)
/-- A Format A word of an opcode. -/
def encA (op : Nat) (h : Hdr) (d a b : BitVec 15) : Word := (BitVec.ofNat 10 op ++ encHdr h ++ d ++ a ++ b : BitVec 64)
/-- The word of an opcode and its fields, without a modifier. -/
def encFields (op : Nat) : Fields → Word
  | .a f => encA op f.hdr (encOperand f.d) (encOperand f.a) (encOperand f.b)
  | .m f => encA op f.hdr (encOperand f.d) (encOperand f.a) (encOperand f.b)
  | .p f => encA op f.hdr (encPDst f.d) (encOperand f.a) (encOperand f.b)
  | .pm f => encA op f.hdr (encPDst f.d) (encOperand f.a) (encOperand f.b)
  | .q f => encA op f.hdr (encPDst f.d) (encPSrc f.a) (encPSrc f.b)
  | .r f => encA op f.hdr (encPDst f.d) (encPSrc f.a) (encOperand f.b)
  | .vm f => encA op f.hdr (encOperand f.d) (encPSrc f.a) (encOperand f.b)
  | .l f => (BitVec.ofNat 10 op ++ encHdr f.hdr ++ encOperand f.d ++ f.imm : BitVec 64)
  | .j f => (BitVec.ofNat 10 op ++ encHdr f.hdr ++ f.link ++ f.off : BitVec 64)
  | .t f => (BitVec.ofNat 10 op ++ f.len ++ f.wait ++ bit1 f.yld ++ encOperand f.pub0 ++ encOperand f.pub1 ++ 0#10 : BitVec 64)
/-- The modifier among an instruction's fields. -/
def fieldsMod : Fields → Option Modifier
  | .m f => f.mod
  | .pm f => f.mod
  | .vm f => f.mod
  | _ => none
/-- The words of an instruction, first word first; an event has none. -/
def encode (i : Instr) : List Word :=
  match wordOf i with
  | none => []
  | some (op, f) => encFields op f :: ((fieldsMod f).map encModifier).toList

/-! ### The host's question -/

/-- A trailer that closes a run of one instruction and waits for nothing. -/
def plainTrailer : Word := encFields opTrailer (.t { len := 1, wait := 0, yld := false, pub0 := opZero, pub1 := opZero })
/-- The instruction whose bits are w, bit 0 the least significant of the first word. The word after the given bits is a trailer, as a run asks. -/
def decodeTableWord (nbits w : Nat) : Option Instr :=
  match decode (BitVec.ofNat 64 w) (if nbits ≤ 64 then plainTrailer else BitVec.ofNat 64 (w / 2 ^ 64)) with
  | .ok i _ => some i
  | _ => none

end Sys2Proof
end

