-- ==== Sys2Proof/Machine/Search.lean ====
section
/-! DEFINITION. Distances, candidate lists, skim lists and the post-filter (21, R390 to R397). -/
namespace Sys2Proof.Machine

def searchMeta : Meta := { var := true, roles := vecRoles }

/-! ### Distances (R390) -/

/-- The value of one element of a distance. -/
def distElem : DistType → Nat → FVal
  | .f16, x => decF fmtF16 x
  | .bf16, x => decF fmtBf16 x
  | .s8, x => FVal.ofInt (toS 8 x)
  | .ds8, x => decDs8 x
/-- The element of the special operand sub: the number i in a float or integer type, and its bits for ds8, of which R20 says nothing (DESIGN CHOICE, log entry 42). -/
def distIndex : DistType → Nat → FVal
  | .f16, i => decF fmtF16 (intToF fmtF16 i)
  | .bf16, i => decF fmtBf16 (intToF fmtBf16 i)
  | .s8, i => FVal.ofInt i
  | .ds8, i => decDs8 i
/-- The elements of a distance operand; sub gives their indices (R20). -/
def distElems (v : DistType) (n : Nat) (x : SVal) : List FVal :=
  if x.sub then (List.range (n / distBits v)).map (distIndex v) else (digits (distBits v) (n / distBits v) x.v).map (distElem v)
/-- An f32 accumulator with terms added exactly, rounded once to nearest-even. -/
def distSum (acc : Nat) (terms : List FVal) : Nat := roundF fmtF32 0 0 false (terms.foldl (FVal.add false) (decF fmtF32 (low 32 acc)))
/-- A distance word: the result from the accumulator and the elements of A and B. -/
def distWord (v : DistType) (f : FmtA) (r : Nat → List FVal → List FVal → Nat) (s : State) : Host.Outcome State Fault Refusal :=
  runWord { roles := vecRoles } f.hdr (fun k => do
    let (vs, dst) ← operandsRw k (plainOps [f.a, f.b]) (plainOp f.d)
    let n := fieldBits f.a
    result k dst (r (src vs 2).v (distElems v n (src vs 0)) (distElems v n (src vs 1))) 5) s
def execDistL2 (v : DistType) (f : FmtA) (s : State) : Host.Outcome State Fault Refusal :=
  distWord v f (fun d a b => distSum d (List.zipWith (fun x y => let e := x.add false y.neg; e.mul e) a b)) s
def execDistIp (v : DistType) (f : FmtA) (s : State) : Host.Outcome State Fault Refusal :=
  distWord v f (fun d a b => distSum d (List.zipWith (fun x y => (x.mul y).neg) a b)) s
def execDistCos (v : DistType) (f : FmtA) (s : State) : Host.Outcome State Fault Refusal :=
  distWord v f (fun d a b => distSum d (List.zipWith FVal.mul a b) + 2 ^ 32 * distSum (d / 2 ^ 32) (b.map fun x => x.mul x)) s

/-! ### Candidates (R391) -/

/-- The quad that marks an empty entry. -/
def sentinel : Nat := 2 ^ 64 - 1
/-- Id of a candidate. -/
def candId (c : Nat) : Nat := bits c 32 32
/-- The order of candidates: by key, then by id; NaN keys equal and last, the sentinel after everything. -/
def candLt (a b : Nat) : Bool :=
  let x := decF fmtF32 (low 32 a)
  let y := decF fmtF32 (low 32 b)
  if a = sentinel then false
  else if b = sentinel then true
  else if x.lt y || (!x.isNan && y.isNan) then true
  else if x.eqv y || (x.isNan && y.isNan) then candId a < candId b
  else false
/-- The procedure of topk on a list of k entries: the list after it, status, rank, and whether n is written. -/
def topkInsert (k c : Nat) (l : List Nat) : List Nat × Nat × Nat × Bool :=
  if candId c = 2 ^ 32 - 1 || !candLt c (l.getD (k - 1) sentinel) then (l, 1, k, true)
  else match takeFirst (fun e => candId e == candId c) l with
    | some (e, r) =>
      if candLt c e then
        let l := r ++ [sentinel]
        ((insertBy candLt c l).take k, 0, (l.takeWhile fun x => !candLt c x).length, true)
      else (l, 1, k, false)
    | none => ((insertBy candLt c l).take k, 0, (l.takeWhile fun x => !candLt c x).length, true)
/-- Entries that are not sentinels. -/
def liveEntries (l : List Nat) : Nat := (l.filter (· != sentinel)).length

/-! ### Scratchpad lists (R391, R392) -/

/-- A scratchpad list: its entries, or none when its header is bad; alignment, aperture and bound are checked. -/
def readList (k va : Nat) : M (Option (List Nat)) := do
  checkAlign va 8
  let s ← get
  if va < aperture || apertureEnd ≤ va then throw (.trap 12 0 (wd va) (det1Of 3 0 (s.ctxOf k) 0) 0 0)
  else
    let h ← loadPlain k va 8
    let n := low 8 (ofLe h)
    if bits (ofLe h) 16 48 ≠ 0 || n = 0 || 64 < n then return none
    else
      let b ← loadPlain k va (8 + 8 * n)
      return some (digits 64 n (ofLe b / 2 ^ 64))
/-- A scratchpad list written back with its count. -/
def writeList (k va : Nat) (l : List Nat) (n : Nat) : M Unit :=
  storePiece k va (leBytes 8 (l.length + 256 * n) ++ leBytes (8 * l.length) (ofDigits 64 l)) false .rlx
/-- topk: slice form with an immediate B, scratchpad form with a register B (R392). -/
def execTopk (f : FmtA) (s : State) : Host.Outcome State Fault Refusal :=
  runWord searchMeta f.hdr (fun k => do
    roomFor k f.hdr
    if isImm f.b then
      let n := immNat f.b
      let (vs, dst) ← operandsRw k [plainOp f.a] (descOp f.d n)
      let r := topkInsert n (src vs 0).zx (digits 64 n (src vs 1).v)
      later k f.hdr dst (ofDigits 64 r.1)
    else
      let (vs, dst) ← operands k (plainOps [f.a, f.b]) (some (plainOp f.d))
      let va := (src vs 1).zx
      let l ← readList k va
      match l with
      | none => later k f.hdr dst (2 * 2 ^ 60)
      | some l =>
        let r := topkInsert l.length (src vs 0).zx l
        if r.2.2.2 then writeList k va r.1 (liveEntries r.1) else pure ()
        later k f.hdr dst (r.2.1 * 2 ^ 60 + r.2.2.1)) s
where
  /-- The immediate of a word as a number. -/
  immNat (o : Operand) : Nat := ((immOf o).getD 0).toNat

/-! ### kmerge (R393) -/

/-- A quad loaded, or stored, as a relaxed access of the thread. -/
def loadQuad (k va : Nat) : M Nat := do
  let b ← loadPieceX k (low 64 va) 8 true .rlx false
  return ofLe b
def storeQuad (k va v : Nat) : M Unit := storePiece k (low 64 va) (leBytes 8 v) true .rlx
/-- The merge: indices into the two lists, ids written so far; it answers how many entries were written. -/
def mergeLoop (k s1 n1 s2 n2 dst kout : Nat) : Nat → Nat → Nat → List Nat → M Nat
  | 0, _, _, ids => return ids.length
  | n + 1, i, j, ids =>
    if kout ≤ ids.length || (n1 ≤ i && n2 ≤ j) then return ids.length
    else do
      let x ← if i < n1 then loadQuad k (s1 + 8 * i) else pure 0
      let y ← if j < n2 then loadQuad k (s2 + 8 * j) else pure 0
      let first : Bool := j ≥ n2 || (i < n1 && !candLt y x)
      let c := if first then x else y
      let i' := if first then i + 1 else i
      let j' := if first then j else j + 1
      if candId c = 2 ^ 32 - 1 || ids.contains (candId c) then mergeLoop k s1 n1 s2 n2 dst kout n i' j' ids
      else
        storeQuad k (dst + 8 * ids.length) c
        mergeLoop k s1 n1 s2 n2 dst kout n i' j' (candId c :: ids)
/-- Whether two ranges of bytes have a byte in common. -/
def spansMeet (a n b m : Nat) : Bool := 0 < n && 0 < m && a < b + m && b < a + n
def execKmerge (f : FmtA) (s : State) : Host.Outcome State Fault Refusal :=
  runWord searchMeta f.hdr (fun k => do
    roomFor k f.hdr
    let (vs, dst) ← operands k [descOp f.a 4] (some (plainOp f.d))
    let q (i : Nat) : Nat := quadOf (src vs 0) i
    let n1 := bits (q 3) 48 16
    let n2 := bits (q 3) 32 16
    let kout := low 18 (q 3)
    if bits (q 3) 18 14 ≠ 0 || kout = 0 || 131070 < kout || q 0 % 8 ≠ 0 || q 1 % 8 ≠ 0 || q 2 % 8 ≠ 0
        || spansMeet (q 2) (8 * kout) (q 0) (8 * n1) || spansMeet (q 2) (8 * kout) (q 1) (8 * n2) then
      later k f.hdr dst (3 * 2 ^ 60)
    else
      let m ← mergeLoop k (q 0) n1 (q 1) n2 (q 2) kout (n1 + n2 + 1) 0 0 []
      forM' (List.range (kout - m)) fun e => storeQuad k (q 2 + 8 * (m + e)) sentinel
      later k f.hdr dst m) s

/-! ### Skim lists (R394, R395) -/

/-- The device memory that n bytes of a skim list lie in; anywhere else is a protection fault (R252). -/
def skimPlace (k va n : Nat) : M Nat := do
  let p ← locateAtom k va n 3
  ownOrder k p n
  order k true false
  let s ← get
  match p with
  | .dev pa =>
    if s.mapWriteOk (lineOf pa) (keyCore k) (some (s.thr k).team) then return pa
    else throw (.trap 12 0 (wd va) (det1Of 3 0 (s.ctxOf k) 0) 0 0)
  | _ => throw (.trap 12 0 (wd va) (det1Of 3 0 (s.ctxOf k) 0) 0 0)
/-- A result that a service group returns through a slot of the thread's lane (R253). -/
def returned (k : Nat) (h : Hdr) (d : Dest) (v : Nat) : M Unit := do
  let _ ← issueVar k h.sc.toNat d v 1 none .time true none srcReturn
  pure ()
/-- skim: one entry appended at the service group of the header's home cluster in its turn, then the count released at package scope. A narrower S is zero-extended (R151). -/
def execSkim (f : FmtA) (s : State) : Host.Outcome State Fault Refusal :=
  runWord searchMeta f.hdr (fun k => do
    roomFor k f.hdr
    let (vs, dst) ← operands k [plainOp f.a, descOp f.b 2] (some (plainOp f.d))
    let va := (src vs 0).zx
    let e0 := quadOf (src vs 1) 0
    let e1 := quadOf (src vs 1) 1
    checkAlign va 128
    let pa ← skimPlace k va 16
    let s ← get
    if s.atomFull k 3 pa 16 false then holdM
    else
      raceCheck k va pa true false 3
      snoopSectors pa 16 true
      homeOwn (lineOf pa)
      let h ← homeRead pa 16
      let cap := low 32 (ofLe h)
      let n := bits (ofLe h) 64 32
      if cap ≤ n then returned k f.hdr dst (2 ^ 60)
      else if bits e0 32 31 ≠ 0 || (!bitAt e0 63 && e1 = 0) then returned k f.hdr dst (2 * 2 ^ 60)
      else
        let ea := low 64 (va + 128 + 16 * n)
        let ep ← skimPlace k ea 16
        raceCheck k ea ep true false 3
        let w ← view fun s => (s.core (keyCore k)).clock
        homeWrite ep (leBytes 8 e0 ++ leBytes 8 e1)
        let s ← get
        let tag := s.tagOf (s.thr k).team
        modify fun s => s.recordWrite (lineOf ep) tag w .plain
        let r ← takeSerial (keyCore k)
        homeWrite (pa + 8) (leBytes 4 (n + 1))
        modify fun s => s.recordWrite (lineOf pa) tag r (.sync true 5)
        returned k f.hdr dst n) s

/-! ### Post-filter (R396) -/

/-- The latest entry of a skim list that names each id: pairs of id and tombstone, latest first. -/
def skimEntries (k sa : Nat) : Nat → Nat → M (List (Nat × Bool))
  | 0, _ => return []
  | n + 1, i => do
    let a := low 64 (sa + 128 + 16 * i)
    checkAlign a 8
    let b ← loadPieceX k a 8 true .rlx false
    let r ← skimEntries k sa n (i + 1)
    return r ++ [(low 32 (ofLe b), bitAt (ofLe b) 63)]
/-- The bitmap's answer for an id. -/
def bitmapHas (k bm len id : Nat) : M Bool :=
  if len = 0 then return true
  else if len ≤ id then return false
  else do
    let b ← loadPieceX k (low 64 (bm + id / 8)) 1 true .rlx false
    return bitAt (ofLe b) (id % 8)
/-- A part of a word whose acquires count for nothing when it stops short: entry and clock are as before (R397: nothing is performed). -/
def undoAcquires {α : Type} (k : Nat) (m : M α) : M α := fun s =>
  match m s with
  | (.error e, s') =>
    let i := (s.thr k).team
    (.error e, (s'.modTeam i fun t => { t with acq := (s.team i).acq }).modCore (keyCore k) fun c => { c with clock := (s.core (keyCore k)).clock })
  | r => r
/-- What kfilt reads: the entries below the count that it acquires, and the candidates of the list that the filter keeps. -/
def kfiltReads (k bm len sl : Nat) (es : List Nat) : M (List Nat) := undoAcquires k do
  let n ← if sl = 0 then pure 0 else do
    checkAlign (low 64 (sl + 8)) 4
    let b ← loadPieceX k (low 64 (sl + 8)) 4 true { acq := some 5, rel := none } false
    pure (ofLe b)
  let tombs ← skimEntries k sl n 0
  let has ← mapM' (fun e => bitmapHas k bm len (candId e)) es
  let keep (e : Nat × Bool) : Bool := e.2 && !((tombs.find? fun t => t.1 == candId e.1).elim false (·.2))
  return ((es.zip has).filter keep).map (·.1)
def execKfilt (f : FmtP) (s : State) : Host.Outcome State Fault Refusal :=
  runWord searchMeta f.hdr (fun k => do
    roomFor k f.hdr
    let (vs, _) ← operands k [plainOp f.a, descOp f.b 3] none
    coverPreds k f.d
    let va := (src vs 0).zx
    let q (i : Nat) : Nat := quadOf (src vs 1) i
    let dst : Dest := .preds f.d.pa.toNat f.d.pb.toNat
    let l ← readList k va
    let out ← kfiltReads k (q 0) (q 1) (q 2) ((l.getD []).filter (· != sentinel))
    match l with
    | none => later k f.hdr dst 1
    | some l =>
      writeList k va (out ++ List.replicate (l.length - out.length) sentinel) out.length
      later k f.hdr dst (b2n (out.length < l.length))) s

end Sys2Proof.Machine
end

