-- ==== Sys2Proof/Machine/Picker.lean ====
section
/-! DEFINITION. One cycle of the machine: time moves on, the units that act by themselves act, what falls due is put on the agenda, and the picker of each core chooses the gangs that issue (R27, R80, R141 to R143, R385). -/
namespace Sys2Proof.Machine

/-! ### Read ports and queues (Table 06-4) -/

/-- The read ports that an operand of n quads, or of one item when n is 1, takes of its bank. -/
def portsOf (n : Nat) : Operand → Nat
  | .slice _ _ => n
  | .indexed _ _ _ => n
  | _ => 0
/-- The quads that A names where it names more than one (R186). -/
def quadsA (op : Nat) : Nat :=
  if [0x300, 0x309, 0x30C, 0x30D, 0x38B, 0x3BC].contains op then 4
  else if op = 0x308 then 3
  else if op = 0x30A then 5
  else if op = 0x310 || op = 0x36C then 2
  else 1
/-- The quads that B names where it names more than one (R256, R311, R395, R396). -/
def quadsB (op : Nat) : Nat := if [0x34A, 0x38A, 0x3BD].contains op then 2 else if op = 0x3BE then 3 else 1
/-- How many items of D an instruction reads at issue: stored data, addresses of spill and fill, compare values and masks, a list, an accumulator. -/
def itemsD (op : Nat) (b : Operand) : Nat :=
  if op = 0x181 || op = 0x183 || (0x190 ≤ op && op < 0x198) || op = 0x1A8 || op = 0x1A9 || op = 0x389 || op = 0x38A
      || op = 0x349 || op = 0x34B || op = 0x376 || (0x3C0 ≤ op && op < 0x3E0) then 1
  else if op = 0x34A then 2
  else if op = 0x3BB then ((immOf b).getD 0).toNat
  else 0
/-- The read ports of C. -/
def portsC (m : Option Modifier) : Nat := (m.map fun x => portsOf 1 x.c).getD 0
/-- The read ports that an instruction takes for each member on its bank (Table 06-4). -/
def readPorts (i : Instr) : Nat :=
  match wordOf i with
  | none => 0
  | some (op, x) => match x with
    | .a f => (if op = 0x1A9 then 0 else portsOf (quadsA op) f.a) + portsOf (quadsB op) f.b + portsOf (itemsD op f.b) f.d
    | .m f => portsOf 1 f.a + portsOf 1 f.b + portsC f.mod
    | .p f => portsOf 1 f.a + portsOf (quadsB op) f.b
    | .pm f => portsOf 1 f.a + portsOf 1 f.b + portsC f.mod
    | .vm f => portsOf 1 f.b + portsC f.mod
    | _ => 0
/-- The shared queue that an opcode enters, if any: memory pipe 0, engine command port 1, atomic and synchronisation queue 2, phaser and fabric port 3, system and search port 4. -/
def issuePort (op : Nat) : Option Nat :=
  if (0x180 ≤ op && op < 0x200) || op = 0x105 then some 0
  else if 0x300 ≤ op && op < 0x340 then some 1
  else if 0x340 ≤ op && op < 0x380 then some 2
  else if 0x380 ≤ op && op < 0x3B0 then some 3
  else if 0x3B0 ≤ op && op < 0x3E0 then some 4
  else none
/-- How many instructions a queue takes in a cycle. -/
def portCapacity (u : Nat) : Nat := if u = 0 then 2 else 1
/-- The word that a gang issues next and the word after it, as far as its lowest member can fetch them; the fetch leaves no trace. -/
def State.peek (s : State) (g : Gang) : Decoded :=
  match g.members.find? fun k => !g.done.contains k with
  | none => .illegalOpcode
  | some k =>
    match fetchWord k g.pc.toNat s, fetchWord k (g.pc + 8).toNat s with
    | (.ok w, _), (.ok n, _) => decode (wd w) (wd n)
    | (.ok w, _), _ => decode (wd w) plainTrailer
    | _, _ => .illegalOpcode
/-- Bank reads and queue entries given out in a cycle. -/
structure Used where
  banks : Tbl Nat
  ports : Tbl Nat
deriving DecidableEq, Repr
/-- Whether an instruction of a gang fits beside those admitted, and what is then used. An instruction that is alone on a bank fits it. -/
def Used.takes (u : Used) (lanes : List Nat) (d : Decoded) : Option Used :=
  match d with
  | .ok i _ =>
    let r := readPorts i
    let port := (wordOf i).bind fun x => issuePort x.1
    if (0 < r && lanes.any fun l => 0 < dget 0 u.banks l && 8 < dget 0 u.banks l + r)
        || (port.elim false fun p => portCapacity p ≤ dget 0 u.ports p) then none
    else
      let banks := lanes.foldl (fun b l => dset 0 b l (dget 0 b l + r)) u.banks
      some { banks := banks, ports := port.elim u.ports fun p => dset 0 u.ports p (dget 0 u.ports p + 1) }
  | _ => some u

/-! ### Ranking and gathering (R141) -/

/-- The lowest slot of a gang. -/
def Gang.low (g : Gang) : Nat := g.members.foldl min (2 ^ 50)
/-- Ranking of live gangs: run start, then the port of the previous cycle, then the lowest slot. -/
def Gang.before (a b : Gang) : Bool :=
  let p (g : Gang) : Nat := g.port.getD 4
  a.runStart < b.runStart || (a.runStart == b.runStart && (p a < p b || (p a == p b && a.low < b.low)))
/-- A thread that waits Ready at a word for a solo gang, with the tick that ranks it. -/
def Thread.soloAt (t : Thread) : Option Nat := if t.status == .ready then t.resume else none
/-- Whether a Ready thread at a run head is a candidate: its yield, if any, has no team-mate left to wait for (R80). -/
def Thread.candidate (t : Thread) : Bool := t.status == .ready && t.resume.isNone && t.yielded.elim true fun y => y.mates.isEmpty
/-- The code object that a thread's gang must share, with its launch. -/
def State.codeOf (s : State) (k : Nat) : Word := (s.groupOf k).code
/-- A candidate head: code object, named by its context and address, and run-head address; its threads by stamp and slot; whether the oldest carries the yield bit. -/
structure Head where
  ctx : Nat
  code : Word
  pc : Word
  threads : List (Nat × Nat)
  last : Bool
deriving DecidableEq, Repr
/-- A thread added to the heads. -/
def addHead (l : List Head) (ctx : Nat) (code pc : Word) (e : Nat × Nat) : List Head :=
  if l.any fun h => h.ctx == ctx && h.code == code && h.pc == pc then
    l.map fun h => if h.ctx == ctx && h.code == code && h.pc == pc then { h with threads := h.threads ++ [e] } else h
  else l ++ [{ ctx := ctx, code := code, pc := pc, threads := [e], last := false }]
/-- The order of threads at a head: stamp, then slot. -/
def olderThread (a b : Nat × Nat) : Bool := a.1 < b.1 || (a.1 == b.1 && a.2 < b.2)
/-- A head's oldest stamp and its lowest slot. -/
def Head.rank (h : Head) : Nat × Nat := (h.threads.foldl (fun m e => min m e.1) (2 ^ 200), h.threads.foldl (fun m e => min m e.2) (2 ^ 50))
def Head.before (a b : Head) : Bool := olderThread a.rank b.rank
/-- The order in which gangs form: heads that a yield bit ranks last come after the others (R16). -/
def Head.best (a b : Head) : Bool := (!a.last && b.last) || (a.last == b.last && a.before b)
/-- The candidate heads of a core, those with the earliest oldest stamp first. -/
def State.heads (s : State) (c : Nat) : List Head :=
  let ks := s.threads.filter fun e => keyCore e.1 == c && e.2.candidate
  let hs := ks.foldl (fun l e => addHead l (s.ctxOf e.1) (s.codeOf e.1) e.2.pc (e.2.stamp, e.1)) []
  let mark (h : Head) : Head :=
    { h with threads := sortBy olderThread h.threads, last := (minBy olderThread h.threads).elim false fun e => (s.thr e.2).yieldBit }
  sortBy Head.before (hs.map mark)
/-- One thread of each home lane, the oldest stamp first. -/
def perLane : List (Nat × Nat) → List Nat → List Nat
  | [], acc => acc
  | e :: r, acc => if acc.any fun k => keyLane k == keyLane e.2 then perLane r acc else perLane r (acc ++ [e.2])
/-- Threads picked: gathered, and no longer waited for by team-mates under yield (R80). -/
def State.gathered (s : State) (ks : List Nat) : State :=
  let s : State := ks.foldl (fun s k => s.modThr k fun t => { t with status := .gathered, resume := none, yielded := none }) s
  let wait (e : Nat × Thread) : Nat × Thread := (e.1, { e.2 with yielded := e.2.yielded.map fun y => { y with mates := y.mates.filter fun k => !ks.contains k } })
  { s with threads := s.threads.map wait }
/-- The live gangs of a core. -/
def State.gangsOf (s : State) (c : Nat) : Tbl Gang := s.gangs.filter fun e => e.2.core == c
/-- A gang formed. -/
def State.form (s : State) (g : Gang) : State :=
  let s' : State := s.gathered g.members
  { s' with gangs := tset s'.gangs s'.nextId g, nextId := s'.nextId + 1 }
/-- The threads that wait for a solo gang get one, in the order of their ticks, while fewer than 128 gangs are live (R141, R385). -/
def State.formSolos (s : State) (c : Nat) : State :=
  let ws := (s.threads.filter fun e => keyCore e.1 == c).filterMap fun e => e.2.soloAt.map fun t => (t, e.1)
  (sortBy olderThread ws).foldl (fun s w =>
    if Config.liveGangs ≤ (s.gangsOf c).length then s
    else
      let t := s.thr w.2
      s.form { core := c, launch := (s.team t.team).launch, code := s.codeOf w.2, members := [w.2], runStart := w.1, pc := t.pc,
               nextIssue := s.now, count := 0, fromHead := false, solo := true, port := none, done := [], held := false }) s
/-- The launch of the oldest thread at a head: the gang formed there takes threads of that launch only (R141). -/
def State.launchAt (s : State) (h : Head) : Nat := h.threads.head?.elim 0 fun e => (s.team (s.thr e.2).team).launch
/-- Gangs formed at the best remaining heads, while fewer than four are chosen and fewer than 128 live: the state and the gangs chosen. -/
def formHeads (c : Nat) : Nat → List Head → State → List Nat → State × List Nat
  | 0, _, s, chosen => (s, chosen)
  | n + 1, hs, s, chosen =>
    if 4 ≤ chosen.length || Config.liveGangs ≤ (s.gangsOf c).length then (s, chosen)
    else match minBy Head.best (hs.filter fun h => !h.threads.isEmpty) with
      | none => (s, chosen)
      | some h =>
        let ms := perLane (h.threads.filter fun e => (s.team (s.thr e.2).team).launch == s.launchAt h) []
        let g : Gang := { core := c, launch := s.launchAt h, code := h.code, members := sortBy (fun a b => decide (a < b)) ms, runStart := s.now, pc := h.pc,
                          nextIssue := s.now, count := 0, fromHead := true, solo := false, port := none, done := [], held := false }
        let rest (x : Head) : Head := { x with threads := x.threads.filter fun e => !ms.contains e.2 }
        let id := s.nextId
        formHeads c n (hs.map rest) (s.form g) (chosen ++ [id])
/-- The yield bits of the threads at candidate heads are spent (R16, R141). -/
def State.spendBits (s : State) (hs : List Head) : State :=
  (hs.flatMap (·.threads)).foldl (fun s e => s.modThr e.2 fun t => { t with yieldBit := false }) s
/-- The gangs chosen that are admitted: by run start, then port letter (R143). -/
def State.admitted (s : State) (chosen : List Nat) : List Nat :=
  let order (a b : Nat × Gang) : Bool := a.2.runStart < b.2.runStart || (a.2.runStart == b.2.runStart && a.2.port.getD 4 < b.2.port.getD 4)
  let gs := sortBy order (chosen.filterMap fun id => (tget s.gangs id).map fun g => (id, g))
  (gs.foldl (fun (r : Used × List Nat) e =>
    let lanes := (e.2.members.filter fun k => !e.2.done.contains k).map keyLane
    match r.1.takes lanes (s.peek e.2) with
    | some u => (u, r.2 ++ [e.1])
    | none => r) ({ banks := [], ports := [] }, [])).2
/-- The picker of a core in one cycle, over the 64 candidate heads considered; the admitted gangs join the issue queue (R141, R143). Behind them the gangs held at their word try it, without a port and without effect; one that nothing holds any more is ranked from the next cycle on (DEDUCED, log entry 38). The bound of R144 is not enforced beside these rules (DEDUCED, log entry 38). -/
def State.pickCore (s : State) (c : Nat) : State :=
  let s : State := s.formSolos c
  let due := sortBy (fun a b => a.2.before b.2) ((s.gangsOf c).filter fun e => e.2.nextIssue ≤ s.now)
  let live := due.filter fun e => !e.2.held
  let held := (due.filter fun e => e.2.held).map (·.1)
  let hs := s.heads c
  let r := formHeads c 4 (hs.take 64) s ((live.take 4).map (·.1))
  let s : State := r.1.spendBits hs
  let chosen := r.2
  let port (e : Nat × Gang) : Nat × Gang :=
    if e.2.core == c then (e.1, { e.2 with port := if chosen.contains e.1 then some (chosen.idxOf e.1) else none }) else e
  let s : State := { s with gangs := s.gangs.map port }
  { s with issueQ := s.issueQ ++ s.admitted chosen ++ held }
/-- The cores on which a thread stands. -/
def State.busyCores (s : State) : List Nat := (List.range Config.cores).filter fun c => s.threads.any fun e => keyCore e.1 == c
/-- The picker of every core. -/
def State.pick (s : State) : State := s.busyCores.foldl State.pickCore s

/-! ### The cycle -/

/-- Time moves on by one cycle: the pod time base advances by 1 a nanosecond, and no core's clock stays below it (R7, R231). -/
def State.tick (s : State) : State :=
  let n := s.podTick + Config.ticksPerCycle
  let t := s.podTime + n / Config.ticksPerNs
  let c (e : Nat × Core) : Nat × Core := (e.1, { e.2 with clock := clkMax e.2.clock (low 50 t), tbase := low 50 t })
  { s with now := s.now + Config.ticksPerCycle, podTime := t, podTick := n % Config.ticksPerNs, cores := s.cores.map c }
/-- Yields whose team-mates are no longer Ready wait for them no more (R80). -/
def State.settleYields (s : State) : State :=
  let f (e : Nat × Thread) : Nat × Thread :=
    (e.1, { e.2 with yielded := e.2.yielded.map fun y => { y with mates := y.mates.filter fun k => (s.thr k).status == .ready } })
  { s with threads := s.threads.map f }
/-- The waits of killed threads that still run to their trailer end, those that they have begun since the kill too (R459; DEDUCED, log entry 42). -/
def State.endKilled (s : State) : State := ((s.threads.filter fun e => e.2.killed).map (·.1)).foldl (fun s k => s.endWaits k) s
/-- A part of the cycle that a hold does not stop. -/
def part (m : M Unit) : M Unit := orElse m (fun _ => pure ()) (fun _ => pure ())
/-- The units that act by themselves: engines, bulk transfers, guest port, waiting packets, queue engine, fault records, victim buffers, placement, links. -/
def unitsTick : M Unit := do
  let s ← get
  forM' (s.teams.filter fun e => e.2.placed) fun e => part (asParty (partyEngine e.1) (engineTick e.1))
  part (asParty partyBulk bulkTick)
  part (asParty partyGuest guestTick)
  part stalledTick
  part (asParty partyQueue queueTick)
  modify fun s => s.endKilled.ageMisses.drainVictims.markRoom.linksTick.settleYields
/-- Everything that is due. -/
def State.due (s : State) : List Instr :=
  s.threads.flatMap (fun e => s.threadDue e.1 e.2) ++ s.teams.flatMap (fun e => s.teamDue e.1 ++ s.engineDue e.1)
    ++ s.faultDue ++ s.guestDue ++ s.placeDue ++ s.queueDue ++ s.fabricDue ++ s.belayDue ++ s.scDue
/-- PICKER_CYCLE: one cycle. -/
def execPickerCycle (s : State) : Host.Outcome State Fault Refusal :=
  runEvent (do
    modify State.tick
    unitsTick
    modify fun s => ({ s with agenda := s.agenda ++ s.due } : State).pick) s

end Sys2Proof.Machine
end

