-- ==== Sys2Proof/Machine/Dispatch.lean ====
section
/-! DEFINITION. The dispatch of every constructor of Instr to its meaning. -/
namespace Sys2Proof.Machine

/-- The meaning of an instruction or event. -/
def exec (i : Instr) (s : State) : Host.Outcome State Fault Refusal :=
  match i with
  | .iadd t f => Sys2Proof.Machine.execIadd t f s
  | .isub t f => Sys2Proof.Machine.execIsub t f s
  | .imul t f => Sys2Proof.Machine.execImul t f s
  | .imulh t f => Sys2Proof.Machine.execImulh t f s
  | .imad t f => Sys2Proof.Machine.execImad t f s
  | .idiv t f => Sys2Proof.Machine.execIdiv t f s
  | .irem t f => Sys2Proof.Machine.execIrem t f s
  | .imin t f => Sys2Proof.Machine.execImin t f s
  | .imax t f => Sys2Proof.Machine.execImax t f s
  | .iabs t f => Sys2Proof.Machine.execIabs t f s
  | .ineg t f => Sys2Proof.Machine.execIneg t f s
  | .icmp t f => Sys2Proof.Machine.execIcmp t f s
  | .sxt f => Sys2Proof.Machine.execSxt f s
  | .zxt f => Sys2Proof.Machine.execZxt f s
  | .mov f => Sys2Proof.Machine.execMov f s
  | .movi f => Sys2Proof.Machine.execMovi f s
  | .lea f => Sys2Proof.Machine.execLea f s
  | .isel f => Sys2Proof.Machine.execIsel f s
  | .shl f => Sys2Proof.Machine.execShl f s
  | .shr f => Sys2Proof.Machine.execShr f s
  | .sar f => Sys2Proof.Machine.execSar f s
  | .rot f => Sys2Proof.Machine.execRot f s
  | .land f => Sys2Proof.Machine.execLand f s
  | .lor f => Sys2Proof.Machine.execLor f s
  | .lxor f => Sys2Proof.Machine.execLxor f s
  | .landn f => Sys2Proof.Machine.execLandn f s
  | .popc f => Sys2Proof.Machine.execPopc f s
  | .clz f => Sys2Proof.Machine.execClz f s
  | .ctz f => Sys2Proof.Machine.execCtz f s
  | .brev f => Sys2Proof.Machine.execBrev f s
  | .bfxS f => Sys2Proof.Machine.execBfxS f s
  | .bfxZ f => Sys2Proof.Machine.execBfxZ f s
  | .bfi f => Sys2Proof.Machine.execBfi f s
  | .ffcs f => Sys2Proof.Machine.execFfcs f s
  | .plset f => Sys2Proof.Machine.execPlset f s
  | .perm f => Sys2Proof.Machine.execPerm f s
  | .pset f => Sys2Proof.Machine.execPset f s
  | .pand f => Sys2Proof.Machine.execPand f s
  | .por f => Sys2Proof.Machine.execPor f s
  | .pxor f => Sys2Proof.Machine.execPxor f s
  | .pmov f => Sys2Proof.Machine.execPmov f s
  | .bra f => Sys2Proof.Machine.execBra f s
  | .brx f => Sys2Proof.Machine.execBrx f s
  | .call f => Sys2Proof.Machine.execCall f s
  | .ret f => Sys2Proof.Machine.execRet f s
  | .exit f => Sys2Proof.Machine.execExit f s
  | .task f => Sys2Proof.Machine.execTask f s
  | .yield f => Sys2Proof.Machine.execYield f s
  | .winb f => Sys2Proof.Machine.execWinb f s
  | .nop f => Sys2Proof.Machine.execNop f s
  | .trail f => Sys2Proof.Machine.execTrail f s
  | .ldRlx f => Sys2Proof.Machine.execLdRlx f s
  | .stRlx f => Sys2Proof.Machine.execStRlx f s
  | .ldSc f => Sys2Proof.Machine.execLdSc f s
  | .stSc f => Sys2Proof.Machine.execStSc f s
  | .ldx f => Sys2Proof.Machine.execLdx f s
  | .ldAcq sco f => Sys2Proof.Machine.execLdAcq sco f s
  | .stRel sco f => Sys2Proof.Machine.execStRel sco f s
  | .spill f => Sys2Proof.Machine.execSpill f s
  | .fill f => Sys2Proof.Machine.execFill f s
  | .pf f => Sys2Proof.Machine.execPf f s
  | .sbind f => Sys2Proof.Machine.execSbind f s
  | .fadd ty f => Sys2Proof.Machine.execFadd ty f s
  | .fsub ty f => Sys2Proof.Machine.execFsub ty f s
  | .fmul ty f => Sys2Proof.Machine.execFmul ty f s
  | .fma ty f => Sys2Proof.Machine.execFma ty f s
  | .fms ty f => Sys2Proof.Machine.execFms ty f s
  | .fnma ty f => Sys2Proof.Machine.execFnma ty f s
  | .fmin ty f => Sys2Proof.Machine.execFmin ty f s
  | .fmax ty f => Sys2Proof.Machine.execFmax ty f s
  | .fcmp ty f => Sys2Proof.Machine.execFcmp ty f s
  | .fdiv ty f => Sys2Proof.Machine.execFdiv ty f s
  | .fsqrt ty f => Sys2Proof.Machine.execFsqrt ty f s
  | .frcp ty f => Sys2Proof.Machine.execFrcp ty f s
  | .frsq ty f => Sys2Proof.Machine.execFrsq ty f s
  | .fexp2 ty f => Sys2Proof.Machine.execFexp2 ty f s
  | .flog2 ty f => Sys2Proof.Machine.execFlog2 ty f s
  | .fsin ty f => Sys2Proof.Machine.execFsin ty f s
  | .fcos ty f => Sys2Proof.Machine.execFcos ty f s
  | .ftanh ty f => Sys2Proof.Machine.execFtanh ty f s
  | .fsig ty f => Sys2Proof.Machine.execFsig ty f s
  | .fclass ty f => Sys2Proof.Machine.execFclass ty f s
  | .fround ty f => Sys2Proof.Machine.execFround ty f s
  | .cvt td ts f => Sys2Proof.Machine.execCvt td ts f s
  | .pack f => Sys2Proof.Machine.execPack f s
  | .unpack f => Sys2Proof.Machine.execUnpack f s
  | .lshf f => Sys2Proof.Machine.execLshf f s
  | .lbcast f => Sys2Proof.Machine.execLbcast f s
  | .lrot f => Sys2Proof.Machine.execLrot f s
  | .lvote f => Sys2Proof.Machine.execLvote f s
  | .lredAdd ty f => Sys2Proof.Machine.execLredAdd ty f s
  | .lredMin ty f => Sys2Proof.Machine.execLredMin ty f s
  | .lredMax ty f => Sys2Proof.Machine.execLredMax ty f s
  | .lscanAdd ty f => Sys2Proof.Machine.execLscanAdd ty f s
  | .lscanMin ty f => Sys2Proof.Machine.execLscanMin ty f s
  | .lscanMax ty f => Sys2Proof.Machine.execLscanMax ty f s
  | .dot dt f => Sys2Proof.Machine.execDot dt f s
  | .dsmul h f => Sys2Proof.Machine.execDsmul h f s
  | .mma f => Sys2Proof.Machine.execMma f s
  | .mwait f => Sys2Proof.Machine.execMwait f s
  | .mrow f => Sys2Proof.Machine.execMrow f s
  | .macc f => Sys2Proof.Machine.execMacc f s
  | .mzero f => Sys2Proof.Machine.execMzero f s
  | .cpy f => Sys2Proof.Machine.execCpy f s
  | .cpy2d f => Sys2Proof.Machine.execCpy2d f s
  | .cpyg f => Sys2Proof.Machine.execCpyg f s
  | .cvq f => Sys2Proof.Machine.execCvq f s
  | .cvd f => Sys2Proof.Machine.execCvd f s
  | .pinit f => Sys2Proof.Machine.execPinit f s
  | .pwait f => Sys2Proof.Machine.execPwait f s
  | .prelRelease f => Sys2Proof.Machine.execPrelRelease f s
  | .prelLeave f => Sys2Proof.Machine.execPrelLeave f s
  | .prelJoin f => Sys2Proof.Machine.execPrelJoin f s
  | .pphase f => Sys2Proof.Machine.execPphase f s
  | .cbpass f => Sys2Proof.Machine.execCbpass f s
  | .cbwait f => Sys2Proof.Machine.execCbwait f s
  | .qfence f => Sys2Proof.Machine.execQfence f s
  | .gsub f => Sys2Proof.Machine.execGsub f s
  | .gwait f => Sys2Proof.Machine.execGwait f s
  | .atmAdd f => Sys2Proof.Machine.execAtmAdd f s
  | .atmMinS f => Sys2Proof.Machine.execAtmMinS f s
  | .atmMinZ f => Sys2Proof.Machine.execAtmMinZ f s
  | .atmMaxS f => Sys2Proof.Machine.execAtmMaxS f s
  | .atmMaxZ f => Sys2Proof.Machine.execAtmMaxZ f s
  | .atmAnd f => Sys2Proof.Machine.execAtmAnd f s
  | .atmOr f => Sys2Proof.Machine.execAtmOr f s
  | .atmXor f => Sys2Proof.Machine.execAtmXor f s
  | .atmExch f => Sys2Proof.Machine.execAtmExch f s
  | .atmCas f => Sys2Proof.Machine.execAtmCas f s
  | .atmCas128 f => Sys2Proof.Machine.execAtmCas128 f s
  | .atmBfi f => Sys2Proof.Machine.execAtmBfi f s
  | .atmFfcs f => Sys2Proof.Machine.execAtmFfcs f s
  | .atmPlset f => Sys2Proof.Machine.execAtmPlset f s
  | .atmAddFloat ty f => Sys2Proof.Machine.execAtmAddFloat ty f s
  | .atmMinFloat ty f => Sys2Proof.Machine.execAtmMinFloat ty f s
  | .atmMaxFloat ty f => Sys2Proof.Machine.execAtmMaxFloat ty f s
  | .redAdd f => Sys2Proof.Machine.execRedAdd f s
  | .redMinS f => Sys2Proof.Machine.execRedMinS f s
  | .redMinZ f => Sys2Proof.Machine.execRedMinZ f s
  | .redMaxS f => Sys2Proof.Machine.execRedMaxS f s
  | .redMaxZ f => Sys2Proof.Machine.execRedMaxZ f s
  | .redAnd f => Sys2Proof.Machine.execRedAnd f s
  | .redOr f => Sys2Proof.Machine.execRedOr f s
  | .redXor f => Sys2Proof.Machine.execRedXor f s
  | .redAddFloat ty f => Sys2Proof.Machine.execRedAddFloat ty f s
  | .chup g f => Sys2Proof.Machine.execChup g f s
  | .chfl f => Sys2Proof.Machine.execChfl f s
  | .fence f => Sys2Proof.Machine.execFence f s
  | .sfence f => Sys2Proof.Machine.execSfence f s
  | .bar f => Sys2Proof.Machine.execBar f s
  | .barw f => Sys2Proof.Machine.execBarw f s
  | .twait f => Sys2Proof.Machine.execTwait f s
  | .map f => Sys2Proof.Machine.execMap f s
  | .unmap f => Sys2Proof.Machine.execUnmap f s
  | .wopen f => Sys2Proof.Machine.execWopen f s
  | .wclose f => Sys2Proof.Machine.execWclose f s
  | .phreg f => Sys2Proof.Machine.execPhreg f s
  | .phleave f => Sys2Proof.Machine.execPhleave f s
  | .phsig f => Sys2Proof.Machine.execPhsig f s
  | .phsigb f => Sys2Proof.Machine.execPhsigb f s
  | .phany f => Sys2Proof.Machine.execPhany f s
  | .phwait f => Sys2Proof.Machine.execPhwait f s
  | .phtry f => Sys2Proof.Machine.execPhtry f s
  | .phget f => Sys2Proof.Machine.execPhget f s
  | .fld f => Sys2Proof.Machine.execFld f s
  | .fst f => Sys2Proof.Machine.execFst f s
  | .fatm f => Sys2Proof.Machine.execFatm f s
  | .bulk f => Sys2Proof.Machine.execBulk f s
  | .acset f => Sys2Proof.Machine.execAcset f s
  | .acwait f => Sys2Proof.Machine.execAcwait f s
  | .ffence f => Sys2Proof.Machine.execFfence f s
  | .trap f => Sys2Proof.Machine.execTrap f s
  | .rfx f => Sys2Proof.Machine.execRfx f s
  | .brk f => Sys2Proof.Machine.execBrk f s
  | .sysrd f => Sys2Proof.Machine.execSysrd f s
  | .syswr f => Sys2Proof.Machine.execSyswr f s
  | .tlbinv f => Sys2Proof.Machine.execTlbinv f s
  | .cacheopClean f => Sys2Proof.Machine.execCacheopClean f s
  | .cacheopFlush f => Sys2Proof.Machine.execCacheopFlush f s
  | .cacheopDrop f => Sys2Proof.Machine.execCacheopDrop f s
  | .cacheopZero f => Sys2Proof.Machine.execCacheopZero f s
  | .cacheopL1all f => Sys2Proof.Machine.execCacheopL1all f s
  | .cacheopL2all f => Sys2Proof.Machine.execCacheopL2all f s
  | .cancel f => Sys2Proof.Machine.execCancel f s
  | .topk f => Sys2Proof.Machine.execTopk f s
  | .kmerge f => Sys2Proof.Machine.execKmerge f s
  | .skim f => Sys2Proof.Machine.execSkim f s
  | .kfilt f => Sys2Proof.Machine.execKfilt f s
  | .distL2 v f => Sys2Proof.Machine.execDistL2 v f s
  | .distIp v f => Sys2Proof.Machine.execDistIp v f s
  | .distCos v f => Sys2Proof.Machine.execDistCos v f s
  | .pickerCycle => Sys2Proof.Machine.execPickerCycle s
  | .fixedLatencyWriteback th => Sys2Proof.Machine.execFixedLatencyWriteback th s
  | .variableLatencyCompletion th dc => Sys2Proof.Machine.execVariableLatencyCompletion th dc s
  | .heldRelease th => Sys2Proof.Machine.execHeldRelease th s
  | .yieldExpiry th => Sys2Proof.Machine.execYieldExpiry th s
  | .teamPlacement => Sys2Proof.Machine.execTeamPlacement s
  | .taskBind team => Sys2Proof.Machine.execTaskBind team s
  | .hostCancel u => Sys2Proof.Machine.execHostCancel u s
  | .trapEntry th trp => Sys2Proof.Machine.execTrapEntry th trp s
  | .faultReplay th => Sys2Proof.Machine.execFaultReplay th s
  | .preemptionRequest team => Sys2Proof.Machine.execPreemptionRequest team s
  | .preemptionEntry team => Sys2Proof.Machine.execPreemptionEntry team s
  | .preemptionTimeout team => Sys2Proof.Machine.execPreemptionTimeout team s
  | .teamSave team => Sys2Proof.Machine.execTeamSave team s
  | .teamResume team => Sys2Proof.Machine.execTeamResume team s
  | .pageWalk req => Sys2Proof.Machine.execPageWalk req s
  | .faultAnswer ans => Sys2Proof.Machine.execFaultAnswer ans s
  | .faultTimeout stack ticket => Sys2Proof.Machine.execFaultTimeout stack ticket s
  | .floorReport node => Sys2Proof.Machine.execFloorReport node s
  | .belayBeat node => Sys2Proof.Machine.execBelayBeat node s
  | .scPerform => Sys2Proof.Machine.execScPerform s
  | .epochAdvance => Sys2Proof.Machine.execEpochAdvance s
  | .deviceLost dev => Sys2Proof.Machine.execDeviceLost dev s
  | .peerAckTimeout dev line => Sys2Proof.Machine.execPeerAckTimeout dev line s
  | .readShared core line => Sys2Proof.Machine.execReadShared core line s
  | .readOwn core line => Sys2Proof.Machine.execReadOwn core line s
  | .upgrade core line => Sys2Proof.Machine.execUpgrade core line s
  | .join core line g sigma => Sys2Proof.Machine.execJoin core line g sigma s
  | .invalidate core line => Sys2Proof.Machine.execInvalidate core line s
  | .recall core line keep => Sys2Proof.Machine.execRecall core line keep s
  | .mergeRecall core line => Sys2Proof.Machine.execMergeRecall core line s
  | .wbreq core line => Sys2Proof.Machine.execWbreq core line s
  | .wbgrant core line => Sys2Proof.Machine.execWbgrant core line s
  | .wbData core line => Sys2Proof.Machine.execWbData core line s
  | .hostMemRead pa n keep => Sys2Proof.Machine.execHostMemRead pa n keep s
  | .hostMemWrite pa data own => Sys2Proof.Machine.execHostMemWrite pa data own s
  | .hostWriteback sector data => Sys2Proof.Machine.execHostWriteback sector data s
  | .bisnpResponse sector inv data => Sys2Proof.Machine.execBisnpResponse sector inv data s
  | .rdcurr g => Sys2Proof.Machine.execRdcurr g s
  | .rdshared g => Sys2Proof.Machine.execRdshared g s
  | .rdown g => Sys2Proof.Machine.execRdown g s
  | .rdownnodata g => Sys2Proof.Machine.execRdownnodata g s
  | .itomwr g data => Sys2Proof.Machine.execItomwr g data s
  | .wrcur g data => Sys2Proof.Machine.execWrcur g data s
  | .cleanevict g => Sys2Proof.Machine.execCleanevict g s
  | .cleanevictnodata g => Sys2Proof.Machine.execCleanevictnodata g s
  | .dirtyevict g data => Sys2Proof.Machine.execDirtyevict g data s
  | .clflush g => Sys2Proof.Machine.execClflush g s
  | .guestUnsupportedRequest pa => Sys2Proof.Machine.execGuestUnsupportedRequest pa s
  | .guestSnoopResponse sector inv data => Sys2Proof.Machine.execGuestSnoopResponse sector inv data s
  | .snoopTimeout sector => Sys2Proof.Machine.execSnoopTimeout sector s
  | .guestCompletion q ticket result code reason => Sys2Proof.Machine.execGuestCompletion q ticket result code reason s
  | .translate q ticket va acc => Sys2Proof.Machine.execTranslate q ticket va acc s
  | .guestFault q ticket addr acc fatal => Sys2Proof.Machine.execGuestFault q ticket addr acc fatal s
  | .guestFaultDeadline q ticket => Sys2Proof.Machine.execGuestFaultDeadline q ticket s
  | .guestFaultCompletionTimeout q ticket => Sys2Proof.Machine.execGuestFaultCompletionTimeout q ticket s
  | .shootdownAck sid => Sys2Proof.Machine.execShootdownAck sid s
  | .preemptAck pid saved => Sys2Proof.Machine.execPreemptAck pid saved s
  | .preemptAckTimeout pid => Sys2Proof.Machine.execPreemptAckTimeout pid s
  | .gateViolation tenant => Sys2Proof.Machine.execGateViolation tenant s
  | .hello h => Sys2Proof.Machine.execHello h s
  | .guestOtherMessage => Sys2Proof.Machine.execGuestOtherMessage s
  | .flitReceive link flit => Sys2Proof.Machine.execFlitReceive link flit s
  | .replayRequest link seq => Sys2Proof.Machine.execReplayRequest link seq s
  | .censusSend link => Sys2Proof.Machine.execCensusSend link s
  | .census link counts => Sys2Proof.Machine.execCensus link counts s
  | .identification link dev plink => Sys2Proof.Machine.execIdentification link dev plink s
  | .identificationTimeout link => Sys2Proof.Machine.execIdentificationTimeout link s
  | .fabricRead p => Sys2Proof.Machine.execFabricRead p s
  | .fabricWrite p => Sys2Proof.Machine.execFabricWrite p s
  | .fabricAtomic p => Sys2Proof.Machine.execFabricAtomic p s
  | .bulkPiece p => Sys2Proof.Machine.execBulkPiece p s
  | .drainMarker p => Sys2Proof.Machine.execDrainMarker p s
  | .fabricInvalidate p => Sys2Proof.Machine.execFabricInvalidate p s
  | .fabricMergeRecall p => Sys2Proof.Machine.execFabricMergeRecall p s
  | .readResponse p => Sys2Proof.Machine.execReadResponse p s
  | .atomicResponse p => Sys2Proof.Machine.execAtomicResponse p s
  | .writeAcknowledgement p => Sys2Proof.Machine.execWriteAcknowledgement p s
  | .invalidateAcknowledgement p => Sys2Proof.Machine.execInvalidateAcknowledgement p s
  | .partialPacket p => Sys2Proof.Machine.execPartialPacket p s
  | .slotStart => Sys2Proof.Machine.execSlotStart s
  | .dataTimeStart => Sys2Proof.Machine.execDataTimeStart s
  | .dataTimeEnd => Sys2Proof.Machine.execDataTimeEnd s
  | .sendQueueDepart dest => Sys2Proof.Machine.execSendQueueDepart dest s
  | .drainReturn dest path => Sys2Proof.Machine.execDrainReturn dest path s
  | .slotTableSwitch link => Sys2Proof.Machine.execSlotTableSwitch link s
  | .linkRetire link => Sys2Proof.Machine.execLinkRetire link s
  | .retireNotice link seq => Sys2Proof.Machine.execRetireNotice link seq s
  | .belayNodeCycle node => Sys2Proof.Machine.execBelayNodeCycle node s
  | .nodeForward node => Sys2Proof.Machine.execNodeForward node s
  | .completionDelivery d => Sys2Proof.Machine.execCompletionDelivery d s
  | .boundSignalRelease bid => Sys2Proof.Machine.execBoundSignalRelease bid s
  | .uplinkFailover => Sys2Proof.Machine.execUplinkFailover s
  | .phaserAllocation a => Sys2Proof.Machine.execPhaserAllocation a s
  | .phaserFree handle => Sys2Proof.Machine.execPhaserFree handle s
  | .stageAddition team cmd => Sys2Proof.Machine.execStageAddition team cmd s
  | .pinitEffect team cmd => Sys2Proof.Machine.execPinitEffect team cmd s
  | .mmaGroupRetire team => Sys2Proof.Machine.execMmaGroupRetire team s
  | .engineCommandCompletion team eq => Sys2Proof.Machine.execEngineCommandCompletion team eq s
  | .acwaitTimeout th oid => Sys2Proof.Machine.execAcwaitTimeout th oid s
  | .ffenceTimeout th oid => Sys2Proof.Machine.execFfenceTimeout th oid s
  | .kick q v => Sys2Proof.Machine.execKick q v s
  | .kickRestart q v => Sys2Proof.Machine.execKickRestart q v s
  | .queueFetch q => Sys2Proof.Machine.execQueueFetch q s
  | .queueRetryRead q => Sys2Proof.Machine.execQueueRetryRead q s
  | .queueStall q => Sys2Proof.Machine.execQueueStall q s
  | .launchPacket q entry => Sys2Proof.Machine.execLaunchPacket q entry s
  | .legMark q mirror => Sys2Proof.Machine.execLegMark q mirror s
  | .badPacket q idx => Sys2Proof.Machine.execBadPacket q idx s
  | .waitPoll launch => Sys2Proof.Machine.execWaitPoll launch s
  | .mirrorWrite u => Sys2Proof.Machine.execMirrorWrite u s
  | .placementPreempt launch => Sys2Proof.Machine.execPlacementPreempt launch s
  | .gateClose tenant power => Sys2Proof.Machine.execGateClose tenant power s
  | .gateOpen tenant => Sys2Proof.Machine.execGateOpen tenant s
  | .evheadWrite v => Sys2Proof.Machine.execEvheadWrite v s
  | .bar0OtherAccess off isWrite => Sys2Proof.Machine.execBar0OtherAccess off isWrite s
  | .deviceStart st => Sys2Proof.Machine.execDeviceStart st s
  | .functionReady bit => Sys2Proof.Machine.execFunctionReady bit s
  | .startFailure reason => Sys2Proof.Machine.execStartFailure reason s
  | .queueDescriptorInstall c q d => Sys2Proof.Machine.execQueueDescriptorInstall c q d s
  | .contextDescriptorWrite c ctx d => Sys2Proof.Machine.execContextDescriptorWrite c ctx d s
  | .tenantContextMapWrite c tenant v => Sys2Proof.Machine.execTenantContextMapWrite c tenant v s
  | .budgetSet c tenant b => Sys2Proof.Machine.execBudgetSet c tenant b s
  | .slotTableInstall c link ctl entries => Sys2Proof.Machine.execSlotTableInstall c link ctl entries s
  | .faultRingSet c stack addr => Sys2Proof.Machine.execFaultRingSet c stack addr s
  | .domainCommand c d => Sys2Proof.Machine.execDomainCommand c d s
  | .revocation c d => Sys2Proof.Machine.execRevocation c d s
  | .rootRotation c vendor root => Sys2Proof.Machine.execRootRotation c vendor root s
  | .counterClear c => Sys2Proof.Machine.execCounterClear c s
  | .retentionSleep c => Sys2Proof.Machine.execRetentionSleep c s
  | .retentionWake => Sys2Proof.Machine.execRetentionWake s
  | .anchorSiteReset => Sys2Proof.Machine.execAnchorSiteReset s
  | .linkRestore link => Sys2Proof.Machine.execLinkRestore link s
  | .attestationRequest nonce domain => Sys2Proof.Machine.execAttestationRequest nonce domain s
  | .sramError x => Sys2Proof.Machine.execSramError x s
  | .serviceGroupRestart cluster => Sys2Proof.Machine.execServiceGroupRestart cluster s
  | .belayNodeFailure node => Sys2Proof.Machine.execBelayNodeFailure node s
  | .hostSnoop line => Sys2Proof.Machine.execHostSnoop line s
  | .hbm4eError line word unc => Sys2Proof.Machine.execHbm4eError line word unc s

end Sys2Proof.Machine
end

