-- ==== Sys2Proof/Machine/Fetch.lean ====
section
/-! DEFINITION. What the machine does next: an event that is due, the next word of a gang that issues, or a cycle; and how a gang's words are fetched (R12, R33, R142). -/
namespace Sys2Proof.Machine

/-- What comes next: an instruction at a state, or, where no instruction is had, the outcome of the step. -/
inductive NextInstr where
  | run (i : Instr) (s : State)
  | over (o : Host.Outcome State Fault Refusal)

/-- Every member of a gang that has reached the present word stops there in the same way (R33). -/
def stopGang (gid : Nat) (g : Gang) (e : Stop) (s : State) : Host.Outcome State Fault Refusal :=
  let ms := g.members.filter fun k => !g.done.contains k
  .next (afterWord gid g (if e == .hold then ms else []) 1 1 s (forM' ms (fun k => trapMember g k e) s).2)
/-- A word at the pc of a thread and, where decoding looks at it, the word after it. -/
def fetchPair (k : Nat) (pc : Word) : M (Word × Word) := asParty k do
  let w ← fetchWord k pc.toNat
  if needsNext (wd w) then
    let n ← fetchWord k (pc + 8).toNat
    return (wd w, wd n)
  else return (wd w, plainTrailer)
/-- The next word of a gang, fetched by its lowest member that has not executed it, and decoded. -/
def fetchGang (gid : Nat) (s : State) : NextInstr :=
  match tget s.gangs gid with
  | none => .over (.next s)
  | some g =>
    match g.members.find? fun k => !g.done.contains k with
    | none => .over (.next (advance gid g [] 1 1 s))
    | some k =>
      match fetchPair k g.pc s with
      | (.error e, s') => .over (stopGang gid g e s')
      | (.ok (w, n), s') =>
        match decode w n with
        | .ok i _ => .run i { s' with cur := some gid }
        | .illegalOpcode => .over (stopGang gid g (.trap 1 0 0 0 0 0) s')
        | .illegalForm => .over (stopGang gid g (.trap 2 0 0 0 0 0) s')
/-- The oldest event that is due, else the next word of the first gang that issues in this cycle, else the next cycle. -/
def nextInstr (s : State) : NextInstr :=
  match s.agenda with
  | i :: r => .run i { s with agenda := r }
  | [] =>
    match s.issueQ with
    | gid :: r => fetchGang gid { s with issueQ := r }
    | [] => .run .pickerCycle s

/-! ### One instruction placed where the machine fetches next -/

/-- The address at which a word is placed. -/
def placeAddr : Nat := 0x10000
/-- The words of an instruction of up to 128 bits, and the trailer that closes its run. -/
def placedBytes (nbits w : Nat) : Bytes :=
  leBytes 8 w ++ (if nbits ≤ 64 then [] else leBytes 8 (w / 2 ^ 64)) ++ leBytes 8 plainTrailer.toNat
/-- The group in which a placed instruction runs: privileged, of the role that every range admits (R39). -/
def placedGroup : Group :=
  { code := wd placeAddr, role := .rotate, width := 8, alloc := 1024, priv := true, task := false, base := 0, live := true }
/-- The launch and the team of a placed instruction; the team holds the carabiner. -/
def placedLaunch : Launch := { Launch.blank with teams := 1, groups := [placedGroup], prv := 4096, spad := 65536, prvb := wd 0x100000, placed := 1, eligible := some 0, count := 1 }
def placedTeam (l : Nat) : Team :=
  { Team.blank with launch := l, placed := true, pair := true, groups := [placedGroup], spadSize := 65536, carabiner := some 0 }
/-- The thread of a placed instruction, in slot 0 of core 0. -/
def placedThread (i now : Nat) : Thread :=
  { Thread.blank with status := .gathered, stamp := now, team := i, pc := wd placeAddr, alloc := 1024,
                      cstk := wd 0x101000, cstkTop := wd 0x101000, cstkBase := wd 0x100100, cairn := wd 0x100000 }
def placedGang (l now : Nat) : Gang :=
  { core := 0, launch := l, code := wd placeAddr, members := [0], runStart := now, pc := wd placeAddr, nextIssue := now, count := 0,
    fromHead := true, solo := false, port := some 0, done := [], held := false }
/-- A page of 1 GiB of context 0 at address 0 that every access may use. -/
def placedPage : TlbEntry := { ctx := 0, va := 0, size := 30, pa := 0, host := false, r := true, w := true, x := true }

end Sys2Proof.Machine
end

