-- ==== Sys2Proof/Machine/Step.lean ====
section
/-! DEFINITION. One step of the machine. -/
namespace Sys2Proof.Machine

/-- One step: what comes next is executed. -/
def step (s : State) : Host.Outcome State Fault Refusal :=
  match nextInstr s with
  | .run i s' => exec i s'
  | .over o => o

/-- The state with one instruction, its bits above nbits zero, where the next step fetches it: in the run of a gang of one thread whose turn to issue it is (log entry 18). -/
def State.withFetchWord (s : State) (nbits w : Nat) : State :=
  let i := s.nextId
  { s with
    mem := memPutN s.mem placeAddr (placedBytes nbits w), nextId := i + 3, agenda := [], issueQ := [i + 1], cur := none,
    gangs := tset s.gangs (i + 1) (placedGang (i + 2) s.now), threads := tset s.threads 0 (placedThread i s.now), teams := tset s.teams i (placedTeam (i + 2)),
    host := { s.host with launches := tset s.host.launches (i + 2) placedLaunch },
    cores := tset s.cores 0 { s.core 0 with tlb := [placedPage] } }

end Sys2Proof.Machine
end

