-- ==== Sys2Proof/Safety.lean ====
section
/-! DEFINITION. What counts as a safe run, and the terms in which the claims speak: whose turn it is, what a word needs to complete, the shapes of words. -/
namespace Sys2Proof.Machine

/-! ### Safe states and safe steps -/

/-- Both memories keep their canonical form. -/
def State.Canonical (s : State) : Prop := Memory.wf s.mem = true ∧ Memory.wf s.hostMem = true
/-- A step is safe when it answers a next state. -/
def Safe (o : Host.Outcome State Fault Refusal) : Prop := ∃ t, o = .next t
/-- A word is never refused. -/
def NotRefused (o : Host.Outcome State Fault Refusal) : Prop := ∀ r, o ≠ .refused r

/-! ### Whose turn it is -/

/-- Any role; the roles of Table 02-1 and Table 02-7. -/
def anyRole (_ : Role) : Bool := true
/-- It is the turn of gang gid, whose one thread k stands at a word with header h: a port is given to it or nothing held it there (R141), fewer than 24 words of the run are done, no serialising write is out, the group has a role that the word admits, and the guard is true (R13, R33, R39, R386). -/
structure State.Turn (s : State) (gid : Nat) (g : Gang) (k : Nat) (h : Hdr) (roles : Role → Bool) : Prop where
  cur : s.cur = some gid
  gang : tget s.gangs gid = some g
  issues : g.tries = false
  members : g.members = [k]
  done : g.done = []
  short : g.count < 24
  serial : s.serial k = false
  role : roles (s.groupOf k).role = true
  guard : guardOf k h.guard s = (.ok true, s)
/-- The dependence counter that a variable-latency word names has room (R28). -/
def State.Room (s : State) (k : Nat) (h : Hdr) : Prop := (s.thr k).dcount ((s.thr k).counter h.sc.toNat) < 63
/-- Gang gid stands, with its one thread k, at a trailer whose length fits its run, which publishes nothing, and whose waited counters read zero; no result of the run is still to be written, no counter has an error, and the thread is not killed (R16, R25, R30). -/
structure State.AtTrailer (s : State) (gid : Nat) (g : Gang) (k : Nat) (t : Thread) (f : FmtT) : Prop where
  cur : s.cur = some gid
  gang : tget s.gangs gid = some g
  issues : g.tries = false
  members : g.members = [k]
  done : g.done = []
  serial : s.serial k = false
  thread : tget s.threads k = some t
  sorted : tsorted 0 s.gangs = true
  begun : g.count ≠ 0
  fits : f.len.toNat = g.count
  silent : f.pub0 = opZero ∧ f.pub1 = opZero
  alive : t.killed = false
  written : t.pend = []
  good : t.dcErr = []
  zero : ∀ n, n < 8 → bitAt f.wait.toNat n = true → t.dcount (t.counter n) = 0
/-- A state in which a party acts in its own name. -/
def State.inName (s : State) (n : Nat) : State := { s with who := n }
/-- The gang after a fixed-latency word of so many words, and after a variable-latency word (R27, R28). -/
def movedOn (gid : Nat) (g : Gang) (words : Nat) (h : Hdr) (s : State) : State := advance gid g [] words (h.sc.toNat + 1) s
def movedNext (gid : Nat) (g : Gang) (words : Nat) (s : State) : State := advance gid g [] words 1 s

/-! ### Shapes of words

Each says: whenever it is a gang's turn, the operands can be read and the result can be taken, the word answers exactly this next state. -/

/-- One fixed-latency result, a function of the sources (R27). -/
def FixedWord (i : Instr) (h : Hdr) (roles : Role → Bool) (words : Nat) (srcs : List Operand) (d : Operand) (lat : Nat) (v : List SVal → Nat) : Prop :=
  ∀ s gid g k s1 s2 vs dst, s.Turn gid g k h roles → operands k (plainOps srcs) (some (d, none)) s = (.ok (vs, dst), s1) →
    result k dst (low (fieldBits d) (v vs)) lat s1 = (.ok (), s2) → exec i s = .next (movedOn gid g words h s2)
/-- A predicate pair written from the sources (R57). -/
def PredWord (i : Instr) (h : Hdr) (roles : Role → Bool) (words : Nat) (srcs : List Operand) (d : PDst) (v : List SVal → Bool) : Prop :=
  ∀ s gid g k s1 s2 vs x, s.Turn gid g k h roles → operands k (plainOps srcs) none s = (.ok (vs, x), s1) → coverPreds k d s1 = (.ok (), s1) →
    predResult k d (v vs) 2 s1 = (.ok (), s2) → exec i s = .next (movedOn gid g words h s2)
/-- A float word: its elements a, b, c, and what it computes from them; the result is written lat cycles later (R93 to R98). -/
def ElemWord (i : Instr) (f : FmtM) (t : FType) (srcs : List Operand) (lat : Nat) (v : Nat → List Nat → List Nat → List Nat → M Nat) : Prop :=
  ∀ s gid g k s1 s2 s3 a b c dst r, s.Turn gid g k f.hdr vecRoles → elemOperands k (ftFmt t) srcs f.d f.mod s = (.ok (a, b, c, dst), s1) →
    v k a b c s1 = (.ok r, s2) → result k dst r lat s2 = (.ok (), s3) → exec i s = .next (movedOn gid g (wordsOf f.mod) f.hdr s3)
/-- A variable-latency word whose value is known at issue and which completes between two cycles counted from issue (R28). -/
def TimedWord (i : Instr) (h : Hdr) (roles : Role → Bool) (words : Nat) (srcs : List (Operand × Option Nat)) (d : Operand × Option Nat) (lo hi : Nat) (v : List SVal → Nat) : Prop :=
  ∀ s gid g k s1 s2 vs dst id, s.Turn gid g k h roles → s.Room k h → operands k srcs (some d) s = (.ok (vs, dst), s1) →
    issueVar k h.sc.toNat dst (v vs) lo (some hi) .time true none 0 s1 = (.ok id, s2) → exec i s = .next (movedNext gid g words s2)
/-- A float word whose result comes later, between two cycles. -/
def ElemTimed (i : Instr) (f : FmtM) (t : FType) (srcs : List Operand) (lo hi : Nat) (v : Nat → List Nat → List Nat → List Nat → M Nat) : Prop :=
  ∀ s gid g k s1 s2 s3 a b c dst r id, s.Turn gid g k f.hdr vecRoles → s.Room k f.hdr → elemOperands k (ftFmt t) srcs f.d f.mod s = (.ok (a, b, c, dst), s1) →
    v k a b c s1 = (.ok r, s2) → issueVar k f.hdr.sc.toNat dst r lo (some hi) .time true none 0 s2 = (.ok id, s3) →
    exec i s = .next (movedNext gid g (wordsOf f.mod) s3)
/-- A fixed-latency word whose value takes an action of the thread: a rounding mode, draws, a state read (R27). -/
def ActWord (i : Instr) (h : Hdr) (roles : Role → Bool) (words : Nat) (srcs : List Operand) (d : Operand) (lat : Nat) (v : Nat → List SVal → M Nat) : Prop :=
  ∀ s gid g k s1 s2 s3 vs dst r, s.Turn gid g k h roles → operands k (plainOps srcs) (some (d, none)) s = (.ok (vs, dst), s1) →
    v k vs s1 = (.ok r, s2) → result k dst (low (fieldBits d) r) lat s2 = (.ok (), s3) → exec i s = .next (movedOn gid g words h s3)
/-- A variable-latency word that ends at once with a status or value, changing nothing else: its value from the state and the sources (R28). -/
def StatusWord (i : Instr) (h : Hdr) (roles : Role → Bool) (srcs : List (Operand × Option Nat)) (d : Operand × Option Nat) (v : State → Nat → List SVal → Option Nat) : Prop :=
  ∀ s gid g k s1 s2 vs dst r, s.Turn gid g k h roles → s.Room k h → operands k srcs (some d) s = (.ok (vs, dst), s1) →
    v s1 k vs = some r → later k h dst r s1 = (.ok (), s2) → exec i s = .next (movedNext gid g 1 s2)
/-- A variable-latency word that waits for something: its provisional value and its wait. -/
def WaitWord (i : Instr) (h : Hdr) (roles : Role → Bool) (srcs : List (Operand × Option Nat)) (d : Operand × Option Nat) (v : State → Nat → List SVal → Option (Nat × Wait)) : Prop :=
  ∀ s gid g k s1 s2 vs dst r w, s.Turn gid g k h roles → s.Room k h → operands k srcs (some d) s = (.ok (vs, dst), s1) →
    v s1 k vs = some (r, w) → laterWait k h dst r w s1 = (.ok (), s2) → exec i s = .next (movedNext gid g 1 s2)
/-- A word that hands a command to an engine queue (R187). -/
def CommandWord (i : Instr) (h : Hdr) (roles : Role → Bool) (srcs : List (Operand × Option Nat)) (d : Operand × Option Nat)
    (kind : CmdKind) (q : EngineQueue) (quads : List SVal → List Nat) (bind : List SVal → Option Nat) (mode : Thread → Nat) : Prop :=
  ∀ s gid g k s1 s2 vs dst, s.Turn gid g k h roles → s.Room k h → operands k srcs (some d) s = (.ok (vs, dst), s1) →
    acceptCmd k h dst kind q (quads vs) (bind vs) (mode (s1.thr k)) s1 = (.ok (), s2) → exec i s = .next (movedNext gid g 1 s2)
/-- A load of n bytes under an order from an aligned address that can be read (R83, R87). -/
def LoadWord (i : Instr) (f : FmtA) (o : Order) (addr : SVal → SVal → Nat) : Prop :=
  ∀ s gid g k s1 s2 s3 vs dst b, s.Turn gid g k f.hdr anyRole → s.Room k f.hdr → operands k (plainOps [f.a, f.b]) (some (f.d, none)) s = (.ok (vs, dst), s1) →
    addr (src vs 0) (src vs 1) % (fieldBits f.d / 8) = 0 → loadPiece k (addr (src vs 0) (src vs 1)) (fieldBits f.d / 8) true o s1 = (.ok b, s2) →
    later k f.hdr dst (ofLe b) s2 = (.ok (), s3) → exec i s = .next (movedNext gid g 1 s3)
/-- A store of n bytes under an order to an aligned address that can be written. -/
def StoreWord (i : Instr) (f : FmtA) (o : Order) : Prop :=
  ∀ s gid g k s1 s2 s3 vs x, s.Turn gid g k f.hdr anyRole → s.Room k f.hdr → operands k (plainOps [f.a, f.b, f.d]) none s = (.ok (vs, x), s1) →
    addrAB (src vs 0) (src vs 1) % (fieldBits f.d / 8) = 0 →
    storePiece k (addrAB (src vs 0) (src vs 1)) (leBytes (fieldBits f.d / 8) (src vs 2).zx) true o s1 = (.ok (), s2) →
    later k f.hdr .nowhere 0 s2 = (.ok (), s3) → exec i s = .next (movedNext gid g 1 s3)
/-- An atomic on n bytes: address, operand and compare value or mask from the sources, the destination the last of them with `rw`. The place is checked, return slots and the home's request queue have room, the operation is performed once and the old value returned; under SC it goes to its home (R250, R251, R253). -/
def AtomicWord (i : Instr) (h : Hdr) (srcs : List (Operand × Option Nat)) (d : Option (Operand × Option Nat)) (rw : Bool) (n acc ord : Nat) (op : AtomOp)
    (b c : List SVal → Nat) (returns : Bool) : Prop :=
  ∀ s gid g k s1 s2 s3 vs dst, s.Turn gid g k h anyRole → s.Room k h → operandsX k srcs d rw (fun _ => pure ()) s = (.ok (vs, dst), s1) →
    (∀ pa, atomPlace k (src vs 0).zx n acc (ordRel ord || ord == 4) (ord == 4) s1 = (.ok (.dev pa), s2) → s2.atomFull k acc pa n (ord == 4) = false → ord ≠ 4 → ∀ v s2' s3' oid,
      atomCheck k (src vs 0).zx false (.dev pa) s2 = (.ok (), s2') →
      atomDev k (s2.thr k).team pa n op (b vs) (c vs) (if ordAcq ord then some 5 else none) (if ordRel ord then some 5 else none) s2' = (.ok v, s3') →
      issueVar k h.sc.toNat (if returns then dst else .nowhere) v 1 none .time true none (if acc = 3 then srcReturn else srcSilent) s3' = (.ok oid, s3) →
      exec i s = .next (movedNext gid g 1 s3)) ∧
    (∀ off, atomPlace k (src vs 0).zx n acc (ordRel ord || ord == 4) (ord == 4) s1 = (.ok (.spad off), s2) → ord ≠ 4 → ∀ v s2' s3' oid,
      atomCheck k (src vs 0).zx false (.spad off) s2 = (.ok (), s2') →
      atomPad k (s2.thr k).team off n op (b vs) (c vs) (if ordAcq ord then some 1 else none) (if ordRel ord then some 1 else none) s2' = (.ok v, s3') →
      issueVar k h.sc.toNat (if returns then dst else .nowhere) v 1 none .time true none 0 s3' = (.ok oid, s3) → exec i s = .next (movedNext gid g 1 s3)) ∧
    (∀ p t2, atomPlace k (src vs 0).zx n acc (ordRel ord || ord == 4) (ord == 4) s1 = (.ok p, t2) → (∀ pa, p = .dev pa → t2.atomFull k acc pa n (ord == 4) = false) → atomCheck k (src vs 0).zx false p t2 = (.ok (), s2) → ord = 4 →
      holdSc k h (if returns then dst else .nowhere) (src vs 0).zx n p op (b vs) (c vs) (match p with | .dev _ => if acc = 3 then srcReturn else srcSilent | _ => 0) s2 = (.ok (), s3) →
      exec i s = .next (movedNext gid g 1 s3))

/-- Operands of a phaser word. -/
def phaserOps (f : FmtA) : List (Operand × Option Nat) := plainOp f.a :: if unused f.b then [] else [plainOp f.b]

/-! ### Frames -/

/-- Gang gid stands, with its one thread k, at a word that it has not executed; nothing is said of role or guard. -/
structure State.At (s : State) (gid : Nat) (g : Gang) (k : Nat) : Prop where
  cur : s.cur = some gid
  gang : tget s.gangs gid = some g
  issues : g.tries = false
  members : g.members = [k]
  done : g.done = []
  short : g.count < 24
  serial : s.serial k = false
/-- An operand that is no stream port: reading it is reading registers. -/
def plainOperand : Operand → Bool
  | .special c _ => !(16 ≤ c.toNat && c.toNat < 24)
  | _ => true
/-- Everything but threads, gangs and the model's own counters is as before: both memories, scratchpads and all else of the teams, caches, records, fabric, belay network, host side, socket, trust, time. -/
structure SameMachine (s t : State) : Prop where
  mem : t.mem = s.mem
  hostMem : t.hostMem = s.hostMem
  teams : t.teams = s.teams
  cores : t.cores = s.cores
  clusters : t.clusters = s.clusters
  dies : t.dies = s.dies
  dir : t.dir = s.dir
  records : t.records = s.records
  sectors : t.sectors = s.sectors
  peers : t.peers = s.peers
  scHeld : t.scHeld = s.scHeld
  host : t.host = s.host
  belay : t.belay = s.belay
  fabric : t.fabric = s.fabric
  socket : t.socket = s.socket
  trust : t.trust = s.trust
  time : t.now = s.now ∧ t.podTime = s.podTime
  out : t.out = s.out
/-- Only thread k may differ. -/
def SameOthers (s t : State) (k : Nat) : Prop := ∀ j, j ≠ k → tget t.threads j = tget s.threads j
/-- Of thread k every register as written, its predicates, temporaries, window base, streams, control registers and state are as before; results still to be written are another matter. -/
structure SameRegs (s t : State) (k : Nat) : Prop where
  slices : (t.thr k).slices = (s.thr k).slices
  temps : (t.thr k).temps = (s.thr k).temps
  preds : (t.thr k).preds = (s.thr k).preds
  wbase : (t.thr k).wbase = (s.thr k).wbase
  streams : (t.thr k).streams = (s.thr k).streams
  cstk : (t.thr k).cstk = (s.thr k).cstk
  cairn : (t.thr k).cairn = (s.thr k).cairn
  fmode : (t.thr k).fmode = (s.thr k).fmode
  sgen : (t.thr k).sgen = (s.thr k).sgen
  status : (t.thr k).status = (s.thr k).status
  handler : (t.thr k).handler = (s.thr k).handler
/-- A byte of device memory as the coherence order has it. -/
def State.devByte (s : State) (pa : Nat) : Byte := (s.lineView (lineOf pa)).getD (pa % 128) 0
/-- A line that core c can take or already holds alone, with no write-back of its own under way, none of its data at an agent, and a place for its entries at its home slice and at the slice of its agent. -/
def State.Quiet (s : State) (c line : Nat) : Prop :=
  s.mapOf line = none ∧ tget (s.core c).victim line = none
    ∧ (∀ st d, tget s.agents (agentKey st line) ≠ some (.dirty d))
    ∧ s.sliceCount (homeSlice line) < sliceLines ∧ (∀ st, foreignStack c line = some st → s.sliceCount (agentSlice st line) < sliceLines)
    ∧ (s.dirOf line = .uncached ∧ s.l1Of c line = none
      ∨ s.dirOf line = .owned c ∧ (s.l1Of c line = some .e ∨ ∃ d, s.l1Of c line = some (.m d) ∧ d.length = 128))
/-- A request of core c for a line meets nothing that stands in its way: no write-back and no data of an agent, a place at its slices and in the set of its first-level cache, no other party that holds a sector or a copy, and no transaction of the line under way. -/
structure State.Calm (s : State) (c line : Nat) : Prop where
  core : (tget s.cores c).isSome = true
  victim : tget (s.core c).victim line = none
  agents : ∀ st d, tget s.agents (agentKey st line) ≠ some (.dirty d)
  home : s.sliceCount (homeSlice line) < sliceLines
  agent : ∀ st, foreignStack c line = some st → s.sliceCount (agentSlice st line) < sliceLines
  ways : (setLines (s.core c).l1 line).length < 16
  sectors : s.lineHeld line = false
  peers : (s.peer (line / 16)).mode = 0
  answered : (s.peerAcks.any (·.line == line)) = false
  turn : s.lineOpen line = true
/-- The tables of the caches are tables, and no line stands in a core's first level and in its victim buffer. -/
structure State.Tidy (s : State) : Prop where
  dir : tsorted 0 s.dir = true
  agents : tsorted 0 s.agents = true
  mem : Memory.wf s.mem = true
  l1 : ∀ c, tsorted 0 (s.core c).l1 = true
  victim : ∀ c, tsorted 0 (s.core c).victim = true
  apart : ∀ c line, s.l1Of c line ≠ none → tget (s.core c).victim line = none

end Sys2Proof.Machine
end

