-- ==== Sys2Proof/Certificates/Slice0/Obligations.lean ====
section
/-! DEFINITION. The statements for the provers. -/
open Sys2Proof Sys2Proof.Machine

/-! ### Integer words (03) -/

/-- R59, R62, R63: add, subtract, multiply, high product, multiply-add, minimum, maximum, absolute value, negation: the exact result on the prepared sources, narrowed by the suffix's rule. -/
def Obligations.IntegerArithmetic : Prop :=
  (∀ t f, FixedWord (.iadd t f) f.hdr anyRole (wordsOf f.mod) [f.a, f.b] f.d 2 fun vs => intRes t (modSat f.mod) (fieldBits f.d) (intVal t (src vs 0) + intVal t (src vs 1)))
  ∧ (∀ t f, FixedWord (.isub t f) f.hdr anyRole (wordsOf f.mod) [f.a, f.b] f.d 2 fun vs => intRes t (modSat f.mod) (fieldBits f.d) (intVal t (src vs 0) - intVal t (src vs 1)))
  ∧ (∀ t f, FixedWord (.imul t f) f.hdr anyRole (wordsOf f.mod) [f.a, f.b] f.d 4 fun vs => intRes t (modSat f.mod) (fieldBits f.d) (intVal t (src vs 0) * intVal t (src vs 1)))
  ∧ (∀ t f, FixedWord (.imulh t f) f.hdr anyRole 1 [f.a, f.b] f.d 5 fun vs => intRes t false (fieldBits f.d) (intVal t (src vs 0) * intVal t (src vs 1) / 2 ^ itBits t))
  ∧ (∀ t f m, f.mod = some m → FixedWord (.imad t f) f.hdr anyRole 2 [f.a, f.b, m.c] f.d 4 fun vs =>
      intRes t m.sat (fieldBits f.d) (intVal t (src vs 0) * intVal t (src vs 1) + vs[2]?.elim 0 (intVal t)))
  ∧ (∀ t f, f.mod = none → FixedWord (.imad t f) f.hdr anyRole 1 [f.a, f.b] f.d 4 fun vs =>
      intRes t false (fieldBits f.d) (intVal t (src vs 0) * intVal t (src vs 1) + vs[2]?.elim 0 (intVal t)))
  ∧ (∀ t f, FixedWord (.imin t f) f.hdr anyRole 1 [f.a, f.b] f.d 2 fun vs => intRes t false (fieldBits f.d) (min (intVal t (src vs 0)) (intVal t (src vs 1))))
  ∧ (∀ t f, FixedWord (.imax t f) f.hdr anyRole 1 [f.a, f.b] f.d 2 fun vs => intRes t false (fieldBits f.d) (max (intVal t (src vs 0)) (intVal t (src vs 1))))
  ∧ (∀ t f, FixedWord (.iabs t f) f.hdr anyRole (wordsOf f.mod) [f.a] f.d 2 fun vs => intRes t (modSat f.mod) (fieldBits f.d) (if intVal t (src vs 0) < 0 then -intVal t (src vs 0) else intVal t (src vs 0)))
  ∧ (∀ t f, FixedWord (.ineg t f) f.hdr anyRole (wordsOf f.mod) [f.a] f.d 2 fun vs => intRes t (modSat f.mod) (fieldBits f.d) (-intVal t (src vs 0)))
/-- R54, R59: the exact result of an integer word is narrowed to the N bits of the suffix and brought to the n bits of D: its low n bits where n is at most N, the sign-extension or zero-extension of its low N bits where n is at least N; a saturated result lies in the range of D, and is the exact result where that does. -/
def Obligations.IntegerNarrowing : Prop :=
  (∀ t n e, n ≤ itBits t → (intRes t false n e : Int) = e % 2 ^ n)
  ∧ (∀ t n e, itBits t ≤ n → itSigned t = false → (intRes t false n e : Int) = e % 2 ^ itBits t)
  ∧ (∀ t n e, itBits t ≤ n → itSigned t = true → toS n (intRes t false n e) % 2 ^ itBits t = e % 2 ^ itBits t
      ∧ -(2 ^ (itBits t - 1)) ≤ toS n (intRes t false n e) ∧ toS n (intRes t false n e) < 2 ^ (itBits t - 1))
  ∧ (∀ t n e, 0 < n → itSigned t = false → 0 ≤ e → e < 2 ^ n → (intRes t true n e : Int) = e)
  ∧ (∀ t n e, 0 < n → itSigned t = false → e < 0 → intRes t true n e = 0)
  ∧ (∀ t n e, 0 < n → itSigned t = false → 2 ^ n ≤ e → intRes t true n e = 2 ^ n - 1)
  ∧ (∀ t n e, 0 < n → itSigned t = true → -(2 ^ (n - 1)) ≤ e → e < 2 ^ (n - 1) → toS n (intRes t true n e) = e)
  ∧ (∀ t n e, 0 < n → itSigned t = true → e < -(2 ^ (n - 1)) → toS n (intRes t true n e) = -(2 ^ (n - 1)))
  ∧ (∀ t n e, 0 < n → itSigned t = true → 2 ^ (n - 1) ≤ e → toS n (intRes t true n e) = 2 ^ (n - 1) - 1)

/-- R60: quotient and remainder, with the fixed results for a zero divisor; they complete between cycle 6 and the latest cycle of Table 03-13. -/
def Obligations.Division : Prop :=
  (∀ t f, TimedWord (.idiv t f) f.hdr anyRole 1 (plainOps [f.a, f.b]) (f.d, none) 6 (divLatest t) fun vs => intRes t false (fieldBits f.d) (divQ (intVal t (src vs 0)) (intVal t (src vs 1))))
  ∧ (∀ t f, TimedWord (.irem t f) f.hdr anyRole 1 (plainOps [f.a, f.b]) (f.d, none) 6 (divLatest t) fun vs => intRes t false (fieldBits f.d) (divR (intVal t (src vs 0)) (intVal t (src vs 1))))
  ∧ (∀ a, divQ a 0 = -1 ∧ divR a 0 = a)
  ∧ (∀ a b, b ≠ 0 → a = b * divQ a b + divR a b ∧ (divR a b).natAbs < b.natAbs ∧ (0 ≤ a → 0 ≤ divR a b) ∧ (a ≤ 0 → divR a b ≤ 0))
  ∧ (∀ t a, intRes t false (itBits t) (divQ a 0) = 2 ^ itBits t - 1)
  ∧ (∀ t a, a = -(2 : Int) ^ (itBits t - 1) → itSigned t = true → toS (itBits t) (intRes t false (itBits t) (divQ a (-1))) = a ∧ divR a (-1) = 0)

/-- R61 to R65: compare, select, moves, extensions and lea. -/
def Obligations.CompareSelectMove : Prop :=
  (∀ t f, PredWord (.icmp t f) f.hdr anyRole 1 [f.a, f.b] f.d fun vs => icmpCond f.d.cond.toNat (intVal t (src vs 0)) (intVal t (src vs 1)))
  ∧ (∀ f m, f.mod = some m → FixedWord (.isel f) f.hdr anyRole 2 [f.a, f.b, m.c] f.d 2 fun vs => if vs[2]?.elim 0 (·.zx) ≠ 0 then (src vs 0).zx else (src vs 1).zx)
  ∧ (∀ f, f.mod = none → FixedWord (.isel f) f.hdr anyRole 1 [f.a, f.b] f.d 2 fun vs => if vs[2]?.elim 0 (·.zx) ≠ 0 then (src vs 0).zx else (src vs 1).zx)
  ∧ (∀ f, FixedWord (.mov f) f.hdr anyRole 1 [f.a] f.d 2 fun vs => (src vs 0).zx)
  ∧ (∀ f, FixedWord (.movi f) f.hdr anyRole 1 [] f.d 2 fun _ => sextTo 30 64 f.imm.toNat)
  ∧ (∀ f, FixedWord (.sxt f) f.hdr anyRole 1 [f.a, f.b] f.d 2 fun vs => sextTo (if low 6 (src vs 1).v = 0 then 64 else low 6 (src vs 1).v) 64 (src vs 0).zx)
  ∧ (∀ f, FixedWord (.zxt f) f.hdr anyRole 1 [f.a, f.b] f.d 2 fun vs => low (if low 6 (src vs 1).v = 0 then 64 else low 6 (src vs 1).v) (src vs 0).zx)
  ∧ (∀ f, ActWord (.lea f) f.hdr anyRole 1 [f.a, f.b] f.d 2 fun _ vs => do
      let pc ← curPc
      return low 64 ((if isZeroOp f.a then pc.toNat else (src vs 0).zx) + (src vs 1).sx))
  ∧ (∀ (f : FmtA) (e : FmtM) i n w ws, (i, n) ∈ [(Instr.sxt f, 0x060), (.zxt f, 0x061), (.mov f, 0x062), (.lea f, 0x064), (.isel e, 0x065)] → encode i = w :: ws → wordOp w = n)

/-- R66: shifts and logic on the w = Bits(D) bits of the prepared sources; an amount of w or more shifts everything out. -/
def Obligations.ShiftsAndLogic : Prop :=
  (∀ f, FixedWord (.shl f) f.hdr anyRole 1 [f.a, f.b] f.d 2 fun vs => if fieldBits f.d ≤ (src vs 1).zx then 0 else low (fieldBits f.d) ((src vs 0).ext (fieldBits f.d) false * 2 ^ (src vs 1).zx))
  ∧ (∀ f, FixedWord (.shr f) f.hdr anyRole 1 [f.a, f.b] f.d 2 fun vs => if fieldBits f.d ≤ (src vs 1).zx then 0 else (src vs 0).ext (fieldBits f.d) false / 2 ^ (src vs 1).zx)
  ∧ (∀ f, FixedWord (.sar f) f.hdr anyRole 1 [f.a, f.b] f.d 2 fun vs => ofI (fieldBits f.d) (toS (fieldBits f.d) ((src vs 0).ext (fieldBits f.d) true) / 2 ^ (min (src vs 1).zx (fieldBits f.d))))
  ∧ (∀ f, FixedWord (.rot f) f.hdr anyRole 1 [f.a, f.b] f.d 2 fun vs =>
      low (fieldBits f.d) ((src vs 0).ext (fieldBits f.d) false * 2 ^ ((src vs 1).zx % fieldBits f.d)) + (src vs 0).ext (fieldBits f.d) false / 2 ^ (fieldBits f.d - (src vs 1).zx % fieldBits f.d))
  ∧ (∀ f, FixedWord (.land f) f.hdr anyRole 1 [f.a, f.b] f.d 2 fun vs => Nat.land ((src vs 0).ext (fieldBits f.d) false) ((src vs 1).ext (fieldBits f.d) false))
  ∧ (∀ f, FixedWord (.lor f) f.hdr anyRole 1 [f.a, f.b] f.d 2 fun vs => Nat.lor ((src vs 0).ext (fieldBits f.d) false) ((src vs 1).ext (fieldBits f.d) false))
  ∧ (∀ f, FixedWord (.lxor f) f.hdr anyRole 1 [f.a, f.b] f.d 2 fun vs => Nat.xor ((src vs 0).ext (fieldBits f.d) false) ((src vs 1).ext (fieldBits f.d) false))
  ∧ (∀ f, FixedWord (.landn f) f.hdr anyRole 1 [f.a, f.b] f.d 2 fun vs => Nat.land ((src vs 0).ext (fieldBits f.d) false) (2 ^ fieldBits f.d - 1 - (src vs 1).ext (fieldBits f.d) false))
  ∧ (∀ (f : FmtA) i n w ws, (i, n) ∈ [(Instr.shl f, 0x068), (.shr f, 0x069), (.sar f, 0x06A), (.rot f, 0x06B), (.land f, 0x06C), (.lor f, 0x06D), (.lxor f, 0x06E), (.landn f, 0x06F)] →
      encode i = w :: ws → wordOp w = n ∧ ws = [])

/-- R67 to R72: counts, bit reversal, bit fields, blends, first clear and set bits, population targets, permutation of slices. -/
def Obligations.BitFields : Prop :=
  (∀ f, FixedWord (.popc f) f.hdr anyRole 1 [f.a] f.d 3 fun vs => ((List.range (fieldBits f.a)).filter fun i => bitAt (src vs 0).zx i).length)
  ∧ (∀ f, FixedWord (.clz f) f.hdr anyRole 1 [f.a] f.d 3 fun vs => clz (fieldBits f.a) (src vs 0).zx)
  ∧ (∀ f, FixedWord (.ctz f) f.hdr anyRole 1 [f.a] f.d 3 fun vs => ctz (fieldBits f.a) (src vs 0).zx)
  ∧ (∀ f, FixedWord (.brev f) f.hdr anyRole 1 [f.a] f.d 3 fun vs => brev (fieldBits f.a) (src vs 0).zx)
  ∧ (∀ f m, f.mod = some m → FixedWord (.bfxS f) f.hdr anyRole 2 [f.a, f.b, m.c] f.d 3 fun vs => bfxField true (src vs 0).zx (src vs 1).v (vs[2]?.elim 0 (·.zx)))
  ∧ (∀ f, f.mod = none → FixedWord (.bfxS f) f.hdr anyRole 1 [f.a, f.b] f.d 3 fun vs => bfxField true (src vs 0).zx (src vs 1).v (vs[2]?.elim 0 (·.zx)))
  ∧ (∀ f m, f.mod = some m → FixedWord (.bfxZ f) f.hdr anyRole 2 [f.a, f.b, m.c] f.d 3 fun vs => bfxField false (src vs 0).zx (src vs 1).v (vs[2]?.elim 0 (·.zx)))
  ∧ (∀ f, f.mod = none → FixedWord (.bfxZ f) f.hdr anyRole 1 [f.a, f.b] f.d 3 fun vs => bfxField false (src vs 0).zx (src vs 1).v (vs[2]?.elim 0 (·.zx)))
  ∧ (∀ f m, f.mod = some m → FixedWord (.bfi f) f.hdr anyRole 2 [f.a, f.b, m.c] f.d 3 fun vs => blend (src vs 0).zx (src vs 1).zx (vs[2]?.elim 0 (·.zx)))
  ∧ (∀ f, f.mod = none → FixedWord (.bfi f) f.hdr anyRole 1 [f.a, f.b] f.d 3 fun vs => blend (src vs 0).zx (src vs 1).zx (vs[2]?.elim 0 (·.zx)))
  ∧ (∀ f, FixedWord (.ffcs f) f.hdr anyRole 1 [f.a, f.b] f.d 3 fun vs =>
      firstBit (src vs 0).zx (low 6 (src vs 1).v) false + 256 * firstBit (src vs 0).zx (low 6 (src vs 1).v) true)
  ∧ (∀ f, FixedWord (.plset f) f.hdr anyRole 1 [f.a, f.b] f.d 3 fun vs => plsetOf (src vs 0).zx (src vs 1).zx)
  ∧ (∀ f, FixedWord (.perm f) f.hdr anyRole 1 [f.a, f.b] f.d 3 fun vs => permOf (src vs 0).zx (src vs 1).zx)

/-- R73: predicates from a nonzero source and from predicate sources; both predicates of the pair are written. -/
def Obligations.PredicateWords : Prop :=
  (∀ f, PredWord (.pset f) f.hdr anyRole 1 [f.a] f.d fun vs => (src vs 0).zx != 0)
  ∧ (∀ (f : FmtQ) s gid g k s2 x y, s.Turn gid g k f.hdr anyRole → readPSrc k f.a s = (.ok x, s) → readPSrc k f.b s = (.ok y, s) → coverPreds k f.d s = (.ok (), s) →
      (predResult k f.d (x && y) 2 s = (.ok (), s2) → exec (.pand f) s = .next (movedOn gid g 1 f.hdr s2))
      ∧ (predResult k f.d (x || y) 2 s = (.ok (), s2) → exec (.por f) s = .next (movedOn gid g 1 f.hdr s2))
      ∧ (predResult k f.d (xor x y) 2 s = (.ok (), s2) → exec (.pxor f) s = .next (movedOn gid g 1 f.hdr s2)))
  ∧ (∀ (f : FmtR) s gid g k s2 x, s.Turn gid g k f.hdr anyRole → readPSrc k f.a s = (.ok x, s) → coverPreds k f.d s = (.ok (), s) →
      predResult k f.d x 2 s = (.ok (), s2) → exec (.pmov f) s = .next (movedOn gid g 1 f.hdr s2))

/-! ### Float, cross-lane and dot words (04) -/

/-- R98, R101, R103: the exact sum, difference, product, fused forms, quotient and root of each element, rounded once. -/
def Obligations.FloatArithmetic : Prop :=
  (∀ t f, ElemWord (.fadd t f) f t [f.a, f.b] (arithLat t) fun k a b _ => roundElems k (ftFmt t) f.mod (fun dn i => (elemAt (ftFmt t) a i).add dn (elemAt (ftFmt t) b i)) (fieldBits f.d / ftBits t))
  ∧ (∀ t f, ElemWord (.fsub t f) f t [f.a, f.b] (arithLat t) fun k a b _ => roundElems k (ftFmt t) f.mod (fun dn i => (elemAt (ftFmt t) a i).add dn (elemAt (ftFmt t) b i).neg) (fieldBits f.d / ftBits t))
  ∧ (∀ t f, ElemWord (.fmul t f) f t [f.a, f.b] (arithLat t) fun k a b _ => roundElems k (ftFmt t) f.mod (fun _ i => (elemAt (ftFmt t) a i).mul (elemAt (ftFmt t) b i)) (fieldBits f.d / ftBits t))
  ∧ (∀ t f, ElemWord (.fma t f) f t [f.a, f.b] (arithLat t) fun k a b c =>
      roundElems k (ftFmt t) f.mod (fun dn i => ((elemAt (ftFmt t) a i).mul (elemAt (ftFmt t) b i)).add dn (elemAt (ftFmt t) c i)) (fieldBits f.d / ftBits t))
  ∧ (∀ t f, ElemWord (.fms t f) f t [f.a, f.b] (arithLat t) fun k a b c =>
      roundElems k (ftFmt t) f.mod (fun dn i => ((elemAt (ftFmt t) a i).mul (elemAt (ftFmt t) b i)).add dn (elemAt (ftFmt t) c i).neg) (fieldBits f.d / ftBits t))
  ∧ (∀ t f, ElemWord (.fnma t f) f t [f.a, f.b] (arithLat t) fun k a b c =>
      roundElems k (ftFmt t) f.mod (fun dn i => (elemAt (ftFmt t) c i).add dn ((elemAt (ftFmt t) a i).mul (elemAt (ftFmt t) b i)).neg) (fieldBits f.d / ftBits t))
  ∧ (∀ t f, ElemTimed (.fdiv t f) f t [f.a, f.b] (divCycles t).1 (divCycles t).2 fun k a b _ =>
      roundElems k (ftFmt t) f.mod (fun _ i => (elemAt (ftFmt t) a i).div (elemAt (ftFmt t) b i)) (fieldBits f.d / ftBits t))
  ∧ (∀ t f, ElemTimed (.fsqrt t f) f t [f.a] (divCycles t).1 (divCycles t).2 fun k a _ _ =>
      roundElems k (ftFmt t) f.mod (fun _ i => (elemAt (ftFmt t) a i).sqrt) (fieldBits f.d / ftBits t))

/-- R102, R104 to R108: minimum, maximum, comparison, class, rounding to an integral value, and the special functions, whose values keep the bounds of Table 04-6. The special functions are opaque but for the bounds of Table 04-6 (log entry 5). -/
def Obligations.FloatOther : Prop :=
  (∀ t f, ElemWord (.fmin t f) f t [f.a, f.b] 2 fun _ a b _ => pure (ofDigits (ftBits t) (List.zipWith (minMaxF (ftFmt t) false) a b)))
  ∧ (∀ t f, ElemWord (.fmax t f) f t [f.a, f.b] 2 fun _ a b _ => pure (ofDigits (ftBits t) (List.zipWith (minMaxF (ftFmt t) true) a b)))
  ∧ (∀ t f, PredWord (.fcmp t f) f.hdr vecRoles (wordsOf f.mod) [f.a, f.b] f.d fun vs =>
      let m := f.mod.getD Modifier.none'
      let e (x : SVal) := (elemsOf (ftFmt t).width 1 (intToF (ftFmt t)) x).headD 0
      fcmpCond f.d.cond.toNat (decF (ftFmt t) (signMod (ftFmt t) m.absA m.negA (e (src vs 0)))) (decF (ftFmt t) (signMod (ftFmt t) m.absB m.negB (e (src vs 1)))))
  ∧ (∀ t f, FixedWord (.fclass t f) f.hdr vecRoles (wordsOf f.mod) [f.a] f.d 2 fun vs =>
      let m := f.mod.getD Modifier.none'
      classOf (ftFmt t) (signMod (ftFmt t) m.absA m.negA ((elemsOf (ftBits t) 1 (intToF (ftFmt t)) (src vs 0)).headD 0)))
  ∧ (∀ t f, ElemWord (.fround t f) f t [f.a] 3 fun k a _ _ => do
      let mode ← roundMode k f.mod
      let rs ← drawsFor k mode a.length
      return ofDigits (ftBits t) (List.zipWith (roundIntegral (ftFmt t) mode) rs a))
  ∧ (∀ t f (c : SpecFn → List Nat → Nat), (c = fun fn a => ofDigits (ftBits t) (a.map fun x => clampF (ftFmt t) (f.mod.getD Modifier.none').clamp.toNat (specF fn (ftFmt t) x))) →
      ElemWord (.frcp t f) f t [f.a] (specLat t) (fun _ a _ _ => pure (c .rcp a)) ∧ ElemWord (.frsq t f) f t [f.a] (specLat t) (fun _ a _ _ => pure (c .rsq a))
      ∧ ElemWord (.fexp2 t f) f t [f.a] (specLat t) (fun _ a _ _ => pure (c .exp2 a)) ∧ ElemWord (.flog2 t f) f t [f.a] (specLat t) (fun _ a _ _ => pure (c .log2 a))
      ∧ ElemWord (.fsin t f) f t [f.a] (specLat t) (fun _ a _ _ => pure (c .sin a)) ∧ ElemWord (.fcos t f) f t [f.a] (specLat t) (fun _ a _ _ => pure (c .cos a))
      ∧ ElemWord (.ftanh t f) f t [f.a] (specLat t) (fun _ a _ _ => pure (c .tanh a)) ∧ ElemWord (.fsig t f) f t [f.a] (specLat t) (fun _ a _ _ => pure (c .sig a)))

/-- R109 to R112, R120, R121: conversion, packing, unpacking, dot products and the dual-shift multiply. -/
def Obligations.ConvertAndDot : Prop :=
  (∀ td ts f, ActWord (.cvt td ts f) f.hdr vecRoles (wordsOf f.mod) [f.a] f.d 3 fun k vs => do
      let w := (cvtBits td).getD (fieldBits f.d)
      let mode ← roundMode k f.mod
      let rs ← drawsFor k mode (fieldBits f.d / w)
      let m := f.mod.getD Modifier.none'
      return ofDigits w (List.zipWith (cvtElem td (fieldBits f.d) m mode) rs (cvtSources ts (fieldBits f.d / w) m (src vs 0))))
  ∧ (∀ f p sg, packWidth f.b = some (p, sg) → FixedWord (.pack f) f.hdr vecRoles (wordsOf f.mod) [f.a] f.d 2 fun vs =>
      ofDigits p ((elemsOf (2 * p) (fieldBits f.d / p) (ofI (2 * p)) (src vs 0)).map fun x => if modSat f.mod then satTo p sg (if sg then toS (2 * p) x else (x : Int)) else low p x))
  ∧ (∀ f p sg, packWidth f.b = some (p, sg) → FixedWord (.unpack f) f.hdr vecRoles (wordsOf f.mod) [f.a] f.d 2 fun vs =>
      ofDigits (2 * p) ((elemsOf p (fieldBits f.d / (2 * p)) (ofI p) (src vs 0)).map fun x => if sg then sextTo p (2 * p) x else x))
  ∧ (∀ dt f, ActWord (.dot dt f) f.hdr vecRoles (wordsOf f.mod) ([f.a, f.b] ++ cOps f.mod) f.d 5 fun k vs => do
      let mode ← if (dotFmt dt).isSome then roundMode k f.mod else pure 0
      let rs ← drawsFor k mode 1
      return dotOf dt (f.mod.getD Modifier.none') mode (rs.headD 0) (fieldBits f.a / dotBits dt) (src vs 0) (src vs 1) vs[2]?)
  ∧ (∀ h f, ActWord (.dsmul h f) f.hdr vecRoles (wordsOf f.mod) ([f.a, f.b] ++ cOps f.mod) f.d 4 fun k vs =>
      let m := f.mod.getD Modifier.none'
      let a := (elemsOf 16 (fieldBits f.d / 16) (intToF (halfFmt h)) (src vs 0)).map (signMod (halfFmt h) m.absA m.negA)
      let b := elemsOf 8 (fieldBits f.d / 16) (ofI 8) (src vs 1)
      let c := ((vs[2]?).elim (List.replicate (fieldBits f.d / 16) 0) (elemsOf 16 (fieldBits f.d / 16) (intToF (halfFmt h)))).map (signMod (halfFmt h) m.absC m.negC)
      roundElems k (halfFmt h) f.mod (fun dn i => ((elemAt (halfFmt h) a i).mul (decDs8 (b.getD i 0))).add dn (elemAt (halfFmt h) c i)) (fieldBits f.d / 16))

/-- R113 to R119, for a gang of one thread: a lane that is no participant gives the thread its own value; a reduction or scan over one participant gives its own elements, each NaN as the canonical one; a vote counts it alone. -/
def Obligations.LaneWordsAlone : Prop :=
  (∀ f, FixedWord (.lshf f) f.hdr vecRoles (wordsOf f.mod) [f.a, f.b] f.d 3 fun vs =>
      bits (src vs 0).zx (fieldBits f.d * (bits (src vs 1).v 5 4 % (fieldBits f.a / fieldBits f.d))) (fieldBits f.d))
  ∧ (∀ f, FixedWord (.lbcast f) f.hdr vecRoles (wordsOf f.mod) [f.a, f.b] f.d 3 fun vs =>
      bits (src vs 0).zx (fieldBits f.d * (bits (src vs 1).v 5 4 % (fieldBits f.a / fieldBits f.d))) (fieldBits f.d))
  ∧ (∀ f, FixedWord (.lrot f) f.hdr vecRoles (wordsOf f.mod) [f.a, f.b] f.d 3 fun vs => (src vs 0).zx)
  ∧ (∀ (f : FmtVM) s gid g k s1 s2 p vs dst, s.Turn gid g k f.hdr vecRoles → readPSrc k f.a s = (.ok p, s) → operands k [] (some (f.d, none)) s = (.ok (vs, dst), s1) →
      result k dst (low (fieldBits f.d) (voteOf ((immOf f.b).getD 0).toNat [(keyLane k, p)])) 3 s1 = (.ok (), s2) → exec (.lvote f) s = .next (movedOn gid g (wordsOf f.mod) f.hdr s2))
  ∧ (∀ t f (v : List SVal → Nat), (v = fun vs => ofDigits (ftBits t) ((List.range (fieldBits f.d / ftBits t)).map fun i => canonF (ftFmt t) ((elemsOf (ftBits t) (fieldBits f.d / ftBits t) (intToF (ftFmt t)) (src vs 0)).getD i 0))) →
      FixedWord (.lredAdd t f) f.hdr vecRoles (wordsOf f.mod) [f.a] f.d 8 v ∧ FixedWord (.lredMin t f) f.hdr vecRoles (wordsOf f.mod) [f.a] f.d 8 v
      ∧ FixedWord (.lredMax t f) f.hdr vecRoles (wordsOf f.mod) [f.a] f.d 8 v ∧ FixedWord (.lscanAdd t f) f.hdr vecRoles (wordsOf f.mod) [f.a] f.d 10 v
      ∧ FixedWord (.lscanMin t f) f.hdr vecRoles (wordsOf f.mod) [f.a] f.d 10 v ∧ FixedWord (.lscanMax t f) f.hdr vecRoles (wordsOf f.mod) [f.a] f.d 10 v)

/-! ### Control, tasks, windows, the trailer (03) -/

/-- R25, R74 to R78, R81, R82: taken branches, call and return set the next run head once the target has been checked; call and ret move the record and the window base; exit drains the thread, the waits of a killed one ended; winb moves the base; nop does nothing. -/
def Obligations.ControlWords : Prop :=
  (∀ (f : FmtJ) s gid g k s1, s.Turn gid g k f.hdr anyRole → low 3 (jTarget g.pc f).toNat = 0 → checkTarget k (jTarget g.pc f) s = (.ok (), s1) →
    exec (.bra f) s = .next (movedOn gid g 1 f.hdr (s1.modThr k fun t => { t with nextHead := some (jTarget g.pc f) })))
  ∧ (∀ (f : FmtA) s gid g k s1 s2 vs x, s.Turn gid g k f.hdr anyRole → operands k [plainOp f.a] none s = (.ok (vs, x), s1) → low 3 (src vs 0).zx = 0 →
    checkTarget k (wd (src vs 0).zx) s1 = (.ok (), s2) → exec (.brx f) s = .next (movedOn gid g 1 f.hdr (s2.modThr k fun t => { t with nextHead := some (wd (src vs 0).zx) })))
  ∧ (∀ (f : FmtJ) s gid g k t s0 s1 s2 s3 s4 s5 p q, s.Turn gid g k f.hdr anyRole → s.thr k = t → t.wbase + 64 * f.link.toNat < t.alloc → t.cstk.toNat % 8 = 0 → t.cstkBase.toNat + 16 ≤ t.cstk.toNat →
    checkHead k (jTarget g.pc f) s = (.ok (), s0) → checkTarget k (jTarget g.pc f) s0 = (.ok (), s1) → storeCheck k (t.cstk.toNat - 16) 8 false .rlx s1 = (.ok p, s2) → storeCheck k (t.cstk.toNat - 8) 8 false .rlx s2 = (.ok q, s3) →
    storePlace k p (leBytes 8 (g.pc + 16).toNat) .rlx s3 = (.ok (), s4) → storePlace k q (leBytes 8 t.wbase) .rlx s4 = (.ok (), s5) →
    exec (.call f) s = .next (movedOn gid g 1 f.hdr (s5.modThr k fun x => { x with cstk := wd (t.cstk.toNat - 16), wbase := t.wbase + 64 * f.link.toNat, nextHead := some (jTarget g.pc f) })))
  ∧ (∀ (f : FmtA) s gid g k t s1 s2 s3 a b, s.Turn gid g k f.hdr anyRole → s.thr k = t → t.cstk.toNat % 8 = 0 → t.cstk ≠ t.cstkTop →
    loadPlain k t.cstk.toNat 8 s = (.ok a, s1) → loadPlain k (low 64 (t.cstk.toNat + 8)) 8 s1 = (.ok b, s2) → low 3 (wd (ofLe a)).toNat = 0 → checkTarget k (wd (ofLe a)) s2 = (.ok (), s3) →
    exec (.ret f) s = .next (movedOn gid g 1 f.hdr ((s3.modThr k fun x => { x with nextHead := some (wd (ofLe a)) }).modThr k fun x => { x with cstk := wd (t.cstk.toNat + 16), wbase := low 16 (ofLe b) })))
  ∧ (∀ (f : FmtA) s gid g k, s.Turn gid g k f.hdr anyRole → exec (.exit f) s = .next (movedOn gid g 1 f.hdr ((if (s.thr k).killed then s.endWaits k else s).drain k)))
  ∧ (∀ (f : FmtL) s gid g k, s.Turn gid g k f.hdr anyRole → 0 ≤ (s.thr k).wbase + 64 * toS 30 f.imm.toNat → ((s.thr k).wbase : Int) + 64 * toS 30 f.imm.toNat < (s.thr k).alloc →
    exec (.winb f) s = .next (movedOn gid g 1 f.hdr (s.modThr k fun t => { t with wbase := (((s.thr k).wbase : Int) + 64 * toS 30 f.imm.toNat).toNat })))
  ∧ (∀ (f : FmtA) s gid g k, s.Turn gid g k f.hdr anyRole → exec (.nop f) s = .next (movedOn gid g 1 f.hdr s))

/-- R79, R80, R136: task queues the pair of entry and argument record, or answers status 1, 2 or 3; yield names the ready team-mates to wait for and the end of its 64 cycles. -/
def Obligations.TaskAndYield : Prop :=
  (∀ (f : FmtA) s gid g k s1 s2 vs dst b, s.Turn gid g k f.hdr anyRole → s.Room k f.hdr → operands k (plainOps [f.a, f.b]) (some (f.d, none)) s = (.ok (vs, dst), s1) →
    (src vs 1).zx % 32 = 0 → loadSpanPlain k (src vs 1).zx 32 s1 = (.ok b, s2) → s2.mustWait k true false = false →
    (∀ s3, (s2.team (s2.thr k).team).groups.any (·.task) = false → later k f.hdr dst 3 s2 = (.ok (), s3) → exec (.task f) s = .next (movedNext gid g 1 s3))
    ∧ (∀ s3, (s2.team (s2.thr k).team).groups.any (·.task) = true → (s2.launchOf k).entries.contains (wd (src vs 0).zx) = false → later k f.hdr dst 2 s2 = (.ok (), s3) →
        exec (.task f) s = .next (movedNext gid g 1 s3))
    ∧ (∀ s3, (s2.team (s2.thr k).team).groups.any (·.task) = true → (s2.launchOf k).entries.contains (wd (src vs 0).zx) = true → 256 ≤ (s2.team (s2.thr k).team).taskQ.length →
        later k f.hdr dst 1 s2 = (.ok (), s3) → exec (.task f) s = .next (movedNext gid g 1 s3))
    ∧ (∀ s3, (s2.team (s2.thr k).team).groups.any (·.task) = true → (s2.launchOf k).entries.contains (wd (src vs 0).zx) = true → (s2.team (s2.thr k).team).taskQ.length < 256 →
        later k f.hdr dst 0 (s2.modTeam (s2.thr k).team fun t => { t with taskQ := t.taskQ ++ [{ entry := wd (src vs 0).zx, args := b }] }) = (.ok (), s3) →
        exec (.task f) s = .next (movedNext gid g 1 s3)))
  ∧ (∀ (f : FmtA) s gid g k (mates : List Nat), s.Turn gid g k f.hdr anyRole →
    mates = (s.threads.filter fun e => e.2.team == (s.thr k).team && e.1 != k && e.2.status == .ready).map (·.1) →
    exec (.yield f) s = .next (movedOn gid g 1 f.hdr (s.modThr k fun t => { t with yielded := some { till := s.now + 64 * Config.ticksPerCycle, mates := mates } })))

/-- R16, R25, R26, R30: a trailer whose length fits, which publishes nothing, and whose waited counters read zero with no result of the run still to be written makes the thread Ready at its next run head, with its temporaries gone; its gang is over. -/
def Obligations.TrailerReady : Prop :=
  ∀ (f : FmtT) s gid g k t, s.AtTrailer gid g k t f → t.back = none → (s.team t.team).preempt = none → s.gateClosed (s.launchOf k).tenant = false →
    ∃ s', exec (.trail f) s = .next s' ∧ (s'.thr k).status = .ready ∧ (s'.thr k).pc = t.nextHead.getD (g.pc + 8) ∧ (s'.thr k).temps = t.temps.filter (fun e => e.1 / 16 != t.tempBase / 16) ∧ (s'.thr k).stamp = s.now
      ∧ (s'.thr k).yieldBit = f.yld ∧ tget s'.gangs gid = none ∧ s'.cur = none ∧ s'.mem = s.mem ∧ s'.teams = s.teams

/-! ### Loads, stores, streams, spill and fill (03) -/

/-- R83 to R88, R227, R228: relaxed, indexed and acquiring loads; relaxed and releasing stores. -/
def Obligations.LoadsAndStores : Prop :=
  (∀ f, LoadWord (.ldRlx f) f .rlx fun a b => low 64 (a.zx + b.sx))
  ∧ (∀ f, LoadWord (.ldx f) f .rlx fun a b => low 64 (a.zx + b.sx * (fieldBits f.d / 8)))
  ∧ (∀ sco f, LoadWord (.ldAcq sco f) f { acq := some (scCode sco), rel := none } fun a b => low 64 (a.zx + b.sx))
  ∧ (∀ f, StoreWord (.stRlx f) f .rlx)
  ∧ (∀ sco f, StoreWord (.stRel sco f) f { acq := none, rel := some (scCode sco) })
/-- R234, R243: an SC load or store is checked, takes the next serial of its core's clock as its stamp, and waits at the home of its address. -/
def Obligations.ScWords : Prop :=
  (∀ (f : FmtA) s gid g k s1 s2 t2 s3 vs dst p, s.Turn gid g k f.hdr anyRole → s.Room k f.hdr → operands k (plainOps [f.a, f.b]) (some (f.d, none)) s = (.ok (vs, dst), s1) →
    addrAB (src vs 0) (src vs 1) % (fieldBits f.d / 8) = 0 → locate k (addrAB (src vs 0) (src vs 1)) (fieldBits f.d / 8) 1 s1 = (.ok p, s2) → s2.mustWait k false true = false →
    (∀ off, p = .spad off → s2.orphanBytes (s2.thr k).team off (fieldBits f.d / 8) = false) → (∀ pa, p = .dev pa → raceCheck k (addrAB (src vs 0) (src vs 1)) pa true false 2 s2 = (.ok (), t2)) → ((∀ pa, p ≠ .dev pa) → t2 = s2) →
    holdSc k f.hdr dst (addrAB (src vs 0) (src vs 1)) (fieldBits f.d / 8) p .load 0 0 0 t2 = (.ok (), s3) → exec (.ldSc f) s = .next (movedNext gid g 1 s3))
  ∧ (∀ (f : FmtA) s gid g k s1 t1 s2 s3 vs x p0 p, s.Turn gid g k f.hdr anyRole → s.Room k f.hdr → operands k (plainOps [f.a, f.b, f.d]) none s = (.ok (vs, x), s1) →
    addrAB (src vs 0) (src vs 1) % (fieldBits f.d / 8) = 0 → locate k (addrAB (src vs 0) (src vs 1)) (fieldBits f.d / 8) 2 s1 = (.ok p0, t1) → t1.mustWait k true true = false →
    storeCheck k (addrAB (src vs 0) (src vs 1)) (fieldBits f.d / 8) true .sc t1 = (.ok p, s2) →
    holdSc k f.hdr .nowhere (addrAB (src vs 0) (src vs 1)) (fieldBits f.d / 8) p .store (src vs 2).zx 0 0 s2 = (.ok (), s3) → exec (.stSc f) s = .next (movedNext gid g 1 s3))
  ∧ (∀ k h dst va n p op b d x s s', holdSc k h dst va n p op b d x s = (.ok (), s') →
      (s'.core (keyCore k)).clock = low 50 ((s.core (keyCore k)).clock + 2)
      ∧ ∃ a, s'.scHeld = s.scHeld ++ [a] ∧ a.clk = low 50 ((s.core (keyCore k)).clock + 1) ∧ a.core = keyCore k ∧ a.th = k ∧ a.op = op ∧ a.n = n)
/-- R89 to R91: spill writes and fill reads consecutive slices as nibbles at a nibble address; pf never traps and leaves every register alone; sbind binds a port, or unbinds it with a count of zero. -/
def Obligations.SpillFillStream : Prop :=
  (∀ (f : FmtA) s gid g k s1 s2 first c a v, s.Turn gid g k f.hdr anyRole → s.Room k f.hdr → spillOperands k f s = (.ok (first, c, a), s1) → readSlices k first c s1 = (.ok v, s1) →
    (c = 0 → later k f.hdr .nowhere 0 s1 = (.ok (), s2) → exec (.spill f) s = .next (movedNext gid g 1 s2))
    ∧ (∀ t4 t5, c ≠ 0 →
        forM' (pagesOf (byteSegs (a / 2) (leBytes ((a % 2 + c + (a + c) % 2) / 2) (low (4 * c) v * 2 ^ (4 * (a % 2))))))
          (fun p => do forM' p (fun g => spillCheck k a (a + c) g.1 g.2.length); forM' p fun g => spillPiece k a (a + c) g.1 g.2) s1 = (.ok (), t4) →
        later k f.hdr .nowhere 0 t4 = (.ok (), t5) → exec (.spill f) s = .next (movedNext gid g 1 t5)))
  ∧ (∀ k r n c s, (4096 < c ∨ (s.thr k).alloc + 64 < r + c) → sliceRange k (.slices r n) c s = (.error (.trap 6 0 0 0 0 0), s))
  ∧ (∀ k r n c s, c ≤ 4096 → r + c ≤ (s.thr k).alloc + 64 → sliceRange k (.slices r n) c s = (.ok r, s))
  ∧ (∀ k a e va b s s1 s2 s3 p lo hi, storeCheck k va b.length false .rlx s = (.ok p, s1) → edgeNibble k (2 * va) (decide (2 * va < a)) s1 = (.ok lo, s2) →
    edgeNibble k e (decide (e < 2 * (va + b.length))) s2 = (.ok hi, s3) →
    spillPiece k a e va b s = storePlace k p (leBytes b.length (ofLe b + (if 2 * va < a then low 4 lo else 0) + if e < 2 * (va + b.length) then bits hi 4 4 * 2 ^ (8 * b.length - 4) else 0)) .rlx s3)
  ∧ (∀ (f : FmtA) s gid g k s1 s2 s3 first c a b, s.Turn gid g k f.hdr anyRole → s.Room k f.hdr → spillOperands k f s = (.ok (first, c, a), s1) →
    coverDest k (.slices first c) s1 = (.ok (), s1) → loadSpan k (a / 2) (if c = 0 then 0 else (a % 2 + c + 1) / 2) false s1 = (.ok b, s2) →
    later k f.hdr (.slices first c) (ofLe b / 2 ^ (4 * (a % 2))) s2 = (.ok (), s3) → exec (.fill f) s = .next (movedNext gid g 1 s3))
  ∧ (∀ (f : FmtA) s gid g k s1 s2 vs x, s.Turn gid g k f.hdr anyRole → s.Room k f.hdr → operands k (plainOps [f.a, f.b]) none s = (.ok (vs, x), s1) →
    (prefetch k (low 64 ((src vs 0).zx + (src vs 1).sx)) s1).1 ≠ .error .hold → later k f.hdr .nowhere 0 (prefetch k (low 64 ((src vs 0).zx + (src vs 1).sx)) s1).2 = (.ok (), s2) → exec (.pf f) s = .next (movedNext gid g 1 s2))
  ∧ (∀ (f : FmtA) s gid g k s1 s2 vs x c w (port : StreamPort), s.Turn gid g k f.hdr anyRole → s.Room k f.hdr → f.d = .special c w →
    operands k (plainOps [f.a, f.b]) none s = (.ok (vs, x), s1) → (src vs 0).zx % 8 = 0 → bits (src vs 1).zx 48 15 = 0 → low 3 (src vs 1).zx = 0 →
    (s1.thr k).outst.any (fun o => o.dest.onPort (c.toNat - 16)) = false →
    port = (if bits (src vs 1).zx 32 16 = 0 then ⟨wd (src vs 0).zx, 0, 0⟩ else ⟨wd (src vs 0).zx, wd (src vs 1).zx, wd (2 ^ 63)⟩) →
    later k f.hdr .nowhere 0 (s1.modThr k fun t => { t with streams := dset StreamPort.unbound t.streams (c.toNat - 16) port }) = (.ok (), s2) →
    exec (.sbind f) s = .next (movedNext gid g 1 s2))

/-! ### Atomics, reductions, churn (12) -/

/-- R250 to R257: every atomic and reduction of every operation, at every order, in device memory, in the scratchpad, and held at the home when SC. R251, R254, Table 12-2: an integer atomic on a scratchpad word stores the new value and returns the old one, 0 for the spent value of ffcs where the table says so; no other byte of the scratchpad changes, and no byte of memory. -/
def Obligations.Atomics : Prop :=
  (∀ (f : FmtA) i op, (i, op) ∈ [(Instr.atmAdd f, AtomOp.add), (.atmMinS f, .minS), (.atmMinZ f, .minZ), (.atmMaxS f, .maxS), (.atmMaxZ f, .maxZ), (.atmAnd f, .and), (.atmOr f, .or),
      (.atmXor f, .xor), (.atmExch f, .exch), (.atmFfcs f, .ffcs), (.atmPlset f, .plset)] →
    AtomicWord i f.hdr [addrOp f.a, plainOp f.b] (some (plainOp f.d)) false (fieldBits f.d / 8) 3 (fieldCode f.a) op (fun vs => atomSrc op (fieldBits f.d) (src vs 1)) (fun vs => (src vs 2).zx) true)
  ∧ (∀ (f : FmtA) i op, (i, op) ∈ [(Instr.atmCas f, AtomOp.cas), (.atmBfi f, .bfi)] →
    AtomicWord i f.hdr [addrOp f.a, plainOp f.b] (some (plainOp f.d)) true (fieldBits f.d / 8) 3 (fieldCode f.a) op (fun vs => atomSrc op (fieldBits f.d) (src vs 1)) (fun vs => (src vs 2).zx) true)
  ∧ (∀ (f : FmtA), AtomicWord (.atmCas128 f) f.hdr [addrOp f.a, descOp f.b 2] (some (descOp f.d 2)) true 16 3 (fieldCode f.a) .cas (fun vs => (src vs 1).v) (fun vs => (src vs 2).v) true)
  ∧ (∀ (t : FType) (f : FmtA) i op, (i, op) ∈ [(Instr.atmAddFloat t f, AtomOp.addF t), (.atmMinFloat t f, .minF t), (.atmMaxFloat t f, .maxF t)] →
    AtomicWord i f.hdr [addrOp f.a, plainOp f.b] (some (plainOp f.d)) false (fieldBits f.d / 8) 3 (fieldCode f.a) op (fun vs => atomSrc op (fieldBits f.d) (src vs 1)) (fun vs => (src vs 2).zx) true)
  ∧ (∀ (f : FmtA) i op n, (i, op) ∈ [(Instr.redAdd f, AtomOp.add), (.redMinS f, .minS), (.redMinZ f, .minZ), (.redMaxS f, .maxS), (.redMaxZ f, .maxZ), (.redAnd f, .and), (.redOr f, .or), (.redXor f, .xor)] →
    n = (if isImm f.b then fieldBits f.d else fieldBits f.b) →
    AtomicWord i f.hdr [addrOp f.a, plainOp f.b] none false (n / 8) 2 (fieldCode f.a) op (fun vs => atomSrc op n (src vs 1)) (fun _ => 0) false)
  ∧ (∀ (t : FType) (f : FmtA) n, n = (if isImm f.b then fieldBits f.d else fieldBits f.b) →
    AtomicWord (.redAddFloat t f) f.hdr [addrOp f.a, plainOp f.b] none false (n / 8) 2 (fieldCode f.a) (.addF t) (fun vs => atomSrc (.addF t) n (src vs 1)) (fun _ => 0) false)
  ∧ (∀ k i off n op b d s v s', (n = 4 ∨ n = 8) → op ∈ [AtomOp.add, .minS, .minZ, .maxS, .maxZ, .and, .or, .xor, .exch, .cas, .bfi] →
    (tget s.teams i).isSome = true → Memory.wf (s.team i).spad = true →
    atomPad k i off n op b d none none s = (.ok v, s') →
    v = ofLe (s.spadGet i off n) ∧ s'.mem = s.mem ∧ s'.hostMem = s.hostMem
    ∧ (∀ x, atomNew op (8 * n) (ofLe (s.spadGet i off n)) b d = some x → (s'.team i).spad = memPutN (s.team i).spad off (leBytes n x))
    ∧ (∀ a, a < off ∨ off + n ≤ a → memGet (s'.team i).spad a = memGet (s.team i).spad a))
/-- R260 to R263, R286: chup combines the element with the scratchpad bytes, with the row of a mapped line, or with the issuing core's partial; chfl merges a line that is in the Churn state and answers 0, any other 1. -/
def Obligations.ChurnWords : Prop :=
  (∀ g' (f : FmtA) s gid g k s1 s1' s2 vs x p, g' ≠ .addQ32 → s.Turn gid g k f.hdr anyRole → s.Room k f.hdr → operands k [addrOp f.a, plainOp f.b] none s = (.ok (vs, x), s1) →
    atomPlace k (src vs 0).zx (tagBits g' / 8) 2 false false s1 = (.ok p, s1') → atomCheck k (src vs 0).zx true p s1' = (.ok (), s2) →
    (∀ off s3 old s4, p = .spad off → old = s2.spadGet (s2.thr k).team off (tagBits g' / 8) →
      s3 = (s2.spadPut (s2.thr k).team off (leBytes (tagBits g' / 8) (churnBits g' (8 * (tagBits g' / 8)) (ofLe old) (ofLe (leBytes (tagBits g' / 8) (src vs 1).zx))))) →
      later k f.hdr .nowhere 0 (s3.padRecords (s2.thr k).team off (tagBits g' / 8) (s3.tagOf (s2.thr k).team) (s2.core (keyCore k)).clock .churn) = (.ok (), s4) →
      exec (.chup g' f) s = .next (movedNext gid g 1 s4))
    ∧ (∀ pa s3 s4, p = .dev pa → s2.mapOf (lineOf pa) = none → joinLine (keyCore k) (lineOf pa) g' 0 s2 = (.ok true, s3) →
      later k f.hdr .nowhere 0 ((s3.addPartial (keyCore k) (lineOf pa) (pa % 128) g' (leBytes (tagBits g' / 8) (src vs 1).zx)).recordWrite (lineOf pa)
        ((s3.addPartial (keyCore k) (lineOf pa) (pa % 128) g' (leBytes (tagBits g' / 8) (src vs 1).zx)).tagOf (s2.thr k).team) (s2.core (keyCore k)).clock .churn) = (.ok (), s4) →
      exec (.chup g' f) s = .next (movedNext gid g 1 s4)))
  ∧ (∀ (f : FmtA) s gid g k s1 s1' s2 s3 vs x p, s.Turn gid g k f.hdr anyRole → s.Room k f.hdr → operands k [addrOp f.a, plainOp f.b, plainOp f.d] none s = (.ok (vs, x), s1) →
    atomPlace k (src vs 0).zx 8 2 false false s1 = (.ok p, s1') → atomCheck k (src vs 0).zx true p s1' = (.ok (), s2) → scaleOf (src vs 2) = none → laterErr k f.hdr .nowhere 0 0x3000 4 s2 = (.ok (), s3) →
    exec (.chup .addQ32 f) s = .next (movedNext gid g 1 s3))
  ∧ (∀ (f : FmtA) s gid g k s1 s2 vs dst p, s.Turn gid g k f.hdr anyRole → s.Room k f.hdr → operands k [addrOp f.a] (some (plainOp f.d)) s = (.ok (vs, dst), s1) →
    locateAtom k (src vs 0).zx 1 1 s1 = (.ok p, s2) →
    (∀ off s3, p = .spad off → later k f.hdr dst 1 s2 = (.ok (), s3) → exec (.chfl f) s = .next (movedNext gid g 1 s3))
    ∧ (∀ pa g' sg v s3 s4, p = .dev pa → (s2.unbusy (lineOf pa)).dirOf (lineOf pa) = .churn g' sg v → clearPeers (lineOf pa) (s2.unbusy (lineOf pa)) = (.ok (), s3) →
        later k f.hdr dst 0 (s3.mergeLine (lineOf pa) true) = (.ok (), s4) → exec (.chfl f) s = .next (movedNext gid g 1 s4)))

/-! ### Fences, barriers, mappings, windows (12) -/

/-- R264, R265: fence.pod waits for the pod floor to pass the core's clock, a lesser fence for the thread's SC accesses and fabric loads that are not yet performed; sfence takes a stamp and waits for the floor to pass it. -/
def Obligations.Fences : Prop :=
  (∀ (f : FmtA), immOf f.b = some 6 → WaitWord (.fence f) f.hdr anyRole [] (plainOp f.d) fun s k _ => some (0, .floor (s.core (keyCore k)).clock))
  ∧ (∀ (f : FmtA), immOf f.b ≠ some 6 → WaitWord (.fence f) f.hdr anyRole [] (plainOp f.d) fun s k _ => some (0, s.fenceWait k))
  ∧ (∀ (f : FmtA) s gid g k s1 s2 s3 vs dst st, s.Turn gid g k f.hdr anyRole → s.Room k f.hdr → operands k [] (some (plainOp f.d)) s = (.ok (vs, dst), s1) →
    takeSerial (keyCore k) s1 = (.ok st, s2) → laterWait k f.hdr dst 0 (.floor st) s2 = (.ok (), s3) → exec (.sfence f) s = .next (movedNext gid g 1 s3) ∧ st = low 50 ((s1.core (keyCore k)).clock + 1))
/-- R266 to R268: bar and barw arrive, or answer status 1 for another mask and 2 for a group outside the mask; bar waits for the phase; twait tells whether a phase has completed. R266: an arrival that makes the need of the open phase zero completes it: the phase increments and the arrivals and the mask are emptied; a first arrival takes its mask, a later one with another mask is refused with status 1. -/
def Obligations.BarrierWords : Prop :=
  (∀ (f : FmtA) s gid g k s1 s2 s3 vs dst st p, s.Turn gid g k f.hdr anyRole → s.Room k f.hdr → operands k [plainOp f.b] (some (plainOp f.d)) s = (.ok (vs, dst), s1) →
    arrive k (barOperand (src vs 0)).1 (barOperand (src vs 0)).2 s1 = (.ok (st, p), s2) →
    (st = 0 → laterWait k f.hdr dst p (.barrier (barOperand (src vs 0)).1 p) s2 = (.ok (), s3) → exec (.bar f) s = .next (movedNext gid g 1 s3))
    ∧ (st ≠ 0 → later k f.hdr dst (st * 2 ^ 60 + p) s2 = (.ok (), s3) → exec (.bar f) s = .next (movedNext gid g 1 s3))
    ∧ (later k f.hdr dst (st * 2 ^ 60 + p) s2 = (.ok (), s3) → exec (.barw f) s = .next (movedNext gid g 1 s3)))
  ∧ (∀ (f : FmtA), StatusWord (.twait f) f.hdr anyRole [plainOp f.b] (plainOp f.d) fun s k vs =>
      some (if low 32 ((dget Barrier.empty (s.team (s.thr k).team).barriers (low 4 (src vs 0).zx)).phase + 2 ^ 32 - low 32 (bits (src vs 0).zx 32 32) + 2 ^ 32 - 1) < 2 ^ 31 then 1 else 0))
  ∧ (∀ (s : State) i b x, tget s.teams i ≠ none → x = dget Barrier.empty (s.team i).barriers b → dwf Barrier.empty (s.team i).barriers = true → x.arrived ≠ [] → s.barNeed i b = 0 →
    dget Barrier.empty ((s.barCheck i b).team i).barriers b = { phase := low 32 (x.phase + 1), mask := 0, arrived := [] })
  ∧ (∀ (s : State) i b, s.barNeed i b ≠ 0 → s.barCheck i b = s)
  ∧ (∀ k b m (s : State) x, x = dget Barrier.empty (s.team (s.thr k).team).barriers b → x.arrived ≠ [] → s.barMask (s.thr k).team m ≠ x.mask → arrive k b m s = (.ok (1, x.phase), s))
  ∧ (∀ k b m (s : State) x, x = dget Barrier.empty (s.team (s.thr k).team).barriers b → x.arrived = [] → bitAt (s.barMask (s.thr k).team m) (s.thr k).grp = false → arrive k b m s = (.ok (2, x.phase), s))
/-- R269 to R271: map answers what the range gives, or waits while a page is out; unmap ends a mapping; windows open and close on lines of one mapping. A waiting map is tried every cycle (log entry 17). -/
def Obligations.MappingWords : Prop :=
  (∀ (f : FmtA) s gid g k s1 s2 s3 vs dst r, s.Turn gid g k f.hdr anyRole → s.Room k f.hdr → operands k [descOp f.a 2] (some (plainOp f.d)) s = (.ok (vs, dst), s1) →
    tryMap k (quadOf (src vs 0) 0) (bits (quadOf (src vs 0) 1) 32 32) (low 32 (quadOf (src vs 0) 1)) s1 = (.ok r, s2) →
    (∀ v, r = some v → later k f.hdr dst v s2 = (.ok (), s3) → exec (.map f) s = .next (movedNext gid g 1 s3))
    ∧ (r = none → laterWait k f.hdr dst 0 (.map (quadOf (src vs 0) 0) (bits (quadOf (src vs 0) 1) 32 32) (low 32 (quadOf (src vs 0) 1))) s2 = (.ok (), s3) → exec (.map f) s = .next (movedNext gid g 1 s3)))
  ∧ (∀ (f : FmtA), StatusWord (.unmap f) f.hdr anyRole [plainOp f.a] (plainOp f.d) fun s k vs =>
      if (s.team (s.thr k).team).maps.any fun m => m.va == (src vs 0).zx then none else some 1)
  ∧ (∀ (f : FmtA) s gid g k s1 s2 vs dst m, s.Turn gid g k f.hdr anyRole → s.Room k f.hdr → operands k [plainOp f.a] (some (plainOp f.d)) s = (.ok (vs, dst), s1) →
    (s1.team (s1.thr k).team).maps.find? (fun m => m.va == (src vs 0).zx) = some m → s1.throughWindows (s1.team (s1.thr k).team).core m.lines = [] →
    later k f.hdr dst 0 (s1.unmapOne (s1.thr k).team m) = (.ok (), s2) → exec (.unmap f) s = .next (movedNext gid g 1 s2))
  ∧ (∀ (f : FmtA), StatusWord (.wopen f) f.hdr anyRole (plainOps [f.a, f.b]) (plainOp f.d) fun s k vs =>
      if low 8 (src vs 1).zx = 0 || bits (src vs 1).zx 11 53 ≠ 0 then some 3
      else if bitAt (src vs 1).zx 8 && 4 * coreCluster (s.team (s.thr k).team).core + bits (src vs 1).zx 9 2 = (s.team (s.thr k).team).core then some 3
      else if s.windowLines (s.thr k).team (src vs 0).zx (low 8 (src vs 1).zx) = none then some 1 else none)
  ∧ (∀ (f : FmtA) s gid g k s1 s2 vs dst ls (t : Team) (ws : List PadWindow), s.Turn gid g k f.hdr anyRole → s.Room k f.hdr → operands k (plainOps [f.a, f.b]) (some (plainOp f.d)) s = (.ok (vs, dst), s1) →
    t = s1.team (s1.thr k).team → low 8 (src vs 1).zx ≠ 0 → bits (src vs 1).zx 11 53 = 0 → bitAt (src vs 1).zx 8 = false → s1.windowLines (s1.thr k).team (src vs 0).zx (low 8 (src vs 1).zx) = some ls →
    (ls.any fun l => t.windows.any fun w => w.pa == 128 * l) = false → t.windows.length + low 8 (src vs 1).zx ≤ 64 →
    ws = ls.map (fun l => ⟨128 * l, false, 4 * coreCluster t.core + bits (src vs 1).zx 9 2⟩) →
    later k f.hdr dst 0 (s1.modTeam (s1.thr k).team fun t => { t with windows := t.windows ++ ws }) = (.ok (), s2) → exec (.wopen f) s = .next (movedNext gid g 1 s2))
  ∧ (∀ (f : FmtA) s gid g k s1 s2 vs dst ls, s.Turn gid g k f.hdr anyRole → s.Room k f.hdr → operands k (plainOps [f.a, f.b]) (some (plainOp f.d)) s = (.ok (vs, dst), s1) →
    s1.windowLines (s1.thr k).team (src vs 0).zx (src vs 1).zx = some ls → (ls.all fun l => (s1.team (s1.thr k).team).windows.any fun w => w.pa == 128 * l) = true →
    laterWait k f.hdr dst 0 (.window (s1.throughWindows (s1.team (s1.thr k).team).core ls)) (s1.modTeam (s1.thr k).team fun t => { t with windows := t.windows.filter fun w => !ls.contains (w.pa / 128) }) = (.ok (), s2) →
    exec (.wclose f) s = .next (movedNext gid g 1 s2))

/-! ### Engine words (09) -/

/-- R187, R188, R193 to R195, R199 to R203: a command word appends its command, not yet started, to the team's queues, keeping the order of acceptance; mma only from the group that holds the carabiner. -/
def Obligations.EngineCommands : Prop :=
  (∀ (f : FmtA) s gid g k s1 s2 vs dst, s.Turn gid g k f.hdr matRoles → s.Room k f.hdr → (s.team (s.thr k).team).carabiner = some (s.thr k).grp →
    operands k [descOp f.a 4] (some (plainOp f.d)) s = (.ok (vs, dst), s1) → acceptCmd k f.hdr dst .mma .matrix (digits 64 4 (src vs 0).v) none 0 s1 = (.ok (), s2) →
    exec (.mma f) s = .next (movedNext gid g 1 s2))
  ∧ (∀ (f : FmtA), CommandWord (.macc f) f.hdr matRoles (plainOps [f.a, f.b]) (plainOp f.d) .macc .matrix (fun vs => [(src vs 0).zx, (src vs 1).zx]) (fun _ => none) (fun _ => 0))
  ∧ (∀ (f : FmtA), CommandWord (.mzero f) f.hdr matRoles [] (plainOp f.d) .mzero .matrix (fun _ => [((immOf f.b).getD 0).toNat]) (fun _ => none) (fun _ => 0))
  ∧ (∀ (f : FmtA) i kind q n, (i, kind, q, n) ∈ [(Instr.cpy f, CmdKind.cpy, EngineQueue.copy, 3), (.cpy2d f, .cpy2d, .copy, 4), (.cpyg f, .cpyg, .copy, 5), (.cvq f, .cvq, .converter, 4), (.cvd f, .cvd, .converter, 4)] →
    (unused f.b = true → CommandWord i f.hdr copyRoles [descOp f.a n] (plainOp f.d) kind q (fun vs => digits 64 n (src vs 0).v) (fun _ => none) (·.fmode))
    ∧ (unused f.b = false → CommandWord i f.hdr copyRoles [descOp f.a n, plainOp f.b] (plainOp f.d) kind q (fun vs => digits 64 n (src vs 0).v) (fun vs => some (src vs 1).zx) (·.fmode)))
  ∧ (∀ k h d kind q quads bind mode s s', (tget s.teams (s.thr k).team).isSome = true → acceptCmd k h d kind q quads bind mode s = (.ok (), s') →
    ∃ c : Cmd, (s'.team (s.thr k).team).queues = (s.team (s.thr k).team).queues ++ [c] ∧ c.kind = kind ∧ c.queue = q ∧ c.th = k ∧ c.quads = quads ∧ c.bind = bind ∧ c.started = false
      ∧ s'.mem = s.mem ∧ s'.hostMem = s.hostMem)
/-- R197, R198, R215: mwait waits for the commands on a slot, mrow gives the progress word, qfence waits for every command accepted before it into the queues of its mask. -/
def Obligations.EngineWaits : Prop :=
  (∀ (f : FmtA) s gid g k s1 s2 vs dst slot, s.Turn gid g k f.hdr matRoles → s.Room k f.hdr → operands k [] (some (plainOp f.d)) s = (.ok (vs, dst), s1) →
    slot = low 4 (immNat f.b) → bitAt (immNat f.b) 4 = false →
    ((s1.team (s1.thr k).team).queues.any (fun c => c.slot = some slot) = true → laterWait k f.hdr dst ((tget (s1.team (s1.thr k).team).slotLast slot).getD 0) (.slotDone slot s1.nextId) s1 = (.ok (), s2) →
      exec (.mwait f) s = .next (movedNext gid g 1 s2))
    ∧ ((s1.team (s1.thr k).team).queues.any (fun c => c.slot = some slot) = false → later k f.hdr dst ((tget (s1.team (s1.thr k).team).slotLast slot).getD 0) s1 = (.ok (), s2) →
      exec (.mwait f) s = .next (movedNext gid g 1 s2)))
  ∧ (∀ (f : FmtA), ActWord (.mrow f) f.hdr matRoles 1 [] f.d 4 fun k _ => view fun s => (dget AccSlot.empty (s.team (s.thr k).team).acc (immNat f.b)).word s.now)
  ∧ (∀ (f : FmtA), StatusWord (.qfence f) f.hdr anyRole [] (plainOp f.d) fun s k _ => if s.queuesDone (s.thr k).team (immNat f.b) s.nextId then some 0 else none)
  ∧ (∀ (f : FmtA), WaitWord (.qfence f) f.hdr anyRole [] (plainOp f.d) fun s k _ =>
      if s.queuesDone (s.thr k).team (immNat f.b) s.nextId then none else some (0, .queues (immNat f.b) s.nextId))

/-! ### Rings, the carabiner, the guest die (09) -/

/-- R204, R206 to R210: pinit takes a good descriptor and waits for its effect, or reports an error; pwait answers 4 for a bad binding, the status of a stage that has one, 1 when it may not wait, and waits else; prel acts on a stage; pphase reads its word. Releasing a Landed stage makes it Filling with count 0, or Ended when its registry is empty; any other stage answers 1 and stays; a stage that has Failed or Ended takes no join. -/
def Obligations.RingWords : Prop :=
  (∀ (f : FmtA) s gid g k s1 s2 vs dst, s.Turn gid g k f.hdr anyRole → s.Room k f.hdr → operands k [descOp f.a 2] (some (plainOp f.d)) s = (.ok (vs, dst), s1) →
    pinitOk (quadOf (src vs 0) 0) (quadOf (src vs 0) 1) (s1.team (s1.thr k).team).spadSize (s1.team (s1.thr k).team).groups.length = false →
    laterErr k f.hdr dst 0x3000 0x3000 1 s1 = (.ok (), s2) → exec (.pinit f) s = .next (movedNext gid g 1 s2))
  ∧ (∀ (f : FmtA) s gid g k s1 s2 vs dst q0 q1 oid (p : PInit), s.Turn gid g k f.hdr anyRole → s.Room k f.hdr → operands k [descOp f.a 2] (some (plainOp f.d)) s = (.ok (vs, dst), s1) →
    q0 = quadOf (src vs 0) 0 → q1 = quadOf (src vs 0) 1 → pinitOk q0 q1 (s1.team (s1.thr k).team).spadSize (s1.team (s1.thr k).team).groups.length = true →
    issueVar k f.hdr.sc.toNat dst 0 1 none (.command s1.nextId) false none 1 { s1 with nextId := s1.nextId + 1 } = (.ok oid, s2) →
    p = ⟨s1.nextId, k, bits q0 0 20, bits q1 0 20, bits q1 20 21, bits q0 27 5, bits q0 32 32⟩ →
    exec (.pinit f) s = .next (movedNext gid g 1 (s2.modTeam (s1.thr k).team fun t => { t with inits := t.inits ++ [p] })))
  ∧ (∀ (f : FmtA), StatusWord (.pwait f) f.hdr anyRole [plainOp f.a] (plainOp f.d) fun s k vs =>
      match s.bindOf (s.thr k).team (src vs 0).zx with
      | none => some 4
      | some b => match b.2.2.waitStatus (low 1 (immNat f.b)) (bitAt (immNat f.b) 1) with
        | some v => some v
        | none => if bitAt (immNat f.b) 2 then some 1 else none)
  ∧ (∀ (f : FmtA), WaitWord (.pwait f) f.hdr anyRole [plainOp f.a] (plainOp f.d) fun s k vs =>
      match s.bindOf (s.thr k).team (src vs 0).zx with
      | none => none
      | some b => match b.2.2.waitStatus (low 1 (immNat f.b)) (bitAt (immNat f.b) 1) with
        | some _ => none
        | none => if bitAt (immNat f.b) 2 then none else some (0, .stage b.1 b.2.1 (low 1 (immNat f.b)) (bitAt (immNat f.b) 1)))
  ∧ (∀ (f : FmtA) i mode, (i, mode) ∈ [(Instr.prelRelease f, 0), (.prelLeave f, 1), (.prelJoin f, 2)] →
    StatusWord i f.hdr anyRole [plainOp f.a] (plainOp f.d) (fun s k vs => if s.bindOf (s.thr k).team (src vs 0).zx = none then some 4 else none)
    ∧ (∀ s gid g k s1 s2 vs dst h n st, s.Turn gid g k f.hdr anyRole → s.Room k f.hdr → operands k [plainOp f.a] (some (plainOp f.d)) s = (.ok (vs, dst), s1) →
      s1.bindOf (s1.thr k).team (src vs 0).zx = some (h, n, st) → (mode = 0 → s1.mustSignal k = false) →
      later k f.hdr dst (st.prel mode (s1.thr k).grp).2 (s1.modStage (s1.thr k).team h n fun _ => (st.prel mode (s1.thr k).grp).1) = (.ok (), s2) →
      exec i s = .next (movedNext gid g 1 s2)))
  ∧ (∀ (f : FmtA), ActWord (.pphase f) f.hdr anyRole 1 [f.a] f.d 4 fun k vs => view fun s =>
      match s.bindOf (s.thr k).team (src vs 0).zx with
      | none => 0xFF00
      | some b => b.2.2.word)
  ∧ (∀ (st : Stage) g, st.state = 2 → st.registry ≠ 0 → st.prel 0 g = ({ st with state := 0, count := 0 }, 0))
  ∧ (∀ (st : Stage) g, st.state = 2 → st.registry = 0 → st.prel 0 g = ({ st with state := 4, count := 0 }, 0))
  ∧ (∀ (st : Stage) g, st.state ≠ 2 → st.prel 0 g = (st, 1))
  ∧ (∀ (st : Stage) g, st.state = 3 → st.prel 2 g = (st, 2)) ∧ (∀ (st : Stage) g, st.state = 4 → st.prel 2 g = (st, 3))
  ∧ (∀ (st : Stage) g, st.state ≠ 3 → st.state ≠ 4 → st.prel 2 g = ({ st with registry := Nat.lor st.registry (2 ^ g) }, 0))
/-- R213, R214, R370 to R372: cbpass hands the carabiner on or answers 3, 1 or 2; cbwait answers at once or waits; gsub appends a packet and answers its ticket in the order of its queue, or the status of a fenced, absent or full queue; gwait waits for a ticket that is outstanding. -/
def Obligations.CarabinerAndGuest : Prop :=
  (∀ (f : FmtA) s gid g k s1 s2 vs dst t target, s.Turn gid g k f.hdr matRoles → s.Room k f.hdr → operands k [] (some (plainOp f.d)) s = (.ok (vs, dst), s1) →
    t = s1.team (s1.thr k).team → (immOf f.b = some target ∧ 0 ≤ target ∨ immOf f.b = some (-1) ∧ target = ((t.carNext (s1.thr k).grp).getD (s1.thr k).grp : Nat)) →
    (t.pair = false → later k f.hdr dst 3 s1 = (.ok (), s2) → exec (.cbpass f) s = .next (movedNext gid g 1 s2))
    ∧ (t.pair = true → t.carabiner ≠ some (s1.thr k).grp → later k f.hdr dst 1 s1 = (.ok (), s2) → exec (.cbpass f) s = .next (movedNext gid g 1 s2))
    ∧ (t.pair = true → t.carabiner = some (s1.thr k).grp → (t.carList.contains target.toNat && (t.groups[target.toNat]?.elim false (·.live))) = false → later k f.hdr dst 2 s1 = (.ok (), s2) →
      exec (.cbpass f) s = .next (movedNext gid g 1 s2))
    ∧ (t.pair = true → t.carabiner = some (s1.thr k).grp → (t.carList.contains target.toNat && (t.groups[target.toNat]?.elim false (·.live))) = true → s1.mustSignal k = false →
      later k f.hdr dst 0 (if target.toNat = (s1.thr k).grp then s1 else s1.giveCarabiner (s1.thr k).team (some target.toNat)) = (.ok (), s2) →
      exec (.cbpass f) s = .next (movedNext gid g 1 s2)))
  ∧ (∀ (f : FmtA), StatusWord (.cbwait f) f.hdr matRoles [] (plainOp f.d) fun s k _ =>
      if (s.team (s.thr k).team).pair = false then some 3
      else if (s.team (s.thr k).team).carabiner = some (s.thr k).grp then some 0 else if bitAt (immNat f.b) 0 then some 1 else none)
  ∧ (∀ (f : FmtA), WaitWord (.cbwait f) f.hdr matRoles [] (plainOp f.d) fun s k _ =>
      if (s.team (s.thr k).team).pair = true ∧ (s.team (s.thr k).team).carabiner ≠ some (s.thr k).grp ∧ bitAt (immNat f.b) 0 = false then some (0, .carabiner) else none)
  ∧ (∀ (f : FmtA) s gid g k s1 s2 s3 vs dst b, s.Turn gid g k f.hdr anyRole → s.Room k f.hdr → operands k (plainOps [f.a, f.b]) (some (plainOp f.d)) s = (.ok (vs, dst), s1) →
    (src vs 0).zx % 64 = 0 → s1.fencedOff (s1.thr k).team 3 s1.nextId = false → loadSpanPlain k (src vs 0).zx 64 s1 = (.ok b, s2) →
    (s2.socket.fenced = true → later k f.hdr dst (7 * 2 ^ 28) s2 = (.ok (), s3) → exec (.gsub f) s = .next (movedNext gid g 1 s3))
    ∧ (s2.socket.fenced = false → (s2.socket.ready = false ∨ tget s2.socket.queues (src vs 1).zx = none) → later k f.hdr dst (3 * 2 ^ 28) s2 = (.ok (), s3) →
      exec (.gsub f) s = .next (movedNext gid g 1 s3))
    ∧ (∀ x, s2.socket.fenced = false → s2.socket.ready = true → tget s2.socket.queues (src vs 1).zx = some x → x.size ≤ x.packets.length → later k f.hdr dst (2 ^ 28) s2 = (.ok (), s3) →
      exec (.gsub f) s = .next (movedNext gid g 1 s3))
    ∧ (∀ x t s4, s2.socket.fenced = false → s2.socket.ready = true → tget s2.socket.queues (src vs 1).zx = some x → x.packets.length < x.size →
      appendGuest k (src vs 1).zx x b s2 = (.ok t, s4) → laterWait k f.hdr dst t (.inQueue 3 s2.nextId) s4 = (.ok (), s3) → exec (.gsub f) s = .next (movedNext gid g 1 s3)))
  ∧ (∀ (f : FmtA) s gid g k s1 s2 vs dst, s.Turn gid g k f.hdr anyRole → s.Room k f.hdr → operands k (plainOps [f.a, f.b]) (some (plainOp f.d)) s = (.ok (vs, dst), s1) →
    (s1.socket.fenced = true → laterErr k f.hdr dst 0x7000 0x7000 3 s1 = (.ok (), s2) → exec (.gwait f) s = .next (movedNext gid g 1 s2))
    ∧ (∀ x oid, s1.socket.fenced = false → tget s1.socket.queues (src vs 0).zx = some x → x.packets.any (·.ticket == (src vs 1).zx) = true →
      issueVar k f.hdr.sc.toNat dst 0 1 none (.guest (src vs 0).zx (src vs 1).zx) false none 3 s1 = (.ok oid, s2) → exec (.gwait f) s = .next (movedNext gid g 1 s2))
    ∧ (s1.socket.fenced = false → (∀ x, tget s1.socket.queues (src vs 0).zx = some x → x.packets.any (·.ticket == (src vs 1).zx) = false) → later k f.hdr dst 0 s1 = (.ok (), s2) →
      exec (.gwait f) s = .next (movedNext gid g 1 s2)))

/-! ### Phasers and the fabric (15) -/

/-- R300 to R308, R334: a handle that cannot be used answers its status; phreg, phleave and phsig send their message and wait for it; phsigb and phany take the phase and wait at the port for the covered writes; phwait waits for the word of a phase, phtry answers it or status 1; phget reads the phaser. The path of a message to a pod phaser where no image gives it is the model's own (log entry 10). -/
def Obligations.PhaserWords : Prop :=
  (∀ (f : FmtA) i u e, (i, u) ∈ [(Instr.phreg f, unitField f.b), (.phleave f, unitField f.b), (.phsig f, unitField f.b), (.phsigb f, unitField f.b), (.phany f, 0), (.phwait f, 0), (.phtry f, 0), (.phget f, 0)] →
    StatusWord i f.hdr anyRole (phaserOps f) (plainOp f.d) fun s k vs =>
      if s.regOnWay (s.unitOf k u) (wd (src vs 0).zx) then none
      else match s.phaserFor k (src vs 0).zx u with | .error x => if x = e then some (e * 2 ^ 60) else none | .ok _ => none)
  ∧ (∀ (f : FmtA) s gid g k s1 s2 vs dst h u p, s.Turn gid g k f.hdr anyRole → s.Room k f.hdr → operands k (phaserOps f) (some (plainOp f.d)) s = (.ok (vs, dst), s1) →
    h = (src vs 0).zx → u = unitField f.b → s1.regOnWay (s1.unitOf k u) (wd h) = false → s1.phaserFor k h u = .ok p →
    (p.domain ≠ 0 → s1.domainOf (s1.launchOf k).tenant ≠ p.domain → later k f.hdr dst (7 * 2 ^ 60) s1 = (.ok (), s2) → exec (.phreg f) s = .next (movedNext gid g 1 s2))
    ∧ ((p.domain = 0 ∨ s1.domainOf (s1.launchOf k).tenant = p.domain) → u ≠ 2 → p.find s1.devno (s1.unitOf k u) = none → 64 ≤ s1.teamRegs (s1.thr k).team → later k f.hdr dst (8 * 2 ^ 60) s1 = (.ok (), s2) →
      exec (.phreg f) s = .next (movedNext gid g 1 s2))
    ∧ ((p.domain = 0 ∨ s1.domainOf (s1.launchOf k).tenant = p.domain) → (u = 2 ∨ p.find s1.devno (s1.unitOf k u) ≠ none ∨ s1.teamRegs (s1.thr k).team < 64) →
      laterWait k f.hdr dst p.p (.message s1.nextId) { s1 with nextId := s1.nextId + 1 } = (.ok (), s2) →
      exec (.phreg f) s = .next (movedNext gid g 1 (s2.sendBelay s1.nextId (some k) (unitCore k u) (s2.unitOf k u) (wd h) (.reg (bitAt (immNat f.b) 0) (bitAt (immNat f.b) 1)) false [])))
    ∧ (laterWait k f.hdr dst p.p (.message s1.nextId) { s1 with nextId := s1.nextId + 1 } = (.ok (), s2) →
      exec (.phleave f) s = .next (movedNext gid g 1 (s2.sendBelay s1.nextId (some k) (unitCore k u) (s2.unitOf k u) (wd h) .leave false []))))
  ∧ (∀ (f : FmtA) s gid g k s1 s2 vs dst h u p, s.Turn gid g k f.hdr anyRole → s.Room k f.hdr → operands k (phaserOps f) (some (plainOp f.d)) s = (.ok (vs, dst), s1) →
    h = (src vs 0).zx → u = unitField f.b → s1.regOnWay (s1.unitOf k u) (wd h) = false → s1.phaserFor k h u = .ok p → (p.find s1.devno (s1.unitOf k u)).filter (·.sig) = none → later k f.hdr dst (4 * 2 ^ 60 + p.p) s1 = (.ok (), s2) →
    exec (.phsig f) s = .next (movedNext gid g 1 s2) ∧ exec (.phsigb f) s = .next (movedNext gid g 1 s2))
  ∧ (∀ (f : FmtA) s gid g k s1 s2 s3 vs dst h u p r st, s.Turn gid g k f.hdr anyRole → s.Room k f.hdr → operands k (phaserOps f) (some (plainOp f.d)) s = (.ok (vs, dst), s1) →
    h = (src vs 0).zx → u = unitField f.b → s1.regOnWay (s1.unitOf k u) (wd h) = false → s1.phaserFor k h u = .ok p → (p.find s1.devno (s1.unitOf k u)).filter (·.sig) = some r →
    (u = 1 → acceptCmd k f.hdr dst .phsig .copy [(wd h).toNat, r.r] none 0 s1 = (.ok (), s2) → takePhase (wd h) (s2.unitOf k u) s2 = (.ok (), s3) →
      exec (.phsig f) s = .next (movedNext gid g 1 s3))
    ∧ (∀ t, u ≠ 1 → s1.mustSignal k = false → takePhase (wd h) (s1.unitOf k u) s1 = (.ok (), s2) → takeSerial (keyCore k) s2 = (.ok st, t) → laterWait k f.hdr dst r.r (.message t.nextId) { t with nextId := t.nextId + 1 } = (.ok (), s3) →
      exec (.phsig f) s = .next (movedNext gid g 1 (s3.sendBelay t.nextId (some k) (unitCore k u) (s3.unitOf k u) (wd h) (.signal r.r plainFinder st false) false []))))
  ∧ (∀ (f : FmtA) s gid g k s1 s2 vs dst h u p r, s.Turn gid g k f.hdr anyRole → s.Room k f.hdr → operands k (phaserOps f) (some (plainOp f.d)) s = (.ok (vs, dst), s1) →
    h = (src vs 0).zx → u = unitField f.b → s1.regOnWay (s1.unitOf k u) (wd h) = false → s1.phaserFor k h u = .ok p → (p.find s1.devno (s1.unitOf k u)).filter (·.sig) = some r → boundSignal k f.hdr dst u (wd h) r.r plainFinder s1 = (.ok (), s2) →
    exec (.phsigb f) s = .next (movedNext gid g 1 s2))
  ∧ (∀ (f : FmtA) s gid g k s1 s2 vs dst h p, s.Turn gid g k f.hdr anyRole → s.Room k f.hdr → operands k (phaserOps f) (some (plainOp f.d)) s = (.ok (vs, dst), s1) →
    h = (src vs 0).zx → s1.regOnWay (s1.unitOf k 0) (wd h) = false → s1.phaserFor k h 0 = .ok p →
    ((p.anyOf = false ∨ low 32 (src vs 1).zx = plainFinder) → later k f.hdr dst (6 * 2 ^ 60) s1 = (.ok (), s2) → exec (.phany f) s = .next (movedNext gid g 1 s2))
    ∧ (p.anyOf = true → low 32 (src vs 1).zx ≠ plainFinder → (p.find s1.devno (s1.unitOf k 0)).filter (·.sig) = none → later k f.hdr dst (4 * 2 ^ 60 + p.p) s1 = (.ok (), s2) →
      exec (.phany f) s = .next (movedNext gid g 1 s2))
    ∧ (∀ r, p.anyOf = true → low 32 (src vs 1).zx ≠ plainFinder → (p.find s1.devno (s1.unitOf k 0)).filter (·.sig) = some r →
      boundSignal k f.hdr dst 0 (wd h) r.r (low 32 (src vs 1).zx) s1 = (.ok (), s2) → exec (.phany f) s = .next (movedNext gid g 1 s2))
    ∧ (later k f.hdr dst (b2n p.anyOf * 2 ^ 59 + min 65535 (p.need p.p p.c0).toNat * 2 ^ 32 + low 32 p.p) s1 = (.ok (), s2) → exec (.phget f) s = .next (movedNext gid g 1 s2)))
  ∧ (∀ (f : FmtA) s gid g k s1 s2 vs dst h p q, s.Turn gid g k f.hdr anyRole → s.Room k f.hdr → operands k (phaserOps f) (some (plainOp f.d)) s = (.ok (vs, dst), s1) →
    h = (src vs 0).zx → s1.regOnWay (s1.unitOf k 0) (wd h) = false → s1.phaserFor k h 0 = .ok p → q = low 32 (src vs 1).zx →
    ((p.find s1.devno (s1.unitOf k 0)).filter (·.wait) = none → later k f.hdr dst (4 * 2 ^ 60 + q) s1 = (.ok (), s2) →
      exec (.phwait f) s = .next (movedNext gid g 1 s2) ∧ exec (.phtry f) s = .next (movedNext gid g 1 s2))
    ∧ (∀ r v s3, (p.find s1.devno (s1.unitOf k 0)).filter (·.wait) = some r → p.result q = some v → acquirePhase k (wd h) s1 = (.ok (), s3) → later k f.hdr dst v s3 = (.ok (), s2) →
      exec (.phwait f) s = .next (movedNext gid g 1 s2) ∧ exec (.phtry f) s = .next (movedNext gid g 1 s2))
    ∧ (∀ r, (p.find s1.devno (s1.unitOf k 0)).filter (·.wait) = some r → p.result q = none → laterWait k f.hdr dst 0 (.phase (wd h) q) s1 = (.ok (), s2) → exec (.phwait f) s = .next (movedNext gid g 1 s2))
    ∧ (∀ r, (p.find s1.devno (s1.unitOf k 0)).filter (·.wait) = some r → p.result q = none → later k f.hdr dst (2 ^ 60 + q) s1 = (.ok (), s2) → exec (.phtry f) s = .next (movedNext gid g 1 s2)))
/-- R298, R309 to R312: fld and fatm send a request to the device and address that A names, of which fatm's order, operation and width are checked; fst sends a write and completes when it has left; bulk enters its transfer, or answers status 8. -/
def Obligations.FabricWords : Prop :=
  (∀ (f : FmtA) s gid g k s1 s2 s3 vs dst n va w, s.Turn gid g k f.hdr anyRole → s.Room k f.hdr → operands k [addrOp f.a, plainOp f.b] (some (plainOp f.d)) s = (.ok (vs, dst), s1) →
    n = fieldBits f.d / 8 → va = fabVa (src vs 0).zx (src vs 1).sx → va % n = 0 →
    (fieldCode f.a = 4 → takeSerial (keyCore k) s1 = (.ok w, s2)) → (fieldCode f.a ≠ 4 → w = (s1.core (keyCore k)).clock ∧ s2 = s1) →
    request k f.hdr dst (fabDev (src vs 0).zx) n va (fieldCode f.a) 0 (fieldCode f.a != 0) [] w s2 = (.ok (), s3) → exec (.fld f) s = .next (movedNext gid g 1 s3))
  ∧ (∀ (f : FmtA) s gid g k s1 s2 s3 s4 vs x n va w id, s.Turn gid g k f.hdr anyRole → s.Room k f.hdr → operands k [addrOp f.a, plainOp f.b, plainOp f.d] none s = (.ok (vs, x), s1) →
    n = fieldBits f.d / 8 → va = fabVa (src vs 0).zx (src vs 1).sx → va % n = 0 → s1.queueFull (fabDev (src vs 0).zx) = false →
    (fieldCode f.a = 2 → s1.threadQuiet k = true ∧ takeSerial (keyCore k) s1 = (.ok w, s2)) → (fieldCode f.a ≠ 2 → w = (s1.core (keyCore k)).clock ∧ s2 = s1) →
    sendWrite k (fabDev (src vs 0).zx) n va (fieldCode f.a) 1 (leBytes n (src vs 2).zx) w none 0 s2 = (.ok id, s3) →
    ((s3.leavesAtOnce (fabDev (src vs 0).zx) || s3.fabric.writes.all fun y => y.id != id) = true → later k f.hdr .nowhere 0 s3 = (.ok (), s4) → exec (.fst f) s = .next (movedNext gid g 1 s4))
    ∧ ((s3.leavesAtOnce (fabDev (src vs 0).zx) || s3.fabric.writes.all fun y => y.id != id) = false → laterWait k f.hdr .nowhere 0 (.sent id) s3 = (.ok (), s4) →
      exec (.fst f) s = .next (movedNext gid g 1 s4)))
  ∧ (∀ (f : FmtA) s gid g k s1 s2 s3 vs dst c n va w, s.Turn gid g k f.hdr anyRole → s.Room k f.hdr → operandsRw k [addrOp f.a, descOp f.b 2] (plainOp f.d) s = (.ok (vs, dst), s1) →
    c = quadOf (src vs 1) 0 → n = (if bitAt c 0 then 8 else 4) → va = fabVa (src vs 0).zx 0 → va % n = 0 → bits c 8 56 = 0 → bits c 1 2 = 0 → bits c 4 4 ≤ 7 → fieldBits f.d = 8 * n →
    (2 ≤ fieldCode f.a → takeSerial (keyCore k) s1 = (.ok w, s2)) → (fieldCode f.a < 2 → w = (s1.core (keyCore k)).clock ∧ s2 = s1) →
    request k f.hdr dst (fabDev (src vs 0).zx) n va (low 8 c + 256 * fieldCode f.a) 2 (ordAcq (fieldCode f.a) || fieldCode f.a == 4)
      (leBytes n (low (8 * n) (quadOf (src vs 1) 1)) ++ leBytes n (src vs 2).zx) w s2 = (.ok (), s3) →
    exec (.fatm f) s = .next (movedNext gid g 1 s3))
  ∧ (∀ (f : FmtA) s gid g k s1 s2 vs dst, s.Turn gid g k f.hdr anyRole → s.Room k f.hdr → operands k [descOp f.a 4] (some (plainOp f.d)) s = (.ok (vs, dst), s1) →
    bulkOk (quadOf (src vs 0) 1) (quadOf (src vs 0) 2) (quadOf (src vs 0) 3) = false → later k f.hdr dst (8 * 2 ^ 60) s1 = (.ok (), s2) → exec (.bulk f) s = .next (movedNext gid g 1 s2))
  ∧ (∀ (f : FmtA) s gid g k s1 s2 s3 vs dst id q0 q1 q2 q3 (b : BulkXfer), s.Turn gid g k f.hdr anyRole → s.Room k f.hdr → operands k [descOp f.a 4] (some (plainOp f.d)) s = (.ok (vs, dst), s1) →
    q0 = quadOf (src vs 0) 0 → q1 = quadOf (src vs 0) 1 → q2 = quadOf (src vs 0) 2 → q3 = quadOf (src vs 0) 3 → bulkOk q1 q2 q3 = true → s1.queueFull (fabDev q1) = false →
    enterWrite k (fabDev q1) 0 (s1.core (keyCore k)).clock noLaunch none true false s1 = (.ok id, s2) → laterWait k f.hdr dst 0 (.bulk id) s2 = (.ok (), s3) →
    b = ⟨id, k, q0, q1, bitAt q2 63, low 32 q2, q3, 0, 0, 0, 0, none⟩ →
    exec (.bulk f) s = .next (movedNext gid g 1 { s3 with fabric := { s3.fabric with bulks := s3.fabric.bulks ++ [b] } }))
/-- R313 to R315: acset arms, re-arms or frees a record, or answers status 2, 3 or 1; acwait answers status 3, the count when the target is reached, status 1 when it may not wait, and waits else; ffence waits for the thread's fabric writes, 64 µs when its immediate is 0. -/
def Obligations.ArrivalsAndFence : Prop :=
  (∀ (f : FmtA) s gid g k s1 s2 s3 vs dst off i, s.Turn gid g k f.hdr anyRole → s.Room k f.hdr → operands k (plainOps [f.a, f.b]) (some (plainOp f.d)) s = (.ok (vs, dst), s1) →
    recordOff k (src vs 0).zx s1 = (.ok off, s2) → i = (s2.thr k).team →
    ((s2.team i).spadSize < off + 16 → later k f.hdr dst (acHandle 2 s2.devno 0) s2 = (.ok (), s3) → exec (.acset f) s = .next (movedNext gid g 1 s3))
    ∧ (off + 16 ≤ (s2.team i).spadSize → 2 ^ 40 ≤ (src vs 1).zx → later k f.hdr dst (acHandle 3 s2.devno 0) s2 = (.ok (), s3) → exec (.acset f) s = .next (movedNext gid g 1 s3))
    ∧ (off + 16 ≤ (s2.team i).spadSize → (src vs 1).zx = 0 → s2.arrivalAt i off = none → later k f.hdr dst (acHandle 0 s2.devno 0) (s2.spadPut i (off + 13) [0]) = (.ok (), s3) → exec (.acset f) s = .next (movedNext gid g 1 s3))
    ∧ (∀ id, off + 16 ≤ (s2.team i).spadSize → (src vs 1).zx = 0 → s2.arrivalAt i off = some id →
      later k f.hdr dst (acHandle 0 s2.devno id) (({ s2 with fabric := { s2.fabric with arrivals := tdel s2.fabric.arrivals id } } : State).spadPut i (off + 13) [0]) = (.ok (), s3) →
      exec (.acset f) s = .next (movedNext gid g 1 s3))
    ∧ (off + 16 ≤ (s2.team i).spadSize → (src vs 1).zx < 2 ^ 40 → (src vs 1).zx ≠ 0 → s2.arrivalAt i off = none → (∀ n, n < 4096 → (tget s2.fabric.arrivals n).isSome = true) →
      later k f.hdr dst (acHandle 1 s2.devno 0) s2 = (.ok (), s3) → exec (.acset f) s = .next (movedNext gid g 1 s3))
    ∧ (∀ id (a : Arrival), off + 16 ≤ (s2.team i).spadSize → (src vs 1).zx < 2 ^ 40 → (src vs 1).zx ≠ 0 →
      (s2.arrivalAt i off = some id ∨ s2.arrivalAt i off = none ∧ id < 4096 ∧ tget s2.fabric.arrivals id = none ∧ ∀ n, n < id → (tget s2.fabric.arrivals n).isSome = true) →
      a = ⟨i, off⟩ →
      later k f.hdr dst (acHandle 0 s2.devno id) (({ s2 with fabric := { s2.fabric with arrivals := tset s2.fabric.arrivals id a } } : State).spadPut i off (recordBytes 0 (src vs 1).zx 1 id)) = (.ok (), s3) →
      exec (.acset f) s = .next (movedNext gid g 1 s3)))
  ∧ (∀ (f : FmtA) s gid g k s1 s2 s3 vs dst off i us v, s.Turn gid g k f.hdr anyRole → s.Room k f.hdr → operands k [plainOp f.a] (some (plainOp f.d)) s = (.ok (vs, dst), s1) →
    recordOff k (src vs 0).zx s1 = (.ok off, s2) → i = (s2.thr k).team → f.b = .imm v → us = bits v.toNat 1 12 →
    (s2.arrivalAt i off = none → later k f.hdr dst (3 * 2 ^ 60) s2 = (.ok (), s3) → exec (.acwait f) s = .next (movedNext gid g 1 s3))
    ∧ (s2.arrivalAt i off ≠ none → s2.arrivalTarget i off ≤ s2.arrivalCount i off → later k f.hdr dst (low 40 (s2.arrivalCount i off)) s2 = (.ok (), s3) → exec (.acwait f) s = .next (movedNext gid g 1 s3))
    ∧ (s2.arrivalAt i off ≠ none → s2.arrivalCount i off < s2.arrivalTarget i off → bitAt v.toNat 0 = true → later k f.hdr dst (2 ^ 60 + low 40 (s2.arrivalCount i off)) s2 = (.ok (), s3) →
      exec (.acwait f) s = .next (movedNext gid g 1 s3))
    ∧ (s2.arrivalAt i off ≠ none → s2.arrivalCount i off < s2.arrivalTarget i off → bitAt v.toNat 0 = false →
      laterWait k f.hdr dst (low 40 (s2.arrivalCount i off)) (.arrival off (if us = 0 then 0 else s2.now + us * 1000 * Config.ticksPerNs)) s2 = (.ok (), s3) →
      exec (.acwait f) s = .next (movedNext gid g 1 s3)))
  ∧ (∀ (f : FmtA), WaitWord (.ffence f) f.hdr anyRole [] (plainOp f.d) fun s _ _ =>
      some (0, .allFabric (s.now + (if immNat f.b = 0 then 64 else immNat f.b) * 1000 * Config.ticksPerNs) s.nextId))

/-! ### System words (21) -/

/-- R41, R386, R387, R389: sysrd gives the register of Table 21-2, register 0xC only to a privileged thread; syswr, privileged, writes a value that the register takes and gives 0, else changes no register and gives 1; tlbinv refuses a bad control word with status 3, and else drops the entries it names and waits for the accesses translated before, and for the guest die's acknowledgement; cancel answers 2 for no unit, 1 for one whose counter reads zero, and cancels the unit else. -/
def Obligations.SystemWords : Prop :=
  (∀ (f : FmtA), immNat f.b ≠ 0xC → StatusWord (.sysrd f) f.hdr anyRole [] (plainOp f.d) fun s k _ => some (s.sysRead k (immNat f.b)))
  ∧ (∀ (f : FmtA), StatusWord (.sysrd f) f.hdr anyRole [] (plainOp f.d) fun s k _ => if s.privOf k then some (s.sysRead k (immNat f.b)) else none)
  ∧ (∀ (f : FmtA) s gid g k s1 s2 vs dst n v id, s.Turn gid g k f.hdr anyRole → s.Room k f.hdr → s.privOf k = true → operands k [plainOp f.a] (some (plainOp f.d)) s = (.ok (vs, dst), s1) →
    n = immNat f.b → v = (src vs 0).zx →
    (sysTakes (s1.thr k) n v = false → issueVar k f.hdr.sc.toNat dst 1 1 none .time true none 15 s1 = (.ok id, s2) → exec (.syswr f) s = .next (movedNext gid g 1 s2))
    ∧ (sysTakes (s1.thr k) n v = true → n ≠ 3 → n ≠ 0x30 → issueVar k f.hdr.sc.toNat dst 0 1 none .time true none 15 s1 = (.ok id, s2) →
      exec (.syswr f) s = .next (movedNext gid g 1 (s2.modThr k fun t => t.sysWrite n v)))
    ∧ (n = 0x30 → issueVar k f.hdr.sc.toNat dst 0 1 none .time true none 15 s1 = (.ok id, s2) →
      exec (.syswr f) s = .next (movedNext gid g 1 (s2.modTeam (s1.thr k).team fun t => { t with tstat := wd (tstatMask v) })))
    ∧ (n = 3 → issueVar k f.hdr.sc.toNat dst 0 1 none .time true none 15 s1 = (.ok id, s2) →
      ∃ s3, exec (.syswr f) s = .next (movedNext gid g 1 s3) ∧ s3.mem = s2.mem ∧ s3.teams = s2.teams
        ∧ (∀ t, tget s2.threads k = some t → (s3.thr k).preds = BitVec.ofNat 32 (setBits (low 32 v) 31 1 1) ∧ (s3.thr k).slices = t.slices)))
  ∧ (∀ (f : FmtA) s gid g k s1 s2 vs dst c ctx, s.Turn gid g k f.hdr anyRole → s.Room k f.hdr → s.privOf k = true → operands k (plainOps [f.a, f.b]) (some (plainOp f.d)) s = (.ok (vs, dst), s1) →
    c = (src vs 1).zx → ctx = bits c 16 16 →
    ((low 2 c = 3 ∨ bits c 3 13 ≠ 0 ∨ bits c 32 32 ≠ 0) → later k f.hdr dst 3 s1 = (.ok (), s2) → exec (.tlbinv f) s = .next (movedNext gid g 1 s2))
    ∧ (∀ t : State, low 2 c ≠ 3 → bits c 3 13 = 0 → bits c 32 32 = 0 → bitAt c 2 = false → t = s1.dropTlb (some (coreStack (keyCore k))) (low 2 c) ctx (src vs 0).zx →
      laterWait k f.hdr dst 0 (.window (t.translated (some (coreStack (keyCore k))))) t = (.ok (), s2) →
      exec (.tlbinv f) s = .next (movedNext gid g 1 s2))
    ∧ (∀ t : State, low 2 c ≠ 3 → bits c 3 13 = 0 → bits c 32 32 = 0 → bitAt c 2 = true → (s1.socket.ready = false ∨ s1.socket.fenced = true) → t = s1.dropTlb none (low 2 c) ctx (src vs 0).zx →
      laterWait k f.hdr dst 0 (.window (t.translated none)) t = (.ok (), s2) →
      exec (.tlbinv f) s = .next (movedNext gid g 1 s2))
    ∧ (∀ t : State, low 2 c ≠ 3 → bits c 3 13 = 0 → bits c 32 32 = 0 → bitAt c 2 = true → s1.socket.ready = true → s1.socket.fenced = false → t = s1.dropTlb none (low 2 c) ctx (src vs 0).zx →
      laterWait k f.hdr dst 0 (.shootdown t.nextId (t.translated none)) { t with nextId := t.nextId + 1 } = (.ok (), s2) →
      exec (.tlbinv f) s = .next (movedNext gid g 1 (s2.shootdown t.nextId (low 2 c) ctx (src vs 0).zx))))
  ∧ (∀ (f : FmtA) s gid g k s1 s2 vs dst u, s.Turn gid g k f.hdr anyRole → s.Room k f.hdr → ((2 ≤ immNat f.b ∨ unused f.a = false) → s.privOf k = true) →
    operands k (if unused f.a then [] else [plainOp f.a]) (some (plainOp f.d)) s = (.ok (vs, dst), s1) →
    u = (if unused f.a then s1.unitOfThread k (immNat f.b) else s1.unitMirrored k (immNat f.b) (wd (src vs 0).zx)) →
    (u = none → later k f.hdr dst 2 s1 = (.ok (), s2) → exec (.cancel f) s = .next (movedNext gid g 1 s2))
    ∧ (∀ x, u = some x → s1.unitCount x = some 0 → later k f.hdr dst 1 s1 = (.ok (), s2) → exec (.cancel f) s = .next (movedNext gid g 1 s2))
    ∧ (∀ x, u = some x → s1.unitCount x ≠ some 0 → later k f.hdr dst 0 s1 = (.ok (), s2) → exec (.cancel f) s = .next (movedNext gid g 1 (s2.cancelUnit x))))
/-- R388: operations 0, 1 and 2 answer 1 for a mapped line and 0 else, with their effect on the line, of which host memory has first-level copies alone; operation 3 writes zeros to the line; operations 4 and 5 are privileged. -/
def Obligations.CacheWords : Prop :=
  (∀ (f : FmtA) i s gid g k s1 s2 s3 vs dst p, i ∈ [Instr.cacheopClean f, .cacheopFlush f, .cacheopDrop f] → s.Turn gid g k f.hdr anyRole → s.Room k f.hdr →
    operands k [plainOp f.a] (some (plainOp f.d)) s = (.ok (vs, dst), s1) → lineAt k (src vs 0).zx s1 = (.ok p, s2) → ownOrder k p 128 s2 = (.ok (), s2) →
    (∀ off, p = .spad off → later k f.hdr dst 0 s2 = (.ok (), s3) → exec i s = .next (movedNext gid g 1 s3))
    ∧ (∀ pa, p = .dev pa → s2.mapOf (lineOf pa) ≠ none → later k f.hdr dst 1 s2 = (.ok (), s3) → exec i s = .next (movedNext gid g 1 s3)))
  ∧ (∀ (f : FmtA) s gid g k s1 s2 s3 s4 vs dst pa, s.Turn gid g k f.hdr anyRole → s.Room k f.hdr → operands k [plainOp f.a] (some (plainOp f.d)) s = (.ok (vs, dst), s1) →
    lineAt k (src vs 0).zx s1 = (.ok (.dev pa), s2) → ownOrder k (.dev pa) 128 s2 = (.ok (), s2) → s2.mapOf (lineOf pa) = none →
    (snoopSectors (128 * lineOf pa) 128 false s2 = (.ok (), s3) → s3.dirOf (lineOf pa) = .uncached → later k f.hdr dst 0 s3 = (.ok (), s4) → exec (.cacheopClean f) s = .next (movedNext gid g 1 s4))
    ∧ (∀ c d, snoopSectors (128 * lineOf pa) 128 false s2 = (.ok (), s3) → s3.dirOf (lineOf pa) = .owned c → s3.l1Of c (lineOf pa) = some (.m d) →
      later k f.hdr dst 0 ((s3.recallShared c (lineOf pa)).setDir (lineOf pa) (.shared [c])) = (.ok (), s4) → exec (.cacheopClean f) s = .next (movedNext gid g 1 s4))
    ∧ (∀ t, snoopSectors (128 * lineOf pa) 128 true s2 = (.ok (), t) → homeOwn (lineOf pa) t = (.ok (), s3) → later k f.hdr dst 0 s3 = (.ok (), s4) →
      exec (.cacheopFlush f) s = .next (movedNext gid g 1 s4))
    ∧ (later k f.hdr dst 0 (s2.dropCopy (keyCore k) (lineOf pa)) = (.ok (), s4) → exec (.cacheopDrop f) s = .next (movedNext gid g 1 s4)))
  ∧ (∀ (f : FmtA) s gid g k s1 s2 s3 vs dst pa, s.Turn gid g k f.hdr anyRole → s.Room k f.hdr → operands k [plainOp f.a] (some (plainOp f.d)) s = (.ok (vs, dst), s1) →
    lineAt k (src vs 0).zx s1 = (.ok (.hostm pa), s2) → ownOrder k (.hostm pa) 128 s2 = (.ok (), s2) →
    (later k f.hdr dst 0 s2 = (.ok (), s3) → exec (.cacheopClean f) s = .next (movedNext gid g 1 s3))
    ∧ (later k f.hdr dst 0 ((s2.cores.map (·.1)).foldl (fun s c => s.setL1 c (hostLine pa) none) s2) = (.ok (), s3) → exec (.cacheopFlush f) s = .next (movedNext gid g 1 s3))
    ∧ (later k f.hdr dst 0 (s2.setL1 (keyCore k) (hostLine pa) none) = (.ok (), s3) → exec (.cacheopDrop f) s = .next (movedNext gid g 1 s3)))
  ∧ (∀ (f : FmtA) s gid g k s1 s2 s3 s4 vs dst va p, s.Turn gid g k f.hdr anyRole → s.Room k f.hdr → operands k [plainOp f.a] (some (plainOp f.d)) s = (.ok (vs, dst), s1) →
    va = (src vs 0).zx / 128 * 128 → lineAt k (src vs 0).zx s1 = (.ok p, s2) →
    (∀ pa, p = .dev pa → s2.mapOf (lineOf pa) ≠ none → later k f.hdr dst 1 s2 = (.ok (), s3) → exec (.cacheopZero f) s = .next (movedNext gid g 1 s3))
    ∧ ((∀ pa, p = .dev pa → s2.mapOf (lineOf pa) = none) → storePiece k va (List.replicate 128 0) true .rlx s2 = (.ok (), s3) → later k f.hdr dst 0 s3 = (.ok (), s4) →
      exec (.cacheopZero f) s = .next (movedNext gid g 1 s4)))
  ∧ (∀ (f : FmtA) s gid g k s1 s2 vs dst, s.Turn gid g k f.hdr anyRole → s.Room k f.hdr → s.privOf k = true → operands k [] (some (plainOp f.d)) s = (.ok (vs, dst), s1) →
    (later k f.hdr dst 0 (((s1.core (keyCore k)).l1.map (·.1)).foldl (fun s l => if l < 2 ^ 45 then s.dropCopy (keyCore k) l else s.setL1 (keyCore k) l none) s1) = (.ok (), s2) →
      exec (.cacheopL1all f) s = .next (movedNext gid g 1 s2))
    ∧ (later k f.hdr dst 0 (s1.cleanStack (coreStack (keyCore k))) = (.ok (), s2) → exec (.cacheopL2all f) s = .next (movedNext gid g 1 s2)))
/-- R384, R407: trap n and brk n take their precise trap, of class 18 at the next word with the run resumed, and of class 19 at the word itself. -/
def Obligations.TrapWords : Prop :=
  (∀ (f : FmtA) s gid g k s2 i, s.Turn gid g k f.hdr anyRole → i = (⟨18, immNat f.b, 0, 0, 0, 0, g.pc + 8, true⟩ : TrapInfo) → takeTrap k i s = (.ok (), s2) →
    exec (.trap f) s = .next (movedOn gid g 1 f.hdr s2))
  ∧ (∀ (f : FmtA) s gid g k s2 i, s.Turn gid g k f.hdr anyRole → i = (⟨19, immNat f.b, 0, 0, 0, 0, g.pc, !(g.fromHead && g.count == 0)⟩ : TrapInfo) → takeTrap k i s = (.ok (), s2) →
    exec (.brk f) s = .next (movedOn gid g 1 f.hdr s2))
/-- R405 to R410: with no result of the run pending, a thread that is not in handler state and whose trap table holds a vector that can be fetched takes its trap: the cairn record is written at its cairn pointer, and the thread is Ready at the vector, or Held there behind its tenant's closed gate, privileged, in handler state, with its window base 0 and the handler's temporaries zero, those of the interrupted run kept apart. In handler state a trap that is no page fault with a ticket is fatal for the team. -/
def Obligations.TrapEntry : Prop :=
  (∀ k i (s : State) t s1 s2 s3 u b v pa, tget s.threads k = some t → t.pend = [] → t.handler = false → trapTicket i = 0 → i.cls ≠ 20 →
    loadPlain k ((s.launchOf k).traps.toNat + 8 * i.cls) 8 ((s.inName k).modThr k fun t => { t with status := .held .word }) = (.ok b, s1) → v = ofLe b → v ≠ 0 → low 3 v = 0 →
    threadXlate k v 4 s1 = (.ok pa, s2) → low 8 t.cairn.toNat = 0 → storeSpan k t.cairn.toNat (cairnBytes { t with status := .held .word } i) false s2 = (.ok (), s3) → (tget s3.threads k).isSome = true →
    u = (s3.modThr k fun t => t.enter i (coreStack (keyCore k))).atHead k (wd v) →
    takeTrap k i s = (.ok (), u) ∧ (u.thr k).pc = wd v ∧ (u.thr k).handler = true ∧ u.privOf k = true ∧ (u.thr k).wbase = 0
    ∧ (u.thr k).temps = (s3.thr k).temps.filter (fun e => e.1 < 16)
    ∧ (s3.gateClosed (s3.launchOf k).tenant = false → (u.thr k).status = .ready) ∧ (s3.gateClosed (s3.launchOf k).tenant = true → (u.thr k).status = .held .gate))
  ∧ (∀ k i (s : State) t, tget s.threads k = some t → t.pend = [] → t.handler = true → trapTicket i = 0 →
    takeTrap k i s = (.ok (), ((s.inName k).modThr k fun t => { t with status := .held .word }).fatalTeam t.team))
/-- R25, R385, R411: rfx in handler state, once the handler counters read zero, reads its cairn record and where the thread goes on: with the position that the record names or the next one, inside a run or at a run head. The return takes place with the trailer of the run: the thread has its window base, predicates and generator back and is Ready there, out of handler state; with park it is Saved. -/
def Obligations.TrapReturn : Prop :=
  (∀ (f : FmtA) s gid g k s1 s2 b t head pos, s.Turn gid g k f.hdr anyRole → s.privOf k = true → pos = ofLe (cut b 0 8) / 8 * 8 → s.thr k = t → t.handler = true → (t.outst.any fun o => 8 ≤ o.dc) = false → low 8 t.cairn.toNat = 0 →
    bitAt (immNat f.b) 0 = false → bitAt (immNat f.b) 1 = false → loadSpanPlain k t.cairn.toNat 256 s = (.ok b, s1) → cairnOk b = true → runHeadAt k (wd pos) s1 = (.ok head, s2) →
    exec (.rfx f) s = .next (movedOn gid g 1 f.hdr (s2.modThr k fun t => { t with back := some ⟨false, b, wd pos, head.getD (!bitAt (ofLe (cut b 8 8)) 48), s.now⟩ })))
  ∧ (∀ (f : FmtA) s gid g k s1 s2 b t w pos, s.Turn gid g k f.hdr anyRole → s.privOf k = true → pos = ofLe (cut b 0 8) / 8 * 8 → s.thr k = t → t.handler = true → (t.outst.any fun o => 8 ≤ o.dc) = false → low 8 t.cairn.toNat = 0 →
    bitAt (immNat f.b) 0 = true → bitAt (immNat f.b) 1 = false → loadSpanPlain k t.cairn.toNat 256 s = (.ok b, s1) → cairnOk b = true → fetchWord k (low 64 (pos + 8)) s1 = (.ok w, s2) →
    exec (.rfx f) s = .next (movedOn gid g 1 f.hdr (s2.modThr k fun t => { t with back := some ⟨false, b, wd (low 64 (pos + if opcodeOf w = 0x3FE then 16 else 8)), false, s.now⟩ })))
  ∧ (∀ (f : FmtA) s gid g k t, s.Turn gid g k f.hdr anyRole → s.privOf k = true → s.thr k = t → t.handler = true → (t.outst.any fun o => 8 ≤ o.dc) = false → bitAt (immNat f.b) 1 = true →
    exec (.rfx f) s = .next (movedOn gid g 1 f.hdr (s.modThr k fun t => { t with back := some ⟨true, [], 0, true, s.now⟩ })))
  ∧ (∀ (f : FmtT) s gid g k t b, s.AtTrailer gid g k t f → t.back = some b →
    ∃ s', exec (.trail f) s = .next s' ∧ (s'.thr k).handler = false ∧ (s'.thr k).back = none ∧ tget s'.gangs gid = none ∧ s'.cur = none ∧ s'.mem = s.mem ∧ s'.teams = s.teams
      ∧ (b.park = true → (s'.thr k).status = .saved)
      ∧ (b.park = false → (s'.thr k).pc = b.pos ∧ (s'.thr k).wbase = bits (ofLe (cut b.record 0xB8 8)) 32 16 ∧ (s'.thr k).preds = BitVec.ofNat 32 (setBits (low 32 (ofLe (cut b.record 0xB8 8))) 31 1 1)
          ∧ (s'.thr k).mid = !b.head)
      ∧ (b.park = false → b.head = false → (s'.thr k).status = .ready ∧ (s'.thr k).resume = some b.at')
      ∧ (b.park = false → b.head = true → (s.team t.team).preempt = none → s.gateClosed (s.launchOf k).tenant = false → (s'.thr k).status = .ready))

/-! ### Search words (21) -/

/-- R390: a distance word adds its terms exactly to the f32 accumulator in D and rounds once; dist.cos also adds the squares of B to the upper 32 bits. -/
def Obligations.DistanceWords : Prop :=
  ∀ v (f : FmtA) s gid g k s1 s2 vs dst a b, s.Turn gid g k f.hdr vecRoles → operandsRw k (plainOps [f.a, f.b]) (plainOp f.d) s = (.ok (vs, dst), s1) →
    a = distElems v (fieldBits f.a) (src vs 0) → b = distElems v (fieldBits f.a) (src vs 1) →
    (result k dst (distSum (src vs 2).v (List.zipWith (fun x y => (x.add false y.neg).mul (x.add false y.neg)) a b)) 5 s1 = (.ok (), s2) → exec (.distL2 v f) s = .next (movedOn gid g 1 f.hdr s2))
    ∧ (result k dst (distSum (src vs 2).v (List.zipWith (fun x y => (x.mul y).neg) a b)) 5 s1 = (.ok (), s2) → exec (.distIp v f) s = .next (movedOn gid g 1 f.hdr s2))
    ∧ (result k dst (distSum (src vs 2).v (List.zipWith FVal.mul a b) + 2 ^ 32 * distSum ((src vs 2).v / 2 ^ 32) (b.map fun x => x.mul x)) 5 s1 = (.ok (), s2) →
      exec (.distCos v f) s = .next (movedOn gid g 1 f.hdr s2))
/-- R391 to R396: topk on slices and on a scratchpad list; kmerge; skim; kfilt. R391, R392: an insertion keeps the length of the list, answers status 0 or 1, and leaves the list alone where it answers 1. -/
def Obligations.SearchWords : Prop :=
  (∀ (f : FmtA) s gid g k s1 s2 vs dst n, s.Turn gid g k f.hdr vecRoles → s.Room k f.hdr → isImm f.b = true → n = ((immOf f.b).getD 0).toNat →
    operandsRw k [plainOp f.a] (descOp f.d n) s = (.ok (vs, dst), s1) → later k f.hdr dst (ofDigits 64 (topkInsert n (src vs 0).zx (digits 64 n (src vs 1).v)).1) s1 = (.ok (), s2) →
    exec (.topk f) s = .next (movedNext gid g 1 s2))
  ∧ (∀ (f : FmtA) s gid g k s1 s2 s3 s4 vs dst l r, s.Turn gid g k f.hdr vecRoles → s.Room k f.hdr → isImm f.b = false → operands k (plainOps [f.a, f.b]) (some (plainOp f.d)) s = (.ok (vs, dst), s1) →
    readList k (src vs 1).zx s1 = (.ok l, s2) →
    (l = none → later k f.hdr dst (2 * 2 ^ 60) s2 = (.ok (), s3) → exec (.topk f) s = .next (movedNext gid g 1 s3))
    ∧ (∀ es, l = some es → r = topkInsert es.length (src vs 0).zx es → r.2.2.2 = true → writeList k (src vs 1).zx r.1 (liveEntries r.1) s2 = (.ok (), s3) →
      later k f.hdr dst (r.2.1 * 2 ^ 60 + r.2.2.1) s3 = (.ok (), s4) → exec (.topk f) s = .next (movedNext gid g 1 s4))
    ∧ (∀ es, l = some es → r = topkInsert es.length (src vs 0).zx es → r.2.2.2 = false → later k f.hdr dst (r.2.1 * 2 ^ 60 + r.2.2.1) s2 = (.ok (), s4) → exec (.topk f) s = .next (movedNext gid g 1 s4)))
  ∧ (∀ (f : FmtA) s gid g k s1 s2 s3 s4 vs dst q0 q1 q2 q3 n1 n2 kout m bad, s.Turn gid g k f.hdr vecRoles → s.Room k f.hdr → operands k [descOp f.a 4] (some (plainOp f.d)) s = (.ok (vs, dst), s1) →
    q0 = quadOf (src vs 0) 0 → q1 = quadOf (src vs 0) 1 → q2 = quadOf (src vs 0) 2 → q3 = quadOf (src vs 0) 3 → n1 = bits q3 48 16 → n2 = bits q3 32 16 → kout = low 18 q3 →
    bad = (bits q3 18 14 ≠ 0 || kout = 0 || 131070 < kout || q0 % 8 ≠ 0 || q1 % 8 ≠ 0 || q2 % 8 ≠ 0 || spansMeet q2 (8 * kout) q0 (8 * n1) || spansMeet q2 (8 * kout) q1 (8 * n2) : Bool) →
    (bad = true → later k f.hdr dst (3 * 2 ^ 60) s1 = (.ok (), s2) → exec (.kmerge f) s = .next (movedNext gid g 1 s2))
    ∧ (bad = false → mergeLoop k q0 n1 q1 n2 q2 kout (n1 + n2 + 1) 0 0 [] s1 = (.ok m, s2) → forM' (List.range (kout - m)) (fun e => storeQuad k (q2 + 8 * (m + e)) sentinel) s2 = (.ok (), s3) →
      later k f.hdr dst m s3 = (.ok (), s4) → exec (.kmerge f) s = .next (movedNext gid g 1 s4)))
  ∧ (∀ (f : FmtA) s gid g k s1 s2 s3 s4 s5 s6 vs dst va pa h cap n, s.Turn gid g k f.hdr vecRoles → s.Room k f.hdr → operands k [plainOp f.a, descOp f.b 2] (some (plainOp f.d)) s = (.ok (vs, dst), s1) →
    va = (src vs 0).zx → va % 128 = 0 → skimPlace k va 16 s1 = (.ok pa, s2) → s2.atomFull k 3 pa 16 false = false → raceCheck k va pa true false 3 s2 = (.ok (), s3) →
    snoopSectors pa 16 true s3 = (.ok (), s4) → homeOwn (lineOf pa) s4 = (.ok (), s5) → homeRead pa 16 s5 = (.ok h, s6) → cap = low 32 (ofLe h) → n = bits (ofLe h) 64 32 →
    (∀ t, cap ≤ n → returned k f.hdr dst (2 ^ 60) s6 = (.ok (), t) → exec (.skim f) s = .next (movedNext gid g 1 t))
    ∧ (∀ t, n < cap → (bits (quadOf (src vs 1) 0) 32 31 ≠ 0 ∨ bitAt (quadOf (src vs 1) 0) 63 = false ∧ quadOf (src vs 1) 1 = 0) → returned k f.hdr dst (2 * 2 ^ 60) s6 = (.ok (), t) →
      exec (.skim f) s = .next (movedNext gid g 1 t))
    ∧ (∀ ea ep t1 t2 t3 t4 t5 t6 r, n < cap → bits (quadOf (src vs 1) 0) 32 31 = 0 → (bitAt (quadOf (src vs 1) 0) 63 = true ∨ quadOf (src vs 1) 1 ≠ 0) →
      ea = low 64 (va + 128 + 16 * n) → skimPlace k ea 16 s6 = (.ok ep, t1) → raceCheck k ea ep true false 3 t1 = (.ok (), t2) →
      homeWrite ep (leBytes 8 (quadOf (src vs 1) 0) ++ leBytes 8 (quadOf (src vs 1) 1)) t2 = (.ok (), t3) →
      takeSerial (keyCore k) (t3.recordWrite (lineOf ep) (t3.tagOf (t3.thr k).team) (t2.core (keyCore k)).clock .plain) = (.ok r, t4) →
      homeWrite (pa + 8) (leBytes 4 (n + 1)) t4 = (.ok (), t5) →
      returned k f.hdr dst n (t5.recordWrite (lineOf pa) (t3.tagOf (t3.thr k).team) r (.sync true 5)) = (.ok (), t6) → exec (.skim f) s = .next (movedNext gid g 1 t6)))
  ∧ (∀ (f : FmtP) s gid g k s1 s2 s3 vs x l out, s.Turn gid g k f.hdr vecRoles → s.Room k f.hdr → operands k [plainOp f.a, descOp f.b 3] none s = (.ok (vs, x), s1) → coverPreds k f.d s1 = (.ok (), s1) →
    readList k (src vs 0).zx s1 = (.ok l, s2) → kfiltReads k (quadOf (src vs 1) 0) (quadOf (src vs 1) 1) (quadOf (src vs 1) 2) ((l.getD []).filter (· != sentinel)) s2 = (.ok out, s3) →
    (∀ t, l = none → later k f.hdr (.preds f.d.pa.toNat f.d.pb.toNat) 1 s3 = (.ok (), t) → exec (.kfilt f) s = .next (movedNext gid g 1 t))
    ∧ (∀ es t2 t3, l = some es → writeList k (src vs 0).zx (out ++ List.replicate (es.length - out.length) sentinel) out.length s3 = (.ok (), t2) →
      later k f.hdr (.preds f.d.pa.toNat f.d.pb.toNat) (b2n (out.length < es.length)) t2 = (.ok (), t3) → exec (.kfilt f) s = .next (movedNext gid g 1 t3)))
  ∧ (∀ k q0 q1 q2 fs s s3 s4 t b n tombs has, (q2 = 0 → n = 0 ∧ s3 = s) →
    (q2 ≠ 0 → low 64 (q2 + 8) % 4 = 0 ∧ loadPieceX k (low 64 (q2 + 8)) 4 true { acq := some 5, rel := none } false s = (.ok b, s3) ∧ n = ofLe b) →
    skimEntries k q2 n 0 s3 = (.ok tombs, s4) → mapM' (fun e => bitmapHas k q0 q1 (candId e)) fs s4 = (.ok has, t) →
    kfiltReads k q0 q1 q2 fs s = (.ok (((fs.zip has).filter fun e => e.2 && !((tombs.find? fun t => t.1 == candId e.1).elim false (·.2))).map (·.1)), t))
  ∧ (∀ n c l, 0 < n → l.length = n → (topkInsert n c l).1.length = n ∧ (topkInsert n c l).2.1 ≤ 1 ∧ ((topkInsert n c l).2.1 = 1 → (topkInsert n c l).1 = l ∧ (topkInsert n c l).2.2.1 = n)
    ∧ ((topkInsert n c l).2.1 = 0 → candId c ≠ 2 ^ 32 - 1 ∧ candLt c (l.getD (n - 1) sentinel) = true))

/-! ### Words and their encoding (01, 02) -/

/-- R9 to R17: every well-formed instruction is decoded from its own words, whichever trailer follows. -/
def Obligations.RoundTrip : Prop :=
  ∀ i w ws, i.WellFormed → encode i = w :: ws →
    (ws = [] → ∀ n, wordOp n = opTrailer → decode w n = .ok i 1) ∧ (∀ m, ws = [m] → decode w m = .ok i 2) ∧ ws.length ≤ 1
/-- R9, R33, R40: what the decoder accepts is well-formed, and its encoding is the words read: no bit of an accepted word is dropped. -/
def Obligations.DecodeEncode : Prop :=
  ∀ w n i c, decode w n = .ok i c → i.WellFormed ∧ (c = 1 → encode i = [w]) ∧ (c = 2 → encode i = [w, n])
/-- Words written out from the encodings of 01 and 02 decode to what they stand for: an integer add with slice operands, a compare, an fma with its modifier, and a trap. -/
def Obligations.DecodedWords : Prop :=
  decode 0x012340514042FFF9#64 plainTrailer = .ok (.iadd .s32 ⟨⟨⟨true, 3⟩, 2⟩, .slice 40 5, .slice 16 5, .imm 0x1FF9, none⟩) 1
  ∧ decode 0x171F23208042E064#64 plainTrailer = .ok (.icmp .s32 ⟨⟨⟨false, 31⟩, 1⟩, ⟨3, 4, 2⟩, .slice 16 5, .imm 100⟩) 1
  ∧ decode 0xEC1F083010606007#64 plainTrailer = .ok (.trap ⟨⟨⟨false, 31⟩, 0⟩, .special 0x18 0, .special 0x18 0, .imm 7⟩) 1
  ∧ decode 0xFBC0000000000000#64 plainTrailer = .illegalOpcode
  ∧ decode 0xFF80000000000000#64 plainTrailer = .illegalForm

/-! ### The step -/

/-- R12, R33: the step is the oldest event that is due; else the next word of the first gang that issues, fetched at its pc and decoded, is executed; else a cycle passes. A word that does not decode raises class 1 or class 2. The agenda, and one event or one word a step, are the model's own (log entry 4). -/
def Obligations.StepRunsDecoded : Prop :=
  (∀ (s s1 : State) gid r g k w n i c, s.agenda = [] → s.issueQ = gid :: r → tget s.gangs gid = some g → (g.members.find? fun k => !g.done.contains k) = some k →
    fetchPair k g.pc { s with issueQ := r } = (.ok (w, n), s1) → decode w n = .ok i c → step s = exec i { s1 with cur := some gid })
  ∧ (∀ (s : State) i r, s.agenda = i :: r → step s = exec i { s with agenda := r })
  ∧ (∀ s : State, s.agenda = [] → s.issueQ = [] → step s = exec .pickerCycle s)
  ∧ (∀ (s s1 s2 : State) gid r g k w n cls i, s.agenda = [] → s.issueQ = gid :: r → tget s.gangs gid = some g → g.members = [k] → g.done = [] →
    fetchPair k g.pc { s with issueQ := r } = (.ok (w, n), s1) → (decode w n = .illegalOpcode ∧ cls = 1 ∨ decode w n = .illegalForm ∧ cls = 2) →
    i = (⟨cls, 0, 0, 0, 0, 0, g.pc, !(g.fromHead && g.count == 0)⟩ : TrapInfo) → takeTrap k i s1 = (.ok (), s2) → step s = .next (advance gid g [] 1 1 s2))
/-- R39 to R41, R131, R194, R407: before the guard, a word of a range that the group's role does not allow takes class 3, a privileged word in an unprivileged thread class 4, and mma without the carabiner class 5. R13, R27: a word whose guard is false has no effect: an integer add or subtract moves the gang on and changes nothing else. -/
def Obligations.RoleAndPrivilege : Prop :=
  (∀ (i : Instr) s gid g k s2 x (t : FType) (f : FmtA) (m : FmtM), s.At gid g k → (∀ sc, s.full k sc = false) → x = (⟨3, 0, 0, 0, 0, 0, g.pc, !(g.fromHead && g.count == 0)⟩ : TrapInfo) → takeTrap k x s = (.ok (), s2) →
    ((s.groupOf k).role = .matrix ∨ (s.groupOf k).role = .copy → i ∈ [Instr.fadd t m, .fma t m, .fmin t m, .topk f] → ∃ w d, exec i s = .next (advance gid g [] w d s2))
    ∧ ((s.groupOf k).role = .vector ∨ (s.groupOf k).role = .copy → i ∈ [Instr.mma f, .macc f, .mzero f, .mwait f, .mrow f, .cbpass f, .cbwait f] → ∃ w d, exec i s = .next (advance gid g [] w d s2))
    ∧ ((s.groupOf k).role = .vector ∨ (s.groupOf k).role = .matrix → i ∈ [Instr.cpy f, .cpy2d f, .cpyg f, .cvq f, .cvd f] → ∃ w d, exec i s = .next (advance gid g [] w d s2)))
  ∧ (∀ (i : Instr) s gid g k s2 x (f : FmtA), s.At gid g k → (∀ sc, s.full k sc = false) → s.privOf k = false → x = (⟨4, 0, 0, 0, 0, 0, g.pc, !(g.fromHead && g.count == 0)⟩ : TrapInfo) → takeTrap k x s = (.ok (), s2) →
    i ∈ [Instr.syswr f, .tlbinv f, .rfx f, .cacheopL1all f, .cacheopL2all f] → ∃ w d, exec i s = .next (advance gid g [] w d s2))
  ∧ (∀ s gid g k s2 x (f : FmtA), s.At gid g k → (∀ sc, s.full k sc = false) → matRoles (s.groupOf k).role = true → (s.team (s.thr k).team).carabiner ≠ some (s.thr k).grp →
    x = (⟨5, 0, 0, 0, 0, 0, g.pc, !(g.fromHead && g.count == 0)⟩ : TrapInfo) → takeTrap k x s = (.ok (), s2) → ∃ w d, exec (.mma f) s = .next (advance gid g [] w d s2))
  ∧ (∀ (t : IType) (f : FmtM) s gid g k, s.At gid g k → guardOf k f.hdr.guard s = (.ok false, s) →
    exec (.iadd t f) s = .next (movedOn gid g (wordsOf f.mod) f.hdr s) ∧ exec (.isub t f) s = .next (movedOn gid g (wordsOf f.mod) f.hdr s))
/-- No instruction and no event is refused: every one has a meaning in every state. That no word and no event is refused is the model's own shape: of Refusal it uses nothing. -/
def Obligations.NeverRefused : Prop := ∀ i s, NotRefused (exec i s)

/-! ### Reset and memory -/

/-- R239, R266, R372, R453, Table 23-5: right after reset nothing is installed, placed, ready or counted: no queue, no context, no thread, no line held, no event posted, the ready register 0; the first fault ticket is 1; memory lists nothing, which is canonical. That an empty list stands for no entry, and that memory lists nothing, are the model's own (log entries 2 and 3). -/
def Obligations.ResetValues : Prop :=
  State.reset.Canonical ∧ State.reset.threads = [] ∧ State.reset.teams = [] ∧ State.reset.host.queues = [] ∧ State.reset.host.ctxTable = none ∧ State.reset.dir = []
    ∧ State.reset.host.evTail = State.reset.host.evHead ∧ State.reset.trust.ready = 0 ∧ State.reset.socket.ready = false ∧ (∀ d, (State.reset.die d).nextTicket = 1)
    ∧ (∀ n, State.reset.winRec n = WinRec.empty) ∧ step State.reset = exec .pickerCycle State.reset
/-- The memory that every access goes to: written bytes are read back, every other byte is as it was, the canonical form is kept, and two memories in canonical form that read alike are the same data. That a byte which nothing has written reads as zero is the model's choice (log entry 2). -/
def Obligations.MemoryReadWrite : Prop :=
  (∀ m a b x, Memory.wf m = true → memGet (memPutN m a b) x = if a ≤ x ∧ x < a + b.length then b.getD (x - a) 0 else memGet m x)
  ∧ (∀ m a b, Memory.wf m = true → Memory.wf (memPutN m a b) = true ∧ memGetN (memPutN m a b) a b.length = b)
  ∧ (∀ m m', Memory.wf m = true → Memory.wf m' = true → (∀ a, memGet m a = memGet m' a) → m = m')

/-! ### Results and frames (R27 to R32) -/

/-- R27, R29, R31: a fixed-latency result changes no register when it is issued, stands pending for its latency, and is written when its cycle has come and not before. R28, R29: a variable-latency word adds one to its counter and changes no register; the oldest instruction of a counter completes first, and its completion writes its result and lets the counter fall by one. -/
def Obligations.ResultWrites : Prop :=
  (∀ k d v lat (s s' : State) t, tget s.threads k = some t → (∀ p va w, d ≠ .element p va w) → d.writes v ≠ [] → result k d v lat s = (.ok (), s') →
    (s'.thr k).pend = t.pend ++ [⟨s.now + lat * Config.ticksPerCycle, d.writes v, false⟩] ∧ SameRegs s s' k ∧ SameMachine s s' ∧ SameOthers s s' k)
  ∧ (∀ (s : State) k t p, tget s.threads k = some t → t.pend = [p] → p.land ≤ s.now →
      exec (.fixedLatencyWriteback k) s = .next (s.modThr k fun t => { t.putAll p.writes with pend := [] }))
  ∧ (∀ (s : State) k t, tget s.threads k = some t → (∀ p, p ∈ t.pend → s.now < p.land) → exec (.fixedLatencyWriteback k) s = .next s)
  ∧ (∀ (t : Thread) first n v i, i < n → dwf 0 t.slices = true → (t.putAll ((Dest.slices first n).writes v)).base (.slice (first + i)) = bits v (4 * i) 4)
  ∧ (∀ (t : Thread) first n v j, (j < first ∨ first + n ≤ j) → dwf 0 t.slices = true → (t.putAll ((Dest.slices first n).writes v)).base (.slice j) = t.base (.slice j))
  ∧ (∀ k h d v (s s' : State) t, tget s.threads k = some t → later k h d v s = (.ok (), s') →
    (∃ o : Outst, (s'.thr k).outst = (t.contest d.locs).outst ++ [o] ∧ o.val = v ∧ o.dest = d ∧ o.dc = t.counter h.sc.toNat ∧ s.now + Config.ticksPerCycle ≤ o.doneAt)
    ∧ (s'.thr k).dcount (t.counter h.sc.toNat) = t.dcount (t.counter h.sc.toNat) + 1 ∧ SameRegs s s' k ∧ SameMachine s s' ∧ SameOthers s s' k)
  ∧ (∀ (s : State) k t dc o, tget s.threads k = some t → t.status = .gathered → t.outst.find? (·.dc == dc) = some o → o.wait = .time → o.contested = [] → o.doneAt ≤ s.now → (∀ p va w, o.dest ≠ .element p va w) →
      exec (.variableLatencyCompletion k dc) s = .next (s.modThr k fun t => { (t.putAll (o.dest.writes o.val)).setErr o with outst := t.outst.filter fun x => x.id != o.id }))
  ∧ (∀ (s : State) k dc, ((s.thr k).outst.find? (·.dc == dc)).elim True (fun o => s.mayComplete k o = false) → exec (.variableLatencyCompletion k dc) s = .next s)
/-- The frame of words on registers. Reading operands that are no stream ports takes free values and nothing else. A word of the shape of one fixed-latency result (the integer, move, shift, logic and bit-field words, and the cross-lane and conversion words that have that shape), and one of the shape that answers a status, change no memory, no scratchpad, no other thread and no register as written; what they write comes later, to their destination alone. -/
def Obligations.RegisterFrame : Prop :=
  (∀ k srcs d s s1 r, (∀ o, o ∈ srcs → plainOperand o.1 = true) → (∀ o, d = some o → plainOperand o.1 = true) → operands k srcs d s = (.ok r, s1) → ∃ n, s1 = { s with free := n })
  ∧ (∀ i h roles words srcs d lat v s gid g k t s1 s2 vs dst, FixedWord i h roles words srcs d lat v → s.Turn gid g k h roles → tget s.threads k = some t → (∀ o, o ∈ srcs → plainOperand o = true) →
    plainOperand d = true → operands k (plainOps srcs) (some (d, none)) s = (.ok (vs, dst), s1) → result k dst (low (fieldBits d) (v vs)) lat s1 = (.ok (), s2) →
    ∃ s', exec i s = .next s' ∧ SameMachine s s' ∧ SameOthers s s' k ∧ SameRegs s s' k ∧ (s'.thr k).varDest = t.varDest
      ∧ ∃ n, (s'.thr k).pend = t.pend ++ n ∧ ∀ p, p ∈ n → ∀ w, w ∈ p.writes → w.1 ∈ dst.locs)
  ∧ (∀ i h roles srcs d v s gid g k t s1 s2 vs dst r, StatusWord i h roles srcs d v → s.Turn gid g k h roles → s.Room k h → tget s.threads k = some t → (∀ o, o ∈ srcs → plainOperand o.1 = true) →
    plainOperand d.1 = true → operands k srcs (some d) s = (.ok (vs, dst), s1) → v s1 k vs = some r → later k h dst r s1 = (.ok (), s2) →
    ∃ s', exec i s = .next s' ∧ SameMachine s s' ∧ SameOthers s s' k ∧ SameRegs s s' k ∧ (s'.thr k).pend = t.pend ∧ ∃ n, (s'.thr k).varDest = t.varDest ++ n ∧ ∀ x, x ∈ n → x.loc ∈ dst.locs)
/-- The frame of stores. A store that has passed its checks writes the bytes of its place and no other byte: of the team's scratchpad, of host memory, or of device memory as the coherence order has it, there for a line that the core can take or holds alone and whose slices have a place for it (a full one merges or recalls another line, R280, R288); device memory's other bytes, host memory and every scratchpad stay as they were. R282: a load of a line that the core can take or holds alone gives the bytes that the coherence order has there, and changes no byte of any memory. -/
def Obligations.MemoryFrame : Prop :=
  (∀ k off b o (s s' : State) i, i = (s.thr k).team → (tget s.teams i).isSome = true → Memory.wf (s.team i).spad = true → storePlace k (.spad off) b o s = (.ok (), s') →
    s'.mem = s.mem ∧ s'.hostMem = s.hostMem ∧ s'.threads = s.threads ∧ (∀ j, j ≠ i → s'.team j = s.team j)
    ∧ ∀ a, memGet (s'.team i).spad a = if off ≤ a ∧ a < off + b.length then b.getD (a - off) 0 else memGet (s.team i).spad a)
  ∧ (∀ k pa b o (s s' : State), Memory.wf s.hostMem = true → storePlace k (.hostm pa) b o s = (.ok (), s') →
    s'.mem = s.mem ∧ s'.threads = s.threads ∧ s'.teams = s.teams ∧ ∀ a, memGet s'.hostMem a = if pa ≤ a ∧ a < pa + b.length then b.getD (a - pa) 0 else memGet s.hostMem a)
  ∧ (∀ k pa b o (s s' : State), s.Tidy → s.Quiet (keyCore k) (lineOf pa) → pa % 128 + b.length ≤ 128 → storePlace k (.dev pa) b o s = (.ok (), s') →
    s'.hostMem = s.hostMem ∧ s'.threads = s.threads ∧ s'.teams = s.teams ∧ ∀ a, s'.devByte a = if pa ≤ a ∧ a < pa + b.length then b.getD (a - pa) 0 else s.devByte a)
  ∧ (∀ c pa n (s s' : State) b, s.Tidy → s.Quiet c (lineOf pa) → pa % 128 + n ≤ 128 → coreLoad c pa n s = (.ok b, s') →
    b = (List.range n).map (fun i => s.devByte (pa + i)) ∧ s'.hostMem = s.hostMem ∧ s'.threads = s.threads ∧ s'.teams = s.teams ∧ ∀ a, s'.devByte a = s.devByte a)

/-! ### The picker and time (06) -/

/-- R7, R141, R143: a cycle lets time move on, the units act, and what is due join the agenda before the cores pick; time moves by one cycle and no clock falls below the time base; a gang has one thread of each home lane; at most four gangs are chosen by a core in a cycle, and only chosen gangs, and gangs held at their word that try it again without a port (log entry 38), stand for issue. The agenda is the model's own (log entry 4). -/
def Obligations.PickerCycle : Prop :=
  (∀ s t, unitsTick s.tick = (.ok (), t) → exec .pickerCycle s = .next ({ t with agenda := t.agenda ++ t.due } : State).pick)
  ∧ (∀ s : State, s.tick.now = s.now + Config.ticksPerCycle ∧ s.tick.podTime * Config.ticksPerNs + s.tick.podTick = s.podTime * Config.ticksPerNs + s.podTick + Config.ticksPerCycle ∧ s.tick.mem = s.mem
      ∧ s.tick.threads = s.threads)
  ∧ (∀ l, (perLane l []).Pairwise fun a b => keyLane a ≠ keyLane b) ∧ (∀ l k, k ∈ perLane l [] → k ∈ l.map (·.2))
  ∧ (∀ c n hs s l, l.length ≤ 4 → (formHeads c n hs s l).2.length ≤ 4) ∧ (∀ (s : State) l k, k ∈ s.admitted l → k ∈ l)
  ∧ (∀ (s : State) c gid, gid ∈ (s.pickCore c).issueQ → gid ∈ s.issueQ ∨ (∃ e, e ∈ (s.pickCore c).gangs ∧ e.1 = gid ∧ e.2.core = c ∧ (e.2.port.isSome = true ∨ e.2.held = true)))

/-! ### Events: time, completion, traps and faults (06, 07, 23) -/

/-- R28, R80, R140, R314, R315, R413: a thread held at a trailer whose conditions are met goes to its next run head, one held behind a gate that is open again is Ready, at a run head Held for a pre-emption that its team awaits, and inside a run its solo gang is ranked from now on; a yield ends at its time; acwait and ffence end at their deadlines with status 2 and with the word of the writes still out. -/
def Obligations.TimeoutEvents : Prop :=
  (∀ (s : State) k t w, tget s.threads k = some t → t.status = .held .trailer → t.twait = some w → t.trailerMet w = true → t.dcErr = [] → t.back = none →
    exec (.heldRelease k) s = .next ((s.modThr k fun x => { x with varDest := x.varDest.filter fun v => !(List.range 8).any fun n => bitAt w.mask n && t.counter n == v.dc }).toHead k w.next))
  ∧ (∀ (s : State) k t w, tget s.threads k = some t → t.status = .held .trailer → t.twait = some w → t.trailerMet w = false → exec (.heldRelease k) s = .next s)
  ∧ (∀ (s : State) k, (s.thr k).status = .held .gate → exec (.heldRelease k) s = .next (if s.gateClosed (s.launchOf k).tenant then s else s.openGate k))
  ∧ (∀ (s : State) k t, tget s.threads k = some t →
    (t.mid = true → s.openGate k = s.modThr k fun t => { t with status := .ready, stamp := s.now, resume := some s.now })
    ∧ (t.mid = false → s.gateClosed (s.launchOf k).tenant = false → (s.team t.team).preempt = none → s.openGate k = s.modThr k fun t => { t with status := .ready, stamp := s.now })
    ∧ (t.mid = false → (s.team t.team).preempt ≠ none → t.handler = false → (t.outst.all fun o => 8 ≤ o.dc) = true → s.openGate k = s.modThr k fun t => { t with status := .held .preempt, stamp := s.now }))
  ∧ (∀ (s : State) k t y, tget s.threads k = some t → t.yielded = some y →
    exec (.yieldExpiry k) s = .next (if y.till ≤ s.now then s.modThr k fun t => { t with yielded := none } else s))
  ∧ (∀ (s : State) k oid t o off d, tget s.threads k = some t → t.outst = [o] → o.id = oid → o.wait = .arrival off d → d ≠ 0 → d ≤ s.now →
    exec (.acwaitTimeout k oid) s = .next (s.modThr k fun t => { t with outst := [o.decide (2 * 2 ^ 60 + low 40 (s.arrivalCount t.team off))] }))
  ∧ (∀ (s : State) k oid o d upto, (s.thr k).outst.find? (·.id == oid) = some o → o.wait = .allFabric d upto →
    exec (.ffenceTimeout k oid) s = .next (if d ≤ s.now then (s.modOutst k oid fun o => o.decide (s.ffenceWord k upto)).ffenceClear k upto else s))
/-- R146, R406, R410, R421 to R424, R442: a walk acts for its requester: a leaf fills the TLB of its stack and serves the entries inside it, a page fault is joined or posted, and a full table turns it away; a fatal answer ends its ticket for everyone who waits, an answer that is none or names no ticket is counted; a ticket times out with reason 1; a held thread replays its access once its ticket is answered, a fatal answer raises class 11 again, or class 14 for a fetch; a trap entry takes its trap, and is fatal after a fatal answer; the host's cancel cancels its unit. -/
def Obligations.FaultEvents : Prop :=
  (∀ (s : State) req a, a = ({ core := none, die := req.stack, src := req.src } : Asker) → exec (.pageWalk req) s = .next (pageWalk a req.ctx req.va.toNat req.acc (2 ^ req.src) s).2
    ∧ (((s.die req.stack).missOf req.ctx req.va.toNat).isSome = true ∨ (s.die req.stack).misses.length < Config.missEntries →
      (∀ e s1, walk req.ctx req.va.toNat s = (.ok (.leaf e), s1) → exec (.pageWalk req) s = .next ((s1.nextFree.2.fillTlb a s1.nextFree.1 3 e).serveMisses req.stack e))
      ∧ (∀ r s1, walk req.ctx req.va.toNat s = (.ok (.bad r), s1) → exec (.pageWalk req) s = .next s1)
      ∧ (∀ l s1, walk req.ctx req.va.toNat s = (.ok (.fault l), s1) → exec (.pageWalk req) s = .next (missPage a req.ctx req.va.toNat req.acc (2 ^ req.src) l s1).2))
    ∧ ((s.die req.stack).missOf req.ctx req.va.toNat = none → Config.missEntries ≤ (s.die req.stack).misses.length → exec (.pageWalk req) s = .next s))
  ∧ (∀ (s : State) (ans : Word) d m, d = bits ans.toNat 62 2 → (s.die d).misses.find? (fun m => m.ticket == low 32 ans.toNat && m.fatal.isNone) = some m → bits ans.toNat 60 2 = 2 → bits ans.toNat 32 24 = 0 →
    exec (.faultAnswer ans) s = .next (s.fatalTicket d m.ticket (bits ans.toNat 56 4)))
  ∧ (∀ (s : State) (ans : Word) d m, d = bits ans.toNat 62 2 → (s.die d).misses.find? (fun m => m.ticket == low 32 ans.toNat && m.fatal.isNone) = some m → bits ans.toNat 60 2 = 1 → bits ans.toNat 32 24 = 0 →
    exec (.faultAnswer ans) s = .next (pageWalk { core := none, die := d, src := 0 } m.ctx (m.page * 2 ^ 12) m.acc m.src (s.modDie d fun x => { x with misses := x.misses.filter fun y => y.ticket != m.ticket })).2)
  ∧ (∀ (s : State) (ans : Word), ((s.die (bits ans.toNat 62 2)).misses.find? (fun m => m.ticket == low 32 ans.toNat && m.fatal.isNone) = none ∨ bits ans.toNat 60 2 = 0 ∨ bits ans.toNat 60 2 = 3 ∨ bits ans.toNat 32 24 ≠ 0) →
    exec (.faultAnswer ans) s = .next { s with host := { s.host with fansMiss := s.host.fansMiss + 1 } })
  ∧ (∀ (s : State) d t m, (s.die d).misses.find? (fun m => m.ticket == t && m.fatal.isNone) = some m →
    exec (.faultTimeout d t) s = .next (if m.at' + s.faultLimit m.ctx ≤ s.now then s.fatalTicket d t 1 else s))
  ∧ (∀ (s : State) k t w, tget s.threads k = some t → t.status = .held .word → t.faultWait = some w → w.entry = false → s.ticketOpen w.stack w.ticket = false → w.answer = none → s.gateClosed (s.launchOf k).tenant = false →
    exec (.faultReplay k) s = .next ((s.modThr k fun t => { t with faultWait := none }).openGate k))
  ∧ (∀ (s : State) k t w, tget s.threads k = some t → t.status = .held .word → t.faultWait = some w → w.entry = false → s.ticketOpen w.stack w.ticket = false → w.answer = none → s.gateClosed (s.launchOf k).tenant = true →
    exec (.faultReplay k) s = .next (s.modThr k fun t => { t with faultWait := none, status := .held .gate }))
  ∧ (∀ (s : State) k t w, tget s.threads k = some t → t.faultWait = some w → s.ticketOpen w.stack w.ticket = true → exec (.faultReplay k) s = .next s)
  ∧ (∀ (s : State) k t w r, tget s.threads k = some t → t.status = .held .word → t.faultWait = some w → w.entry = false → s.ticketOpen w.stack w.ticket = false → w.answer = some r →
    exec (.faultReplay k) s = .next (takeTrap k (TrapInfo.fatal w.info r) (s.modThr k fun t => { t with faultWait := none })).2)
  ∧ (∀ (i : TrapInfo) r, i.cls = 11 → (TrapInfo.fatal i r).cls = (if bits i.det1.toNat 56 8 = 4 then 14 else 11) ∧ low 32 (TrapInfo.fatal i r).det1.toNat = 0 ∧ bits (TrapInfo.fatal i r).det1.toNat 48 8 = low 8 r)
  ∧ (∀ (s : State) k t i, tget s.threads k = some t → (t.faultWait.elim false fun w => w.entry && w.answer.isSome) = false →
    exec (.trapEntry k i) s = .next (takeTrap k i (s.modThr k fun t => { t with faultWait := t.faultWait.filter fun w => !w.entry })).2)
  ∧ (∀ (s : State) k t i w, tget s.threads k = some t → t.faultWait = some w → w.entry = true → w.answer ≠ none → exec (.trapEntry k i) s = .next (s.fatalTeam t.team))
  ∧ (∀ (s : State) k i, tget s.threads k = none → exec (.trapEntry k i) s = .next s)
  ∧ (∀ (s : State) u, exec (.hostCancel u) s = .next (s.cancelUnit u))

/-! ### Events: placement, pre-emption, engines (06, 09, 23) -/

/-- R129, R133, R136, R415 to R418, R440: a team is placed whole where room is; the oldest task is bound to the lowest free slot; a pre-emption that can be taken holds the threads at rest, enters its handlers when all are held, is refused when its time is over; a team whose threads are all saved writes its block to its save area and leaves its core, and comes back with what the block holds. -/
def Obligations.PlacementEvents : Prop :=
  (∀ (s : State) l c slot inc bases, s.nextPlacement = some (l, none, c, slot, inc, bases) → exec .teamPlacement s = .next (s.placeTeam l c slot inc bases))
  ∧ (∀ s : State, s.nextPlacement = none → exec .teamPlacement s = .next s)
  ∧ (∀ (s u : State) i q r g j, s.bindDue i = true → (s.team i).taskQ = q :: r → s.freeTaskSlot i = some (g, j) →
    u = (s.setThr (s.slotKey i g j) ((s.newThread i g j q.entry).putAll ((digits 4 64 (ofLe q.args)).zipIdx.map fun e => (Loc.slice (64 + e.2), e.1)))).modTeam i (fun x => { x with taskQ := r }) →
    exec (.taskBind i) s = .next (u.modThr (u.slotKey i g j) fun t => { t with status := u.headStatus (u.slotKey i g j) }))
  ∧ (∀ (s : State) i, exec (.preemptionRequest i) s = .next (requestPreempt i s).2)
  ∧ (∀ (s s1 s2 : State) i v w, (s.team i).placed = true → (s.team i).fin = false → (s.team i).preempt = none → vectorOf i 21 s = (.ok (.at' v), s1) → vectorOf i 22 s1 = (.ok (.at' w), s2) →
    ((v = 0 ∨ w = 0 ∨ (s.launch (s.team i).launch).save = 0 ∨ s.armed i = true) → exec (.preemptionRequest i) s = .next (refusePreempt i s2).2)
    ∧ (v ≠ 0 → w ≠ 0 → (s.launch (s.team i).launch).save ≠ 0 → s.armed i = false → (s.team i).guest = [] → (tget s2.teams i).isSome = true →
      ∃ s', exec (.preemptionRequest i) s = .next s' ∧ (s'.team i).preempt = some { at' := s.now, guestAck := true, entered := false, saveStamp := 0 } ∧ s'.mem = s2.mem
        ∧ ∀ k t, k ∈ s.threadsOf i → tget s2.threads k = some t → t.status = .ready → t.atRest = true → (s'.thr k).status = .held .preempt))
  ∧ (∀ (s : State) i, ((s.team i).placed = false ∨ (s.team i).fin = true ∨ (s.team i).preempt.isSome = true) → exec (.preemptionRequest i) s = .next s)
  ∧ (∀ (s s1 : State) i v, s.entryDue i = true → vectorOf i 22 s = (.ok v, s1) →
    (s.armed i = false → v ≠ .at' 0 → v ≠ .wait → exec (.preemptionEntry i) s = .next (forM' (s.threadsOf i) (fun k => takeTrap k ⟨21, 0, 0, 0, 0, 0, (s.thr k).pc, false⟩)
      (s1.modTeam i fun t => { t with preempt := t.preempt.map fun p => { p with entered := true } })).2)
    ∧ (s.armed i = true ∨ v = .at' 0 → exec (.preemptionEntry i) s = .next (dropPreempt i s1).2)
    ∧ (s.armed i = false → v = .wait → exec (.preemptionEntry i) s = .next s1))
  ∧ (∀ (s : State) i, s.entryDue i = false → exec (.preemptionEntry i) s = .next s)
  ∧ (∀ (s : State) i p, (s.team i).preempt = some p → (p.entered = true ∨ s.now < p.at' + preemptLimit) → exec (.preemptionTimeout i) s = .next s)
  ∧ (∀ (s : State) i p, (s.team i).preempt = some p → p.entered = false → (s.team i).placed = true → p.at' + preemptLimit ≤ s.now →
    ∃ s', exec (.preemptionTimeout i) s = .next s' ∧ (s'.team i).preempt = none ∧ ((s.team i).guest = [] → s'.mem = s.mem) ∧ s'.host.evTail + s'.host.evDrop = s.host.evTail + s.host.evDrop + 1)
  ∧ (∀ (s : State) l u, s.roomLate (s.launch l) = true → u = s.modLaunch l (fun x => { x with roomSince := some s.now }) →
    (∀ i, s.victimFor l = some i → exec (.placementPreempt l) s = .next (requestPreempt i u).2) ∧ (s.victimFor l = none → exec (.placementPreempt l) s = .next u))
  ∧ (∀ (s : State) l, s.roomLate (s.launch l) = false → exec (.placementPreempt l) s = .next s)
  ∧ (∀ (s s1 : State) i r, s.saveDue i = true → engWriteSpan i (s.blockAddr i) (s.blockOf i).bytes (s.unmapAll i) = (.ok r, s1) →
    (r = .ok () → (tget s1.teams i).isSome = true → ∃ s', exec (.teamSave i) s = .next s' ∧ s'.mem = s1.mem ∧ (s'.team i).placed = false ∧ (s'.team i).spad = [] ∧ (s'.team i).block = some (s.blockOf i)
      ∧ (s'.team i).taskQ = [] ∧ (s'.team i).rings = [] ∧ ∀ p, (s1.team i).preempt = some p → (s'.team i).preempt = some { p with saveStamp := (s1.core (s1.team i).core).clock })
    ∧ (∀ d t, r = .error (.stall d t) → exec (.teamSave i) s = .next s1) ∧ (∀ c x, r = .error (.fatal c x) → exec (.teamSave i) s = .next (s1.fatalTeam i)))
  ∧ (∀ (s : State) i, s.saveDue i = false → exec (.teamSave i) s = .next s)
  ∧ (∀ (s : State) i, (s.team i).block = none → exec (.teamResume i) s = .next s)
  ∧ (∀ (s s1 : State) i b c slot inc bases p r, (s.team i).block = some b → s.roomFor (s.launch (s.team i).launch) = some (c, slot, inc, bases) → (s.team i).preempt = some p → (s.team i).placed = false →
    (s.team i).fin = false → clkLt p.saveStamp s.podFloor = true → resumeReads i b s = (.ok r, s1) → (tget s1.teams i).isSome = true →
    (r = none → exec (.teamResume i) s = .next s1)
    ∧ (∀ v, r = some (some v) → (s1.team i).guest = [] → ∃ t, exec (.teamResume i) s = .next t ∧ t.mem = s1.mem ∧ (t.team i).placed = true ∧ (t.team i).core = c ∧ (t.team i).block = none ∧ (t.team i).preempt = none
      ∧ (t.team i).taskQ = b.taskQ ∧ (t.team i).carabiner = b.carabiner ∧ bitAt (t.team i).tstat.toNat 2 = true))
/-- R187 to R198, R204, R207, R208: a matrix group retires when it is due, a bound command's next piece is performed and counted, the head of a queue completes when its end is decided, and pinit resets every stage of its ring. -/
def Obligations.EngineEvents : Prop :=
  (∀ (s : State) i, s.mmaDue i = none → exec (.mmaGroupRetire i) s = .next s)
  ∧ (∀ (s : State) i c, s.mmaDue i = some c → exec (.mmaGroupRetire i) s = .next (tryPiece i c (mmaGroup i c) s).2)
  ∧ (∀ (s : State) i id, s.cmd i id = none → exec (.stageAddition i id) s = .next s)
  ∧ (∀ (s : State) i id c, s.cmd i id = some c → c.started = true → c.status = none → c.stall = none → c.bind.isSome = true →
    exec (.stageAddition i id) s = .next (match tryPiece i c (workPiece i c) s.nextFree.2 with
      | (.ok .done, s') => s'.modCmd i id fun c => { c with doneAt := s'.now + s.nextFree.1 * Config.ticksPerCycle }
      | (_, s') => s'))
  ∧ (∀ (s s1 : State) i c m, asParty (partyEngine i) m s = (.error .hold, s1) → tryPiece i c m s = (.ok .again, s1.modCmd i c.id fun c => { c with doneAt := s1.now + Config.ticksPerCycle }))
  ∧ (∀ (s : State) i q, (s.team i).queues.find? (·.queue == q) = none → exec (.engineCommandCompletion i q) s = .next s)
  ∧ (∀ (s : State) i q c st, (s.team i).queues.find? (·.queue == q) = some c → c.started = true → c.stall = none → c.doneAt ≤ s.now → c.kind ≠ .phsig → c.status = some st →
    exec (.engineCommandCompletion i q) s = .next ((s.completeCmd i c st).teamCheck i))
  ∧ (∀ (s : State) i id, (s.team i).inits.find? (·.id == id) = none → exec (.pinitEffect i id) s = .next s)
  ∧ (∀ (s : State) i id p, (s.team i).inits.find? (·.id == id) = some p → s.pinitReady i p = false → exec (.pinitEffect i id) s = .next s)
  ∧ (∀ (s : State) i id p, (tget s.teams i).isSome = true → (s.team i).inits.find? (·.id == id) = some p → s.pinitReady i p = true → 0 < p.stages →
    ∃ s' r, exec (.pinitEffect i id) s = .next s' ∧ tget (s'.team i).rings p.h = some r ∧ r.base = p.base ∧ r.target = p.target ∧ r.stages.length = p.stages
      ∧ ∀ st, st ∈ r.stages → st.state = 0 ∧ st.phase = 0 ∧ st.count = 0 ∧ st.reason = 0)

/-! ### Events: coherence and the host at the home (14) -/

/-- R282, R285, R286, R288, R292, R293, R448: requests of the cores at a home; invalidation takes a copy away, with its data when it is M; a recall leaves S; a merge recall merges the line; a write-back goes by the victim buffer, makes the line Busy at its grant and ends with its data, at the home or at the agent of another stack; the host reads and writes at the home, a refused range reads as zeros and is counted, and a request that must wait waits there; a sector's owner gives back its bytes and no others. -/
def Obligations.CoherenceEvents : Prop :=
  (∀ (s : State) c l g sg, exec (.readShared c l) s = .next ((snoopSectors (128 * l) 128 false >>= fun _ => readShared c l) s).2 ∧ exec (.readOwn c l) s = .next (readOwn c l s).2
    ∧ exec (.upgrade c l) s = .next (readOwn c l s).2 ∧ exec (.join c l g sg) s = .next (joinLine c l g sg s).2)
  ∧ (∀ (s : State) c l g sg, s.Calm c l → s.dirOf l = .uncached → s.l1Of c l = none →
    (∃ s', exec (.readShared c l) s = .next s' ∧ s'.l1Of c l = some .e ∧ s'.dirOf l = .owned c ∧ s'.mem = s.mem)
    ∧ (∃ s', exec (.readOwn c l) s = .next s' ∧ s'.l1Of c l = some (.m (s.memLine l)) ∧ s'.dirOf l = .owned c ∧ s'.mem = s.mem)
    ∧ (∃ s', exec (.join c l g sg) s = .next s' ∧ s'.l1Of c l = some (.c g sg (churnIdentity g)) ∧ s'.dirOf l = .churn g sg [c] ∧ s'.mem = s.mem))
  ∧ (∀ (s : State) c l, s.Calm c l → s.dirOf l = .shared [c] → s.l1Of c l = some .s →
    ∃ s', exec (.upgrade c l) s = .next s' ∧ s'.l1Of c l = some (.m (s.memLine l)) ∧ s'.dirOf l = .owned c ∧ s'.mem = s.mem)
  ∧ (∀ (s : State) c l d, s.l1Of c l = some (.m d) → d.length = 128 → Memory.wf s.mem = true → tget (s.core c).victim l = none → tsorted 0 (s.core c).l1 = true →
    ∃ s', exec (.invalidate c l) s = .next s' ∧ s'.l1Of c l = none ∧ s'.memLine l = d ∧ s'.teams = s.teams ∧ s'.threads = s.threads)
  ∧ (∀ (s : State) c l d, s.l1Of c l = some (.m d) → tget (s.core c).victim l = none → s.dirOf l = .owned c → d.length = 128 → Memory.wf s.mem = true →
    ∃ s', exec (.recall c l true) s = .next s' ∧ s'.l1Of c l = some .s ∧ s'.memLine l = d ∧ s'.dirOf l = .shared [c] ∧ s'.lineView l = d)
  ∧ (∀ (s : State) c l, exec (.recall c l false) s = exec (.invalidate c l) s)
  ∧ (∀ (s : State) c l, (s.unbusy l).partialAt c l = none → exec (.mergeRecall c l) s = .next (s.unbusy l))
  ∧ (∀ (s : State) c l, (s.unbusy l).partialAt c l ≠ none → exec (.mergeRecall c l) s = .next (mergeRead l (s.unbusy l)).2)
  ∧ (∀ (s : State) l, (s.peer (l / 16)).mode = 0 → s.peerAcks.any (·.line == l) = false → s.lineOpen l = true → mergeRead l s = (.ok (), ({ s with turns := tdel s.turns l } : State).mergeLine l false))
  ∧ (∀ (s : State) c l d, s.l1Of c l = some (.m d) → (s.core c).victim.length < 32 → tsorted 0 (s.core c).l1 = true →
    ∃ s', exec (.wbreq c l) s = .next s' ∧ s'.l1Of c l = none ∧ tget (s'.core c).victim l = some (.m d) ∧ s'.mem = s.mem ∧ s'.dir = s.dir)
  ∧ (∀ (s : State) c l d, tget (s.core c).victim l = some (.m d) → s.dirOf l = .owned c → s.peerAcks.any (·.line == l) = false → exec (.wbgrant c l) s = .next (s.setDir l (.busy c (.owned c))))
  ∧ (∀ (s : State) c l g x d g' x' v, tget (s.core c).victim l = some (.c g x d) → s.dirOf l = .churn g' x' v → s.peerAcks.any (·.line == l) = false →
    exec (.wbgrant c l) s = .next (s.setDir l (.busy c (.churn g' x' v))))
  ∧ (∀ (s : State) c l, tget (s.core c).victim l = none → exec (.wbgrant c l) s = .next s)
  ∧ (∀ (s : State) c l, exec (.wbData c l) s = .next (s.writeBack c l))
  ∧ (∀ (s : State) c l d, tget (s.core c).victim l = some (.m d) → s.dirOf l = .busy c (.owned c) → s.l1Of c l = none → d.length = 128 → Memory.wf s.mem = true → tsorted 0 s.dir = true → tsorted 0 (s.core c).victim = true → foreignStack c l = none →
    ((s.writeBack c l).memLine l = d ∧ (s.writeBack c l).dirOf l = .uncached ∧ tget ((s.writeBack c l).core c).victim l = none))
  ∧ (∀ (s : State) c l d st, tget (s.core c).victim l = some (.m d) → s.dirOf l = .busy c (.owned c) → s.l1Of c l = none → tsorted 0 s.dir = true → tsorted 0 s.agents = true → tsorted 0 (s.core c).victim = true →
    foreignStack c l = some st → ((s.writeBack c l).mem = s.mem ∧ (s.writeBack c l).dirOf l = .owned c ∧ tget (s.writeBack c l).agents (agentKey st l) = some (.dirty d) ∧ (s.writeBack c l).lineView l = d))
  ∧ (∀ (s : State) pa n k b o, exec (.hostMemRead pa n k) s = .next (orWait (.hostRead pa n k) (hostRead pa n k) (s.inName partyHost)).2
    ∧ exec (.hostMemWrite pa b o) s = .next (orWait (.hostWrite pa b o) (hostWrite pa b o) (s.inName partyHost)).2)
  ∧ (∀ (s s1 s2 : State) pa n b, s.hostSees pa n = true → s.barred pa n = false → forM' (sectorsOf pa n) (snoopOther false false) (s.inName partyHost) = (.ok (), s1) → homeBytes pa n s1 = (.ok b, s2) →
    exec (.hostMemRead pa n false) s = .next (s2.emit (.hostData b)))
  ∧ (∀ (s : State) pa n k, s.hostSees pa n = true → s.barred pa n = true → exec (.hostMemRead pa n k) s = .next ((s.inName partyHost).countRefusal.emit (.hostData (List.replicate n 0))))
  ∧ (∀ (s : State) pa b o, b ≠ [] → s.hostSees pa b.length = true → s.barred pa b.length = true → exec (.hostMemWrite pa b o) s = .next (s.inName partyHost).countRefusal)
  ∧ (∀ (s s1 s2 s3 : State) pa b, b ≠ [] → s.hostSees pa b.length = true → s.barred pa b.length = false → forM' (sectorsOf pa b.length) (snoopOther false true) (s.inName partyHost) = (.ok (), s1) →
    forM' (linesOf pa b.length) homeOwn s1 = (.ok (), s2) → outsideWrite pa b s2 = (.ok (), s3) → exec (.hostMemWrite pa b false) s = .next s3)
  ∧ (∀ (s s1 : State) pa n k, hostRead pa n k (s.inName partyHost) = (.error .hold, s1) → exec (.hostMemRead pa n k) s = .next { s1 with portWait := s1.portWait ++ [.hostRead pa n k] })
  ∧ (∀ (s : State) n b, (s.sector n).host = .m → b.length = 64 → exec (.hostWriteback n b) s = .next (((s.putAt (64 * n) b).recordWrite (n / 2) 0 0 .external).setSector n { s.sector n with host := .i, hostSnoop := false }))
  ∧ (∀ (s : State) n b, (s.sector n).host ≠ .m → exec (.hostWriteback n b) s = .next s)
  ∧ (∀ (s : State) n b, (s.sector n).hostSnoop = true → (s.sector n).host = .s → exec (.bisnpResponse n true b) s = .next (s.setSector n { s.sector n with host := .i, hostSnoop := false }))
  ∧ (∀ (s : State) n inv b, (s.sector n).hostSnoop = false → exec (.bisnpResponse n inv b) s = .next s)
  ∧ (∀ (s : State) l c, (∀ d, tsorted 0 (s.core d).l1 = true) → (tget s.cores c).isSome = true → ∃ s', exec (.hostSnoop l) s = .next s' ∧ s'.l1Of c (2 ^ 45 + l) = none ∧ s'.mem = s.mem ∧ s'.hostMem = s.hostMem)

/-! ### Events: queues and the host's registers (24) -/

/-- R427, R428, R433, R434, R436 to R439, R443: a kick moves the tail of a queue whose context stands, a bad one is counted; entries are fetched and read again, a queue stalls with an event; launch packets, leg marks and unknown entries; phasers are allocated and freed; predecessors decide a launch; a counter's mirror is written; gates close and open with the tenant's threads; the event ring's head moves; other accesses are counted. Waiting words are polled and mirrors tried every cycle (log entry 17); a value of evhead beyond evtail is log entry 16. -/
def Obligations.QueueEvents : Prop :=
  (∀ (s : State) q v, exec (.kick q v) s = .next (s.kicked q v.toNat (bitAt v.toNat 63)) ∧ exec (.kickRestart q v) s = .next (s.kicked q v.toNat true))
  ∧ (∀ (s : State) q w v, s.trust.sleeping = false → tget s.host.queues q = some w → (s.ctxAt w.desc.ctx).isSome = true → w.state = .idle → bits v 32 31 = 0 → low 32 v = low 32 (w.head + 1) → 1 ≤ w.size →
    w.tail = w.head → ∃ w', tget (s.kicked q v false).host.queues q = some w' ∧ w'.tail = w.head + 1 ∧ w'.state = .fetch ∧ w'.head = w.head)
  ∧ (∀ (s : State) q v w, tget s.host.queues q = some w → s.ctxAt w.desc.ctx = none → s.trust.sleeping = false → s.kicked q v false = s)
  ∧ (∀ (s : State) q w, tget s.host.queues q = some w → s.queueOn = true → w.state = .fetch → w.packet = none → w.head < w.tail →
    exec (.queueFetch q) s = .next (match consume q w s with
      | (.ok false, s') => s'.modQueue q fun x => { x with state := .retry, retryAt := s'.now, tries := 0 }
      | (_, s') => s'))
  ∧ (∀ (s : State) q w, tget s.host.queues q = some w → w.state ≠ .fetch → exec (.queueFetch q) s = .next s)
  ∧ (∀ (s : State) q w, tget s.host.queues q = some w → w.rereadDue s.now = true →
    exec (.queueRetryRead q) s = .next (match consume q w s with
      | (.ok false, s') => s'.modQueue q fun x => { x with tries := x.tries + 1 }
      | (_, s') => s'))
  ∧ (∀ (s s1 : State) q w b, ringRead w (w.entryAt w.head) 128 s = (.ok b, s1) → (b.getD 0 0).toNat ≠ w.expected w.head → consume q w s = (.ok false, s1))
  ∧ (∀ (s : State) q w, tget s.host.queues q = some w → exec (.queueStall q) s = .next (if w.stallDue s.now then (s.modQueue q fun x => { x with state := .stalled }).postEvent 1 q (wd w.head) else s))
  ∧ (∀ (s : State) q e, exec (.launchPacket q e) s = .next (match launchPacket q e s with
      | (.ok true, s') => s'.modQueue q fun w => { w with packet := some e }
      | (_, s') => s'))
  ∧ (∀ (s : State) q e, tget s.host.queues q = none → exec (.launchPacket q e) s = .next s)
  ∧ (∀ (s : State) q m, exec (.legMark q m) s = .next (s.legMark q m)) ∧ (∀ (s : State) q i, exec (.badPacket q i) s = .next (s.postEvent 5 q (wd i)))
  ∧ (∀ (s : State) a, exec (.phaserAllocation a) s = .next (match phaserAlloc a s with
      | (.ok true, s') => { s' with host := { s'.host with allocs := s'.host.allocs ++ [a] } }
      | (_, s') => s'))
  ∧ (∀ (s : State) h, exec (.phaserFree h) s = .next (s.freePhaser h))
  ∧ (∀ (s s' : State) l x vs, tget s.host.launches l = some x → x.fin = false → x.eligible = none → waitWords x.ctx x.waits s = (.ok (.ok vs), s') →
    ((vs.any fun v => low 32 v != 0 || bits v 61 3 == 0) = true → exec (.waitPoll l) s = .next s')
    ∧ ((vs.any fun v => low 32 v != 0 || bits v 61 3 == 0) = false → (vs.map fun v => bits v 61 3).foldl max 0 ≤ 1 → exec (.waitPoll l) s = .next (s'.modLaunch l fun x => { x with eligible := some s'.now }))
    ∧ ((vs.any fun v => low 32 v != 0 || bits v 61 3 == 0) = false → 1 < (vs.map fun v => bits v 61 3).foldl max 0 → exec (.waitPoll l) s = .next (s'.endUnplaced l ((vs.map fun v => bits v 61 3).foldl max 0))))
  ∧ (∀ (s s' : State) l x, tget s.host.launches l = some x → x.fin = false → x.eligible = none →
    (waitWords x.ctx x.waits s = (.ok (.error .wait), s') → exec (.waitPoll l) s = .next s') ∧ (waitWords x.ctx x.waits s = (.ok (.error .bad), s') → exec (.waitPoll l) s = .next (s'.endUnplaced l 3)))
  ∧ (∀ (s : State) u, exec (.mirrorWrite u) s = .next (mirrorWrite u s).2)
  ∧ (∀ (s s' : State) u r, (s.mirrorOf u).1 ≠ 0 → (low 32 ((s.unitCount u).getD 0) ≠ 0 ∨ s.endsPassed u = true) → qWrite8 (s.mirrorOf u).2 (s.mirrorOf u).1 (s.counterWord u) s = (.ok r, s') →
    (r = .ok () → exec (.mirrorWrite u) s = .next { s' with host := { s'.host with mirrors := s'.host.mirrors.filter (· != u) } }) ∧ (r = .error .wait → exec (.mirrorWrite u) s = .next s')
    ∧ (r = .error .bad → exec (.mirrorWrite u) s = .next { s' with host := { s'.host with mirrors := s'.host.mirrors.filter (· != u) }, trust := { s'.trust with mirrorSkipped := s'.trust.mirrorSkipped + 1 } }))
  ∧ (∀ (s : State) u, (s.mirrorOf u).1 ≠ 0 → low 32 ((s.unitCount u).getD 0) = 0 → s.endsPassed u = false → exec (.mirrorWrite u) s = .next s)
  ∧ (∀ (s : State) u, (s.mirrorOf u).1 = 0 → exec (.mirrorWrite u) s = .next { s with host := { s.host with mirrors := s.host.mirrors.filter (· != u) } })
  ∧ (∀ (s : State) t p, s.gateClosed t = true → exec (.gateClose t p) s = .next s)
  ∧ (∀ (s : State) t p, tsorted 0 s.threads = true → s.gateClosed t = false → ∃ s', exec (.gateClose t p) s = .next s' ∧ s'.gateClosed t = true ∧ s'.mem = s.mem
      ∧ ∀ k x, tget s.threads k = some x → (s'.thr k).status = if x.status = .ready ∧ (s.launchOf k).tenant = t then .held .gate else x.status)
  ∧ (∀ (s : State) t, tsorted 0 s.host.budgets = true → s.gateClosed t = true → s.guestBytes t * 100 < 95 * bandwidthBytes (dget Budget.unset s.host.budgets t) → ∃ s', exec (.gateOpen t) s = .next s' ∧ s'.gateClosed t = false ∧ s'.threads = s.threads ∧ s'.mem = s.mem)
  ∧ (∀ (s : State) v n, n = low 64 (v.toNat + 2 ^ 64 - low 64 s.host.evHead) → n ≤ s.host.evTail - s.host.evHead →
    exec (.evheadWrite v) s = .next { s with host := { s.host with evHead := s.host.evHead + n, evRing := s.host.evRing.drop n } })
  ∧ (∀ (s : State) o, exec (.bar0OtherAccess o true) s = .next { s with host := { s.host with bar0Miss := s.host.bar0Miss + 1 } }
      ∧ exec (.bar0OtherAccess o false) s = .next (({ s with host := { s.host with bar0Miss := s.host.bar0Miss + 1 } } : State).emit (.hostRead 0)))

/-! ### Events: the guest die (20) -/

/-- R369 to R382: a good hello raises the ready bit; while the guest die is ready, its completions are kept in order, its faults, translations, shootdown and pre-emption acknowledgements act, what it may not send is discarded and counted, and a duty that it fails fences it off, after which its messages have no effect; requests on the coherent port act at the home. -/
def Obligations.GuestEvents : Prop :=
  (∀ (s : State) m, s.socket.ready = true → s.socket.fenced = false → guestOn m s = m s) ∧ (∀ (s : State) m, (s.socket.ready = false ∨ s.socket.fenced = true) → guestOn m s = (.ok (), s))
  ∧ (∀ (s : State) i q t r c rs va acc a f sid saved pid ten b, (s.socket.ready = false ∨ s.socket.fenced = true) →
      i ∈ [Instr.guestCompletion q t r c rs, .guestFault q t a acc f, .guestFaultDeadline q t, .guestFaultCompletionTimeout q t, .translate q t va acc, .shootdownAck sid, .preemptAck pid saved, .preemptAckTimeout pid,
        .gateViolation ten, .guestOtherMessage, .guestUnsupportedRequest q, .guestSnoopResponse q true b, .snoopTimeout q] → exec i s = .next s)
  ∧ (∀ (s : State) q t r c rs x, s.socket.ready = true → s.socket.fenced = false → tget s.socket.queues q = some x → x.late.contains t = false → x.packets.find? (·.ticket == t) = none →
    exec (.guestCompletion q t r c rs) s = .next (fenceGuest s).2)
  ∧ (∀ (s : State) q t r x p, s.socket.ready = true → s.socket.fenced = false → tget s.socket.queues q = some x → x.late.contains t = false → x.packets.find? (·.ticket == t) = some p → p.saved = false → p.held = none → p.faultAt = none →
    exec (.guestCompletion q t r 0 0) s = .next (flush q (s.modPacket q t fun p => { p with held := some (0, 0, r) })).2)
  ∧ (∀ (s s1 : State) q x p c n r, tget s.socket.queues q = some x → x.packets = [p] → p.held = some (c, n, r) → writeRecord p (c * 2 ^ 12 + n * 2 ^ 8) r (s.inName partyGuest) = (.ok (), s1) →
    (tget (s1.retireGuest q p (c * 2 ^ 12 + n * 2 ^ 8)).socket.queues q).bind (·.packets.head?) = none → flush q s = (.ok (), s1.retireGuest q p (c * 2 ^ 12 + n * 2 ^ 8)))
  ∧ (∀ (s s1 : State) q x p c n r, tget s.socket.queues q = some x → x.packets.head? = some p → p.held = some (c, n, r) → writeRecord p (c * 2 ^ 12 + n * 2 ^ 8) r (s.inName partyGuest) = (.error .hold, s1) → flush q s = (.ok (), s1))
  ∧ (∀ (s : State) q x p, tget s.socket.queues q = some x → x.packets.head? = some p → p.held = none → flush q s = (.ok (), s.inName partyGuest))
  ∧ (∀ (s : State) q t a acc f, s.socket.ready = true → s.socket.fenced = false → s.guestPacket q t = none → ((s.socket.owed.any fun o => o.1 == q && o.2.1 == t) = false → exec (.guestFault q t a acc f) s = .next s.discard) ∧ exec (.translate q t a acc) s = .next s.discard)
  ∧ (∀ (s : State) q t a acc p, s.guestPacket q t = some p → exec (.guestFault q t a acc false) s = .next s)
  ∧ (∀ (s : State) q t, s.guestPacket q t = none → (s.owedLate q t = false → exec (.guestFaultDeadline q t) s = .next s) ∧ exec (.guestFaultCompletionTimeout q t) s = .next s)
  ∧ (∀ (s : State) q t, s.socket.ready = true → s.socket.fenced = false → ((∃ p, s.guestPacket q t = some p ∧ s.faultLate p = true) ∨ s.owedLate q t = true) → exec (.guestFaultDeadline q t) s = .next (fenceGuest s).2)
  ∧ (∀ (s u : State) q t a acc p, s.socket.ready = true → s.socket.fenced = false → s.guestPacket q t = some p → p.faultAt = none → u = s.modPacket q t (fun p => { p with faultAt := some (1, s.now), fatalAt := none }) →
    exec (.guestFault q t a acc true) s = .next (orWait (.guestFault q t a acc s.now) (takeFault q t a acc s.now) (u.inName partyGuest)).2)
  ∧ (∀ (s s' : State) q t a acc n p r, s.guestPacket q t = some p → faultReason (s.tenantCtx p.tenant p.ctx) a.toNat acc s = (.ok r, s') →
    takeFault q t a acc n s = (.ok (), s'.modPacket q t fun p => { p with faultAt := some (r, n), fatalAt := none }))
  ∧ (∀ (s : State) q t p x, s.socket.ready = true → s.socket.fenced = false → s.guestPacket q t = some p → tget s.socket.queues q = some x → s.faultDone p = true →
    exec (.guestFaultCompletionTimeout q t) s = .next (flush q ((s.setSocket fun y => { y with queues := tset y.queues q { x with late := x.late ++ [t] } }).modPacket q t fun p => { p with held := some (2, p.faultAt.elim 1 (·.1), 0) })).2)
  ∧ (∀ (s s' : State) q t va acc w r, s.socket.ready = true → s.socket.fenced = false → (s.guestPacket q t).isSome = true → w = (⟨q, t, va, acc⟩ : XlateWait) → answerXlate w (s.inName partyGuest) = (r, s') →
    (r = .ok false → exec (.translate q t va acc) s = .next s')
    ∧ (r = .ok true ∨ r = .error .hold → exec (.translate q t va acc) s = .next ((s'.setSocket fun y => { y with pending := if y.pending.contains w then y.pending else y.pending ++ [w] }).emit (.guestAnswer 0 0 0 1))))
  ∧ (∀ (s s' : State) w p x, s.guestPacket w.q w.ticket = some p → translate (hubAsker w.va.toNat 2) (s.tenantCtx p.tenant p.ctx) w.va.toNat w.acc s = (.ok x, s') →
    ((∃ c r a, x = .error (.page c r a)) → answerXlate w s = (.ok true, s'))
    ∧ ((∃ pa, x = .ok (true, pa)) → answerXlate w s = (.ok false, (s'.modPacket w.q w.ticket fun p => { p with fatalAt := some s'.now }).emit (.guestAnswer 0 0 0 2)))
    ∧ (∀ pa e l, x = .ok (false, pa) → s'.tlbFind (hubAsker w.va.toNat 2) (s.tenantCtx p.tenant p.ctx) w.va.toNat = some (l, e) → ∃ s2, answerXlate w s = (.ok false, s2)
      ∧ s2.out = s'.out ++ [.guestAnswer (pa / 2 ^ e.size * 2 ^ e.size) e.size (b2n e.r + 2 * b2n e.w) 0] ∧ (s2.socket.xlates.drop s'.socket.xlates.length).map (fun y => (y.ctx, y.size, y.r, y.w)) = [(s.tenantCtx p.tenant p.ctx, e.size, e.r, e.w)]))
  ∧ (∀ (s : State) id, s.socket.ready = true → s.socket.fenced = false → s.socket.shootdowns.find? (·.id == id) = none → exec (.shootdownAck id) s = .next s.discard)
  ∧ (∀ (s : State) id d, s.socket.ready = true → s.socket.fenced = false → s.socket.shootdowns.find? (·.id == id) = some d →
    ∃ s', exec (.shootdownAck id) s = .next s' ∧ s'.socket.shootdowns = s.socket.shootdowns.filter (·.id != id) ∧ (d.kind = 2 → s'.socket.xlates = s.socket.xlates.filter fun x => !(x.id < id))
      ∧ (∀ x, x ∈ s.socket.xlates → id ≤ x.id → x ∈ s'.socket.xlates) ∧ s'.mem = s.mem)
  ∧ (∀ (s : State) id l, s.socket.ready = true → s.socket.fenced = false → s.socket.preempts.find? (·.1 == id) = none → exec (.preemptAck id l) s = .next s.discard ∧ exec (.preemptAckTimeout id) s = .next s)
  ∧ (∀ (s : State) id i t c l, s.socket.ready = true → s.socket.fenced = false → s.socket.preempts.find? (·.1 == id) = some (id, i, t, c) → (s.team i).guest = [] → (s.team i).preempt.isSome = true →
    exec (.preemptAck id l) s = .next ((s.setSocket fun y => { y with preempts := y.preempts.filter (·.1 != id) }).modTeam i fun t => { t with preempt := t.preempt.map fun p => { p with guestAck := true } }))
  ∧ (∀ (s u : State) id i t c l n q k p, s.socket.ready = true → s.socket.fenced = false → s.socket.preempts.find? (·.1 == id) = some (id, i, t, c) → (s.team i).guest = [(n, q, k)] →
    s.guestPacket q k = some p → p.held = none → p.saved = false → u = s.setSocket (fun y => { y with preempts := y.preempts.filter (·.1 != id) }) →
    (l.contains (q, k) = false → exec (.preemptAck id l) s = .next (fenceGuest u).2)
    ∧ (l.contains (q, k) = true → (s.team i).preempt.isSome = true →
      exec (.preemptAck id l) s = .next (flush q ((u.modPacket q k fun p => if c || decide (3 ≤ (s.team i).status) then { p with held := some (4, 0, 0) } else { p with saved := true }).modTeam i
        fun t => { t with preempt := t.preempt.map fun p => { p with guestAck := true } })).2)
    ∧ (l.contains (q, k) = true → (s.team i).preempt = none → exec (.preemptAck id l) s = .next (flush q ((u.modPacket q k fun p => if c || decide (3 ≤ (s.team i).status) then { p with held := some (4, 0, 0) } else { p with saved := true }).repost i)).2))
  ∧ (∀ (s : State) id a t c, s.socket.ready = true → s.socket.fenced = false → s.socket.preempts.find? (·.1 == id) = some (id, a, t, c) → exec (.preemptAckTimeout id) s = .next (if t + 100 * usTicks ≤ s.now then (fenceGuest s).2 else s))
  ∧ (∀ (s : State) t, s.socket.ready = true → s.socket.fenced = false → exec (.gateViolation t) s = .next (if s.gateBroken t then (fenceGuest s).2 else s))
  ∧ (∀ (s s' : State), fenceGuest s = (.ok (), s') → s.socket.ready = true → s.socket.fenced = false → s'.socket.fenced = true ∧ s'.socket.ready = false ∧ s'.socket.xlates = [] ∧ s'.socket.fences = s.socket.fences + 1)
  ∧ (∀ (s : State) h, s.socket.fenced = false → s.socket.ready = false → bitAt s.trust.ready 39 = false → bitAt s.trust.ready 25 = true → h.version = 1 → h.digest = s.socket.expected →
    ∃ s', exec (.hello h) s = .next s' ∧ s'.socket.ready = true ∧ bitAt s'.trust.ready 31 = true ∧ s'.mem = s.mem)
  ∧ (∀ (s : State) h, (h.version ≠ 1 ∨ h.digest ≠ s.socket.expected) → exec (.hello h) s = .next s)
  ∧ (∀ s : State, s.socket.ready = true → s.socket.fenced = false → exec .guestOtherMessage s = .next s.discard)
  ∧ (∀ (s : State) pa, s.socket.ready = true → s.socket.fenced = false → exec (.guestUnsupportedRequest pa) s = .next (s.discard.emit (.guestGo true)))
  ∧ (∀ (s : State) n b, s.socket.ready = true → s.socket.fenced = false → (s.sector n).guestSnoop = none → exec (.guestSnoopResponse n true b) s = .next s ∧ exec (.snoopTimeout n) s = .next s)
  ∧ (∀ (s : State) n b, s.socket.ready = true → s.socket.fenced = false → (s.sector n).guestSnoop.isSome = true → (s.sector n).guest = .s →
    exec (.guestSnoopResponse n true b) s = .next (s.setSector n { s.sector n with guest := .i, guestSnoop := none }))
  ∧ (∀ (s : State) n t, s.socket.ready = true → s.socket.fenced = false → (s.sector n).guestSnoop = some t → exec (.snoopTimeout n) s = .next (if t + usTicks ≤ s.now then (fenceGuest s).2 else s))
  ∧ (∀ (s : State) g b, exec (.rdcurr g) s = .next (orWait (.guestRead g false) (guestRead g false) (s.inName partyGuest)).2 ∧ exec (.rdshared g) s = .next (orWait (.guestRead g true) (guestRead g true) (s.inName partyGuest)).2
    ∧ exec (.rdown g) s = .next (orWait (.guestOwn g true) (guestOwn g true) (s.inName partyGuest)).2 ∧ exec (.rdownnodata g) s = .next (orWait (.guestOwn g false) (guestOwn g false) (s.inName partyGuest)).2
    ∧ exec (.itomwr g b) s = .next (orWait (.guestWrite g b) (guestWrite g b) (s.inName partyGuest)).2 ∧ exec (.wrcur g b) s = .next (orWait (.guestWrite g b) (guestWrite g b) (s.inName partyGuest)).2
    ∧ exec (.clflush g) s = .next (orWait (.guestFlush g) (guestFlush g) (s.inName partyGuest)).2
    ∧ exec (.cleanevict g) s = .next (portCheck g false (pure ()) (setGuest (GuestAccSector g) .i) s).2 ∧ exec (.cleanevictnodata g) s = .next (portCheck g false (pure ()) (setGuest (GuestAccSector g) .i) s).2)
  ∧ (∀ (s : State) r m, (∀ e s', m s = (e, s') → e ≠ .error .hold) → orWait r m s = m s) ∧ (∀ (s s' : State) r m, m s = (.error .hold, s') → orWait r m s = (.ok (), { s' with portWait := s'.portWait ++ [r] }))
  ∧ (∀ (s : State) g w r m, (s.socket.ready = false ∨ s.socket.fenced = true) → portCheck g w r m s = (.ok (), s))
  ∧ (∀ (s : State) g w r m, s.socket.ready = true → s.socket.fenced = false →
    (s.guestPacket g.q g.ticket = none ∨ ∃ p, s.guestPacket g.q g.ticket = some p ∧ (s.gateBroken p.tenant = true
      ∨ ((s.socket.xlates.any fun x => x.ctx == s.tenantCtx p.tenant p.ctx && x.pa ≤ g.pa && g.pa < x.pa + 2 ^ x.size && (if w then x.w else x.r)) = false ∧ (w = true ∨ s.ringGuard g.pa 1 = false)))) →
    portCheck g w r m s = fenceGuest (s.emit (.guestGo true)))
  ∧ (∀ (s s' : State) g w r m p, s.socket.ready = true → s.socket.fenced = false → s.guestPacket g.q g.ticket = some p → s.gateBroken p.tenant = false →
    (s.socket.xlates.any fun x => x.ctx == s.tenantCtx p.tenant p.ctx && x.pa ≤ g.pa && g.pa < x.pa + 2 ^ x.size && (if w then x.w else x.r)) = true →
    ((s.domainRange (g.pa / 64 * 64) 64 = true ∨ s.ctxGuard (g.pa / 64 * 64) 64 = true) → portCheck g w r m s = r s.countRefusal)
    ∧ (s.domainRange (g.pa / 64 * 64) 64 = false → s.ctxGuard (g.pa / 64 * 64) 64 = false → m s = (.ok (), s') → portCheck g w r m s = (.ok (), s'.meterGuest p.tenant 64)))
  ∧ (∀ (s : State) g p, tsorted 0 s.sectors = true → s.socket.ready = true → s.socket.fenced = false → s.guestPacket g.q g.ticket = some p →
    (s.socket.xlates.any fun x => x.ctx == s.tenantCtx p.tenant p.ctx && x.pa ≤ g.pa && g.pa < x.pa + 2 ^ x.size && x.r) = true → s.gateBroken p.tenant = false → s.domainRange (g.pa / 64 * 64) 64 = false →
    s.ctxGuard (g.pa / 64 * 64) 64 = false → ∃ s', exec (.cleanevict g) s = .next s' ∧ exec (.cleanevictnodata g) s = .next s' ∧ (s'.sector (GuestAccSector g)).guest = .i ∧ s'.mem = s.mem)
  ∧ (∀ (s : State) g b, (s.socket.ready = false ∨ s.socket.fenced = true) → exec (.dirtyevict g b) s = .next s)
  ∧ (∀ (s : State) g b p, tsorted 0 s.sectors = true → s.socket.ready = true → s.socket.fenced = false → s.guestPacket g.q g.ticket = some p →
    (s.socket.xlates.any fun x => x.ctx == s.tenantCtx p.tenant p.ctx && x.pa ≤ g.pa && g.pa < x.pa + 2 ^ x.size && x.w) = true → s.gateBroken p.tenant = false → s.domainRange (g.pa / 64 * 64) 64 = false → s.ctxGuard (g.pa / 64 * 64) 64 = false →
    (s.sector (GuestAccSector g)).guest = .m → b.length = 64 → ∃ s', exec (.dirtyevict g b) s = .next s' ∧ (s'.sector (GuestAccSector g)).guest = .i)

/-! ### Events: packets (15, 19) -/

/-- R294 to R296, R309 to R312, R316: a packet of class 0 that follows no waiting one acts at its target, or waits there: a load answers the bytes, a store or piece writes them and is acknowledged, an atomic answers the old value, each refused with a status when its address cannot be translated, its target is closed or another team's write would be met; an invalidation takes the copy away; an answer ends the request or write whose tag it carries, any other is dropped; the SC access with the least stamp is performed when the floor has passed it. The waiting list and the record beside a response are the model's own (log entries 4 and 9). -/
def Obligations.FabricPackets : Prop :=
  (∀ (s : State) p i n, (i, n) ∈ [(Instr.fabricRead p, 0), (.fabricWrite p, 1), (.fabricAtomic p, 2), (.bulkPiece p, 3), (.fabricInvalidate p, 5), (.fabricMergeRecall p, 6)] →
    (s.fabric.stalled.any fun q => q.src == p.src && lineOf q.va == lineOf p.va && q.kind < 7) = false →
    exec i s = .next (match requestAct (asKind p n) (s.inName (partyPacket p)) with
      | (.ok true, s') | (.error .hold, s') => { s' with fabric := { s'.fabric with stalled := s'.fabric.stalled ++ [asKind p n] } }
      | (_, s') => s'))
  ∧ (∀ (s : State) p i n, (i, n) ∈ [(Instr.fabricRead p, 0), (.fabricWrite p, 1), (.fabricAtomic p, 2), (.bulkPiece p, 3), (.fabricInvalidate p, 5), (.fabricMergeRecall p, 6)] →
    (s.fabric.stalled.any fun q => q.src == p.src && lineOf q.va == lineOf p.va && q.kind < 7) = true → exec i s = .next { s with fabric := { s.fabric with stalled := s.fabric.stalled ++ [asKind p n] } })
  ∧ (∀ (s s1 s2 s3 : State) p pa b, s.fabric.stalled = [] → targetXlate (asKind p 0) 1 (s.inName (partyPacket p)) = (.ok (.ok (some (false, pa))), s1) → targetCheck (asKind p 0) pa (low 3 p.op != 0) s1 = (.ok true, s2) → low 3 p.op ≠ 4 →
    homeRead pa p.bytes s2 = (.ok b, s3) → (s3.copyLeft (asKind p 0) (lineOf pa) = true → peerRoom (lineOf pa) s3 = (.ok (), s3)) →
    exec (.fabricRead p) s = .next ((s3.notePeer (asKind p 0) (lineOf pa)).respond (asKind p 0) 7 0 b (s3.winRec (lineOf pa)) (if s3.copyLeft (asKind p 0) (lineOf pa) then some (pa / 128 * 128) else none)))
  ∧ (∀ (s s1 s2 : State) p pa, s.fabric.stalled = [] → targetXlate (asKind p 0) 1 (s.inName (partyPacket p)) = (.ok (.ok (some (false, pa))), s1) → targetCheck (asKind p 0) pa (low 3 p.op != 0) s1 = (.ok false, s2) →
    exec (.fabricRead p) s = .next (s2.conflictPacket (asKind p 0) pa (if low 3 p.op = 0 then 0 else 2)))
  ∧ (∀ (s s1 : State) p st, s.fabric.stalled = [] →
    (targetXlate (asKind p 0) 1 (s.inName (partyPacket p)) = (.ok (.error st), s1) → exec (.fabricRead p) s = .next (s1.respond (asKind p 0) 7 st [] WinRec.empty))
    ∧ (targetXlate (asKind p 1) 2 (s.inName (partyPacket p)) = (.ok (.error st), s1) → exec (.fabricWrite p) s = .next (s1.respond (asKind p 1) 9 st [] WinRec.empty))
    ∧ (targetXlate (asKind p 2) 3 (s.inName (partyPacket p)) = (.ok (.error st), s1) → exec (.fabricAtomic p) s = .next (s1.respond (asKind p 2) 8 st [] WinRec.empty)))
  ∧ (∀ (s s1 s2 s3 : State) p pa, s.fabric.stalled = [] → targetXlate (asKind p 1) 2 (s.inName (partyPacket p)) = (.ok (.ok (some (false, pa))), s1) →
    (s1.targetMayWrite (asKind p 1) (lineOf pa) = false → exec (.fabricWrite p) s = .next (s1.respond (asKind p 1) 9 3 [] WinRec.empty))
    ∧ (s1.targetMayWrite (asKind p 1) (lineOf pa) = true → low 3 p.op ≠ 2 → targetCheck (asKind p 1) pa false s1 = (.ok false, s2) → exec (.fabricWrite p) s = .next (s2.respond (asKind p 1) 9 4 [] WinRec.empty))
    ∧ (s1.targetMayWrite (asKind p 1) (lineOf pa) = true → low 3 p.op ≠ 2 → targetCheck (asKind p 1) pa false s1 = (.ok true, s2) → homeWrite pa p.payload s2 = (.ok (), s3) →
      exec (.fabricWrite p) s = .next ((s3.recordWrite (lineOf pa) p.team p.stamp .plain).respond (asKind p 1) 9 0 [] WinRec.empty))
    ∧ (s1.targetMayWrite (asKind p 1) (lineOf pa) = true → low 3 p.op = 2 → targetCheck (asKind p 1) pa true s1 = (.ok true, s2) → homeWrite pa p.payload s2 = (.ok (), s3) →
      exec (.fabricWrite p) s = .next ((s3.recordWrite (lineOf pa) p.team p.stamp (.sync true 6)).respond (asKind p 1) 9 0 [] WinRec.empty)))
  ∧ (∀ (s s1 s2 s3 : State) p pa v, s.fabric.stalled = [] → targetXlate (asKind p 2) 3 (s.inName (partyPacket p)) = (.ok (.ok (some (false, pa))), s1) → s1.targetMayWrite (asKind p 2) (lineOf pa) = true → (s1.cluster (homeCluster pa)).faulted = false →
    targetCheck (asKind p 2) pa true s1 = (.ok true, s2) → bits p.op 8 3 ≠ 4 → (s1.mapOf (lineOf pa) = none → s1.groupBehind pa (fatmBytes p.op) = false) →
    homeAtomic pa (fatmBytes p.op) (fatmOp p.op) (ofLe (cut p.payload 0 (fatmBytes p.op))) (ofLe (cut p.payload (fatmBytes p.op) (fatmBytes p.op))) p.team p.stamp
      (.sync (ordRel (bits p.op 8 3)) (if ordRel (bits p.op 8 3) then 6 else 0)) s2 = (.ok v, s3) →
    ∃ r, exec (.fabricAtomic p) s = .next (s3.respond (asKind p 2) 8 0 (leBytes (fatmBytes p.op) v) r))
  ∧ (∀ (s : State) p, s.fabric.stalled = [] → bitAt p.ext 127 = true → s.arrivalOf (low 64 p.ext) = none → exec (.bulkPiece p) s = .next ((s.inName (partyPacket p)).respond (asKind p 3) 9 7 [] WinRec.empty))
  ∧ (∀ (s u : State) p a, s.fabric.stalled = [] → bitAt p.ext 127 = true → s.arrivalOf (low 64 p.ext) = some a → p.va + p.payload.length ≤ (s.team a.team).spadSize → s.controlBytes a.team p.va p.payload.length = false → u = s.inName (partyPacket p) →
    exec (.bulkPiece p) s = .next ((((u.spadPut a.team p.va p.payload).padRecords a.team p.va p.payload.length p.team p.stamp .plain).countArrival a p.payload.length).respond (asKind p 3) 9 0 [] WinRec.empty))
  ∧ (∀ (s s1 s2 s3 : State) p pa, s.fabric.stalled = [] → bitAt p.ext 127 = false → s.arrivalOf (low 64 p.ext) = none → targetXlate (asKind p 3) 2 (s.inName (partyPacket p)) = (.ok (.ok (some (false, pa))), s1) →
    s1.targetMayWrite (asKind p 3) (lineOf pa) = true → targetCheck (asKind p 3) pa false s1 = (.ok true, s2) → homeWrite pa p.payload s2 = (.ok (), s3) →
    exec (.bulkPiece p) s = .next ((s3.recordWrite (lineOf pa) p.team p.stamp .plain).respond (asKind p 3) 9 0 [] WinRec.empty))
  ∧ (∀ (s u : State) p i n, (i, n) ∈ [(Instr.fabricInvalidate p, 5), (.fabricMergeRecall p, 6)] → s.fabric.stalled = [] → u = { s.inName (partyPacket p) with peerCopies := tdel s.peerCopies (p.src * 2 ^ 40 + lineOf p.va) } →
    ((tget s.peerCopies (p.src * 2 ^ 40 + lineOf p.va) = none ∨ tget s.peerCopies (p.src * 2 ^ 40 + lineOf p.va) = some .shared) → exec i s = .next (u.respond (asKind p n) 10 0 [] WinRec.empty))
    ∧ (∀ g x d, tget s.peerCopies (p.src * 2 ^ 40 + lineOf p.va) = some (.part g x d) → exec i s = .next (u.respond (asKind p n) 11 0 d WinRec.empty)))
  ∧ (∀ (s : State) p i n, (i, n) ∈ [(Instr.readResponse p, 7), (.atomicResponse p, 8), (.writeAcknowledgement p, 9), (.invalidateAcknowledgement p, 10), (.partialPacket p, 11)] →
    exec i s = .next (match answerAct (asKind p n) (s.inName (partyPacket p)) with
      | (.error .hold, s') => { s' with fabric := { s'.fabric with stalled := s'.fabric.stalled ++ [asKind p n] } }
      | (_, s') => s'))
  ∧ (∀ (s : State) p, s.reqFor p = none → exec (.readResponse p) s = .next (s.inName (partyPacket p)) ∧ exec (.atomicResponse p) s = .next (s.inName (partyPacket p)))
  ∧ (∀ (s : State) p r, s.reqFor p = some r → (p.status ≠ 0 ∨ r.acq = false ∧ (r.atomic = true ∨ p.src = s.devno ∨ bitAt p.ext 6 = false)) →
    exec (.readResponse p) s = .next ((s.inName (partyPacket p)).endReq r.id p.status (ofLe p.payload) p.payload) ∧ exec (.atomicResponse p) s = .next ((s.inName (partyPacket p)).endReq r.id p.status (ofLe p.payload) p.payload))
  ∧ (∀ (s u : State) p r, s.reqFor p = some r → p.status = 0 → r.acq = false → r.atomic = false → p.src ≠ s.devno → bitAt p.ext 6 = true → s.sliceCount (peerSlice (lineOf p.va)) < sliceLines →
    u = { s.inName (partyPacket p) with peerCopies := tset s.peerCopies (p.src * 2 ^ 40 + lineOf p.va) .shared } → exec (.readResponse p) s = .next (u.endReq r.id 0 (ofLe p.payload) p.payload))
  ∧ (∀ (s s' : State) p r, s.reqFor p = some r → p.status = 0 → r.acq = true → (tget s.threads r.th).isSome = true → r.atomic = true → acquireRec r.th (recOf p) 6 (s.inName (partyPacket p)) = (.ok (), s') →
    exec (.atomicResponse p) s = .next (s'.endReq r.id 0 (ofLe p.payload) p.payload))
  ∧ (∀ (s u : State) p, u = s.inName (partyPacket p) → exec (.writeAcknowledgement p) s = .next ((s.writeFor p).elim u fun id => u.endWrite id p.status))
  ∧ (∀ (s u : State) p, u = s.inName (partyPacket p) → exec (.invalidateAcknowledgement p) s = .next (if s.peerAcks.any (fun a => a.line == lineOf p.va && a.dev == p.src) then u.peerAnswered (lineOf p.va) p.src else u)
      ∧ exec (.partialPacket p) s = .next (if s.peerAcks.any (fun a => a.line == lineOf p.va && a.dev == p.src) then (u.takePartial (lineOf p.va) p.src p.payload).peerAnswered (lineOf p.va) p.src else u))
  ∧ (∀ s : State, (s.scHeld.any s.scReady) = false → exec .scPerform s = .next s)
  ∧ (∀ s : State, exec .scPerform s = .next (scStep s).2)
  ∧ (∀ (s s1 s' : State) a v r, minBy s.stampLt (s.scHeld.filter s.scReady) = some a → a.reply = none → scCheck a (s.inName (partySc a.id)) = (.ok true, s1) → scAct a s1 = (.ok (v, r), s') →
    exec .scPerform s = .next (({ s' with scHeld := s'.scHeld.filter fun x => x.id != a.id } : State).modOutst a.th a.oid fun o => { o with val := v, fixed := true }))
  ∧ (∀ (s s1 : State) a e, minBy s.stampLt (s.scHeld.filter s.scReady) = some a → e ≠ .hold → scCheck a (s.inName (partySc a.id)) = (.error e, s1) →
    exec .scPerform s = .next (failSc a e { s1 with scHeld := s1.scHeld.filter fun x => x.id != a.id }).2)
  ∧ (∀ (s s1 : State) a p, minBy s.stampLt (s.scHeld.filter s.scReady) = some a → a.reply = some p → scCheck a (s.inName (partySc a.id)) = (.ok false, s1) →
    exec .scPerform s = .next (({ s1 with scHeld := s1.scHeld.filter fun x => x.id != a.id } : State).conflictPacket p a.pa (if a.op = .load then 2 else 3)))
  ∧ (∀ (s s1 s' : State) a p v r, minBy s.stampLt (s.scHeld.filter s.scReady) = some a → a.reply = some p → a.op ≠ .load → scCheck a (s.inName (partySc a.id)) = (.ok true, s1) → scAct a s1 = (.ok (v, r), s') →
    exec .scPerform s = .next (({ s' with scHeld := s'.scHeld.filter fun x => x.id != a.id } : State).respond p 8 0 (leBytes a.n v) r))

/-! ### Events: links, slots, send queues (19) -/

/-- R348 to R364: a flit that is damaged or out of turn is discarded and its number asked for once; a good one gives its ack and its packets; a replay sends the flits from the number named, one a cycle, their acks and returns filled afresh; a census brings the freed counts into step; a slot begins with a guard, its data time with an identification, and ends with a marker on each path used; a queue departs when its allowance admits it; a newer table switches at its time; a link that meets R363 retires, and what it held goes by other paths; another device's link leaves C when that is told (by a link number of 64 and more, log entry 14), drained first; a device lost is lost once, and what arrives from it or for it is dropped. The agenda is the model's own (log entry 4). -/
def Obligations.LinkEvents : Prop :=
  (∀ (s : State) l f, (s.link l).up = false → exec (.flitReceive l f) s = .next s)
  ∧ (∀ (s : State) l f, (s.link l).up = true → (flitOk f = false ∨ 5 ≤ f.kind ∨ f.seq ≠ (s.link l).rxSeq) → ∃ s', exec (.flitReceive l f) s = .next s' ∧ (s'.link l).nDamage = (s.link l).nDamage + 1 ∧ (s'.link l).skipping = true
      ∧ (s'.link l).rxSeq = (s.link l).rxSeq ∧ s'.agenda = s.agenda ∧ s'.mem = s.mem ∧ ((s.link l).skipping = true → f.seq ≠ (s.link l).rxSeq → s'.out = s.out)
      ∧ ((s.link l).skipping = false ∨ f.seq = (s.link l).rxSeq → (s.maySend l = true → .replayRequest l (s.link l).rxSeq ∈ s'.out) ∧ (s.maySend l = false → 3 ∈ (s'.link l).owed)))
  ∧ (∀ (s : State) l f, (s.link l).up = true → flitOk f = true → f.kind < 5 → f.seq = (s.link l).rxSeq → ∃ t : State, exec (.flitReceive l f) s = .next (f.packets.foldl State.arrived t)
      ∧ (t.link l).rxSeq = ((s.link l).rxSeq + 1) % 4096 ∧ (t.link l).lastGood = f.seq ∧ (t.link l).skipping = false ∧ (t.link l).replay = ackedReplay f.ack (s.link l).replay ∧ t.mem = s.mem ∧ t.agenda = s.agenda)
  ∧ (∀ (s : State) p, p.kind < 12 → p.bytes ≤ 128 → p.dst = s.devno → p.sealed = none → s.fabric.lost.contains p.src = false → s.fabric.lost.contains p.dst = false → s.arrived p = { s with agenda := s.agenda ++ [packetEvent p] })
  ∧ (∀ (s : State) p, (12 ≤ p.kind ∨ 128 < p.bytes) → s.arrived p = { s with fabric := { s.fabric with discarded := s.fabric.discarded + 1 } })
  ∧ (∀ (s : State) p, p.kind < 12 → p.bytes ≤ 128 → (s.fabric.lost.contains p.src = true ∨ s.fabric.lost.contains p.dst = true) → s.arrived p = { s with fabric := { s.fabric with drops := s.fabric.drops + 1 } })
  ∧ (∀ (s : State) l n, ∃ s', exec (.replayRequest l n) s = .next s' ∧ (s'.link l).nReplay = (s.link l).nReplay + 1 ∧ (s'.link l).replay = (s.link l).replay ∧ s'.mem = s.mem ∧ s'.out = s.out
      ∧ ((s.link l).replay.any (·.seq == n) = true → (s'.link l).resendFrom = some n))
  ∧ (∀ (s : State) l n f r, s.carries l = true → (s.link l).resendFrom = some n → (s.link l).again n = f :: r →
    (s.linkTick l).out = s.out ++ [.flit l (flitSigned { f with ack := (s.link l).lastGood, ret := (s.link l).returns, info := if f.kind = 2 then (s.link l).counts else f.info })] ∧ ((s.linkTick l).link l).resendFrom = r.head?.map (·.seq) ∧ ((s.linkTick l).link l).replay = (s.link l).replay)
  ∧ (∀ (s : State) l, s.carries l = false → s.linkTick l = s)
  ∧ (∀ (s : State) l, (s.link l).up = false → exec (.censusSend l) s = .next s)
  ∧ (∀ (s : State) l, (s.link l).up = true → s.maySend l = false → ∃ s', exec (.censusSend l) s = .next s' ∧ 2 ∈ (s'.link l).owed ∧ s'.out = s.out)
  ∧ (∀ (s : State) l, (s.link l).up = true → s.maySend l = true → ∃ s', exec (.censusSend l) s = .next s' ∧ (s'.link l).flitsSinceCensus = 0 ∧ (s'.link l).censusAt = s.now ∧ (s'.link l).told = (s.link l).given ∧ s'.mem = s.mem)
  ∧ (∀ (s : State) l c n, (s.link l).up = true → tsorted 0 (s.link l).freed = true → n < 8 → ∃ s', exec (.census l c) s = .next s' ∧ s'.mem = s.mem
      ∧ (∀ d, d < 2 ^ 31 → low 32 (c.getD n 0) = low 32 (dget 0 (s.link l).freed n + d) → dget 0 (s'.link l).freed n = dget 0 (s.link l).freed n + d)
      ∧ (∀ d, 0 < d → d ≤ 2 ^ 31 → d ≤ dget 0 (s.link l).freed n → low 32 (c.getD n 0) = low 32 (dget 0 (s.link l).freed n - d) → dget 0 (s'.link l).freed n = dget 0 (s.link l).freed n - d))
  ∧ (∀ (s : State) l d n e, s.ownEntry l = some e → s.ownData l = true → (s.link l).identOk = false → (s.link l).wrong = false →
    (e.peer = d → e.plink = n → exec (.identification l d n) s = .next (s.modLink l fun x => { x with identOk := true, identFails := 0 }))
    ∧ ((e.peer ≠ d ∨ e.plink ≠ n) → exec (.identification l d n) s = .next (s.wrongCircuit l)))
  ∧ (∀ (s : State) l, exec (.identificationTimeout l) s = .next (if s.identLate l then s.wrongCircuit l else s))
  ∧ (∀ (s : State) l, ((s.wrongCircuit l).link l).wrong = true ∧ ((s.wrongCircuit l).link l).identFails = (s.link l).identFails + 1 ∧ (s.wrongCircuit l).fabric.wrong = s.fabric.wrong + 1)
  ∧ (∀ s : State, (s.newSlots = [] → exec .slotStart s = .next s) ∧ (s.newData = [] → exec .dataTimeStart s = .next s) ∧ (s.endData = [] → exec .dataTimeEnd s = .next s))
  ∧ (∀ s : State, s.newSlots ≠ [] → ∃ s', exec .slotStart s = .next s' ∧ s'.mem = s.mem ∧ s'.fabric.tables = s.fabric.tables ∧ (∀ d q, tget s'.fabric.sendQ d = some q → q.allow = s'.slotAllow d)
      ∧ ∀ k, k ∈ s.newSlots → s'.phase k = { slot := (s.phaseOf k).elim 0 (·.1 + 1), data := false })
  ∧ (∀ s : State, ∃ s', exec .dataTimeStart s = .next s' ∧ s'.mem = s.mem ∧ s'.fabric.sendQ = s.fabric.sendQ ∧ ∀ k, k ∈ s.newData → s'.phase k = { s.phase k with data := true })
  ∧ (∀ s : State, ∃ s', exec .dataTimeEnd s = .next s' ∧ s'.mem = s.mem ∧ (∀ k, k ∈ s.endData → (s'.phase k).data = false)
      ∧ (tsorted 0 s.fabric.sendQ = true → ∀ e, e ∈ s'.fabric.sendQ → ∀ k, k ∈ s.endData → k ∉ e.2.used))
  ∧ (∀ (s : State) d, tget s.fabric.sendQ d = none → exec (.sendQueueDepart d) s = .next s)
  ∧ (∀ (s : State) d q, tget s.fabric.sendQ d = some q → s.departs d q = false → exec (.sendQueueDepart d) s = .next s)
  ∧ (∀ (s : State) d q, tget s.fabric.sendQ d = some q → s.departs d q = true → devGroup d = devGroup s.devno →
    exec (.sendQueueDepart d) s = .next ((q.free ++ q.charged).foldl (fun s p => s.relay p) (s.modSendQ d fun q => { q with free := [], charged := [] })))
  ∧ (∀ (s : State) d q, tget s.fabric.sendQ d = some q → s.departs d q = true → devGroup d ≠ devGroup s.devno → s.joins (devGroup d) = false →
    exec (.sendQueueDepart d) s = .next ((q.free ++ q.charged).foldl (fun s p => s.dropAs p 1) (s.modSendQ d fun q => { q with free := [], charged := [] })))
  ∧ (∀ (s : State) d q p r k, tget s.fabric.sendQ d = some q → s.departs d q = true → devGroup d ≠ devGroup s.devno → s.joins (devGroup d) = true → s.pathOf p = some k →
    (q.free = p :: r → exec (.sendQueueDepart d) s = .next ((s.modSendQ d fun q => { q with free := r, used := if (packetCharge p).isNone || q.used.contains k then q.used else q.used ++ [k] }).toPath p k))
    ∧ (∀ n, q.free = [] → q.charged = p :: r → packetCharge p = some n → (s.writeOf p).isNone = true → s.linkTo k ≠ none →
      exec (.sendQueueDepart d) s = .next ((s.modSendQ d fun q => { q with charged := r, allow := q.allow - n, used := if q.used.contains k then q.used else q.used ++ [k] }).toPath p k)))
  ∧ (∀ (s : State) p, exec (.drainMarker p) s = .next (s.emit (.drainReturn p.src p.tag)))
  ∧ (∀ (s : State) d n q, tget s.fabric.sendQ d = some q → ∃ s', exec (.drainReturn d n) s = .next s' ∧ tget s'.fabric.sendQ d = some { q with held := q.held.erase n } ∧ s'.mem = s.mem)
  ∧ (∀ (s : State) l t, tget s.fabric.tables l = some t → t.switchDue s.podTime = false → exec (.slotTableSwitch l) s = .next s)
  ∧ (∀ (s : State) l t es n, tget s.fabric.tables l = some t → t.switchDue s.podTime = true → t.next = some (es, n) →
    ∃ s', exec (.slotTableSwitch l) s = .next s' ∧ tget s'.fabric.tables l = some { entries := es, start := n, next := none, nextAt := 0 } ∧ (tsorted 0 s.fabric.phases = true → s'.phase l = { slot := 0, data := false }))
  ∧ (∀ (s : State) l, s.retireDue l = false → exec (.linkRetire l) s = .next s)
  ∧ (∀ (s : State) l, s.retireDue l = true → ∃ s', exec (.linkRetire l) s = .next s' ∧ (s'.link l).up = false ∧ (s'.link l).retired = true ∧ s'.fabric.retired = s.fabric.retired + 1 ∧ s'.mem = s.mem ∧ 9 ∈ s'.trust.replaceReq)
  ∧ (∀ (s : State) l n, l < 64 → exec (.retireNotice l n) s = .next ((if (s.link l).retired then s else s.retire l).reroute l n))
  ∧ (∀ (s : State) l n, s.reroute l n = (markersBehind (((s.link l).parked.flatMap fun e => e.2.replay.flatMap (·.packets)) ++ (ackedReplay n (s.link l).replay).flatMap (·.packets) ++ (s.link l).waiting) []).reverse.foldl State.resend
      (s.modLink l fun x => { x with replay := [], waiting := [], parked := [] }))
  ∧ (∀ l : List Packet, (markersBehind l []).length = l.length ∧ ((∀ p, p ∈ l → p.kind ≠ 4) → markersBehind l [] = l))
  ∧ (∀ (s t : State) k n, k < 960 → t = s.drainKey k → exec (.retireNotice (64 + k) n) s = .next { t with fabric := { t.fabric with away := t.fabric.away.filter (· != k) ++ [k] } })
  ∧ (∀ (s : State) k, k < 960 → exec (.linkRestore (64 + k)) s = .next { s with fabric := { s.fabric with away := s.fabric.away.filter (· != k) } })
  ∧ (∀ (s : State) a b n, b < 32 → exec (.retireNotice (1024 + 32 * a + b) n) s = .next { s with fabric := { s.fabric with farDown := s.fabric.farDown.filter (· != (a, b)) ++ [(a, b)] } }
      ∧ exec (.linkRestore (1024 + 32 * a + b)) s = .next { s with fabric := { s.fabric with farDown := s.fabric.farDown.filter (· != (a, b)) } })
  ∧ (∀ (s : State) l, l < 64 → (s.link l).retired = false → exec (.linkRestore l) s = .next s)
  ∧ (∀ (s : State) l, l < 64 → (s.link l).retired = true → ∃ s', exec (.linkRestore l) s = .next s' ∧ (s'.link l).up = true ∧ (s'.link l).retired = false ∧ (s'.link l).rxSeq = 0 ∧ (s'.link l).txSeq = 0 ∧ (s'.link l).waiting = (s.link l).waiting
      ∧ (s'.link l).nDamage = (s.link l).nDamage)
  ∧ (∀ (s : State) d, (d = s.devno ∨ s.fabric.lost.contains d = true) → exec (.deviceLost d) s = .next s)
  ∧ (∀ (s : State) d, d ≠ s.devno → s.fabric.lost.contains d = false → ∃ s', exec (.deviceLost d) s = .next s' ∧ s'.fabric.lost = s.fabric.lost ++ [d] ∧ s'.fabric.lostCount = s.fabric.lostCount + 1)
  ∧ (∀ (s : State) d l, (s.peerAcks.any fun a => a.dev == d && a.line == l && s.ackLate a) = true → exec (.peerAckTimeout d l) s = exec (.deviceLost d) s)
  ∧ (∀ (s : State) d l, (s.peerAcks.any fun a => a.dev == d && a.line == l && s.ackLate a) = false → exec (.peerAckTimeout d l) s = .next s)

/-! ### Events: the belay network (11, 17) -/

/-- R231, R233, R235, R237, R327 to R337: a node's floor is the least reported to it and never falls, and a beat brings it to the cores below; an epoch advance clears the stale records; a host applies the messages that have arrived, another node passes them on, and takes in what other devices send it; a signal counts once for a phase that its registrant still owes; a completed phase is the phaser's next and its early signals count; a completion reaches its waiters; a bound signal leaves when nothing covers it; uplink 1 takes over once, and a failed node stays failed. The path of a message to a pod phaser where no image gives it is the model's own (log entry 10). -/
def Obligations.BelayEvents : Prop :=
  (∀ (s : State) n, s.trust.sleeping = false → (s.node n).alive = true → n ≤ nodePackage → (∀ e, e ∈ s.reportsInto n → clkLt e.2 (s.node n).floor = false) → clkLt (low 50 s.podTime) (s.node n).floor = false →
    ∃ s', exec (.floorReport n) s = .next s' ∧ clkLt (s'.node n).floor (s.node n).floor = false ∧ (s'.node n).reports = s.reportsInto n ∧ s'.mem = s.mem ∧ s'.threads = s.threads)
  ∧ (∀ (s : State) n, (s.trust.sleeping = true ∨ (s.node n).alive = false) → exec (.floorReport n) s = .next s ∧ exec (.belayBeat n) s = .next s)
  ∧ (∀ (s : State) n c x, s.trust.sleeping = false → (s.node n).alive = true → tget s.cores c = some x → (4 ≤ n ∨ coreStack c = n) →
    ∃ s', exec (.belayBeat n) s = .next s' ∧ (s'.core c).tbase = low 50 s.podTime ∧ (s'.core c).floors = x.floors.beat n (s.node n).floor s.inPod ∧ (s'.core c).clock = clkMax x.clock (low 50 s.podTime) ∧ s'.mem = s.mem ∧ s'.threads = s.threads)
  ∧ (∀ s : State, exec .epochAdvance s = .next { s with records := s.records.filter fun e => !s.stale e.2 })
  ∧ (∀ (s : State) n, (s.node n).alive = false → exec (.belayNodeCycle n) s = .next s ∧ exec (.nodeForward n) s = .next s ∧ exec (.belayNodeFailure n) s = .next s)
  ∧ (∀ (s : State) n m, (s.node n).alive = true → s.belay.msgs = [m] → m.here n s.now = true → m.path = [] → (s.eligible m = true → exec (.belayNodeCycle n) s = .next (s.applyBelay m).teamsCheck)
    ∧ (∀ ph fi se b, m.op = .signal ph fi se b → s.eligible m = false → exec (.belayNodeCycle n) s = .next s.teamsCheck))
  ∧ (∀ (s : State) n m n' p r, (s.node n).alive = true → s.belay.inbox = [] → s.belay.msgs = [m] → m.here n s.now = true → m.path = (n', p) :: r →
    exec (.nodeForward n) s = .next { s with belay := { s.belay with msgs := [{ m with node := n', port := p, path := r, at' := m.at' + nodeLatency n' * Config.ticksPerNs }] } })
  ∧ (∀ (s : State) n x, (s.node n).alive = true → s.inPod = true → x.dev ≠ s.devno → 8 ≤ n → handleNode x.handle.toNat = some n → s.belay.inbox = [(n, x)] → s.belay.msgs = [] → (x.op = .leave ∨ ∃ a b, x.op = .reg a b) →
    exec (.nodeForward n) s = .next { s with nextId := s.nextId + 1, belay := { s.belay with inbox := [], msgs := [{ id := s.nextId, th := none, dev := x.dev, unit := x.unit, handle := x.handle, op := x.op, node := n, port := x.port, path := [], at' := s.now, held := false, covers := [] }] } })
  ∧ (∀ (p : Phaser), p.due = false → ∀ n, p.settle n = (p, []))
  ∧ (∀ (p : Phaser) n, p.due = true → (∃ q l, p.settle (n + 1) = (q, (p.p, p.word) :: l)) ∧ p.complete.p = low 32 (p.p + 1) ∧ p.complete.c0 = p.c1 ∧ p.complete.c1 = 0 ∧ (p.p < 2 ^ 32 → p.complete.result p.p = some (p.word % 2 ^ 64)))
  ∧ (∀ (p : Phaser) d u ph f b, phaseLt ph p.p = true → p.signal d u ph f b = (p, 3))
  ∧ (∀ (p : Phaser) d u ph f b, phaseLt ph p.p = false → (p.regs.any fun r => r.owes d u ph) = false → p.signal d u ph f b = (p, 4))
  ∧ (∀ (p : Phaser) d u f b, (p.regs.any fun r => r.owes d u p.p) = true → (p.signal d u p.p f b).1.c0 = p.c0 + 1 ∧ (p.signal d u p.p f b).1.events = true ∧ (p.signal d u p.p f b).2 = if b then 10 else 0)
  ∧ (∀ (s : State) d k t o, tget s.threads k = some t → t.outst = [o] → o.wait = .phase d.handle d.phase →
    ∃ s', exec (.completionDelivery d) s = .next s' ∧ (s'.thr k).outst = [{ o with wait := .time, val := d.word.toNat, fixed := true, doneAt := s.now }] ∧ s'.mem = s.mem)
  ∧ (∀ (s : State) m, s.belay.msgs = [m] → m.held = true → m.covers = [] →
    exec (.boundSignalRelease m.id) s = .next { s with belay := { s.belay with msgs := [{ m with held := false, at' := s.now + firstDelay none m.node * Config.ticksPerNs }] } })
  ∧ (∀ (s : State) n, (∀ m, m ∈ s.belay.msgs → m.id ≠ n ∨ m.held = false ∨ m.covers ≠ []) → exec (.boundSignalRelease n) s = .next s)
  ∧ (∀ s : State, (s.inPod = false ∨ (s.node nodePackage).uplink ≠ 0) → exec .uplinkFailover s = .next s)
  ∧ (∀ s : State, s.inPod = true → (s.node nodePackage).uplink = 0 → ∃ s', exec .uplinkFailover s = .next s' ∧ (s'.node nodePackage).uplink = 1 ∧ s'.belay.phasers = s.belay.phasers ∧ s'.mem = s.mem
      ∧ s'.trust.belayFailures = s.trust.belayFailures + 1)
  ∧ (∀ (s : State) n, (s.node n).alive = true → ∃ s', exec (.belayNodeFailure n) s = .next s' ∧ (s'.node n).alive = false ∧ s'.trust.belayFailures = s.trust.belayFailures + 1 ∧ s'.mem = s.mem)

/-! ### Events: starts and commands (25) -/

/-- R429 to R431, R439, R442, R444 to R447, R453 to R457: a start takes the image that the trust core accepts, or fails with its reason; a function's self-test raises its bit; a command that is not signed under its root, whose count does not rise or whose contents are none that are taken changes nothing but the count of refused ones; one that is good has its effect. -/
def Obligations.CommandEvents : Prop :=
  (∀ (s : State) (st : StartInput), st.firmwareOk = false → exec (.deviceStart st) s = .next (s.restart.failStart 1))
  ∧ (∀ (s : State) (st : StartInput), st.firmwareOk = true → s.imageOk st = false →
    exec (.deviceStart st) s = .next ((s.restart.setTrust fun t => { t with cmdRefused := t.cmdRefused + 1 }).failStart 2))
  ∧ (∀ (s : State) (st : StartInput), st.firmwareOk = true → s.imageOk st = true → ∃ s', exec (.deviceStart st) s = .next s' ∧ s'.devno = st.devno ∧ s'.inPod = st.inPod ∧ s'.fabric.present = st.present ∧ s'.trust.ready = 2 ^ 25
      ∧ s'.trust.imageVersion = st.version ∧ s'.threads = [] ∧ (st.queues = [] → s'.host.queues = []) ∧ s'.host.ctxTable = some st.ctxTable ∧ s'.host.lanes = st.hostLanes ∧ s'.socket.config = st.guestQueues
      ∧ s'.trust.domains = [] ∧ s'.mem = s.mem ∧ s'.trust.ownerRoot = s.trust.ownerRoot ∧ s'.trust.count = s.trust.count)
  ∧ (∀ (s : State) n, (s.failStart n).trust.failedStarts = s.trust.failedStarts + 1 ∧ bitAt (s.failStart n).trust.ready 39 = decide (2 ≤ s.trust.failedStarts) ∧ bits (s.failStart n).trust.ready 32 7 = low 7 n)
  ∧ (∀ (s : State) n, exec (.startFailure n) s = .next (if 1 ≤ n ∧ n ≤ 5 then s.restart.failStart n else s))
  ∧ (∀ (s : State) b, s.mayRaise b = false → exec (.functionReady b) s = .next s)
  ∧ (∀ (s : State) b, s.mayRaise b = true → ∃ s', exec (.functionReady b) s = .next s' ∧ s'.trust.ready = setBits s.trust.ready b 1 1 ∧ s'.mem = s.mem)
  ∧ (∀ (s : State) i r c q dq x dc t v b l w es st a dd rv vr n, s.trust.sleeping = false → (Config.sigValid r c.msg c.sig = false ∨ c.count ≤ s.trust.count) →
    (i, r) ∈ [(Instr.queueDescriptorInstall c q dq, s.trust.ownerRoot), (.contextDescriptorWrite c x dc, s.trust.ownerRoot), (.tenantContextMapWrite c t v, s.trust.ownerRoot), (.budgetSet c t b, s.trust.ownerRoot),
      (.slotTableInstall c l w es, s.trust.ownerRoot), (.faultRingSet c st a, s.trust.ownerRoot), (.counterClear c, s.trust.ownerRoot), (.domainCommand c dd, s.trust.ownerRoot), (.revocation c rv, s.trust.ownerRoot),
      (.retentionSleep c, s.trust.ownerRoot), (.rootRotation c vr n, s.trust.vendorRoot)] →
    exec i s = .next (s.setTrust fun t => { t with cmdRefused := t.cmdRefused + 1 }))
  ∧ (∀ (s : State) c, s.trust.sleeping = false → Config.sigValid s.trust.ownerRoot c.msg c.sig = true → s.trust.count < c.count →
    (∀ q d, queueOk q d = true → ∃ s', exec (.queueDescriptorInstall c q d) s = .next s' ∧ tget s'.host.queues q = some ⟨d, 0, 0, .idle, 0, 0, none, none⟩ ∧ s'.trust.count = c.count ∧ s'.mem = s.mem)
    ∧ (∀ q d, queueOk q d = false → exec (.queueDescriptorInstall c q d) s = .next (s.setTrust fun t => { t with cmdRefused := t.cmdRefused + 1 }))
    ∧ (∀ x d b, ctxOk x d = true → d.length = 4 → s.host.ctxTable = some b → Memory.wf s.mem = true → ∃ s', exec (.contextDescriptorWrite c x d) s = .next s'
      ∧ s'.ctxAt x = (if bitAt (d.getD 2 0).toNat 55 then some { root := (d.getD 3 0).toNat, tenant := bits (d.getD 2 0).toNat 56 8, timeoutMs := bits (d.getD 2 0).toNat 32 16 } else none)
      ∧ ∀ a, (a < b + 32 * x ∨ b + 32 * x + 32 ≤ a) → memGet s'.mem a = memGet s.mem a)
    ∧ (∀ x d, (ctxOk x d = false ∨ s.host.ctxTable = none) → exec (.contextDescriptorWrite c x d) s = .next (s.setTrust fun t => { t with cmdRefused := t.cmdRefused + 1 }))
    ∧ (∀ t x d b, t < 256 → s.ctxAt x = some d → d.tenant = t → x < 2 ^ 16 → s.host.ctxTable = some b → Memory.wf s.mem = true → ∃ s', exec (.tenantContextMapWrite c t (wd (2 ^ 63 + x))) s = .next s'
      ∧ s'.tmapAt t = 2 ^ 63 + x ∧ ∀ a, (a < b + ctxTableBytes + 8 * t ∨ b + ctxTableBytes + 8 * t + 8 ≤ a) → memGet s'.mem a = memGet s.mem a)
    ∧ (∀ t x, (s.ctxAt x = none ∨ ∃ d, s.ctxAt x = some d ∧ d.tenant ≠ t) → x < 2 ^ 16 → exec (.tenantContextMapWrite c t (wd (2 ^ 63 + x))) s = .next (s.setTrust fun t => { t with cmdRefused := t.cmdRefused + 1 }))
    ∧ (∀ t (b : BudgetVals), t < 256 → b.cores ≤ 768 → exec (.budgetSet c t b) s = .next ((s.setTrust fun t => { t with count := c.count }).modBudget t fun x => { x with cores := b.cores, bandwidth := b.bandwidth, power := b.power }))
    ∧ (∀ l w es ds, l < 512 → bits w.toNat 50 8 = 0 → bits w.toNat 58 6 + 1 = es.length → low 50 w.toNat % 1000 = 0 → es.mapM (fun e : Word => decodeSlot s.fabric.present e.toNat) = some ds →
      ∃ s' t, exec (.slotTableInstall c l w es) s = .next s' ∧ tget s'.fabric.tables l = some t ∧ t.next.map (·.1) = some ds ∧ t.entries = ((tget s.fabric.tables l).map (·.entries)).getD [])
    ∧ (∀ d a, d < 4 → a + 131072 ≤ Config.memBytes → exec (.faultRingSet c d a) s = .next ((s.setTrust fun t => { t with count := c.count }).modDie d fun x => { x with ringBase := a, ringIdx := 0 }))
    ∧ (∃ s', exec (.counterClear c) s = .next s' ∧ s'.trust.sramc = 0 ∧ s'.trust.sramu = 0 ∧ s'.trust.hbmc = 0 ∧ s'.trust.hbmu = 0 ∧ s'.trust.cmdRefused = 0 ∧ s'.fabric.drops = 0 ∧ s'.fabric.retired = 0 ∧ s'.socket.fences = 0
      ∧ s'.trust.count = c.count ∧ s'.mem = s.mem)
    ∧ (∀ d : DomainCmd, 1 ≤ d.domain → d.domain ≤ 64 → d.members.contains s.devno = true → bitAt s.trust.ready 39 = false →
      ∃ s' x, exec (.domainCommand c d) s = .next s' ∧ tget s'.trust.domains d.domain = some x ∧ x.members = d.members ∧ x.epoch = d.epoch ∧ x.secret = d.secret ∧ x.tenants = d.tenants ∧ x.ranges = d.ranges ∧ x.removed = [])
    ∧ (∀ d : RevokeCmd, tget s.trust.domains d.domain = none → exec (.revocation c d) s = .next (s.setTrust fun t => { t with cmdRefused := t.cmdRefused + 1 }))
    ∧ (∀ (d : RevokeCmd) x, tget s.trust.domains d.domain = some x → d.removed.contains s.devno = true → tsorted 0 s.trust.domains = true → (∀ e, e ∈ s.host.launches → e.2.fin = true) → ∃ s', exec (.revocation c d) s = .next s' ∧ tget s'.trust.domains d.domain = none)
    ∧ (∀ (d : RevokeCmd) x, tget s.trust.domains d.domain = some x → d.removed = [] → ∃ s' y, exec (.revocation c d) s = .next s' ∧ tget s'.trust.domains d.domain = some y ∧ y.epoch = x.epoch + 1 ∧ y.secret = d.secret ∧ y.prevSecret = x.secret
      ∧ y.members = x.members)
    ∧ (s.maySleep = true → ∃ s', exec (.retentionSleep c) s = .next s' ∧ s'.trust.sleeping = true ∧ s'.trust.sleepEpoch = s.podTime / 2 ^ 48 ∧ s'.mem = s.mem)
    ∧ (s.maySleep = false → exec (.retentionSleep c) s = .next (s.setTrust fun t => { t with cmdRefused := t.cmdRefused + 1 })))
  ∧ (∀ (s : State) c n, s.trust.sleeping = false → Config.sigValid s.trust.vendorRoot c.msg c.sig = true → s.trust.count < c.count →
    (∃ s', exec (.rootRotation c false n) s = .next s' ∧ s'.trust.ownerRoot = n ∧ s'.trust.vendorRoot = s.trust.vendorRoot ∧ s'.trust.count = c.count)
    ∧ (∃ s', exec (.rootRotation c true n) s = .next s' ∧ s'.trust.vendorRoot = n ∧ s'.trust.ownerRoot = s.trust.ownerRoot ∧ s'.trust.count = c.count))
  ∧ (∀ s : State, s.trust.sleeping = false → exec .retentionWake s = .next s)
  ∧ (∀ s : State, s.trust.sleeping = true → ∃ s', exec .retentionWake s = .next s' ∧ s'.trust.sleeping = false ∧ s'.mem = s.mem ∧ (s.podTime / 2 ^ 48 = s.trust.sleepEpoch → s'.records = s.records)
      ∧ (s.podTime / 2 ^ 48 ≠ s.trust.sleepEpoch → s'.records = []))
  ∧ (∀ s s1 : State, fenceGuest s = (.ok (), s1) → ∃ s', exec .anchorSiteReset s = .next s' ∧ s'.socket.ready = false ∧ s'.socket.fenced = false ∧ s'.socket.queues = [] ∧ bitAt s'.trust.ready 31 = false)
  ∧ (∀ s : State, (s.socket.ready = false ∨ s.socket.fenced = true) → (∀ e, e ∈ s.socket.queues → e.2.packets = []) →
    exec .anchorSiteReset s = .next ((s.setSocket fun x => { x with ready := false, fenced := false, queues := [], xlates := [], pending := [], shootdowns := [], preempts := [] }).setReady 31 0))
  ∧ (∀ (s : State) n d, ∃ b, exec (.attestationRequest n d) s = .next (s.emit (.attestation (digits 64 32 (ofLe b)))) ∧ b.length = 256 ∧ cut b 0 48 = leBytes 48 n ∧ cut b 48 48 = leBytes 48 s.trust.image ∧ cut b 152 8 = leBytes 8 s.trust.ready)

/-! ### Events: errors (25) -/

/-- R253, R456 to R458: a correctable error is counted and changes nothing else; a word that cannot be corrected reads as zero and is counted, the sixteenth of an hour asking for a replacement; a faulted service group is in service again when it restarts. -/
def Obligations.ErrorEvents : Prop :=
  (∀ (s : State) p, exec (.sramError ⟨p, false⟩) s = .next (s.setTrust fun t => { t with sramc := t.sramc + 1 }))
  ∧ (∀ (s : State) p, ∃ s', exec (.sramError ⟨p, true⟩) s = .next s' ∧ s'.trust.sramu = s.trust.sramu + 1)
  ∧ (∀ (s : State) i n, (tget s.teams i).isSome = true → Memory.wf (s.team i).spad = true → ∃ s', exec (.sramError ⟨.scratchpad i n, true⟩) s = .next s' ∧ s'.mem = s.mem
      ∧ ∀ a, memGet (s'.team i).spad a = if a / 8 = n / 8 then 0 else memGet (s.team i).spad a)
  ∧ (∀ (s : State) k t n j, tget s.threads k = some t → dwf 0 t.slices = true → ∃ s', exec (.sramError ⟨.slices k n, true⟩) s = .next s' ∧ s'.mem = s.mem
      ∧ (s'.thr k).base (.slice j) = if j / 16 = n / 16 then 0 else t.base (.slice j))
  ∧ (∀ (s : State) c, ∃ s', exec (.sramError ⟨.serviceGroup c, true⟩) s = .next s' ∧ (s'.cluster c).faulted = true ∧ s'.mem = s.mem)
  ∧ (∀ (s : State) c, ∃ s', exec (.serviceGroupRestart c) s = .next s' ∧ (s'.cluster c).faulted = false ∧ s'.mem = s.mem ∧ s'.threads = s.threads)
  ∧ (∀ (s : State) l w, exec (.hbm4eError l w false) s = .next (s.setTrust fun t => { t with hbmc := t.hbmc + 1 }))
  ∧ (∀ (s : State) l w, Memory.wf s.mem = true → ∃ s', exec (.hbm4eError l w true) s = .next s' ∧ s'.trust.hbmu = s.trust.hbmu + 1 ∧ s'.hostMem = s.hostMem
      ∧ ∀ a, memGet s'.mem a = if 128 * l + 8 * (w % 16) ≤ a ∧ a < 128 * l + 8 * (w % 16) + 8 then 0 else memGet s.mem a)
  ∧ (∀ s : State, 16 ≤ (lastHour s.now s.trust.sramuTimes).length → 1 ∈ s.countSramu.trust.replaceReq)
  ∧ (∀ s : State, (lastHour s.now s.trust.sramuTimes).length < 16 → s.countSramu.trust.replaceReq = s.trust.replaceReq)
end

