-- ==== Sys2Proof/Laws/Dispatch.lean ====
section
/-! SUPPORT. What exec is on each constructor. -/
namespace Sys2Proof.Machine

@[simp] theorem exec_iadd (t : IType) (f : FmtM) (s : State) : exec (.iadd t f) s = execIadd t f s := rfl
@[simp] theorem exec_isub (t : IType) (f : FmtM) (s : State) : exec (.isub t f) s = execIsub t f s := rfl
@[simp] theorem exec_imul (t : IType) (f : FmtM) (s : State) : exec (.imul t f) s = execImul t f s := rfl
@[simp] theorem exec_imulh (t : IType) (f : FmtA) (s : State) : exec (.imulh t f) s = execImulh t f s := rfl
@[simp] theorem exec_imad (t : IType) (f : FmtM) (s : State) : exec (.imad t f) s = execImad t f s := rfl
@[simp] theorem exec_idiv (t : IType) (f : FmtA) (s : State) : exec (.idiv t f) s = execIdiv t f s := rfl
@[simp] theorem exec_irem (t : IType) (f : FmtA) (s : State) : exec (.irem t f) s = execIrem t f s := rfl
@[simp] theorem exec_imin (t : IType) (f : FmtA) (s : State) : exec (.imin t f) s = execImin t f s := rfl
@[simp] theorem exec_imax (t : IType) (f : FmtA) (s : State) : exec (.imax t f) s = execImax t f s := rfl
@[simp] theorem exec_iabs (t : IType) (f : FmtM) (s : State) : exec (.iabs t f) s = execIabs t f s := rfl
@[simp] theorem exec_ineg (t : IType) (f : FmtM) (s : State) : exec (.ineg t f) s = execIneg t f s := rfl
@[simp] theorem exec_icmp (t : IType) (f : FmtP) (s : State) : exec (.icmp t f) s = execIcmp t f s := rfl
@[simp] theorem exec_sxt (f : FmtA) (s : State) : exec (.sxt f) s = execSxt f s := rfl
@[simp] theorem exec_zxt (f : FmtA) (s : State) : exec (.zxt f) s = execZxt f s := rfl
@[simp] theorem exec_mov (f : FmtA) (s : State) : exec (.mov f) s = execMov f s := rfl
@[simp] theorem exec_movi (f : FmtL) (s : State) : exec (.movi f) s = execMovi f s := rfl
@[simp] theorem exec_lea (f : FmtA) (s : State) : exec (.lea f) s = execLea f s := rfl
@[simp] theorem exec_isel (f : FmtM) (s : State) : exec (.isel f) s = execIsel f s := rfl
@[simp] theorem exec_shl (f : FmtA) (s : State) : exec (.shl f) s = execShl f s := rfl
@[simp] theorem exec_shr (f : FmtA) (s : State) : exec (.shr f) s = execShr f s := rfl
@[simp] theorem exec_sar (f : FmtA) (s : State) : exec (.sar f) s = execSar f s := rfl
@[simp] theorem exec_rot (f : FmtA) (s : State) : exec (.rot f) s = execRot f s := rfl
@[simp] theorem exec_land (f : FmtA) (s : State) : exec (.land f) s = execLand f s := rfl
@[simp] theorem exec_lor (f : FmtA) (s : State) : exec (.lor f) s = execLor f s := rfl
@[simp] theorem exec_lxor (f : FmtA) (s : State) : exec (.lxor f) s = execLxor f s := rfl
@[simp] theorem exec_landn (f : FmtA) (s : State) : exec (.landn f) s = execLandn f s := rfl
@[simp] theorem exec_popc (f : FmtA) (s : State) : exec (.popc f) s = execPopc f s := rfl
@[simp] theorem exec_clz (f : FmtA) (s : State) : exec (.clz f) s = execClz f s := rfl
@[simp] theorem exec_ctz (f : FmtA) (s : State) : exec (.ctz f) s = execCtz f s := rfl
@[simp] theorem exec_brev (f : FmtA) (s : State) : exec (.brev f) s = execBrev f s := rfl
@[simp] theorem exec_bfxS (f : FmtM) (s : State) : exec (.bfxS f) s = execBfxS f s := rfl
@[simp] theorem exec_bfxZ (f : FmtM) (s : State) : exec (.bfxZ f) s = execBfxZ f s := rfl
@[simp] theorem exec_bfi (f : FmtM) (s : State) : exec (.bfi f) s = execBfi f s := rfl
@[simp] theorem exec_ffcs (f : FmtA) (s : State) : exec (.ffcs f) s = execFfcs f s := rfl
@[simp] theorem exec_plset (f : FmtA) (s : State) : exec (.plset f) s = execPlset f s := rfl
@[simp] theorem exec_perm (f : FmtA) (s : State) : exec (.perm f) s = execPerm f s := rfl
@[simp] theorem exec_pset (f : FmtP) (s : State) : exec (.pset f) s = execPset f s := rfl
@[simp] theorem exec_pand (f : FmtQ) (s : State) : exec (.pand f) s = execPand f s := rfl
@[simp] theorem exec_por (f : FmtQ) (s : State) : exec (.por f) s = execPor f s := rfl
@[simp] theorem exec_pxor (f : FmtQ) (s : State) : exec (.pxor f) s = execPxor f s := rfl
@[simp] theorem exec_pmov (f : FmtR) (s : State) : exec (.pmov f) s = execPmov f s := rfl
@[simp] theorem exec_bra (f : FmtJ) (s : State) : exec (.bra f) s = execBra f s := rfl
@[simp] theorem exec_brx (f : FmtA) (s : State) : exec (.brx f) s = execBrx f s := rfl
@[simp] theorem exec_call (f : FmtJ) (s : State) : exec (.call f) s = execCall f s := rfl
@[simp] theorem exec_ret (f : FmtA) (s : State) : exec (.ret f) s = execRet f s := rfl
@[simp] theorem exec_exit (f : FmtA) (s : State) : exec (.exit f) s = execExit f s := rfl
@[simp] theorem exec_task (f : FmtA) (s : State) : exec (.task f) s = execTask f s := rfl
@[simp] theorem exec_yield (f : FmtA) (s : State) : exec (.yield f) s = execYield f s := rfl
@[simp] theorem exec_winb (f : FmtL) (s : State) : exec (.winb f) s = execWinb f s := rfl
@[simp] theorem exec_nop (f : FmtA) (s : State) : exec (.nop f) s = execNop f s := rfl
@[simp] theorem exec_trail (f : FmtT) (s : State) : exec (.trail f) s = execTrail f s := rfl
@[simp] theorem exec_ldRlx (f : FmtA) (s : State) : exec (.ldRlx f) s = execLdRlx f s := rfl
@[simp] theorem exec_stRlx (f : FmtA) (s : State) : exec (.stRlx f) s = execStRlx f s := rfl
@[simp] theorem exec_ldSc (f : FmtA) (s : State) : exec (.ldSc f) s = execLdSc f s := rfl
@[simp] theorem exec_stSc (f : FmtA) (s : State) : exec (.stSc f) s = execStSc f s := rfl
@[simp] theorem exec_ldx (f : FmtA) (s : State) : exec (.ldx f) s = execLdx f s := rfl
@[simp] theorem exec_ldAcq (sco : Scope) (f : FmtA) (s : State) : exec (.ldAcq sco f) s = execLdAcq sco f s := rfl
@[simp] theorem exec_stRel (sco : Scope) (f : FmtA) (s : State) : exec (.stRel sco f) s = execStRel sco f s := rfl
@[simp] theorem exec_spill (f : FmtA) (s : State) : exec (.spill f) s = execSpill f s := rfl
@[simp] theorem exec_fill (f : FmtA) (s : State) : exec (.fill f) s = execFill f s := rfl
@[simp] theorem exec_pf (f : FmtA) (s : State) : exec (.pf f) s = execPf f s := rfl
@[simp] theorem exec_sbind (f : FmtA) (s : State) : exec (.sbind f) s = execSbind f s := rfl
@[simp] theorem exec_fadd (ty : FType) (f : FmtM) (s : State) : exec (.fadd ty f) s = execFadd ty f s := rfl
@[simp] theorem exec_fsub (ty : FType) (f : FmtM) (s : State) : exec (.fsub ty f) s = execFsub ty f s := rfl
@[simp] theorem exec_fmul (ty : FType) (f : FmtM) (s : State) : exec (.fmul ty f) s = execFmul ty f s := rfl
@[simp] theorem exec_fma (ty : FType) (f : FmtM) (s : State) : exec (.fma ty f) s = execFma ty f s := rfl
@[simp] theorem exec_fms (ty : FType) (f : FmtM) (s : State) : exec (.fms ty f) s = execFms ty f s := rfl
@[simp] theorem exec_fnma (ty : FType) (f : FmtM) (s : State) : exec (.fnma ty f) s = execFnma ty f s := rfl
@[simp] theorem exec_fmin (ty : FType) (f : FmtM) (s : State) : exec (.fmin ty f) s = execFmin ty f s := rfl
@[simp] theorem exec_fmax (ty : FType) (f : FmtM) (s : State) : exec (.fmax ty f) s = execFmax ty f s := rfl
@[simp] theorem exec_fcmp (ty : FType) (f : FmtPM) (s : State) : exec (.fcmp ty f) s = execFcmp ty f s := rfl
@[simp] theorem exec_fdiv (ty : FType) (f : FmtM) (s : State) : exec (.fdiv ty f) s = execFdiv ty f s := rfl
@[simp] theorem exec_fsqrt (ty : FType) (f : FmtM) (s : State) : exec (.fsqrt ty f) s = execFsqrt ty f s := rfl
@[simp] theorem exec_frcp (ty : FType) (f : FmtM) (s : State) : exec (.frcp ty f) s = execFrcp ty f s := rfl
@[simp] theorem exec_frsq (ty : FType) (f : FmtM) (s : State) : exec (.frsq ty f) s = execFrsq ty f s := rfl
@[simp] theorem exec_fexp2 (ty : FType) (f : FmtM) (s : State) : exec (.fexp2 ty f) s = execFexp2 ty f s := rfl
@[simp] theorem exec_flog2 (ty : FType) (f : FmtM) (s : State) : exec (.flog2 ty f) s = execFlog2 ty f s := rfl
@[simp] theorem exec_fsin (ty : FType) (f : FmtM) (s : State) : exec (.fsin ty f) s = execFsin ty f s := rfl
@[simp] theorem exec_fcos (ty : FType) (f : FmtM) (s : State) : exec (.fcos ty f) s = execFcos ty f s := rfl
@[simp] theorem exec_ftanh (ty : FType) (f : FmtM) (s : State) : exec (.ftanh ty f) s = execFtanh ty f s := rfl
@[simp] theorem exec_fsig (ty : FType) (f : FmtM) (s : State) : exec (.fsig ty f) s = execFsig ty f s := rfl
@[simp] theorem exec_fclass (ty : FType) (f : FmtM) (s : State) : exec (.fclass ty f) s = execFclass ty f s := rfl
@[simp] theorem exec_fround (ty : FType) (f : FmtM) (s : State) : exec (.fround ty f) s = execFround ty f s := rfl
@[simp] theorem exec_cvt (td : CvtType) (ts : CvtType) (f : FmtM) (s : State) : exec (.cvt td ts f) s = execCvt td ts f s := rfl
@[simp] theorem exec_pack (f : FmtM) (s : State) : exec (.pack f) s = execPack f s := rfl
@[simp] theorem exec_unpack (f : FmtM) (s : State) : exec (.unpack f) s = execUnpack f s := rfl
@[simp] theorem exec_lshf (f : FmtM) (s : State) : exec (.lshf f) s = execLshf f s := rfl
@[simp] theorem exec_lbcast (f : FmtM) (s : State) : exec (.lbcast f) s = execLbcast f s := rfl
@[simp] theorem exec_lrot (f : FmtM) (s : State) : exec (.lrot f) s = execLrot f s := rfl
@[simp] theorem exec_lvote (f : FmtVM) (s : State) : exec (.lvote f) s = execLvote f s := rfl
@[simp] theorem exec_lredAdd (ty : FType) (f : FmtM) (s : State) : exec (.lredAdd ty f) s = execLredAdd ty f s := rfl
@[simp] theorem exec_lredMin (ty : FType) (f : FmtM) (s : State) : exec (.lredMin ty f) s = execLredMin ty f s := rfl
@[simp] theorem exec_lredMax (ty : FType) (f : FmtM) (s : State) : exec (.lredMax ty f) s = execLredMax ty f s := rfl
@[simp] theorem exec_lscanAdd (ty : FType) (f : FmtM) (s : State) : exec (.lscanAdd ty f) s = execLscanAdd ty f s := rfl
@[simp] theorem exec_lscanMin (ty : FType) (f : FmtM) (s : State) : exec (.lscanMin ty f) s = execLscanMin ty f s := rfl
@[simp] theorem exec_lscanMax (ty : FType) (f : FmtM) (s : State) : exec (.lscanMax ty f) s = execLscanMax ty f s := rfl
@[simp] theorem exec_dot (dt : DotType) (f : FmtM) (s : State) : exec (.dot dt f) s = execDot dt f s := rfl
@[simp] theorem exec_dsmul (h : HalfType) (f : FmtM) (s : State) : exec (.dsmul h f) s = execDsmul h f s := rfl
@[simp] theorem exec_mma (f : FmtA) (s : State) : exec (.mma f) s = execMma f s := rfl
@[simp] theorem exec_mwait (f : FmtA) (s : State) : exec (.mwait f) s = execMwait f s := rfl
@[simp] theorem exec_mrow (f : FmtA) (s : State) : exec (.mrow f) s = execMrow f s := rfl
@[simp] theorem exec_macc (f : FmtA) (s : State) : exec (.macc f) s = execMacc f s := rfl
@[simp] theorem exec_mzero (f : FmtA) (s : State) : exec (.mzero f) s = execMzero f s := rfl
@[simp] theorem exec_cpy (f : FmtA) (s : State) : exec (.cpy f) s = execCpy f s := rfl
@[simp] theorem exec_cpy2d (f : FmtA) (s : State) : exec (.cpy2d f) s = execCpy2d f s := rfl
@[simp] theorem exec_cpyg (f : FmtA) (s : State) : exec (.cpyg f) s = execCpyg f s := rfl
@[simp] theorem exec_cvq (f : FmtA) (s : State) : exec (.cvq f) s = execCvq f s := rfl
@[simp] theorem exec_cvd (f : FmtA) (s : State) : exec (.cvd f) s = execCvd f s := rfl
@[simp] theorem exec_pinit (f : FmtA) (s : State) : exec (.pinit f) s = execPinit f s := rfl
@[simp] theorem exec_pwait (f : FmtA) (s : State) : exec (.pwait f) s = execPwait f s := rfl
@[simp] theorem exec_prelRelease (f : FmtA) (s : State) : exec (.prelRelease f) s = execPrelRelease f s := rfl
@[simp] theorem exec_prelLeave (f : FmtA) (s : State) : exec (.prelLeave f) s = execPrelLeave f s := rfl
@[simp] theorem exec_prelJoin (f : FmtA) (s : State) : exec (.prelJoin f) s = execPrelJoin f s := rfl
@[simp] theorem exec_pphase (f : FmtA) (s : State) : exec (.pphase f) s = execPphase f s := rfl
@[simp] theorem exec_cbpass (f : FmtA) (s : State) : exec (.cbpass f) s = execCbpass f s := rfl
@[simp] theorem exec_cbwait (f : FmtA) (s : State) : exec (.cbwait f) s = execCbwait f s := rfl
@[simp] theorem exec_qfence (f : FmtA) (s : State) : exec (.qfence f) s = execQfence f s := rfl
@[simp] theorem exec_gsub (f : FmtA) (s : State) : exec (.gsub f) s = execGsub f s := rfl
@[simp] theorem exec_gwait (f : FmtA) (s : State) : exec (.gwait f) s = execGwait f s := rfl
@[simp] theorem exec_atmAdd (f : FmtA) (s : State) : exec (.atmAdd f) s = execAtmAdd f s := rfl
@[simp] theorem exec_atmMinS (f : FmtA) (s : State) : exec (.atmMinS f) s = execAtmMinS f s := rfl
@[simp] theorem exec_atmMinZ (f : FmtA) (s : State) : exec (.atmMinZ f) s = execAtmMinZ f s := rfl
@[simp] theorem exec_atmMaxS (f : FmtA) (s : State) : exec (.atmMaxS f) s = execAtmMaxS f s := rfl
@[simp] theorem exec_atmMaxZ (f : FmtA) (s : State) : exec (.atmMaxZ f) s = execAtmMaxZ f s := rfl
@[simp] theorem exec_atmAnd (f : FmtA) (s : State) : exec (.atmAnd f) s = execAtmAnd f s := rfl
@[simp] theorem exec_atmOr (f : FmtA) (s : State) : exec (.atmOr f) s = execAtmOr f s := rfl
@[simp] theorem exec_atmXor (f : FmtA) (s : State) : exec (.atmXor f) s = execAtmXor f s := rfl
@[simp] theorem exec_atmExch (f : FmtA) (s : State) : exec (.atmExch f) s = execAtmExch f s := rfl
@[simp] theorem exec_atmCas (f : FmtA) (s : State) : exec (.atmCas f) s = execAtmCas f s := rfl
@[simp] theorem exec_atmCas128 (f : FmtA) (s : State) : exec (.atmCas128 f) s = execAtmCas128 f s := rfl
@[simp] theorem exec_atmBfi (f : FmtA) (s : State) : exec (.atmBfi f) s = execAtmBfi f s := rfl
@[simp] theorem exec_atmFfcs (f : FmtA) (s : State) : exec (.atmFfcs f) s = execAtmFfcs f s := rfl
@[simp] theorem exec_atmPlset (f : FmtA) (s : State) : exec (.atmPlset f) s = execAtmPlset f s := rfl
@[simp] theorem exec_atmAddFloat (ty : FType) (f : FmtA) (s : State) : exec (.atmAddFloat ty f) s = execAtmAddFloat ty f s := rfl
@[simp] theorem exec_atmMinFloat (ty : FType) (f : FmtA) (s : State) : exec (.atmMinFloat ty f) s = execAtmMinFloat ty f s := rfl
@[simp] theorem exec_atmMaxFloat (ty : FType) (f : FmtA) (s : State) : exec (.atmMaxFloat ty f) s = execAtmMaxFloat ty f s := rfl
@[simp] theorem exec_redAdd (f : FmtA) (s : State) : exec (.redAdd f) s = execRedAdd f s := rfl
@[simp] theorem exec_redMinS (f : FmtA) (s : State) : exec (.redMinS f) s = execRedMinS f s := rfl
@[simp] theorem exec_redMinZ (f : FmtA) (s : State) : exec (.redMinZ f) s = execRedMinZ f s := rfl
@[simp] theorem exec_redMaxS (f : FmtA) (s : State) : exec (.redMaxS f) s = execRedMaxS f s := rfl
@[simp] theorem exec_redMaxZ (f : FmtA) (s : State) : exec (.redMaxZ f) s = execRedMaxZ f s := rfl
@[simp] theorem exec_redAnd (f : FmtA) (s : State) : exec (.redAnd f) s = execRedAnd f s := rfl
@[simp] theorem exec_redOr (f : FmtA) (s : State) : exec (.redOr f) s = execRedOr f s := rfl
@[simp] theorem exec_redXor (f : FmtA) (s : State) : exec (.redXor f) s = execRedXor f s := rfl
@[simp] theorem exec_redAddFloat (ty : FType) (f : FmtA) (s : State) : exec (.redAddFloat ty f) s = execRedAddFloat ty f s := rfl
@[simp] theorem exec_chup (g : ChTag) (f : FmtA) (s : State) : exec (.chup g f) s = execChup g f s := rfl
@[simp] theorem exec_chfl (f : FmtA) (s : State) : exec (.chfl f) s = execChfl f s := rfl
@[simp] theorem exec_fence (f : FmtA) (s : State) : exec (.fence f) s = execFence f s := rfl
@[simp] theorem exec_sfence (f : FmtA) (s : State) : exec (.sfence f) s = execSfence f s := rfl
@[simp] theorem exec_bar (f : FmtA) (s : State) : exec (.bar f) s = execBar f s := rfl
@[simp] theorem exec_barw (f : FmtA) (s : State) : exec (.barw f) s = execBarw f s := rfl
@[simp] theorem exec_twait (f : FmtA) (s : State) : exec (.twait f) s = execTwait f s := rfl
@[simp] theorem exec_map (f : FmtA) (s : State) : exec (.map f) s = execMap f s := rfl
@[simp] theorem exec_unmap (f : FmtA) (s : State) : exec (.unmap f) s = execUnmap f s := rfl
@[simp] theorem exec_wopen (f : FmtA) (s : State) : exec (.wopen f) s = execWopen f s := rfl
@[simp] theorem exec_wclose (f : FmtA) (s : State) : exec (.wclose f) s = execWclose f s := rfl
@[simp] theorem exec_phreg (f : FmtA) (s : State) : exec (.phreg f) s = execPhreg f s := rfl
@[simp] theorem exec_phleave (f : FmtA) (s : State) : exec (.phleave f) s = execPhleave f s := rfl
@[simp] theorem exec_phsig (f : FmtA) (s : State) : exec (.phsig f) s = execPhsig f s := rfl
@[simp] theorem exec_phsigb (f : FmtA) (s : State) : exec (.phsigb f) s = execPhsigb f s := rfl
@[simp] theorem exec_phany (f : FmtA) (s : State) : exec (.phany f) s = execPhany f s := rfl
@[simp] theorem exec_phwait (f : FmtA) (s : State) : exec (.phwait f) s = execPhwait f s := rfl
@[simp] theorem exec_phtry (f : FmtA) (s : State) : exec (.phtry f) s = execPhtry f s := rfl
@[simp] theorem exec_phget (f : FmtA) (s : State) : exec (.phget f) s = execPhget f s := rfl
@[simp] theorem exec_fld (f : FmtA) (s : State) : exec (.fld f) s = execFld f s := rfl
@[simp] theorem exec_fst (f : FmtA) (s : State) : exec (.fst f) s = execFst f s := rfl
@[simp] theorem exec_fatm (f : FmtA) (s : State) : exec (.fatm f) s = execFatm f s := rfl
@[simp] theorem exec_bulk (f : FmtA) (s : State) : exec (.bulk f) s = execBulk f s := rfl
@[simp] theorem exec_acset (f : FmtA) (s : State) : exec (.acset f) s = execAcset f s := rfl
@[simp] theorem exec_acwait (f : FmtA) (s : State) : exec (.acwait f) s = execAcwait f s := rfl
@[simp] theorem exec_ffence (f : FmtA) (s : State) : exec (.ffence f) s = execFfence f s := rfl
@[simp] theorem exec_trap (f : FmtA) (s : State) : exec (.trap f) s = execTrap f s := rfl
@[simp] theorem exec_rfx (f : FmtA) (s : State) : exec (.rfx f) s = execRfx f s := rfl
@[simp] theorem exec_brk (f : FmtA) (s : State) : exec (.brk f) s = execBrk f s := rfl
@[simp] theorem exec_sysrd (f : FmtA) (s : State) : exec (.sysrd f) s = execSysrd f s := rfl
@[simp] theorem exec_syswr (f : FmtA) (s : State) : exec (.syswr f) s = execSyswr f s := rfl
@[simp] theorem exec_tlbinv (f : FmtA) (s : State) : exec (.tlbinv f) s = execTlbinv f s := rfl
@[simp] theorem exec_cacheopClean (f : FmtA) (s : State) : exec (.cacheopClean f) s = execCacheopClean f s := rfl
@[simp] theorem exec_cacheopFlush (f : FmtA) (s : State) : exec (.cacheopFlush f) s = execCacheopFlush f s := rfl
@[simp] theorem exec_cacheopDrop (f : FmtA) (s : State) : exec (.cacheopDrop f) s = execCacheopDrop f s := rfl
@[simp] theorem exec_cacheopZero (f : FmtA) (s : State) : exec (.cacheopZero f) s = execCacheopZero f s := rfl
@[simp] theorem exec_cacheopL1all (f : FmtA) (s : State) : exec (.cacheopL1all f) s = execCacheopL1all f s := rfl
@[simp] theorem exec_cacheopL2all (f : FmtA) (s : State) : exec (.cacheopL2all f) s = execCacheopL2all f s := rfl
@[simp] theorem exec_cancel (f : FmtA) (s : State) : exec (.cancel f) s = execCancel f s := rfl
@[simp] theorem exec_topk (f : FmtA) (s : State) : exec (.topk f) s = execTopk f s := rfl
@[simp] theorem exec_kmerge (f : FmtA) (s : State) : exec (.kmerge f) s = execKmerge f s := rfl
@[simp] theorem exec_skim (f : FmtA) (s : State) : exec (.skim f) s = execSkim f s := rfl
@[simp] theorem exec_kfilt (f : FmtP) (s : State) : exec (.kfilt f) s = execKfilt f s := rfl
@[simp] theorem exec_distL2 (v : DistType) (f : FmtA) (s : State) : exec (.distL2 v f) s = execDistL2 v f s := rfl
@[simp] theorem exec_distIp (v : DistType) (f : FmtA) (s : State) : exec (.distIp v f) s = execDistIp v f s := rfl
@[simp] theorem exec_distCos (v : DistType) (f : FmtA) (s : State) : exec (.distCos v f) s = execDistCos v f s := rfl
@[simp] theorem exec_pickerCycle (s : State) : exec (.pickerCycle) s = execPickerCycle s := rfl
@[simp] theorem exec_fixedLatencyWriteback (th : Nat) (s : State) : exec (.fixedLatencyWriteback th) s = execFixedLatencyWriteback th s := rfl
@[simp] theorem exec_variableLatencyCompletion (th : Nat) (dc : Nat) (s : State) : exec (.variableLatencyCompletion th dc) s = execVariableLatencyCompletion th dc s := rfl
@[simp] theorem exec_heldRelease (th : Nat) (s : State) : exec (.heldRelease th) s = execHeldRelease th s := rfl
@[simp] theorem exec_yieldExpiry (th : Nat) (s : State) : exec (.yieldExpiry th) s = execYieldExpiry th s := rfl
@[simp] theorem exec_teamPlacement (s : State) : exec (.teamPlacement) s = execTeamPlacement s := rfl
@[simp] theorem exec_taskBind (team : Nat) (s : State) : exec (.taskBind team) s = execTaskBind team s := rfl
@[simp] theorem exec_hostCancel (u : UnitRef) (s : State) : exec (.hostCancel u) s = execHostCancel u s := rfl
@[simp] theorem exec_trapEntry (th : Nat) (trp : TrapInfo) (s : State) : exec (.trapEntry th trp) s = execTrapEntry th trp s := rfl
@[simp] theorem exec_faultReplay (th : Nat) (s : State) : exec (.faultReplay th) s = execFaultReplay th s := rfl
@[simp] theorem exec_preemptionRequest (team : Nat) (s : State) : exec (.preemptionRequest team) s = execPreemptionRequest team s := rfl
@[simp] theorem exec_preemptionEntry (team : Nat) (s : State) : exec (.preemptionEntry team) s = execPreemptionEntry team s := rfl
@[simp] theorem exec_preemptionTimeout (team : Nat) (s : State) : exec (.preemptionTimeout team) s = execPreemptionTimeout team s := rfl
@[simp] theorem exec_teamSave (team : Nat) (s : State) : exec (.teamSave team) s = execTeamSave team s := rfl
@[simp] theorem exec_teamResume (team : Nat) (s : State) : exec (.teamResume team) s = execTeamResume team s := rfl
@[simp] theorem exec_pageWalk (req : WalkReq) (s : State) : exec (.pageWalk req) s = execPageWalk req s := rfl
@[simp] theorem exec_faultAnswer (ans : Word) (s : State) : exec (.faultAnswer ans) s = execFaultAnswer ans s := rfl
@[simp] theorem exec_faultTimeout (stack : Nat) (ticket : Nat) (s : State) : exec (.faultTimeout stack ticket) s = execFaultTimeout stack ticket s := rfl
@[simp] theorem exec_floorReport (node : Nat) (s : State) : exec (.floorReport node) s = execFloorReport node s := rfl
@[simp] theorem exec_belayBeat (node : Nat) (s : State) : exec (.belayBeat node) s = execBelayBeat node s := rfl
@[simp] theorem exec_scPerform (s : State) : exec (.scPerform) s = execScPerform s := rfl
@[simp] theorem exec_epochAdvance (s : State) : exec (.epochAdvance) s = execEpochAdvance s := rfl
@[simp] theorem exec_deviceLost (dev : Nat) (s : State) : exec (.deviceLost dev) s = execDeviceLost dev s := rfl
@[simp] theorem exec_peerAckTimeout (dev : Nat) (line : Nat) (s : State) : exec (.peerAckTimeout dev line) s = execPeerAckTimeout dev line s := rfl
@[simp] theorem exec_readShared (core : Nat) (line : Nat) (s : State) : exec (.readShared core line) s = execReadShared core line s := rfl
@[simp] theorem exec_readOwn (core : Nat) (line : Nat) (s : State) : exec (.readOwn core line) s = execReadOwn core line s := rfl
@[simp] theorem exec_upgrade (core : Nat) (line : Nat) (s : State) : exec (.upgrade core line) s = execUpgrade core line s := rfl
@[simp] theorem exec_join (core : Nat) (line : Nat) (g : ChTag) (sigma : Int) (s : State) : exec (.join core line g sigma) s = execJoin core line g sigma s := rfl
@[simp] theorem exec_invalidate (core : Nat) (line : Nat) (s : State) : exec (.invalidate core line) s = execInvalidate core line s := rfl
@[simp] theorem exec_recall (core : Nat) (line : Nat) (keep : Bool) (s : State) : exec (.recall core line keep) s = execRecall core line keep s := rfl
@[simp] theorem exec_mergeRecall (core : Nat) (line : Nat) (s : State) : exec (.mergeRecall core line) s = execMergeRecall core line s := rfl
@[simp] theorem exec_wbreq (core : Nat) (line : Nat) (s : State) : exec (.wbreq core line) s = execWbreq core line s := rfl
@[simp] theorem exec_wbgrant (core : Nat) (line : Nat) (s : State) : exec (.wbgrant core line) s = execWbgrant core line s := rfl
@[simp] theorem exec_wbData (core : Nat) (line : Nat) (s : State) : exec (.wbData core line) s = execWbData core line s := rfl
@[simp] theorem exec_hostMemRead (pa : Nat) (n : Nat) (keep : Bool) (s : State) : exec (.hostMemRead pa n keep) s = execHostMemRead pa n keep s := rfl
@[simp] theorem exec_hostMemWrite (pa : Nat) (data : Bytes) (own : Bool) (s : State) : exec (.hostMemWrite pa data own) s = execHostMemWrite pa data own s := rfl
@[simp] theorem exec_hostWriteback (sector : Nat) (data : Bytes) (s : State) : exec (.hostWriteback sector data) s = execHostWriteback sector data s := rfl
@[simp] theorem exec_bisnpResponse (sector : Nat) (inv : Bool) (data : Bytes) (s : State) : exec (.bisnpResponse sector inv data) s = execBisnpResponse sector inv data s := rfl
@[simp] theorem exec_rdcurr (g : GuestAcc) (s : State) : exec (.rdcurr g) s = execRdcurr g s := rfl
@[simp] theorem exec_rdshared (g : GuestAcc) (s : State) : exec (.rdshared g) s = execRdshared g s := rfl
@[simp] theorem exec_rdown (g : GuestAcc) (s : State) : exec (.rdown g) s = execRdown g s := rfl
@[simp] theorem exec_rdownnodata (g : GuestAcc) (s : State) : exec (.rdownnodata g) s = execRdownnodata g s := rfl
@[simp] theorem exec_itomwr (g : GuestAcc) (data : Bytes) (s : State) : exec (.itomwr g data) s = execItomwr g data s := rfl
@[simp] theorem exec_wrcur (g : GuestAcc) (data : Bytes) (s : State) : exec (.wrcur g data) s = execWrcur g data s := rfl
@[simp] theorem exec_cleanevict (g : GuestAcc) (s : State) : exec (.cleanevict g) s = execCleanevict g s := rfl
@[simp] theorem exec_cleanevictnodata (g : GuestAcc) (s : State) : exec (.cleanevictnodata g) s = execCleanevictnodata g s := rfl
@[simp] theorem exec_dirtyevict (g : GuestAcc) (data : Bytes) (s : State) : exec (.dirtyevict g data) s = execDirtyevict g data s := rfl
@[simp] theorem exec_clflush (g : GuestAcc) (s : State) : exec (.clflush g) s = execClflush g s := rfl
@[simp] theorem exec_guestUnsupportedRequest (pa : Nat) (s : State) : exec (.guestUnsupportedRequest pa) s = execGuestUnsupportedRequest pa s := rfl
@[simp] theorem exec_guestSnoopResponse (sector : Nat) (inv : Bool) (data : Bytes) (s : State) : exec (.guestSnoopResponse sector inv data) s = execGuestSnoopResponse sector inv data s := rfl
@[simp] theorem exec_snoopTimeout (sector : Nat) (s : State) : exec (.snoopTimeout sector) s = execSnoopTimeout sector s := rfl
@[simp] theorem exec_guestCompletion (q : Nat) (ticket : Nat) (result : Word) (code : Nat) (reason : Nat) (s : State) : exec (.guestCompletion q ticket result code reason) s = execGuestCompletion q ticket result code reason s := rfl
@[simp] theorem exec_translate (q : Nat) (ticket : Nat) (va : Word) (acc : Nat) (s : State) : exec (.translate q ticket va acc) s = execTranslate q ticket va acc s := rfl
@[simp] theorem exec_guestFault (q : Nat) (ticket : Nat) (addr : Word) (acc : Nat) (fatal : Bool) (s : State) : exec (.guestFault q ticket addr acc fatal) s = execGuestFault q ticket addr acc fatal s := rfl
@[simp] theorem exec_guestFaultDeadline (q : Nat) (ticket : Nat) (s : State) : exec (.guestFaultDeadline q ticket) s = execGuestFaultDeadline q ticket s := rfl
@[simp] theorem exec_guestFaultCompletionTimeout (q : Nat) (ticket : Nat) (s : State) : exec (.guestFaultCompletionTimeout q ticket) s = execGuestFaultCompletionTimeout q ticket s := rfl
@[simp] theorem exec_shootdownAck (sid : Nat) (s : State) : exec (.shootdownAck sid) s = execShootdownAck sid s := rfl
@[simp] theorem exec_preemptAck (pid : Nat) (saved : GuestTickets) (s : State) : exec (.preemptAck pid saved) s = execPreemptAck pid saved s := rfl
@[simp] theorem exec_preemptAckTimeout (pid : Nat) (s : State) : exec (.preemptAckTimeout pid) s = execPreemptAckTimeout pid s := rfl
@[simp] theorem exec_gateViolation (tenant : Nat) (s : State) : exec (.gateViolation tenant) s = execGateViolation tenant s := rfl
@[simp] theorem exec_hello (h : Hello) (s : State) : exec (.hello h) s = execHello h s := rfl
@[simp] theorem exec_guestOtherMessage (s : State) : exec (.guestOtherMessage) s = execGuestOtherMessage s := rfl
@[simp] theorem exec_flitReceive (link : Nat) (flit : Flit) (s : State) : exec (.flitReceive link flit) s = execFlitReceive link flit s := rfl
@[simp] theorem exec_replayRequest (link : Nat) (seq : Nat) (s : State) : exec (.replayRequest link seq) s = execReplayRequest link seq s := rfl
@[simp] theorem exec_censusSend (link : Nat) (s : State) : exec (.censusSend link) s = execCensusSend link s := rfl
@[simp] theorem exec_census (link : Nat) (counts : Counts) (s : State) : exec (.census link counts) s = execCensus link counts s := rfl
@[simp] theorem exec_identification (link : Nat) (dev : Nat) (plink : Nat) (s : State) : exec (.identification link dev plink) s = execIdentification link dev plink s := rfl
@[simp] theorem exec_identificationTimeout (link : Nat) (s : State) : exec (.identificationTimeout link) s = execIdentificationTimeout link s := rfl
@[simp] theorem exec_fabricRead (p : Packet) (s : State) : exec (.fabricRead p) s = execFabricRead p s := rfl
@[simp] theorem exec_fabricWrite (p : Packet) (s : State) : exec (.fabricWrite p) s = execFabricWrite p s := rfl
@[simp] theorem exec_fabricAtomic (p : Packet) (s : State) : exec (.fabricAtomic p) s = execFabricAtomic p s := rfl
@[simp] theorem exec_bulkPiece (p : Packet) (s : State) : exec (.bulkPiece p) s = execBulkPiece p s := rfl
@[simp] theorem exec_drainMarker (p : Packet) (s : State) : exec (.drainMarker p) s = execDrainMarker p s := rfl
@[simp] theorem exec_fabricInvalidate (p : Packet) (s : State) : exec (.fabricInvalidate p) s = execFabricInvalidate p s := rfl
@[simp] theorem exec_fabricMergeRecall (p : Packet) (s : State) : exec (.fabricMergeRecall p) s = execFabricMergeRecall p s := rfl
@[simp] theorem exec_readResponse (p : Packet) (s : State) : exec (.readResponse p) s = execReadResponse p s := rfl
@[simp] theorem exec_atomicResponse (p : Packet) (s : State) : exec (.atomicResponse p) s = execAtomicResponse p s := rfl
@[simp] theorem exec_writeAcknowledgement (p : Packet) (s : State) : exec (.writeAcknowledgement p) s = execWriteAcknowledgement p s := rfl
@[simp] theorem exec_invalidateAcknowledgement (p : Packet) (s : State) : exec (.invalidateAcknowledgement p) s = execInvalidateAcknowledgement p s := rfl
@[simp] theorem exec_partialPacket (p : Packet) (s : State) : exec (.partialPacket p) s = execPartialPacket p s := rfl
@[simp] theorem exec_slotStart (s : State) : exec (.slotStart) s = execSlotStart s := rfl
@[simp] theorem exec_dataTimeStart (s : State) : exec (.dataTimeStart) s = execDataTimeStart s := rfl
@[simp] theorem exec_dataTimeEnd (s : State) : exec (.dataTimeEnd) s = execDataTimeEnd s := rfl
@[simp] theorem exec_sendQueueDepart (dest : Nat) (s : State) : exec (.sendQueueDepart dest) s = execSendQueueDepart dest s := rfl
@[simp] theorem exec_drainReturn (dest : Nat) (path : Nat) (s : State) : exec (.drainReturn dest path) s = execDrainReturn dest path s := rfl
@[simp] theorem exec_slotTableSwitch (link : Nat) (s : State) : exec (.slotTableSwitch link) s = execSlotTableSwitch link s := rfl
@[simp] theorem exec_linkRetire (link : Nat) (s : State) : exec (.linkRetire link) s = execLinkRetire link s := rfl
@[simp] theorem exec_retireNotice (link : Nat) (seq : Nat) (s : State) : exec (.retireNotice link seq) s = execRetireNotice link seq s := rfl
@[simp] theorem exec_belayNodeCycle (node : Nat) (s : State) : exec (.belayNodeCycle node) s = execBelayNodeCycle node s := rfl
@[simp] theorem exec_nodeForward (node : Nat) (s : State) : exec (.nodeForward node) s = execNodeForward node s := rfl
@[simp] theorem exec_completionDelivery (d : PhaseDelivery) (s : State) : exec (.completionDelivery d) s = execCompletionDelivery d s := rfl
@[simp] theorem exec_boundSignalRelease (bid : Nat) (s : State) : exec (.boundSignalRelease bid) s = execBoundSignalRelease bid s := rfl
@[simp] theorem exec_uplinkFailover (s : State) : exec (.uplinkFailover) s = execUplinkFailover s := rfl
@[simp] theorem exec_phaserAllocation (a : PhaserAlloc) (s : State) : exec (.phaserAllocation a) s = execPhaserAllocation a s := rfl
@[simp] theorem exec_phaserFree (handle : Word) (s : State) : exec (.phaserFree handle) s = execPhaserFree handle s := rfl
@[simp] theorem exec_stageAddition (team : Nat) (cmd : Nat) (s : State) : exec (.stageAddition team cmd) s = execStageAddition team cmd s := rfl
@[simp] theorem exec_pinitEffect (team : Nat) (cmd : Nat) (s : State) : exec (.pinitEffect team cmd) s = execPinitEffect team cmd s := rfl
@[simp] theorem exec_mmaGroupRetire (team : Nat) (s : State) : exec (.mmaGroupRetire team) s = execMmaGroupRetire team s := rfl
@[simp] theorem exec_engineCommandCompletion (team : Nat) (eq : EngineQueue) (s : State) : exec (.engineCommandCompletion team eq) s = execEngineCommandCompletion team eq s := rfl
@[simp] theorem exec_acwaitTimeout (th : Nat) (oid : Nat) (s : State) : exec (.acwaitTimeout th oid) s = execAcwaitTimeout th oid s := rfl
@[simp] theorem exec_ffenceTimeout (th : Nat) (oid : Nat) (s : State) : exec (.ffenceTimeout th oid) s = execFfenceTimeout th oid s := rfl
@[simp] theorem exec_kick (q : Nat) (v : Word) (s : State) : exec (.kick q v) s = execKick q v s := rfl
@[simp] theorem exec_kickRestart (q : Nat) (v : Word) (s : State) : exec (.kickRestart q v) s = execKickRestart q v s := rfl
@[simp] theorem exec_queueFetch (q : Nat) (s : State) : exec (.queueFetch q) s = execQueueFetch q s := rfl
@[simp] theorem exec_queueRetryRead (q : Nat) (s : State) : exec (.queueRetryRead q) s = execQueueRetryRead q s := rfl
@[simp] theorem exec_queueStall (q : Nat) (s : State) : exec (.queueStall q) s = execQueueStall q s := rfl
@[simp] theorem exec_launchPacket (q : Nat) (entry : Quads) (s : State) : exec (.launchPacket q entry) s = execLaunchPacket q entry s := rfl
@[simp] theorem exec_legMark (q : Nat) (mirror : Word) (s : State) : exec (.legMark q mirror) s = execLegMark q mirror s := rfl
@[simp] theorem exec_badPacket (q : Nat) (idx : Nat) (s : State) : exec (.badPacket q idx) s = execBadPacket q idx s := rfl
@[simp] theorem exec_waitPoll (launch : Nat) (s : State) : exec (.waitPoll launch) s = execWaitPoll launch s := rfl
@[simp] theorem exec_mirrorWrite (u : UnitRef) (s : State) : exec (.mirrorWrite u) s = execMirrorWrite u s := rfl
@[simp] theorem exec_placementPreempt (launch : Nat) (s : State) : exec (.placementPreempt launch) s = execPlacementPreempt launch s := rfl
@[simp] theorem exec_gateClose (tenant : Nat) (power : Bool) (s : State) : exec (.gateClose tenant power) s = execGateClose tenant power s := rfl
@[simp] theorem exec_gateOpen (tenant : Nat) (s : State) : exec (.gateOpen tenant) s = execGateOpen tenant s := rfl
@[simp] theorem exec_evheadWrite (v : Word) (s : State) : exec (.evheadWrite v) s = execEvheadWrite v s := rfl
@[simp] theorem exec_bar0OtherAccess (off : Nat) (isWrite : Bool) (s : State) : exec (.bar0OtherAccess off isWrite) s = execBar0OtherAccess off isWrite s := rfl
@[simp] theorem exec_deviceStart (st : StartInput) (s : State) : exec (.deviceStart st) s = execDeviceStart st s := rfl
@[simp] theorem exec_functionReady (bit : Nat) (s : State) : exec (.functionReady bit) s = execFunctionReady bit s := rfl
@[simp] theorem exec_startFailure (reason : Nat) (s : State) : exec (.startFailure reason) s = execStartFailure reason s := rfl
@[simp] theorem exec_queueDescriptorInstall (c : Signed) (q : Nat) (d : QueueDesc) (s : State) : exec (.queueDescriptorInstall c q d) s = execQueueDescriptorInstall c q d s := rfl
@[simp] theorem exec_contextDescriptorWrite (c : Signed) (ctx : Nat) (d : CtxWrite) (s : State) : exec (.contextDescriptorWrite c ctx d) s = execContextDescriptorWrite c ctx d s := rfl
@[simp] theorem exec_tenantContextMapWrite (c : Signed) (tenant : Nat) (v : Word) (s : State) : exec (.tenantContextMapWrite c tenant v) s = execTenantContextMapWrite c tenant v s := rfl
@[simp] theorem exec_budgetSet (c : Signed) (tenant : Nat) (b : BudgetVals) (s : State) : exec (.budgetSet c tenant b) s = execBudgetSet c tenant b s := rfl
@[simp] theorem exec_slotTableInstall (c : Signed) (link : Nat) (ctl : Word) (entries : Quads) (s : State) : exec (.slotTableInstall c link ctl entries) s = execSlotTableInstall c link ctl entries s := rfl
@[simp] theorem exec_faultRingSet (c : Signed) (stack : Nat) (addr : Nat) (s : State) : exec (.faultRingSet c stack addr) s = execFaultRingSet c stack addr s := rfl
@[simp] theorem exec_domainCommand (c : Signed) (d : DomainCmd) (s : State) : exec (.domainCommand c d) s = execDomainCommand c d s := rfl
@[simp] theorem exec_revocation (c : Signed) (d : RevokeCmd) (s : State) : exec (.revocation c d) s = execRevocation c d s := rfl
@[simp] theorem exec_rootRotation (c : Signed) (vendor : Bool) (root : Nat) (s : State) : exec (.rootRotation c vendor root) s = execRootRotation c vendor root s := rfl
@[simp] theorem exec_counterClear (c : Signed) (s : State) : exec (.counterClear c) s = execCounterClear c s := rfl
@[simp] theorem exec_retentionSleep (c : Signed) (s : State) : exec (.retentionSleep c) s = execRetentionSleep c s := rfl
@[simp] theorem exec_retentionWake (s : State) : exec (.retentionWake) s = execRetentionWake s := rfl
@[simp] theorem exec_anchorSiteReset (s : State) : exec (.anchorSiteReset) s = execAnchorSiteReset s := rfl
@[simp] theorem exec_linkRestore (link : Nat) (s : State) : exec (.linkRestore link) s = execLinkRestore link s := rfl
@[simp] theorem exec_attestationRequest (nonce : Nat) (domain : Nat) (s : State) : exec (.attestationRequest nonce domain) s = execAttestationRequest nonce domain s := rfl
@[simp] theorem exec_sramError (x : SramError) (s : State) : exec (.sramError x) s = execSramError x s := rfl
@[simp] theorem exec_serviceGroupRestart (cluster : Nat) (s : State) : exec (.serviceGroupRestart cluster) s = execServiceGroupRestart cluster s := rfl
@[simp] theorem exec_belayNodeFailure (node : Nat) (s : State) : exec (.belayNodeFailure node) s = execBelayNodeFailure node s := rfl
@[simp] theorem exec_hostSnoop (line : Nat) (s : State) : exec (.hostSnoop line) s = execHostSnoop line s := rfl
@[simp] theorem exec_hbm4eError (line : Nat) (word : Nat) (unc : Bool) (s : State) : exec (.hbm4eError line word unc) s = execHbm4eError line word unc s := rfl

end Sys2Proof.Machine
end

