-- ==== Sys2Proof/Laws/Table.lean ====
section
/-! SUPPORT. The laws of tables and of memory: what is read after a write, and that every operation keeps the canonical form. -/
namespace Sys2Proof.Machine

variable {α : Type}

@[simp] theorem tget_nil (k : Nat) : tget ([] : Tbl α) k = none := rfl
theorem tget_tset_same (t : Tbl α) (k : Nat) (v : α) : tget (tset t k v) k = some v := by
  induction t with
  | nil => simp [tset, tget]
  | cons e r ih =>
    obtain ⟨k', v'⟩ := e
    simp only [tset]
    split
    · simp [tget]
    · split
      · simp [tget]
      · rename_i h1 h2
        simp [tget, h1, h2, ih]
theorem tget_tset_other (t : Tbl α) {k k' : Nat} (v : α) (h : k' ≠ k) : tget (tset t k v) k' = tget t k' := by
  induction t with
  | nil => simp [tset, tget, h]
  | cons e r ih =>
    obtain ⟨j, w⟩ := e
    simp only [tset]
    split
    · rename_i h1
      by_cases h2 : k' < k
      · simp [tget, h2, show k' < j by omega]
      · simp [tget, h2, h]
    · split
      · rename_i h1 h2
        subst h2
        simp [tget, h]
      · simp only [tget, ih]
/-- The entry at any key after one is set. -/
theorem tget_tset (t : Tbl α) (k k' : Nat) (v : α) : tget (tset t k v) k' = if k' = k then some v else tget t k' := by
  split
  · rename_i h
    rw [h, tget_tset_same]
  · rename_i h
    exact tget_tset_other t v h
theorem tset_tset (t : Tbl α) (k : Nat) (v w : α) : tset (tset t k v) k w = tset t k w := by
  induction t with
  | nil => simp [tset]
  | cons e r ih =>
    obtain ⟨j, x⟩ := e
    by_cases h : k < j
    · simp [tset, h]
    · by_cases h2 : k = j
      · simp [tset, h2]
      · simp [tset, h, h2, ih]
theorem tget_tmod_same {t : Tbl α} {k : Nat} {v : α} (f : α → α) (h : tget t k = some v) : tget (tmod t k f) k = some (f v) := by
  simp [tmod, h, tget_tset_same]
theorem tmod_of_some {t : Tbl α} {k : Nat} {v : α} (f : α → α) (h : tget t k = some v) : tmod t k f = tset t k (f v) := by
  simp [tmod, h]
theorem tget_tmod_other (t : Tbl α) {k k' : Nat} (f : α → α) (h : k' ≠ k) : tget (tmod t k f) k' = tget t k' := by
  unfold tmod
  split
  · rfl
  · rw [tget_tset_other _ _ h]

/-! ### The canonical form -/

theorem tsorted_mono {t : Tbl α} {lo lo' : Nat} (h : tsorted lo t = true) (hl : lo' ≤ lo) : tsorted lo' t = true := by
  cases t with
  | nil => rfl
  | cons e r =>
    obtain ⟨k, v⟩ := e
    simp only [tsorted, Bool.and_eq_true, decide_eq_true_eq] at h ⊢
    exact ⟨by omega, h.2⟩
theorem tget_none_of_sorted {t : Tbl α} {lo k : Nat} (h : tsorted lo t = true) (hk : k < lo) : tget t k = none := by
  cases t with
  | nil => rfl
  | cons e r =>
    obtain ⟨j, v⟩ := e
    simp only [tsorted, Bool.and_eq_true, decide_eq_true_eq] at h
    simp [tget, show k < j by omega]
theorem tsorted_tset {t : Tbl α} {lo : Nat} (k : Nat) (v : α) (h : tsorted lo t = true) (hk : lo ≤ k) : tsorted lo (tset t k v) = true := by
  induction t generalizing lo with
  | nil => simp [tset, tsorted, hk]
  | cons e r ih =>
    obtain ⟨j, w⟩ := e
    simp only [tsorted, Bool.and_eq_true, decide_eq_true_eq] at h
    simp only [tset]
    split
    · simp only [tsorted, Bool.and_eq_true, decide_eq_true_eq]
      exact ⟨hk, by omega, h.2⟩
    · split
      · rename_i h2
        subst h2
        simp only [tsorted, Bool.and_eq_true, decide_eq_true_eq]
        exact h
      · simp only [tsorted, Bool.and_eq_true, decide_eq_true_eq]
        exact ⟨h.1, ih h.2 (by omega)⟩
theorem tsorted_tdel {t : Tbl α} {lo : Nat} (k : Nat) (h : tsorted lo t = true) : tsorted lo (tdel t k) = true := by
  induction t generalizing lo with
  | nil => rfl
  | cons e r ih =>
    obtain ⟨j, w⟩ := e
    have h' := h
    simp only [tsorted, Bool.and_eq_true, decide_eq_true_eq] at h
    simp only [tdel]
    split
    · exact h'
    · split
      · exact tsorted_mono h.2 (by omega)
      · simp only [tsorted, Bool.and_eq_true, decide_eq_true_eq]
        exact ⟨h.1, ih h.2⟩
theorem tget_tdel {t : Tbl α} {lo : Nat} (k k' : Nat) (h : tsorted lo t = true) : tget (tdel t k) k' = if k' = k then none else tget t k' := by
  induction t generalizing lo with
  | nil => simp [tdel]
  | cons e r ih =>
    obtain ⟨j, w⟩ := e
    simp only [tsorted, Bool.and_eq_true, decide_eq_true_eq] at h
    simp only [tdel]
    split
    · rename_i h1
      by_cases h2 : k' = k
      · simp [tget, h2, h1]
      · simp [h2]
    · split
      · rename_i h1 h2
        subst h2
        by_cases h3 : k' = k
        · simp [h3, tget_none_of_sorted h.2]
        · by_cases h4 : k' < k
          · simp [tget, h3, h4, tget_none_of_sorted h.2 (by omega : k' < k + 1)]
          · simp [tget, h3, h4]
      · rename_i h1 h2
        simp only [tget, ih h.2]
        by_cases h3 : k' = k
        · subst h3
          simp [h1, h2]
        · simp [h3]
theorem tset_all {p : Nat × α → Bool} {t : Tbl α} (k : Nat) (v : α) (h : t.all p = true) (hv : p (k, v) = true) : (tset t k v).all p = true := by
  induction t with
  | nil => simp [tset, hv]
  | cons e r ih =>
    obtain ⟨j, w⟩ := e
    simp only [List.all_cons, Bool.and_eq_true] at h
    simp only [tset]
    split
    · simp [hv, h.1, h.2]
    · split
      · simp [hv, h.2]
      · simp [h.1, ih h.2]
theorem tdel_all {p : Nat × α → Bool} {t : Tbl α} (k : Nat) (h : t.all p = true) : (tdel t k).all p = true := by
  induction t with
  | nil => rfl
  | cons e r ih =>
    obtain ⟨j, w⟩ := e
    have h' := h
    simp only [List.all_cons, Bool.and_eq_true] at h
    simp only [tdel]
    split
    · exact h'
    · split
      · exact h.2
      · simp [h.1, ih h.2]
variable [DecidableEq α]
theorem dwf_dset {d : α} {t : Tbl α} (k : Nat) (v : α) (h : dwf d t = true) : dwf d (dset d t k v) = true := by
  simp only [dwf, Bool.and_eq_true] at h ⊢
  unfold dset
  split
  · exact ⟨tsorted_tdel k h.1, tdel_all k h.2⟩
  · rename_i hv
    exact ⟨tsorted_tset k v h.1 (Nat.zero_le k), tset_all k v h.2 (by simp [hv])⟩
theorem dget_dset {d : α} {t : Tbl α} (k k' : Nat) (v : α) (h : dwf d t = true) : dget d (dset d t k v) k' = if k' = k then v else dget d t k' := by
  simp only [dwf, Bool.and_eq_true] at h
  unfold dset dget
  split
  · rename_i hv
    rw [tget_tdel k k' h.1]
    split <;> simp [hv]
  · rw [tget_tset]
    split <;> rfl

/-! ### Memory -/

theorem memPut_wf {m : List Host.Cell} (a : Nat) (b : Byte) (h : Memory.wf m = true) : Memory.wf (memPut m a b) = true := dwf_dset a b h
theorem memGet_memPut {m : List Host.Cell} (a a' : Nat) (b : Byte) (h : Memory.wf m = true) :
    memGet (memPut m a b) a' = if a' = a then b else memGet m a' := dget_dset a a' b h
theorem memPutN_wf {m : List Host.Cell} (a : Nat) (bs : List Byte) (h : Memory.wf m = true) : Memory.wf (memPutN m a bs) = true := by
  induction bs generalizing m a with
  | nil => exact h
  | cons b r ih => exact ih (a + 1) (memPut_wf a b h)
theorem memPutMask_wf {m : List Host.Cell} (a : Nat) (bs : List (Option Byte)) (h : Memory.wf m = true) : Memory.wf (memPutMask m a bs) = true := by
  induction bs generalizing m a with
  | nil => exact h
  | cons b r ih =>
    cases b with
    | none => exact ih (a + 1) h
    | some b => exact ih (a + 1) (memPut_wf a b h)

end Sys2Proof.Machine
end

