-- ==== Sys2Proof/Laws/State.lean ====
section
/-! SUPPORT. What each update of State leaves in each field, and how the actions of M run. -/
namespace Sys2Proof.Machine

variable (s : State)

@[simp] theorem State.setThr_mem (k : Nat) (t : Thread) : (s.setThr k t).mem = s.mem := rfl
@[simp] theorem State.setThr_hostMem (k : Nat) (t : Thread) : (s.setThr k t).hostMem = s.hostMem := rfl
@[simp] theorem State.setThr_now (k : Nat) (t : Thread) : (s.setThr k t).now = s.now := rfl
@[simp] theorem State.setThr_podTime (k : Nat) (t : Thread) : (s.setThr k t).podTime = s.podTime := rfl
@[simp] theorem State.setThr_podTick (k : Nat) (t : Thread) : (s.setThr k t).podTick = s.podTick := rfl
@[simp] theorem State.setThr_devno (k : Nat) (t : Thread) : (s.setThr k t).devno = s.devno := rfl
@[simp] theorem State.setThr_inPod (k : Nat) (t : Thread) : (s.setThr k t).inPod = s.inPod := rfl
@[simp] theorem State.setThr_free (k : Nat) (t : Thread) : (s.setThr k t).free = s.free := rfl
@[simp] theorem State.setThr_nextId (k : Nat) (t : Thread) : (s.setThr k t).nextId = s.nextId := rfl
@[simp] theorem State.setThr_agenda (k : Nat) (t : Thread) : (s.setThr k t).agenda = s.agenda := rfl
@[simp] theorem State.setThr_issueQ (k : Nat) (t : Thread) : (s.setThr k t).issueQ = s.issueQ := rfl
@[simp] theorem State.setThr_cur (k : Nat) (t : Thread) : (s.setThr k t).cur = s.cur := rfl
@[simp] theorem State.setThr_gangs (k : Nat) (t : Thread) : (s.setThr k t).gangs = s.gangs := rfl
@[simp] theorem State.setThr_threads (k : Nat) (t : Thread) : (s.setThr k t).threads = tset s.threads k t := rfl
@[simp] theorem State.setThr_teams (k : Nat) (t : Thread) : (s.setThr k t).teams = s.teams := rfl
@[simp] theorem State.setThr_cores (k : Nat) (t : Thread) : (s.setThr k t).cores = s.cores := rfl
@[simp] theorem State.setThr_clusters (k : Nat) (t : Thread) : (s.setThr k t).clusters = s.clusters := rfl
@[simp] theorem State.setThr_dies (k : Nat) (t : Thread) : (s.setThr k t).dies = s.dies := rfl
@[simp] theorem State.setThr_dir (k : Nat) (t : Thread) : (s.setThr k t).dir = s.dir := rfl
@[simp] theorem State.setThr_records (k : Nat) (t : Thread) : (s.setThr k t).records = s.records := rfl
@[simp] theorem State.setThr_sectors (k : Nat) (t : Thread) : (s.setThr k t).sectors = s.sectors := rfl
@[simp] theorem State.setThr_agents (k : Nat) (t : Thread) : (s.setThr k t).agents = s.agents := rfl
@[simp] theorem State.setThr_turns (k : Nat) (t : Thread) : (s.setThr k t).turns = s.turns := rfl
@[simp] theorem State.setThr_who (k : Nat) (t : Thread) : (s.setThr k t).who = s.who := rfl
@[simp] theorem State.setThr_peers (k : Nat) (t : Thread) : (s.setThr k t).peers = s.peers := rfl
@[simp] theorem State.setThr_peerCopies (k : Nat) (t : Thread) : (s.setThr k t).peerCopies = s.peerCopies := rfl
@[simp] theorem State.setThr_peerParts (k : Nat) (t : Thread) : (s.setThr k t).peerParts = s.peerParts := rfl
@[simp] theorem State.setThr_peerAcks (k : Nat) (t : Thread) : (s.setThr k t).peerAcks = s.peerAcks := rfl
@[simp] theorem State.setThr_scHeld (k : Nat) (t : Thread) : (s.setThr k t).scHeld = s.scHeld := rfl
@[simp] theorem State.setThr_portWait (k : Nat) (t : Thread) : (s.setThr k t).portWait = s.portWait := rfl
@[simp] theorem State.setThr_host (k : Nat) (t : Thread) : (s.setThr k t).host = s.host := rfl
@[simp] theorem State.setThr_belay (k : Nat) (t : Thread) : (s.setThr k t).belay = s.belay := rfl
@[simp] theorem State.setThr_fabric (k : Nat) (t : Thread) : (s.setThr k t).fabric = s.fabric := rfl
@[simp] theorem State.setThr_socket (k : Nat) (t : Thread) : (s.setThr k t).socket = s.socket := rfl
@[simp] theorem State.setThr_trust (k : Nat) (t : Thread) : (s.setThr k t).trust = s.trust := rfl
@[simp] theorem State.setThr_out (k : Nat) (t : Thread) : (s.setThr k t).out = s.out := rfl
@[simp] theorem State.modThr_mem (k : Nat) (f : Thread → Thread) : (s.modThr k f).mem = s.mem := rfl
@[simp] theorem State.modThr_hostMem (k : Nat) (f : Thread → Thread) : (s.modThr k f).hostMem = s.hostMem := rfl
@[simp] theorem State.modThr_now (k : Nat) (f : Thread → Thread) : (s.modThr k f).now = s.now := rfl
@[simp] theorem State.modThr_podTime (k : Nat) (f : Thread → Thread) : (s.modThr k f).podTime = s.podTime := rfl
@[simp] theorem State.modThr_podTick (k : Nat) (f : Thread → Thread) : (s.modThr k f).podTick = s.podTick := rfl
@[simp] theorem State.modThr_devno (k : Nat) (f : Thread → Thread) : (s.modThr k f).devno = s.devno := rfl
@[simp] theorem State.modThr_inPod (k : Nat) (f : Thread → Thread) : (s.modThr k f).inPod = s.inPod := rfl
@[simp] theorem State.modThr_free (k : Nat) (f : Thread → Thread) : (s.modThr k f).free = s.free := rfl
@[simp] theorem State.modThr_nextId (k : Nat) (f : Thread → Thread) : (s.modThr k f).nextId = s.nextId := rfl
@[simp] theorem State.modThr_agenda (k : Nat) (f : Thread → Thread) : (s.modThr k f).agenda = s.agenda := rfl
@[simp] theorem State.modThr_issueQ (k : Nat) (f : Thread → Thread) : (s.modThr k f).issueQ = s.issueQ := rfl
@[simp] theorem State.modThr_cur (k : Nat) (f : Thread → Thread) : (s.modThr k f).cur = s.cur := rfl
@[simp] theorem State.modThr_gangs (k : Nat) (f : Thread → Thread) : (s.modThr k f).gangs = s.gangs := rfl
@[simp] theorem State.modThr_threads (k : Nat) (f : Thread → Thread) : (s.modThr k f).threads = tmod s.threads k f := rfl
@[simp] theorem State.modThr_teams (k : Nat) (f : Thread → Thread) : (s.modThr k f).teams = s.teams := rfl
@[simp] theorem State.modThr_cores (k : Nat) (f : Thread → Thread) : (s.modThr k f).cores = s.cores := rfl
@[simp] theorem State.modThr_clusters (k : Nat) (f : Thread → Thread) : (s.modThr k f).clusters = s.clusters := rfl
@[simp] theorem State.modThr_dies (k : Nat) (f : Thread → Thread) : (s.modThr k f).dies = s.dies := rfl
@[simp] theorem State.modThr_dir (k : Nat) (f : Thread → Thread) : (s.modThr k f).dir = s.dir := rfl
@[simp] theorem State.modThr_records (k : Nat) (f : Thread → Thread) : (s.modThr k f).records = s.records := rfl
@[simp] theorem State.modThr_sectors (k : Nat) (f : Thread → Thread) : (s.modThr k f).sectors = s.sectors := rfl
@[simp] theorem State.modThr_agents (k : Nat) (f : Thread → Thread) : (s.modThr k f).agents = s.agents := rfl
@[simp] theorem State.modThr_turns (k : Nat) (f : Thread → Thread) : (s.modThr k f).turns = s.turns := rfl
@[simp] theorem State.modThr_who (k : Nat) (f : Thread → Thread) : (s.modThr k f).who = s.who := rfl
@[simp] theorem State.modThr_peers (k : Nat) (f : Thread → Thread) : (s.modThr k f).peers = s.peers := rfl
@[simp] theorem State.modThr_peerCopies (k : Nat) (f : Thread → Thread) : (s.modThr k f).peerCopies = s.peerCopies := rfl
@[simp] theorem State.modThr_peerParts (k : Nat) (f : Thread → Thread) : (s.modThr k f).peerParts = s.peerParts := rfl
@[simp] theorem State.modThr_peerAcks (k : Nat) (f : Thread → Thread) : (s.modThr k f).peerAcks = s.peerAcks := rfl
@[simp] theorem State.modThr_scHeld (k : Nat) (f : Thread → Thread) : (s.modThr k f).scHeld = s.scHeld := rfl
@[simp] theorem State.modThr_portWait (k : Nat) (f : Thread → Thread) : (s.modThr k f).portWait = s.portWait := rfl
@[simp] theorem State.modThr_host (k : Nat) (f : Thread → Thread) : (s.modThr k f).host = s.host := rfl
@[simp] theorem State.modThr_belay (k : Nat) (f : Thread → Thread) : (s.modThr k f).belay = s.belay := rfl
@[simp] theorem State.modThr_fabric (k : Nat) (f : Thread → Thread) : (s.modThr k f).fabric = s.fabric := rfl
@[simp] theorem State.modThr_socket (k : Nat) (f : Thread → Thread) : (s.modThr k f).socket = s.socket := rfl
@[simp] theorem State.modThr_trust (k : Nat) (f : Thread → Thread) : (s.modThr k f).trust = s.trust := rfl
@[simp] theorem State.modThr_out (k : Nat) (f : Thread → Thread) : (s.modThr k f).out = s.out := rfl
@[simp] theorem State.modTeam_mem (i : Nat) (f : Team → Team) : (s.modTeam i f).mem = s.mem := rfl
@[simp] theorem State.modTeam_hostMem (i : Nat) (f : Team → Team) : (s.modTeam i f).hostMem = s.hostMem := rfl
@[simp] theorem State.modTeam_now (i : Nat) (f : Team → Team) : (s.modTeam i f).now = s.now := rfl
@[simp] theorem State.modTeam_podTime (i : Nat) (f : Team → Team) : (s.modTeam i f).podTime = s.podTime := rfl
@[simp] theorem State.modTeam_podTick (i : Nat) (f : Team → Team) : (s.modTeam i f).podTick = s.podTick := rfl
@[simp] theorem State.modTeam_devno (i : Nat) (f : Team → Team) : (s.modTeam i f).devno = s.devno := rfl
@[simp] theorem State.modTeam_inPod (i : Nat) (f : Team → Team) : (s.modTeam i f).inPod = s.inPod := rfl
@[simp] theorem State.modTeam_free (i : Nat) (f : Team → Team) : (s.modTeam i f).free = s.free := rfl
@[simp] theorem State.modTeam_nextId (i : Nat) (f : Team → Team) : (s.modTeam i f).nextId = s.nextId := rfl
@[simp] theorem State.modTeam_agenda (i : Nat) (f : Team → Team) : (s.modTeam i f).agenda = s.agenda := rfl
@[simp] theorem State.modTeam_issueQ (i : Nat) (f : Team → Team) : (s.modTeam i f).issueQ = s.issueQ := rfl
@[simp] theorem State.modTeam_cur (i : Nat) (f : Team → Team) : (s.modTeam i f).cur = s.cur := rfl
@[simp] theorem State.modTeam_gangs (i : Nat) (f : Team → Team) : (s.modTeam i f).gangs = s.gangs := rfl
@[simp] theorem State.modTeam_threads (i : Nat) (f : Team → Team) : (s.modTeam i f).threads = s.threads := rfl
@[simp] theorem State.modTeam_teams (i : Nat) (f : Team → Team) : (s.modTeam i f).teams = tmod s.teams i f := rfl
@[simp] theorem State.modTeam_cores (i : Nat) (f : Team → Team) : (s.modTeam i f).cores = s.cores := rfl
@[simp] theorem State.modTeam_clusters (i : Nat) (f : Team → Team) : (s.modTeam i f).clusters = s.clusters := rfl
@[simp] theorem State.modTeam_dies (i : Nat) (f : Team → Team) : (s.modTeam i f).dies = s.dies := rfl
@[simp] theorem State.modTeam_dir (i : Nat) (f : Team → Team) : (s.modTeam i f).dir = s.dir := rfl
@[simp] theorem State.modTeam_records (i : Nat) (f : Team → Team) : (s.modTeam i f).records = s.records := rfl
@[simp] theorem State.modTeam_sectors (i : Nat) (f : Team → Team) : (s.modTeam i f).sectors = s.sectors := rfl
@[simp] theorem State.modTeam_agents (i : Nat) (f : Team → Team) : (s.modTeam i f).agents = s.agents := rfl
@[simp] theorem State.modTeam_turns (i : Nat) (f : Team → Team) : (s.modTeam i f).turns = s.turns := rfl
@[simp] theorem State.modTeam_who (i : Nat) (f : Team → Team) : (s.modTeam i f).who = s.who := rfl
@[simp] theorem State.modTeam_peers (i : Nat) (f : Team → Team) : (s.modTeam i f).peers = s.peers := rfl
@[simp] theorem State.modTeam_peerCopies (i : Nat) (f : Team → Team) : (s.modTeam i f).peerCopies = s.peerCopies := rfl
@[simp] theorem State.modTeam_peerParts (i : Nat) (f : Team → Team) : (s.modTeam i f).peerParts = s.peerParts := rfl
@[simp] theorem State.modTeam_peerAcks (i : Nat) (f : Team → Team) : (s.modTeam i f).peerAcks = s.peerAcks := rfl
@[simp] theorem State.modTeam_scHeld (i : Nat) (f : Team → Team) : (s.modTeam i f).scHeld = s.scHeld := rfl
@[simp] theorem State.modTeam_portWait (i : Nat) (f : Team → Team) : (s.modTeam i f).portWait = s.portWait := rfl
@[simp] theorem State.modTeam_host (i : Nat) (f : Team → Team) : (s.modTeam i f).host = s.host := rfl
@[simp] theorem State.modTeam_belay (i : Nat) (f : Team → Team) : (s.modTeam i f).belay = s.belay := rfl
@[simp] theorem State.modTeam_fabric (i : Nat) (f : Team → Team) : (s.modTeam i f).fabric = s.fabric := rfl
@[simp] theorem State.modTeam_socket (i : Nat) (f : Team → Team) : (s.modTeam i f).socket = s.socket := rfl
@[simp] theorem State.modTeam_trust (i : Nat) (f : Team → Team) : (s.modTeam i f).trust = s.trust := rfl
@[simp] theorem State.modTeam_out (i : Nat) (f : Team → Team) : (s.modTeam i f).out = s.out := rfl
@[simp] theorem State.modGang_mem (i : Nat) (f : Gang → Gang) : (s.modGang i f).mem = s.mem := rfl
@[simp] theorem State.modGang_hostMem (i : Nat) (f : Gang → Gang) : (s.modGang i f).hostMem = s.hostMem := rfl
@[simp] theorem State.modGang_now (i : Nat) (f : Gang → Gang) : (s.modGang i f).now = s.now := rfl
@[simp] theorem State.modGang_podTime (i : Nat) (f : Gang → Gang) : (s.modGang i f).podTime = s.podTime := rfl
@[simp] theorem State.modGang_podTick (i : Nat) (f : Gang → Gang) : (s.modGang i f).podTick = s.podTick := rfl
@[simp] theorem State.modGang_devno (i : Nat) (f : Gang → Gang) : (s.modGang i f).devno = s.devno := rfl
@[simp] theorem State.modGang_inPod (i : Nat) (f : Gang → Gang) : (s.modGang i f).inPod = s.inPod := rfl
@[simp] theorem State.modGang_free (i : Nat) (f : Gang → Gang) : (s.modGang i f).free = s.free := rfl
@[simp] theorem State.modGang_nextId (i : Nat) (f : Gang → Gang) : (s.modGang i f).nextId = s.nextId := rfl
@[simp] theorem State.modGang_agenda (i : Nat) (f : Gang → Gang) : (s.modGang i f).agenda = s.agenda := rfl
@[simp] theorem State.modGang_issueQ (i : Nat) (f : Gang → Gang) : (s.modGang i f).issueQ = s.issueQ := rfl
@[simp] theorem State.modGang_cur (i : Nat) (f : Gang → Gang) : (s.modGang i f).cur = s.cur := rfl
@[simp] theorem State.modGang_gangs (i : Nat) (f : Gang → Gang) : (s.modGang i f).gangs = tmod s.gangs i f := rfl
@[simp] theorem State.modGang_threads (i : Nat) (f : Gang → Gang) : (s.modGang i f).threads = s.threads := rfl
@[simp] theorem State.modGang_teams (i : Nat) (f : Gang → Gang) : (s.modGang i f).teams = s.teams := rfl
@[simp] theorem State.modGang_cores (i : Nat) (f : Gang → Gang) : (s.modGang i f).cores = s.cores := rfl
@[simp] theorem State.modGang_clusters (i : Nat) (f : Gang → Gang) : (s.modGang i f).clusters = s.clusters := rfl
@[simp] theorem State.modGang_dies (i : Nat) (f : Gang → Gang) : (s.modGang i f).dies = s.dies := rfl
@[simp] theorem State.modGang_dir (i : Nat) (f : Gang → Gang) : (s.modGang i f).dir = s.dir := rfl
@[simp] theorem State.modGang_records (i : Nat) (f : Gang → Gang) : (s.modGang i f).records = s.records := rfl
@[simp] theorem State.modGang_sectors (i : Nat) (f : Gang → Gang) : (s.modGang i f).sectors = s.sectors := rfl
@[simp] theorem State.modGang_agents (i : Nat) (f : Gang → Gang) : (s.modGang i f).agents = s.agents := rfl
@[simp] theorem State.modGang_turns (i : Nat) (f : Gang → Gang) : (s.modGang i f).turns = s.turns := rfl
@[simp] theorem State.modGang_who (i : Nat) (f : Gang → Gang) : (s.modGang i f).who = s.who := rfl
@[simp] theorem State.modGang_peers (i : Nat) (f : Gang → Gang) : (s.modGang i f).peers = s.peers := rfl
@[simp] theorem State.modGang_peerCopies (i : Nat) (f : Gang → Gang) : (s.modGang i f).peerCopies = s.peerCopies := rfl
@[simp] theorem State.modGang_peerParts (i : Nat) (f : Gang → Gang) : (s.modGang i f).peerParts = s.peerParts := rfl
@[simp] theorem State.modGang_peerAcks (i : Nat) (f : Gang → Gang) : (s.modGang i f).peerAcks = s.peerAcks := rfl
@[simp] theorem State.modGang_scHeld (i : Nat) (f : Gang → Gang) : (s.modGang i f).scHeld = s.scHeld := rfl
@[simp] theorem State.modGang_portWait (i : Nat) (f : Gang → Gang) : (s.modGang i f).portWait = s.portWait := rfl
@[simp] theorem State.modGang_host (i : Nat) (f : Gang → Gang) : (s.modGang i f).host = s.host := rfl
@[simp] theorem State.modGang_belay (i : Nat) (f : Gang → Gang) : (s.modGang i f).belay = s.belay := rfl
@[simp] theorem State.modGang_fabric (i : Nat) (f : Gang → Gang) : (s.modGang i f).fabric = s.fabric := rfl
@[simp] theorem State.modGang_socket (i : Nat) (f : Gang → Gang) : (s.modGang i f).socket = s.socket := rfl
@[simp] theorem State.modGang_trust (i : Nat) (f : Gang → Gang) : (s.modGang i f).trust = s.trust := rfl
@[simp] theorem State.modGang_out (i : Nat) (f : Gang → Gang) : (s.modGang i f).out = s.out := rfl
@[simp] theorem State.modCore_mem (c : Nat) (f : Core → Core) : (s.modCore c f).mem = s.mem := rfl
@[simp] theorem State.modCore_hostMem (c : Nat) (f : Core → Core) : (s.modCore c f).hostMem = s.hostMem := rfl
@[simp] theorem State.modCore_now (c : Nat) (f : Core → Core) : (s.modCore c f).now = s.now := rfl
@[simp] theorem State.modCore_podTime (c : Nat) (f : Core → Core) : (s.modCore c f).podTime = s.podTime := rfl
@[simp] theorem State.modCore_podTick (c : Nat) (f : Core → Core) : (s.modCore c f).podTick = s.podTick := rfl
@[simp] theorem State.modCore_devno (c : Nat) (f : Core → Core) : (s.modCore c f).devno = s.devno := rfl
@[simp] theorem State.modCore_inPod (c : Nat) (f : Core → Core) : (s.modCore c f).inPod = s.inPod := rfl
@[simp] theorem State.modCore_free (c : Nat) (f : Core → Core) : (s.modCore c f).free = s.free := rfl
@[simp] theorem State.modCore_nextId (c : Nat) (f : Core → Core) : (s.modCore c f).nextId = s.nextId := rfl
@[simp] theorem State.modCore_agenda (c : Nat) (f : Core → Core) : (s.modCore c f).agenda = s.agenda := rfl
@[simp] theorem State.modCore_issueQ (c : Nat) (f : Core → Core) : (s.modCore c f).issueQ = s.issueQ := rfl
@[simp] theorem State.modCore_cur (c : Nat) (f : Core → Core) : (s.modCore c f).cur = s.cur := rfl
@[simp] theorem State.modCore_gangs (c : Nat) (f : Core → Core) : (s.modCore c f).gangs = s.gangs := rfl
@[simp] theorem State.modCore_threads (c : Nat) (f : Core → Core) : (s.modCore c f).threads = s.threads := rfl
@[simp] theorem State.modCore_teams (c : Nat) (f : Core → Core) : (s.modCore c f).teams = s.teams := rfl
@[simp] theorem State.modCore_cores (c : Nat) (f : Core → Core) : (s.modCore c f).cores = tset s.cores c (f (s.core c)) := rfl
@[simp] theorem State.modCore_clusters (c : Nat) (f : Core → Core) : (s.modCore c f).clusters = s.clusters := rfl
@[simp] theorem State.modCore_dies (c : Nat) (f : Core → Core) : (s.modCore c f).dies = s.dies := rfl
@[simp] theorem State.modCore_dir (c : Nat) (f : Core → Core) : (s.modCore c f).dir = s.dir := rfl
@[simp] theorem State.modCore_records (c : Nat) (f : Core → Core) : (s.modCore c f).records = s.records := rfl
@[simp] theorem State.modCore_sectors (c : Nat) (f : Core → Core) : (s.modCore c f).sectors = s.sectors := rfl
@[simp] theorem State.modCore_agents (c : Nat) (f : Core → Core) : (s.modCore c f).agents = s.agents := rfl
@[simp] theorem State.modCore_turns (c : Nat) (f : Core → Core) : (s.modCore c f).turns = s.turns := rfl
@[simp] theorem State.modCore_who (c : Nat) (f : Core → Core) : (s.modCore c f).who = s.who := rfl
@[simp] theorem State.modCore_peers (c : Nat) (f : Core → Core) : (s.modCore c f).peers = s.peers := rfl
@[simp] theorem State.modCore_peerCopies (c : Nat) (f : Core → Core) : (s.modCore c f).peerCopies = s.peerCopies := rfl
@[simp] theorem State.modCore_peerParts (c : Nat) (f : Core → Core) : (s.modCore c f).peerParts = s.peerParts := rfl
@[simp] theorem State.modCore_peerAcks (c : Nat) (f : Core → Core) : (s.modCore c f).peerAcks = s.peerAcks := rfl
@[simp] theorem State.modCore_scHeld (c : Nat) (f : Core → Core) : (s.modCore c f).scHeld = s.scHeld := rfl
@[simp] theorem State.modCore_portWait (c : Nat) (f : Core → Core) : (s.modCore c f).portWait = s.portWait := rfl
@[simp] theorem State.modCore_host (c : Nat) (f : Core → Core) : (s.modCore c f).host = s.host := rfl
@[simp] theorem State.modCore_belay (c : Nat) (f : Core → Core) : (s.modCore c f).belay = s.belay := rfl
@[simp] theorem State.modCore_fabric (c : Nat) (f : Core → Core) : (s.modCore c f).fabric = s.fabric := rfl
@[simp] theorem State.modCore_socket (c : Nat) (f : Core → Core) : (s.modCore c f).socket = s.socket := rfl
@[simp] theorem State.modCore_trust (c : Nat) (f : Core → Core) : (s.modCore c f).trust = s.trust := rfl
@[simp] theorem State.modCore_out (c : Nat) (f : Core → Core) : (s.modCore c f).out = s.out := rfl
@[simp] theorem State.modCluster_mem (c : Nat) (f : Cluster → Cluster) : (s.modCluster c f).mem = s.mem := rfl
@[simp] theorem State.modCluster_hostMem (c : Nat) (f : Cluster → Cluster) : (s.modCluster c f).hostMem = s.hostMem := rfl
@[simp] theorem State.modCluster_now (c : Nat) (f : Cluster → Cluster) : (s.modCluster c f).now = s.now := rfl
@[simp] theorem State.modCluster_podTime (c : Nat) (f : Cluster → Cluster) : (s.modCluster c f).podTime = s.podTime := rfl
@[simp] theorem State.modCluster_podTick (c : Nat) (f : Cluster → Cluster) : (s.modCluster c f).podTick = s.podTick := rfl
@[simp] theorem State.modCluster_devno (c : Nat) (f : Cluster → Cluster) : (s.modCluster c f).devno = s.devno := rfl
@[simp] theorem State.modCluster_inPod (c : Nat) (f : Cluster → Cluster) : (s.modCluster c f).inPod = s.inPod := rfl
@[simp] theorem State.modCluster_free (c : Nat) (f : Cluster → Cluster) : (s.modCluster c f).free = s.free := rfl
@[simp] theorem State.modCluster_nextId (c : Nat) (f : Cluster → Cluster) : (s.modCluster c f).nextId = s.nextId := rfl
@[simp] theorem State.modCluster_agenda (c : Nat) (f : Cluster → Cluster) : (s.modCluster c f).agenda = s.agenda := rfl
@[simp] theorem State.modCluster_issueQ (c : Nat) (f : Cluster → Cluster) : (s.modCluster c f).issueQ = s.issueQ := rfl
@[simp] theorem State.modCluster_cur (c : Nat) (f : Cluster → Cluster) : (s.modCluster c f).cur = s.cur := rfl
@[simp] theorem State.modCluster_gangs (c : Nat) (f : Cluster → Cluster) : (s.modCluster c f).gangs = s.gangs := rfl
@[simp] theorem State.modCluster_threads (c : Nat) (f : Cluster → Cluster) : (s.modCluster c f).threads = s.threads := rfl
@[simp] theorem State.modCluster_teams (c : Nat) (f : Cluster → Cluster) : (s.modCluster c f).teams = s.teams := rfl
@[simp] theorem State.modCluster_cores (c : Nat) (f : Cluster → Cluster) : (s.modCluster c f).cores = s.cores := rfl
@[simp] theorem State.modCluster_clusters (c : Nat) (f : Cluster → Cluster) : (s.modCluster c f).clusters = tset s.clusters c (f (s.cluster c)) := rfl
@[simp] theorem State.modCluster_dies (c : Nat) (f : Cluster → Cluster) : (s.modCluster c f).dies = s.dies := rfl
@[simp] theorem State.modCluster_dir (c : Nat) (f : Cluster → Cluster) : (s.modCluster c f).dir = s.dir := rfl
@[simp] theorem State.modCluster_records (c : Nat) (f : Cluster → Cluster) : (s.modCluster c f).records = s.records := rfl
@[simp] theorem State.modCluster_sectors (c : Nat) (f : Cluster → Cluster) : (s.modCluster c f).sectors = s.sectors := rfl
@[simp] theorem State.modCluster_agents (c : Nat) (f : Cluster → Cluster) : (s.modCluster c f).agents = s.agents := rfl
@[simp] theorem State.modCluster_turns (c : Nat) (f : Cluster → Cluster) : (s.modCluster c f).turns = s.turns := rfl
@[simp] theorem State.modCluster_who (c : Nat) (f : Cluster → Cluster) : (s.modCluster c f).who = s.who := rfl
@[simp] theorem State.modCluster_peers (c : Nat) (f : Cluster → Cluster) : (s.modCluster c f).peers = s.peers := rfl
@[simp] theorem State.modCluster_peerCopies (c : Nat) (f : Cluster → Cluster) : (s.modCluster c f).peerCopies = s.peerCopies := rfl
@[simp] theorem State.modCluster_peerParts (c : Nat) (f : Cluster → Cluster) : (s.modCluster c f).peerParts = s.peerParts := rfl
@[simp] theorem State.modCluster_peerAcks (c : Nat) (f : Cluster → Cluster) : (s.modCluster c f).peerAcks = s.peerAcks := rfl
@[simp] theorem State.modCluster_scHeld (c : Nat) (f : Cluster → Cluster) : (s.modCluster c f).scHeld = s.scHeld := rfl
@[simp] theorem State.modCluster_portWait (c : Nat) (f : Cluster → Cluster) : (s.modCluster c f).portWait = s.portWait := rfl
@[simp] theorem State.modCluster_host (c : Nat) (f : Cluster → Cluster) : (s.modCluster c f).host = s.host := rfl
@[simp] theorem State.modCluster_belay (c : Nat) (f : Cluster → Cluster) : (s.modCluster c f).belay = s.belay := rfl
@[simp] theorem State.modCluster_fabric (c : Nat) (f : Cluster → Cluster) : (s.modCluster c f).fabric = s.fabric := rfl
@[simp] theorem State.modCluster_socket (c : Nat) (f : Cluster → Cluster) : (s.modCluster c f).socket = s.socket := rfl
@[simp] theorem State.modCluster_trust (c : Nat) (f : Cluster → Cluster) : (s.modCluster c f).trust = s.trust := rfl
@[simp] theorem State.modCluster_out (c : Nat) (f : Cluster → Cluster) : (s.modCluster c f).out = s.out := rfl
@[simp] theorem State.modDie_mem (c : Nat) (f : Stack → Stack) : (s.modDie c f).mem = s.mem := rfl
@[simp] theorem State.modDie_hostMem (c : Nat) (f : Stack → Stack) : (s.modDie c f).hostMem = s.hostMem := rfl
@[simp] theorem State.modDie_now (c : Nat) (f : Stack → Stack) : (s.modDie c f).now = s.now := rfl
@[simp] theorem State.modDie_podTime (c : Nat) (f : Stack → Stack) : (s.modDie c f).podTime = s.podTime := rfl
@[simp] theorem State.modDie_podTick (c : Nat) (f : Stack → Stack) : (s.modDie c f).podTick = s.podTick := rfl
@[simp] theorem State.modDie_devno (c : Nat) (f : Stack → Stack) : (s.modDie c f).devno = s.devno := rfl
@[simp] theorem State.modDie_inPod (c : Nat) (f : Stack → Stack) : (s.modDie c f).inPod = s.inPod := rfl
@[simp] theorem State.modDie_free (c : Nat) (f : Stack → Stack) : (s.modDie c f).free = s.free := rfl
@[simp] theorem State.modDie_nextId (c : Nat) (f : Stack → Stack) : (s.modDie c f).nextId = s.nextId := rfl
@[simp] theorem State.modDie_agenda (c : Nat) (f : Stack → Stack) : (s.modDie c f).agenda = s.agenda := rfl
@[simp] theorem State.modDie_issueQ (c : Nat) (f : Stack → Stack) : (s.modDie c f).issueQ = s.issueQ := rfl
@[simp] theorem State.modDie_cur (c : Nat) (f : Stack → Stack) : (s.modDie c f).cur = s.cur := rfl
@[simp] theorem State.modDie_gangs (c : Nat) (f : Stack → Stack) : (s.modDie c f).gangs = s.gangs := rfl
@[simp] theorem State.modDie_threads (c : Nat) (f : Stack → Stack) : (s.modDie c f).threads = s.threads := rfl
@[simp] theorem State.modDie_teams (c : Nat) (f : Stack → Stack) : (s.modDie c f).teams = s.teams := rfl
@[simp] theorem State.modDie_cores (c : Nat) (f : Stack → Stack) : (s.modDie c f).cores = s.cores := rfl
@[simp] theorem State.modDie_clusters (c : Nat) (f : Stack → Stack) : (s.modDie c f).clusters = s.clusters := rfl
@[simp] theorem State.modDie_dies (c : Nat) (f : Stack → Stack) : (s.modDie c f).dies = tset s.dies c (f (s.die c)) := rfl
@[simp] theorem State.modDie_dir (c : Nat) (f : Stack → Stack) : (s.modDie c f).dir = s.dir := rfl
@[simp] theorem State.modDie_records (c : Nat) (f : Stack → Stack) : (s.modDie c f).records = s.records := rfl
@[simp] theorem State.modDie_sectors (c : Nat) (f : Stack → Stack) : (s.modDie c f).sectors = s.sectors := rfl
@[simp] theorem State.modDie_agents (c : Nat) (f : Stack → Stack) : (s.modDie c f).agents = s.agents := rfl
@[simp] theorem State.modDie_turns (c : Nat) (f : Stack → Stack) : (s.modDie c f).turns = s.turns := rfl
@[simp] theorem State.modDie_who (c : Nat) (f : Stack → Stack) : (s.modDie c f).who = s.who := rfl
@[simp] theorem State.modDie_peers (c : Nat) (f : Stack → Stack) : (s.modDie c f).peers = s.peers := rfl
@[simp] theorem State.modDie_peerCopies (c : Nat) (f : Stack → Stack) : (s.modDie c f).peerCopies = s.peerCopies := rfl
@[simp] theorem State.modDie_peerParts (c : Nat) (f : Stack → Stack) : (s.modDie c f).peerParts = s.peerParts := rfl
@[simp] theorem State.modDie_peerAcks (c : Nat) (f : Stack → Stack) : (s.modDie c f).peerAcks = s.peerAcks := rfl
@[simp] theorem State.modDie_scHeld (c : Nat) (f : Stack → Stack) : (s.modDie c f).scHeld = s.scHeld := rfl
@[simp] theorem State.modDie_portWait (c : Nat) (f : Stack → Stack) : (s.modDie c f).portWait = s.portWait := rfl
@[simp] theorem State.modDie_host (c : Nat) (f : Stack → Stack) : (s.modDie c f).host = s.host := rfl
@[simp] theorem State.modDie_belay (c : Nat) (f : Stack → Stack) : (s.modDie c f).belay = s.belay := rfl
@[simp] theorem State.modDie_fabric (c : Nat) (f : Stack → Stack) : (s.modDie c f).fabric = s.fabric := rfl
@[simp] theorem State.modDie_socket (c : Nat) (f : Stack → Stack) : (s.modDie c f).socket = s.socket := rfl
@[simp] theorem State.modDie_trust (c : Nat) (f : Stack → Stack) : (s.modDie c f).trust = s.trust := rfl
@[simp] theorem State.modDie_out (c : Nat) (f : Stack → Stack) : (s.modDie c f).out = s.out := rfl
@[simp] theorem State.modLaunch_mem (i : Nat) (f : Launch → Launch) : (s.modLaunch i f).mem = s.mem := rfl
@[simp] theorem State.modLaunch_hostMem (i : Nat) (f : Launch → Launch) : (s.modLaunch i f).hostMem = s.hostMem := rfl
@[simp] theorem State.modLaunch_now (i : Nat) (f : Launch → Launch) : (s.modLaunch i f).now = s.now := rfl
@[simp] theorem State.modLaunch_podTime (i : Nat) (f : Launch → Launch) : (s.modLaunch i f).podTime = s.podTime := rfl
@[simp] theorem State.modLaunch_podTick (i : Nat) (f : Launch → Launch) : (s.modLaunch i f).podTick = s.podTick := rfl
@[simp] theorem State.modLaunch_devno (i : Nat) (f : Launch → Launch) : (s.modLaunch i f).devno = s.devno := rfl
@[simp] theorem State.modLaunch_inPod (i : Nat) (f : Launch → Launch) : (s.modLaunch i f).inPod = s.inPod := rfl
@[simp] theorem State.modLaunch_free (i : Nat) (f : Launch → Launch) : (s.modLaunch i f).free = s.free := rfl
@[simp] theorem State.modLaunch_nextId (i : Nat) (f : Launch → Launch) : (s.modLaunch i f).nextId = s.nextId := rfl
@[simp] theorem State.modLaunch_agenda (i : Nat) (f : Launch → Launch) : (s.modLaunch i f).agenda = s.agenda := rfl
@[simp] theorem State.modLaunch_issueQ (i : Nat) (f : Launch → Launch) : (s.modLaunch i f).issueQ = s.issueQ := rfl
@[simp] theorem State.modLaunch_cur (i : Nat) (f : Launch → Launch) : (s.modLaunch i f).cur = s.cur := rfl
@[simp] theorem State.modLaunch_gangs (i : Nat) (f : Launch → Launch) : (s.modLaunch i f).gangs = s.gangs := rfl
@[simp] theorem State.modLaunch_threads (i : Nat) (f : Launch → Launch) : (s.modLaunch i f).threads = s.threads := rfl
@[simp] theorem State.modLaunch_teams (i : Nat) (f : Launch → Launch) : (s.modLaunch i f).teams = s.teams := rfl
@[simp] theorem State.modLaunch_cores (i : Nat) (f : Launch → Launch) : (s.modLaunch i f).cores = s.cores := rfl
@[simp] theorem State.modLaunch_clusters (i : Nat) (f : Launch → Launch) : (s.modLaunch i f).clusters = s.clusters := rfl
@[simp] theorem State.modLaunch_dies (i : Nat) (f : Launch → Launch) : (s.modLaunch i f).dies = s.dies := rfl
@[simp] theorem State.modLaunch_dir (i : Nat) (f : Launch → Launch) : (s.modLaunch i f).dir = s.dir := rfl
@[simp] theorem State.modLaunch_records (i : Nat) (f : Launch → Launch) : (s.modLaunch i f).records = s.records := rfl
@[simp] theorem State.modLaunch_sectors (i : Nat) (f : Launch → Launch) : (s.modLaunch i f).sectors = s.sectors := rfl
@[simp] theorem State.modLaunch_agents (i : Nat) (f : Launch → Launch) : (s.modLaunch i f).agents = s.agents := rfl
@[simp] theorem State.modLaunch_turns (i : Nat) (f : Launch → Launch) : (s.modLaunch i f).turns = s.turns := rfl
@[simp] theorem State.modLaunch_who (i : Nat) (f : Launch → Launch) : (s.modLaunch i f).who = s.who := rfl
@[simp] theorem State.modLaunch_peers (i : Nat) (f : Launch → Launch) : (s.modLaunch i f).peers = s.peers := rfl
@[simp] theorem State.modLaunch_peerCopies (i : Nat) (f : Launch → Launch) : (s.modLaunch i f).peerCopies = s.peerCopies := rfl
@[simp] theorem State.modLaunch_peerParts (i : Nat) (f : Launch → Launch) : (s.modLaunch i f).peerParts = s.peerParts := rfl
@[simp] theorem State.modLaunch_peerAcks (i : Nat) (f : Launch → Launch) : (s.modLaunch i f).peerAcks = s.peerAcks := rfl
@[simp] theorem State.modLaunch_scHeld (i : Nat) (f : Launch → Launch) : (s.modLaunch i f).scHeld = s.scHeld := rfl
@[simp] theorem State.modLaunch_portWait (i : Nat) (f : Launch → Launch) : (s.modLaunch i f).portWait = s.portWait := rfl
@[simp] theorem State.modLaunch_host (i : Nat) (f : Launch → Launch) : (s.modLaunch i f).host = { s.host with launches := tmod s.host.launches i f } := rfl
@[simp] theorem State.modLaunch_belay (i : Nat) (f : Launch → Launch) : (s.modLaunch i f).belay = s.belay := rfl
@[simp] theorem State.modLaunch_fabric (i : Nat) (f : Launch → Launch) : (s.modLaunch i f).fabric = s.fabric := rfl
@[simp] theorem State.modLaunch_socket (i : Nat) (f : Launch → Launch) : (s.modLaunch i f).socket = s.socket := rfl
@[simp] theorem State.modLaunch_trust (i : Nat) (f : Launch → Launch) : (s.modLaunch i f).trust = s.trust := rfl
@[simp] theorem State.modLaunch_out (i : Nat) (f : Launch → Launch) : (s.modLaunch i f).out = s.out := rfl
@[simp] theorem State.emit_mem (m : OutMsg) : (s.emit m).mem = s.mem := rfl
@[simp] theorem State.emit_hostMem (m : OutMsg) : (s.emit m).hostMem = s.hostMem := rfl
@[simp] theorem State.emit_now (m : OutMsg) : (s.emit m).now = s.now := rfl
@[simp] theorem State.emit_podTime (m : OutMsg) : (s.emit m).podTime = s.podTime := rfl
@[simp] theorem State.emit_podTick (m : OutMsg) : (s.emit m).podTick = s.podTick := rfl
@[simp] theorem State.emit_devno (m : OutMsg) : (s.emit m).devno = s.devno := rfl
@[simp] theorem State.emit_inPod (m : OutMsg) : (s.emit m).inPod = s.inPod := rfl
@[simp] theorem State.emit_free (m : OutMsg) : (s.emit m).free = s.free := rfl
@[simp] theorem State.emit_nextId (m : OutMsg) : (s.emit m).nextId = s.nextId := rfl
@[simp] theorem State.emit_agenda (m : OutMsg) : (s.emit m).agenda = s.agenda := rfl
@[simp] theorem State.emit_issueQ (m : OutMsg) : (s.emit m).issueQ = s.issueQ := rfl
@[simp] theorem State.emit_cur (m : OutMsg) : (s.emit m).cur = s.cur := rfl
@[simp] theorem State.emit_gangs (m : OutMsg) : (s.emit m).gangs = s.gangs := rfl
@[simp] theorem State.emit_threads (m : OutMsg) : (s.emit m).threads = s.threads := rfl
@[simp] theorem State.emit_teams (m : OutMsg) : (s.emit m).teams = s.teams := rfl
@[simp] theorem State.emit_cores (m : OutMsg) : (s.emit m).cores = s.cores := rfl
@[simp] theorem State.emit_clusters (m : OutMsg) : (s.emit m).clusters = s.clusters := rfl
@[simp] theorem State.emit_dies (m : OutMsg) : (s.emit m).dies = s.dies := rfl
@[simp] theorem State.emit_dir (m : OutMsg) : (s.emit m).dir = s.dir := rfl
@[simp] theorem State.emit_records (m : OutMsg) : (s.emit m).records = s.records := rfl
@[simp] theorem State.emit_sectors (m : OutMsg) : (s.emit m).sectors = s.sectors := rfl
@[simp] theorem State.emit_agents (m : OutMsg) : (s.emit m).agents = s.agents := rfl
@[simp] theorem State.emit_turns (m : OutMsg) : (s.emit m).turns = s.turns := rfl
@[simp] theorem State.emit_who (m : OutMsg) : (s.emit m).who = s.who := rfl
@[simp] theorem State.emit_peers (m : OutMsg) : (s.emit m).peers = s.peers := rfl
@[simp] theorem State.emit_peerCopies (m : OutMsg) : (s.emit m).peerCopies = s.peerCopies := rfl
@[simp] theorem State.emit_peerParts (m : OutMsg) : (s.emit m).peerParts = s.peerParts := rfl
@[simp] theorem State.emit_peerAcks (m : OutMsg) : (s.emit m).peerAcks = s.peerAcks := rfl
@[simp] theorem State.emit_scHeld (m : OutMsg) : (s.emit m).scHeld = s.scHeld := rfl
@[simp] theorem State.emit_portWait (m : OutMsg) : (s.emit m).portWait = s.portWait := rfl
@[simp] theorem State.emit_host (m : OutMsg) : (s.emit m).host = s.host := rfl
@[simp] theorem State.emit_belay (m : OutMsg) : (s.emit m).belay = s.belay := rfl
@[simp] theorem State.emit_fabric (m : OutMsg) : (s.emit m).fabric = s.fabric := rfl
@[simp] theorem State.emit_socket (m : OutMsg) : (s.emit m).socket = s.socket := rfl
@[simp] theorem State.emit_trust (m : OutMsg) : (s.emit m).trust = s.trust := rfl
@[simp] theorem State.emit_out (m : OutMsg) : (s.emit m).out = s.out ++ [m] := rfl

/-! ### Actions -/

theorem M.run_bind {α β : Type} (m : M α) (f : α → M β) (s : State) :
    (m >>= f) s = match m s with
      | (.ok a, s') => f a s'
      | (.error e, s') => (.error e, s') := by
  show (ExceptT.bind m f : StateM State _) s = _
  unfold ExceptT.bind ExceptT.mk
  show (ExceptT.bindCont f (m s).1 : StateM State _) (m s).2 = _
  cases m s with
  | mk r s' => cases r <;> rfl
@[simp] theorem M.run_pure {α : Type} (a : α) (s : State) : (pure a : M α) s = (.ok a, s) := rfl
@[simp] theorem M.run_get (s : State) : (get : M State) s = (.ok s, s) := rfl
@[simp] theorem M.run_set (s' s : State) : (set s' : M Unit) s = (.ok (), s') := rfl
@[simp] theorem M.run_modify (f : State → State) (s : State) : (modify f : M Unit) s = (.ok (), f s) := rfl
@[simp] theorem M.run_throw {α : Type} (e : Stop) (s : State) : (throw e : M α) s = (.error e, s) := rfl
theorem M.bind_ok {α β : Type} {m : M α} {f : α → M β} {s s' : State} {a : α} (h : m s = (.ok a, s')) : (m >>= f) s = f a s' := by
  rw [M.run_bind, h]
theorem M.bind_error {α β : Type} {m : M α} {f : α → M β} {s s' : State} {e : Stop} (h : m s = (.error e, s')) : (m >>= f) s = (.error e, s') := by
  rw [M.run_bind, h]
@[simp] theorem M.run_view {α : Type} (f : State → α) (s : State) : view f s = (.ok (f s), s) := rfl
@[simp] theorem M.run_getT (k : Nat) (s : State) : getT k s = (.ok (s.thr k), s) := rfl
@[simp] theorem M.run_modT (k : Nat) (f : Thread → Thread) (s : State) : modT k f s = (.ok (), s.modThr k f) := rfl
@[simp] theorem M.run_modTm (i : Nat) (f : Team → Team) (s : State) : modTm i f s = (.ok (), s.modTeam i f) := rfl
@[simp] theorem M.run_freeM (s : State) : freeM s = (.ok (Config.freeNat s.free), { s with free := s.free + 1 }) := rfl
@[simp] theorem M.run_newId (s : State) : newId s = (.ok s.nextId, { s with nextId := s.nextId + 1 }) := rfl
@[simp] theorem M.run_holdM {α : Type} (s : State) : (holdM : M α) s = (.error .hold, s) := rfl
@[simp] theorem M.run_trapC {α : Type} (c : Nat) (s : State) : (trapC c : M α) s = (.error (.trap c 0 0 0 0 0), s) := rfl
@[simp] theorem M.run_trapAt {α : Type} (c : Nat) (a : Word) (s : State) : (trapAt c a : M α) s = (.error (.trap c 0 a 0 0 0), s) := rfl
@[simp] theorem M.forM'_nil {α : Type} (f : α → M Unit) (s : State) : forM' [] f s = (.ok (), s) := rfl
@[simp] theorem M.forM'_cons {α : Type} (a : α) (l : List α) (f : α → M Unit) : forM' (a :: l) f = f a >>= fun _ => forM' l f := rfl

/-! ### Threads by key -/

theorem State.thr_of_some {s : State} {k : Nat} {t : Thread} (h : tget s.threads k = some t) : s.thr k = t := by
  simp [State.thr, h]
theorem State.thr_setThr (k k' : Nat) (t : Thread) : (s.setThr k t).thr k' = if k' = k then t else s.thr k' := by
  simp only [State.thr, State.setThr, tget_tset]
  split <;> rfl
theorem State.thr_modThr {s : State} {k : Nat} {t : Thread} (f : Thread → Thread) (h : tget s.threads k = some t) (k' : Nat) :
    (s.modThr k f).thr k' = if k' = k then f t else s.thr k' := by
  simp only [State.thr, State.modThr, tmod_of_some f h, tget_tset]
  split <;> rfl
theorem State.modThr_of_some {s : State} {k : Nat} {t : Thread} (f : Thread → Thread) (h : tget s.threads k = some t) : s.modThr k f = s.setThr k (f t) := by
  simp [State.modThr, State.setThr, tmod_of_some f h]

end Sys2Proof.Machine
end

