-- ==== Sys2Proof/Laws/Issue.lean ====
section
/-! SUPPORT. What a gang's word does, said once: the word of a gang of one thread, and the outcomes that no word has. -/
namespace Sys2Proof.Machine

theorem runPart_ok {α : Type} {k : Nat} {m : M α} {s s' : State} {a : α} (h : m s = (.ok a, s')) : runPart k m s = (.ok a, s') := by
  simp [runPart, h]
theorem readPred_state {k n : Nat} {s s' : State} {r : Except Stop Bool} (h : readPred k n s = (r, s')) : s' = s := by
  unfold readPred at h
  revert h
  split
  · intro h
    cases h
    rfl
  · simp only [M.run_bind, M.run_getT]
    split
    · split
      · intro h
        cases h
        rfl
      · intro h
        cases h
        rfl
    · intro h
      cases h
      rfl
theorem guardOf_state {k : Nat} {g : Guard} {s s' : State} {r : Except Stop Bool} (h : guardOf k g s = (r, s')) : s' = s := by
  unfold guardOf at h
  rw [M.run_bind] at h
  cases hp : readPred k g.pred.toNat s with
  | mk r1 s1 =>
    rw [hp] at h
    have := readPred_state hp
    cases r1 <;> cases h <;> exact this

variable {α : Type} {m : Meta} {h : Hdr} {s s1 s2 : State} {gid k : Nat} {g : Gang}

/-- A word of a gang of one thread that passes the checks and whose guard is true: its operands are read, its effect is done, the gang moves on (R13, R27, R28). -/
theorem runWordX_one {f : Nat → M α} {body : List (Nat × α) → Nat → α → M Unit} {a : α}
    (hc : s.cur = some gid) (hg : tget s.gangs gid = some g) (ht : g.tries = false) (hm : g.members = [k]) (hd : g.done = []) (hn : g.count < 24)
    (hs : s.serial k = false) (hv : (m.var && s.full k h.sc.toNat) = false) (hp : preCheck m k s = (.ok (), s)) (hgd : guardOf k h.guard s = (.ok true, s))
    (hf : f k s = (.ok a, s1)) (hb : body [(k, a)] k a s1 = (.ok (), s2)) :
    runWordX m h f body s = .next (advance gid g [] m.words (if m.var then 1 else h.sc.toNat + 1) s2) := by
  have hga : runPart k (do
      preCheck m k
      let x ← guardOf k h.guard
      if x then
        let a ← f k
        return some a
      else return none) s = (.ok (some a), s1) := by
    apply runPart_ok
    rw [M.bind_ok hp, M.bind_ok hgd]
    simp only [if_true, M.bind_ok hf, M.run_pure]
  have hn' : ¬ 24 ≤ g.count := by omega
  simp only [runWordX, hc, hg, ht, hm, hd, List.filter, List.contains_nil, Bool.not_false, List.any_cons, List.any_nil, hs, hv, Bool.or_false,
    hn', if_false, List.foldl_cons, List.foldl_nil, Run.gather, hga, Bool.false_eq_true, Bool.and_false, Bool.false_and, List.nil_append, ite_self,
    Run.act, Run.actAll, Run.share, Run.anyHeld, Run.giveBack, afterWord, runPart_ok hb, List.map_nil, M.forM'_nil]
theorem runWord_one {body : Nat → M Unit}
    (hc : s.cur = some gid) (hg : tget s.gangs gid = some g) (ht : g.tries = false) (hm : g.members = [k]) (hd : g.done = []) (hn : g.count < 24)
    (hs : s.serial k = false) (hv : (m.var && s.full k h.sc.toNat) = false) (hp : preCheck m k s = (.ok (), s)) (hgd : guardOf k h.guard s = (.ok true, s))
    (hb : body k s = (.ok (), s2)) :
    runWord m h body s = .next (advance gid g [] m.words (if m.var then 1 else h.sc.toNat + 1) s2) :=
  runWordX_one (f := fun _ => pure ()) hc hg ht hm hd hn hs hv hp hgd rfl hb

/-! ### Words and events always answer a next state -/

theorem runEvent_next (x : M Unit) : runEvent x s = .next (x s).2 := rfl
theorem runWordX_next {f : Nat → M α} {body : List (Nat × α) → Nat → α → M Unit} : ∃ t, runWordX m h f body s = .next t := by
  unfold runWordX
  split
  · exact ⟨_, rfl⟩
  · split
    · exact ⟨_, rfl⟩
    · simp only
      split <;> exact ⟨_, rfl⟩
theorem runWord_next {body : Nat → M Unit} : ∃ t, runWord m h body s = .next t := runWordX_next

end Sys2Proof.Machine
end

