-- ==== Sys2Proof/Laws/PerInstr.lean ====
section
/-! SUPPORT. For every instruction: the opcode of its encoding is one of the map's, and the form that the map gives for it makes the instruction from its fields. -/
namespace Sys2Proof.Laws
open Sys2Proof

/-- The instruction that a form of the opcode map makes from fields of its own shape. -/
def Encoding.madeBy : OpForm → Fields → Option Instr
  | .a mk, .a f => some (mk f)
  | .m mk, .m f => some (mk f)
  | .p mk, .p f => some (mk f)
  | .pm mk, .pm f => some (mk f)
  | .q mk, .q f => some (mk f)
  | .r mk, .r f => some (mk f)
  | .vm mk, .vm f => some (mk f)
  | .l mk, .l f => some (mk f)
  | .j mk, .j f => some (mk f)
  | .t mk, .t f => some (mk f)
  | _, _ => none
/-- What is shown of each instruction: its opcode is no modifier's, and the map reads it back. -/
def Encoding.Statement (i : Instr) : Prop :=
  ∀ op f, wordOf i = some (op, f) → i.WellFormed → op < 1024 ∧ op ≠ opModifier ∧ ((opForm op).bind fun fm => Encoding.madeBy fm f) = some i
/-- An immediate that stands between a bound and itself. -/
theorem Encoding.imm_of {o : Operand} (k : Nat) (z : Int) (hk : k < 4096) (hz : z = k) (h : Machine.immIn z z o = true) : o = .imm (BitVec.ofNat 13 k) := by
  cases o with
  | imm v =>
    simp only [Machine.immIn, Machine.immOf, Machine.toS, Bool.and_eq_true, decide_eq_true_eq] at h
    have := v.isLt
    obtain ⟨h1, h2⟩ := h
    congr 1
    apply BitVec.eq_of_toNat_eq
    simp only [BitVec.toNat_ofNat]
    have e : Machine.low 13 v.toNat = v.toNat := Nat.mod_eq_of_lt this
    by_cases c : 2 * Machine.low 13 v.toNat < 2 ^ 13
    · rw [if_pos c] at h1 h2
      omega
    · rw [if_neg c] at h1 h2
      omega
  | _ => simp [Machine.immIn, Machine.immOf] at h
/-- An event has no word. -/
theorem Encoding.statement_of_event {i : Instr} (h : wordOf i = none) : Encoding.Statement i := fun _ _ e => by rw [h] at e; cases e

theorem Encoding.iadd (t : IType) (f : FmtM) : Encoding.Statement (.iadd t f) := by
  intro op fl h _
  cases h
  cases t <;> exact ⟨by decide, by decide, rfl⟩
theorem Encoding.isub (t : IType) (f : FmtM) : Encoding.Statement (.isub t f) := by
  intro op fl h _
  cases h
  cases t <;> exact ⟨by decide, by decide, rfl⟩
theorem Encoding.imul (t : IType) (f : FmtM) : Encoding.Statement (.imul t f) := by
  intro op fl h _
  cases h
  cases t <;> exact ⟨by decide, by decide, rfl⟩
theorem Encoding.imulh (t : IType) (f : FmtA) : Encoding.Statement (.imulh t f) := by
  intro op fl h _
  cases h
  cases t <;> exact ⟨by decide, by decide, rfl⟩
theorem Encoding.imad (t : IType) (f : FmtM) : Encoding.Statement (.imad t f) := by
  intro op fl h _
  cases h
  cases t <;> exact ⟨by decide, by decide, rfl⟩
theorem Encoding.idiv (t : IType) (f : FmtA) : Encoding.Statement (.idiv t f) := by
  intro op fl h _
  cases h
  cases t <;> exact ⟨by decide, by decide, rfl⟩
theorem Encoding.irem (t : IType) (f : FmtA) : Encoding.Statement (.irem t f) := by
  intro op fl h _
  cases h
  cases t <;> exact ⟨by decide, by decide, rfl⟩
theorem Encoding.imin (t : IType) (f : FmtA) : Encoding.Statement (.imin t f) := by
  intro op fl h _
  cases h
  cases t <;> exact ⟨by decide, by decide, rfl⟩
theorem Encoding.imax (t : IType) (f : FmtA) : Encoding.Statement (.imax t f) := by
  intro op fl h _
  cases h
  cases t <;> exact ⟨by decide, by decide, rfl⟩
theorem Encoding.iabs (t : IType) (f : FmtM) : Encoding.Statement (.iabs t f) := by
  intro op fl h _
  cases h
  cases t <;> exact ⟨by decide, by decide, rfl⟩
theorem Encoding.ineg (t : IType) (f : FmtM) : Encoding.Statement (.ineg t f) := by
  intro op fl h _
  cases h
  cases t <;> exact ⟨by decide, by decide, rfl⟩
theorem Encoding.icmp (t : IType) (f : FmtP) : Encoding.Statement (.icmp t f) := by
  intro op fl h _
  cases h
  cases t <;> exact ⟨by decide, by decide, rfl⟩
theorem Encoding.sxt (f : FmtA) : Encoding.Statement (.sxt f) := by
  intro op fl h _
  cases h
  exact ⟨by decide, by decide, rfl⟩
theorem Encoding.zxt (f : FmtA) : Encoding.Statement (.zxt f) := by
  intro op fl h _
  cases h
  exact ⟨by decide, by decide, rfl⟩
theorem Encoding.mov (f : FmtA) : Encoding.Statement (.mov f) := by
  intro op fl h _
  cases h
  exact ⟨by decide, by decide, rfl⟩
theorem Encoding.movi (f : FmtL) : Encoding.Statement (.movi f) := by
  intro op fl h _
  cases h
  exact ⟨by decide, by decide, rfl⟩
theorem Encoding.lea (f : FmtA) : Encoding.Statement (.lea f) := by
  intro op fl h _
  cases h
  exact ⟨by decide, by decide, rfl⟩
theorem Encoding.isel (f : FmtM) : Encoding.Statement (.isel f) := by
  intro op fl h _
  cases h
  exact ⟨by decide, by decide, rfl⟩
theorem Encoding.shl (f : FmtA) : Encoding.Statement (.shl f) := by
  intro op fl h _
  cases h
  exact ⟨by decide, by decide, rfl⟩
theorem Encoding.shr (f : FmtA) : Encoding.Statement (.shr f) := by
  intro op fl h _
  cases h
  exact ⟨by decide, by decide, rfl⟩
theorem Encoding.sar (f : FmtA) : Encoding.Statement (.sar f) := by
  intro op fl h _
  cases h
  exact ⟨by decide, by decide, rfl⟩
theorem Encoding.rot (f : FmtA) : Encoding.Statement (.rot f) := by
  intro op fl h _
  cases h
  exact ⟨by decide, by decide, rfl⟩
theorem Encoding.land (f : FmtA) : Encoding.Statement (.land f) := by
  intro op fl h _
  cases h
  exact ⟨by decide, by decide, rfl⟩
theorem Encoding.lor (f : FmtA) : Encoding.Statement (.lor f) := by
  intro op fl h _
  cases h
  exact ⟨by decide, by decide, rfl⟩
theorem Encoding.lxor (f : FmtA) : Encoding.Statement (.lxor f) := by
  intro op fl h _
  cases h
  exact ⟨by decide, by decide, rfl⟩
theorem Encoding.landn (f : FmtA) : Encoding.Statement (.landn f) := by
  intro op fl h _
  cases h
  exact ⟨by decide, by decide, rfl⟩
theorem Encoding.popc (f : FmtA) : Encoding.Statement (.popc f) := by
  intro op fl h _
  cases h
  exact ⟨by decide, by decide, rfl⟩
theorem Encoding.clz (f : FmtA) : Encoding.Statement (.clz f) := by
  intro op fl h _
  cases h
  exact ⟨by decide, by decide, rfl⟩
theorem Encoding.ctz (f : FmtA) : Encoding.Statement (.ctz f) := by
  intro op fl h _
  cases h
  exact ⟨by decide, by decide, rfl⟩
theorem Encoding.brev (f : FmtA) : Encoding.Statement (.brev f) := by
  intro op fl h _
  cases h
  exact ⟨by decide, by decide, rfl⟩
theorem Encoding.bfxS (f : FmtM) : Encoding.Statement (.bfxS f) := by
  intro op fl h _
  cases h
  exact ⟨by decide, by decide, rfl⟩
theorem Encoding.bfxZ (f : FmtM) : Encoding.Statement (.bfxZ f) := by
  intro op fl h _
  cases h
  exact ⟨by decide, by decide, rfl⟩
theorem Encoding.bfi (f : FmtM) : Encoding.Statement (.bfi f) := by
  intro op fl h _
  cases h
  exact ⟨by decide, by decide, rfl⟩
theorem Encoding.ffcs (f : FmtA) : Encoding.Statement (.ffcs f) := by
  intro op fl h _
  cases h
  exact ⟨by decide, by decide, rfl⟩
theorem Encoding.plset (f : FmtA) : Encoding.Statement (.plset f) := by
  intro op fl h _
  cases h
  exact ⟨by decide, by decide, rfl⟩
theorem Encoding.perm (f : FmtA) : Encoding.Statement (.perm f) := by
  intro op fl h _
  cases h
  exact ⟨by decide, by decide, rfl⟩
theorem Encoding.pset (f : FmtP) : Encoding.Statement (.pset f) := by
  intro op fl h _
  cases h
  exact ⟨by decide, by decide, rfl⟩
theorem Encoding.pand (f : FmtQ) : Encoding.Statement (.pand f) := by
  intro op fl h _
  cases h
  exact ⟨by decide, by decide, rfl⟩
theorem Encoding.por (f : FmtQ) : Encoding.Statement (.por f) := by
  intro op fl h _
  cases h
  exact ⟨by decide, by decide, rfl⟩
theorem Encoding.pxor (f : FmtQ) : Encoding.Statement (.pxor f) := by
  intro op fl h _
  cases h
  exact ⟨by decide, by decide, rfl⟩
theorem Encoding.pmov (f : FmtR) : Encoding.Statement (.pmov f) := by
  intro op fl h _
  cases h
  exact ⟨by decide, by decide, rfl⟩
theorem Encoding.bra (f : FmtJ) : Encoding.Statement (.bra f) := by
  intro op fl h _
  cases h
  exact ⟨by decide, by decide, rfl⟩
theorem Encoding.brx (f : FmtA) : Encoding.Statement (.brx f) := by
  intro op fl h _
  cases h
  exact ⟨by decide, by decide, rfl⟩
theorem Encoding.call (f : FmtJ) : Encoding.Statement (.call f) := by
  intro op fl h _
  cases h
  exact ⟨by decide, by decide, rfl⟩
theorem Encoding.ret (f : FmtA) : Encoding.Statement (.ret f) := by
  intro op fl h _
  cases h
  exact ⟨by decide, by decide, rfl⟩
theorem Encoding.exit (f : FmtA) : Encoding.Statement (.exit f) := by
  intro op fl h _
  cases h
  exact ⟨by decide, by decide, rfl⟩
theorem Encoding.task (f : FmtA) : Encoding.Statement (.task f) := by
  intro op fl h _
  cases h
  exact ⟨by decide, by decide, rfl⟩
theorem Encoding.yield (f : FmtA) : Encoding.Statement (.yield f) := by
  intro op fl h _
  cases h
  exact ⟨by decide, by decide, rfl⟩
theorem Encoding.winb (f : FmtL) : Encoding.Statement (.winb f) := by
  intro op fl h _
  cases h
  exact ⟨by decide, by decide, rfl⟩
theorem Encoding.nop (f : FmtA) : Encoding.Statement (.nop f) := by
  intro op fl h _
  cases h
  exact ⟨by decide, by decide, rfl⟩
theorem Encoding.trail (f : FmtT) : Encoding.Statement (.trail f) := by
  intro op fl h _
  cases h
  exact ⟨by decide, by decide, rfl⟩
theorem Encoding.ldRlx (f : FmtA) : Encoding.Statement (.ldRlx f) := by
  intro op fl h _
  cases h
  exact ⟨by decide, by decide, rfl⟩
theorem Encoding.stRlx (f : FmtA) : Encoding.Statement (.stRlx f) := by
  intro op fl h _
  cases h
  exact ⟨by decide, by decide, rfl⟩
theorem Encoding.ldSc (f : FmtA) : Encoding.Statement (.ldSc f) := by
  intro op fl h _
  cases h
  exact ⟨by decide, by decide, rfl⟩
theorem Encoding.stSc (f : FmtA) : Encoding.Statement (.stSc f) := by
  intro op fl h _
  cases h
  exact ⟨by decide, by decide, rfl⟩
theorem Encoding.ldx (f : FmtA) : Encoding.Statement (.ldx f) := by
  intro op fl h _
  cases h
  exact ⟨by decide, by decide, rfl⟩
theorem Encoding.ldAcq (sco : Scope) (f : FmtA) : Encoding.Statement (.ldAcq sco f) := by
  intro op fl h _
  cases h
  cases sco <;> exact ⟨by decide, by decide, rfl⟩
theorem Encoding.stRel (sco : Scope) (f : FmtA) : Encoding.Statement (.stRel sco f) := by
  intro op fl h _
  cases h
  cases sco <;> exact ⟨by decide, by decide, rfl⟩
theorem Encoding.spill (f : FmtA) : Encoding.Statement (.spill f) := by
  intro op fl h _
  cases h
  exact ⟨by decide, by decide, rfl⟩
theorem Encoding.fill (f : FmtA) : Encoding.Statement (.fill f) := by
  intro op fl h _
  cases h
  exact ⟨by decide, by decide, rfl⟩
theorem Encoding.pf (f : FmtA) : Encoding.Statement (.pf f) := by
  intro op fl h _
  cases h
  exact ⟨by decide, by decide, rfl⟩
theorem Encoding.sbind (f : FmtA) : Encoding.Statement (.sbind f) := by
  intro op fl h _
  cases h
  exact ⟨by decide, by decide, rfl⟩
theorem Encoding.fadd (ty : FType) (f : FmtM) : Encoding.Statement (.fadd ty f) := by
  intro op fl h _
  cases h
  cases ty <;> exact ⟨by decide, by decide, rfl⟩
theorem Encoding.fsub (ty : FType) (f : FmtM) : Encoding.Statement (.fsub ty f) := by
  intro op fl h _
  cases h
  cases ty <;> exact ⟨by decide, by decide, rfl⟩
theorem Encoding.fmul (ty : FType) (f : FmtM) : Encoding.Statement (.fmul ty f) := by
  intro op fl h _
  cases h
  cases ty <;> exact ⟨by decide, by decide, rfl⟩
theorem Encoding.fma (ty : FType) (f : FmtM) : Encoding.Statement (.fma ty f) := by
  intro op fl h _
  cases h
  cases ty <;> exact ⟨by decide, by decide, rfl⟩
theorem Encoding.fms (ty : FType) (f : FmtM) : Encoding.Statement (.fms ty f) := by
  intro op fl h _
  cases h
  cases ty <;> exact ⟨by decide, by decide, rfl⟩
theorem Encoding.fnma (ty : FType) (f : FmtM) : Encoding.Statement (.fnma ty f) := by
  intro op fl h _
  cases h
  cases ty <;> exact ⟨by decide, by decide, rfl⟩
theorem Encoding.fmin (ty : FType) (f : FmtM) : Encoding.Statement (.fmin ty f) := by
  intro op fl h _
  cases h
  cases ty <;> exact ⟨by decide, by decide, rfl⟩
theorem Encoding.fmax (ty : FType) (f : FmtM) : Encoding.Statement (.fmax ty f) := by
  intro op fl h _
  cases h
  cases ty <;> exact ⟨by decide, by decide, rfl⟩
theorem Encoding.fcmp (ty : FType) (f : FmtPM) : Encoding.Statement (.fcmp ty f) := by
  intro op fl h _
  cases h
  cases ty <;> exact ⟨by decide, by decide, rfl⟩
theorem Encoding.fdiv (ty : FType) (f : FmtM) : Encoding.Statement (.fdiv ty f) := by
  intro op fl h _
  cases h
  cases ty <;> exact ⟨by decide, by decide, rfl⟩
theorem Encoding.fsqrt (ty : FType) (f : FmtM) : Encoding.Statement (.fsqrt ty f) := by
  intro op fl h _
  cases h
  cases ty <;> exact ⟨by decide, by decide, rfl⟩
theorem Encoding.frcp (ty : FType) (f : FmtM) : Encoding.Statement (.frcp ty f) := by
  intro op fl h _
  cases h
  cases ty <;> exact ⟨by decide, by decide, rfl⟩
theorem Encoding.frsq (ty : FType) (f : FmtM) : Encoding.Statement (.frsq ty f) := by
  intro op fl h _
  cases h
  cases ty <;> exact ⟨by decide, by decide, rfl⟩
theorem Encoding.fexp2 (ty : FType) (f : FmtM) : Encoding.Statement (.fexp2 ty f) := by
  intro op fl h _
  cases h
  cases ty <;> exact ⟨by decide, by decide, rfl⟩
theorem Encoding.flog2 (ty : FType) (f : FmtM) : Encoding.Statement (.flog2 ty f) := by
  intro op fl h _
  cases h
  cases ty <;> exact ⟨by decide, by decide, rfl⟩
theorem Encoding.fsin (ty : FType) (f : FmtM) : Encoding.Statement (.fsin ty f) := by
  intro op fl h _
  cases h
  cases ty <;> exact ⟨by decide, by decide, rfl⟩
theorem Encoding.fcos (ty : FType) (f : FmtM) : Encoding.Statement (.fcos ty f) := by
  intro op fl h _
  cases h
  cases ty <;> exact ⟨by decide, by decide, rfl⟩
theorem Encoding.ftanh (ty : FType) (f : FmtM) : Encoding.Statement (.ftanh ty f) := by
  intro op fl h _
  cases h
  cases ty <;> exact ⟨by decide, by decide, rfl⟩
theorem Encoding.fsig (ty : FType) (f : FmtM) : Encoding.Statement (.fsig ty f) := by
  intro op fl h _
  cases h
  cases ty <;> exact ⟨by decide, by decide, rfl⟩
theorem Encoding.fclass (ty : FType) (f : FmtM) : Encoding.Statement (.fclass ty f) := by
  intro op fl h _
  cases h
  cases ty <;> exact ⟨by decide, by decide, rfl⟩
theorem Encoding.fround (ty : FType) (f : FmtM) : Encoding.Statement (.fround ty f) := by
  intro op fl h _
  cases h
  cases ty <;> exact ⟨by decide, by decide, rfl⟩
theorem Encoding.cvt (td : CvtType) (ts : CvtType) (f : FmtM) : Encoding.Statement (.cvt td ts f) := by
  intro op fl h ok
  cases h
  have ne : td ≠ ts := by
    rintro rfl
    have ok : (Machine.formM1 f && Machine.cvtOk td td f.d f.a && Machine.modsOk Machine.hCvt f.mod) = true := ok
    simp [Machine.cvtOk] at ok
  clear ok
  cases td <;> cases ts <;> first | exact absurd rfl ne | exact ⟨by decide, by decide, rfl⟩
theorem Encoding.pack (f : FmtM) : Encoding.Statement (.pack f) := by
  intro op fl h _
  cases h
  exact ⟨by decide, by decide, rfl⟩
theorem Encoding.unpack (f : FmtM) : Encoding.Statement (.unpack f) := by
  intro op fl h _
  cases h
  exact ⟨by decide, by decide, rfl⟩
theorem Encoding.lshf (f : FmtM) : Encoding.Statement (.lshf f) := by
  intro op fl h _
  cases h
  exact ⟨by decide, by decide, rfl⟩
theorem Encoding.lbcast (f : FmtM) : Encoding.Statement (.lbcast f) := by
  intro op fl h _
  cases h
  exact ⟨by decide, by decide, rfl⟩
theorem Encoding.lrot (f : FmtM) : Encoding.Statement (.lrot f) := by
  intro op fl h _
  cases h
  exact ⟨by decide, by decide, rfl⟩
theorem Encoding.lvote (f : FmtVM) : Encoding.Statement (.lvote f) := by
  intro op fl h _
  cases h
  exact ⟨by decide, by decide, rfl⟩
theorem Encoding.lredAdd (ty : FType) (f : FmtM) : Encoding.Statement (.lredAdd ty f) := by
  intro op fl h _
  cases h
  cases ty <;> exact ⟨by decide, by decide, rfl⟩
theorem Encoding.lredMin (ty : FType) (f : FmtM) : Encoding.Statement (.lredMin ty f) := by
  intro op fl h _
  cases h
  cases ty <;> exact ⟨by decide, by decide, rfl⟩
theorem Encoding.lredMax (ty : FType) (f : FmtM) : Encoding.Statement (.lredMax ty f) := by
  intro op fl h _
  cases h
  cases ty <;> exact ⟨by decide, by decide, rfl⟩
theorem Encoding.lscanAdd (ty : FType) (f : FmtM) : Encoding.Statement (.lscanAdd ty f) := by
  intro op fl h _
  cases h
  cases ty <;> exact ⟨by decide, by decide, rfl⟩
theorem Encoding.lscanMin (ty : FType) (f : FmtM) : Encoding.Statement (.lscanMin ty f) := by
  intro op fl h _
  cases h
  cases ty <;> exact ⟨by decide, by decide, rfl⟩
theorem Encoding.lscanMax (ty : FType) (f : FmtM) : Encoding.Statement (.lscanMax ty f) := by
  intro op fl h _
  cases h
  cases ty <;> exact ⟨by decide, by decide, rfl⟩
theorem Encoding.dot (dt : DotType) (f : FmtM) : Encoding.Statement (.dot dt f) := by
  intro op fl h _
  cases h
  cases dt <;> exact ⟨by decide, by decide, rfl⟩
theorem Encoding.dsmul (h : HalfType) (f : FmtM) : Encoding.Statement (.dsmul h f) := by
  intro op fl h _
  cases h
  cases h <;> exact ⟨by decide, by decide, rfl⟩
theorem Encoding.mma (f : FmtA) : Encoding.Statement (.mma f) := by
  intro op fl h _
  cases h
  exact ⟨by decide, by decide, rfl⟩
theorem Encoding.mwait (f : FmtA) : Encoding.Statement (.mwait f) := by
  intro op fl h _
  cases h
  exact ⟨by decide, by decide, rfl⟩
theorem Encoding.mrow (f : FmtA) : Encoding.Statement (.mrow f) := by
  intro op fl h _
  cases h
  exact ⟨by decide, by decide, rfl⟩
theorem Encoding.macc (f : FmtA) : Encoding.Statement (.macc f) := by
  intro op fl h _
  cases h
  exact ⟨by decide, by decide, rfl⟩
theorem Encoding.mzero (f : FmtA) : Encoding.Statement (.mzero f) := by
  intro op fl h _
  cases h
  exact ⟨by decide, by decide, rfl⟩
theorem Encoding.cpy (f : FmtA) : Encoding.Statement (.cpy f) := by
  intro op fl h _
  cases h
  exact ⟨by decide, by decide, rfl⟩
theorem Encoding.cpy2d (f : FmtA) : Encoding.Statement (.cpy2d f) := by
  intro op fl h _
  cases h
  exact ⟨by decide, by decide, rfl⟩
theorem Encoding.cpyg (f : FmtA) : Encoding.Statement (.cpyg f) := by
  intro op fl h _
  cases h
  exact ⟨by decide, by decide, rfl⟩
theorem Encoding.cvq (f : FmtA) : Encoding.Statement (.cvq f) := by
  intro op fl h _
  cases h
  exact ⟨by decide, by decide, rfl⟩
theorem Encoding.cvd (f : FmtA) : Encoding.Statement (.cvd f) := by
  intro op fl h _
  cases h
  exact ⟨by decide, by decide, rfl⟩
theorem Encoding.pinit (f : FmtA) : Encoding.Statement (.pinit f) := by
  intro op fl h _
  cases h
  exact ⟨by decide, by decide, rfl⟩
theorem Encoding.pwait (f : FmtA) : Encoding.Statement (.pwait f) := by
  intro op fl h _
  cases h
  exact ⟨by decide, by decide, rfl⟩
theorem Encoding.prelRelease (f : FmtA) : Encoding.Statement (.prelRelease f) := by
  intro op fl h ok
  cases h
  have ok : (Machine.dstOk f.d && Machine.srcOk f.a && Machine.immIn 0 0 f.b) = true := ok
  have b : f.b = .imm 0 := Encoding.imm_of 0 0 (by decide) rfl (Bool.and_eq_true _ _ ▸ ok).2
  refine ⟨by decide, by decide, ?_⟩
  show some (prelOf f) = _
  simp [prelOf, b]
theorem Encoding.prelLeave (f : FmtA) : Encoding.Statement (.prelLeave f) := by
  intro op fl h ok
  cases h
  have ok : (Machine.dstOk f.d && Machine.srcOk f.a && Machine.immIn 1 1 f.b) = true := ok
  have b : f.b = .imm 1 := Encoding.imm_of 1 1 (by decide) rfl (Bool.and_eq_true _ _ ▸ ok).2
  refine ⟨by decide, by decide, ?_⟩
  show some (prelOf f) = _
  simp [prelOf, b]
theorem Encoding.prelJoin (f : FmtA) : Encoding.Statement (.prelJoin f) := by
  intro op fl h ok
  cases h
  have ok : (Machine.dstOk f.d && Machine.srcOk f.a && Machine.immIn 2 2 f.b) = true := ok
  have b : f.b = .imm 2 := Encoding.imm_of 2 2 (by decide) rfl (Bool.and_eq_true _ _ ▸ ok).2
  refine ⟨by decide, by decide, ?_⟩
  show some (prelOf f) = _
  simp [prelOf, b]
theorem Encoding.pphase (f : FmtA) : Encoding.Statement (.pphase f) := by
  intro op fl h _
  cases h
  exact ⟨by decide, by decide, rfl⟩
theorem Encoding.cbpass (f : FmtA) : Encoding.Statement (.cbpass f) := by
  intro op fl h _
  cases h
  exact ⟨by decide, by decide, rfl⟩
theorem Encoding.cbwait (f : FmtA) : Encoding.Statement (.cbwait f) := by
  intro op fl h _
  cases h
  exact ⟨by decide, by decide, rfl⟩
theorem Encoding.qfence (f : FmtA) : Encoding.Statement (.qfence f) := by
  intro op fl h _
  cases h
  exact ⟨by decide, by decide, rfl⟩
theorem Encoding.gsub (f : FmtA) : Encoding.Statement (.gsub f) := by
  intro op fl h _
  cases h
  exact ⟨by decide, by decide, rfl⟩
theorem Encoding.gwait (f : FmtA) : Encoding.Statement (.gwait f) := by
  intro op fl h _
  cases h
  exact ⟨by decide, by decide, rfl⟩
theorem Encoding.atmAdd (f : FmtA) : Encoding.Statement (.atmAdd f) := by
  intro op fl h _
  cases h
  exact ⟨by decide, by decide, rfl⟩
theorem Encoding.atmMinS (f : FmtA) : Encoding.Statement (.atmMinS f) := by
  intro op fl h _
  cases h
  exact ⟨by decide, by decide, rfl⟩
theorem Encoding.atmMinZ (f : FmtA) : Encoding.Statement (.atmMinZ f) := by
  intro op fl h _
  cases h
  exact ⟨by decide, by decide, rfl⟩
theorem Encoding.atmMaxS (f : FmtA) : Encoding.Statement (.atmMaxS f) := by
  intro op fl h _
  cases h
  exact ⟨by decide, by decide, rfl⟩
theorem Encoding.atmMaxZ (f : FmtA) : Encoding.Statement (.atmMaxZ f) := by
  intro op fl h _
  cases h
  exact ⟨by decide, by decide, rfl⟩
theorem Encoding.atmAnd (f : FmtA) : Encoding.Statement (.atmAnd f) := by
  intro op fl h _
  cases h
  exact ⟨by decide, by decide, rfl⟩
theorem Encoding.atmOr (f : FmtA) : Encoding.Statement (.atmOr f) := by
  intro op fl h _
  cases h
  exact ⟨by decide, by decide, rfl⟩
theorem Encoding.atmXor (f : FmtA) : Encoding.Statement (.atmXor f) := by
  intro op fl h _
  cases h
  exact ⟨by decide, by decide, rfl⟩
theorem Encoding.atmExch (f : FmtA) : Encoding.Statement (.atmExch f) := by
  intro op fl h _
  cases h
  exact ⟨by decide, by decide, rfl⟩
theorem Encoding.atmCas (f : FmtA) : Encoding.Statement (.atmCas f) := by
  intro op fl h _
  cases h
  exact ⟨by decide, by decide, rfl⟩
theorem Encoding.atmCas128 (f : FmtA) : Encoding.Statement (.atmCas128 f) := by
  intro op fl h _
  cases h
  exact ⟨by decide, by decide, rfl⟩
theorem Encoding.atmBfi (f : FmtA) : Encoding.Statement (.atmBfi f) := by
  intro op fl h _
  cases h
  exact ⟨by decide, by decide, rfl⟩
theorem Encoding.atmFfcs (f : FmtA) : Encoding.Statement (.atmFfcs f) := by
  intro op fl h _
  cases h
  exact ⟨by decide, by decide, rfl⟩
theorem Encoding.atmPlset (f : FmtA) : Encoding.Statement (.atmPlset f) := by
  intro op fl h _
  cases h
  exact ⟨by decide, by decide, rfl⟩
theorem Encoding.atmAddFloat (ty : FType) (f : FmtA) : Encoding.Statement (.atmAddFloat ty f) := by
  intro op fl h _
  cases h
  cases ty <;> exact ⟨by decide, by decide, rfl⟩
theorem Encoding.atmMinFloat (ty : FType) (f : FmtA) : Encoding.Statement (.atmMinFloat ty f) := by
  intro op fl h _
  cases h
  cases ty <;> exact ⟨by decide, by decide, rfl⟩
theorem Encoding.atmMaxFloat (ty : FType) (f : FmtA) : Encoding.Statement (.atmMaxFloat ty f) := by
  intro op fl h _
  cases h
  cases ty <;> exact ⟨by decide, by decide, rfl⟩
theorem Encoding.redAdd (f : FmtA) : Encoding.Statement (.redAdd f) := by
  intro op fl h _
  cases h
  exact ⟨by decide, by decide, rfl⟩
theorem Encoding.redMinS (f : FmtA) : Encoding.Statement (.redMinS f) := by
  intro op fl h _
  cases h
  exact ⟨by decide, by decide, rfl⟩
theorem Encoding.redMinZ (f : FmtA) : Encoding.Statement (.redMinZ f) := by
  intro op fl h _
  cases h
  exact ⟨by decide, by decide, rfl⟩
theorem Encoding.redMaxS (f : FmtA) : Encoding.Statement (.redMaxS f) := by
  intro op fl h _
  cases h
  exact ⟨by decide, by decide, rfl⟩
theorem Encoding.redMaxZ (f : FmtA) : Encoding.Statement (.redMaxZ f) := by
  intro op fl h _
  cases h
  exact ⟨by decide, by decide, rfl⟩
theorem Encoding.redAnd (f : FmtA) : Encoding.Statement (.redAnd f) := by
  intro op fl h _
  cases h
  exact ⟨by decide, by decide, rfl⟩
theorem Encoding.redOr (f : FmtA) : Encoding.Statement (.redOr f) := by
  intro op fl h _
  cases h
  exact ⟨by decide, by decide, rfl⟩
theorem Encoding.redXor (f : FmtA) : Encoding.Statement (.redXor f) := by
  intro op fl h _
  cases h
  exact ⟨by decide, by decide, rfl⟩
theorem Encoding.redAddFloat (ty : FType) (f : FmtA) : Encoding.Statement (.redAddFloat ty f) := by
  intro op fl h _
  cases h
  cases ty <;> exact ⟨by decide, by decide, rfl⟩
theorem Encoding.chup (g : ChTag) (f : FmtA) : Encoding.Statement (.chup g f) := by
  intro op fl h _
  cases h
  cases g <;> exact ⟨by decide, by decide, rfl⟩
theorem Encoding.chfl (f : FmtA) : Encoding.Statement (.chfl f) := by
  intro op fl h _
  cases h
  exact ⟨by decide, by decide, rfl⟩
theorem Encoding.fence (f : FmtA) : Encoding.Statement (.fence f) := by
  intro op fl h _
  cases h
  exact ⟨by decide, by decide, rfl⟩
theorem Encoding.sfence (f : FmtA) : Encoding.Statement (.sfence f) := by
  intro op fl h _
  cases h
  exact ⟨by decide, by decide, rfl⟩
theorem Encoding.bar (f : FmtA) : Encoding.Statement (.bar f) := by
  intro op fl h _
  cases h
  exact ⟨by decide, by decide, rfl⟩
theorem Encoding.barw (f : FmtA) : Encoding.Statement (.barw f) := by
  intro op fl h _
  cases h
  exact ⟨by decide, by decide, rfl⟩
theorem Encoding.twait (f : FmtA) : Encoding.Statement (.twait f) := by
  intro op fl h _
  cases h
  exact ⟨by decide, by decide, rfl⟩
theorem Encoding.map (f : FmtA) : Encoding.Statement (.map f) := by
  intro op fl h _
  cases h
  exact ⟨by decide, by decide, rfl⟩
theorem Encoding.unmap (f : FmtA) : Encoding.Statement (.unmap f) := by
  intro op fl h _
  cases h
  exact ⟨by decide, by decide, rfl⟩
theorem Encoding.wopen (f : FmtA) : Encoding.Statement (.wopen f) := by
  intro op fl h _
  cases h
  exact ⟨by decide, by decide, rfl⟩
theorem Encoding.wclose (f : FmtA) : Encoding.Statement (.wclose f) := by
  intro op fl h _
  cases h
  exact ⟨by decide, by decide, rfl⟩
theorem Encoding.phreg (f : FmtA) : Encoding.Statement (.phreg f) := by
  intro op fl h _
  cases h
  exact ⟨by decide, by decide, rfl⟩
theorem Encoding.phleave (f : FmtA) : Encoding.Statement (.phleave f) := by
  intro op fl h _
  cases h
  exact ⟨by decide, by decide, rfl⟩
theorem Encoding.phsig (f : FmtA) : Encoding.Statement (.phsig f) := by
  intro op fl h _
  cases h
  exact ⟨by decide, by decide, rfl⟩
theorem Encoding.phsigb (f : FmtA) : Encoding.Statement (.phsigb f) := by
  intro op fl h _
  cases h
  exact ⟨by decide, by decide, rfl⟩
theorem Encoding.phany (f : FmtA) : Encoding.Statement (.phany f) := by
  intro op fl h _
  cases h
  exact ⟨by decide, by decide, rfl⟩
theorem Encoding.phwait (f : FmtA) : Encoding.Statement (.phwait f) := by
  intro op fl h _
  cases h
  exact ⟨by decide, by decide, rfl⟩
theorem Encoding.phtry (f : FmtA) : Encoding.Statement (.phtry f) := by
  intro op fl h _
  cases h
  exact ⟨by decide, by decide, rfl⟩
theorem Encoding.phget (f : FmtA) : Encoding.Statement (.phget f) := by
  intro op fl h _
  cases h
  exact ⟨by decide, by decide, rfl⟩
theorem Encoding.fld (f : FmtA) : Encoding.Statement (.fld f) := by
  intro op fl h _
  cases h
  exact ⟨by decide, by decide, rfl⟩
theorem Encoding.fst (f : FmtA) : Encoding.Statement (.fst f) := by
  intro op fl h _
  cases h
  exact ⟨by decide, by decide, rfl⟩
theorem Encoding.fatm (f : FmtA) : Encoding.Statement (.fatm f) := by
  intro op fl h _
  cases h
  exact ⟨by decide, by decide, rfl⟩
theorem Encoding.bulk (f : FmtA) : Encoding.Statement (.bulk f) := by
  intro op fl h _
  cases h
  exact ⟨by decide, by decide, rfl⟩
theorem Encoding.acset (f : FmtA) : Encoding.Statement (.acset f) := by
  intro op fl h _
  cases h
  exact ⟨by decide, by decide, rfl⟩
theorem Encoding.acwait (f : FmtA) : Encoding.Statement (.acwait f) := by
  intro op fl h _
  cases h
  exact ⟨by decide, by decide, rfl⟩
theorem Encoding.ffence (f : FmtA) : Encoding.Statement (.ffence f) := by
  intro op fl h _
  cases h
  exact ⟨by decide, by decide, rfl⟩
theorem Encoding.trap (f : FmtA) : Encoding.Statement (.trap f) := by
  intro op fl h _
  cases h
  exact ⟨by decide, by decide, rfl⟩
theorem Encoding.rfx (f : FmtA) : Encoding.Statement (.rfx f) := by
  intro op fl h _
  cases h
  exact ⟨by decide, by decide, rfl⟩
theorem Encoding.brk (f : FmtA) : Encoding.Statement (.brk f) := by
  intro op fl h _
  cases h
  exact ⟨by decide, by decide, rfl⟩
theorem Encoding.sysrd (f : FmtA) : Encoding.Statement (.sysrd f) := by
  intro op fl h _
  cases h
  exact ⟨by decide, by decide, rfl⟩
theorem Encoding.syswr (f : FmtA) : Encoding.Statement (.syswr f) := by
  intro op fl h _
  cases h
  exact ⟨by decide, by decide, rfl⟩
theorem Encoding.tlbinv (f : FmtA) : Encoding.Statement (.tlbinv f) := by
  intro op fl h _
  cases h
  exact ⟨by decide, by decide, rfl⟩
theorem Encoding.cacheopClean (f : FmtA) : Encoding.Statement (.cacheopClean f) := by
  intro op fl h ok
  cases h
  have ok : (Machine.dstOk f.d && Machine.srcOk f.a && Machine.immIn 0 0 f.b) = true := ok
  have b : f.b = .imm 0 := Encoding.imm_of 0 0 (by decide) rfl (Bool.and_eq_true _ _ ▸ ok).2
  refine ⟨by decide, by decide, ?_⟩
  show some (cacheopOf f) = _
  simp [cacheopOf, b]
theorem Encoding.cacheopFlush (f : FmtA) : Encoding.Statement (.cacheopFlush f) := by
  intro op fl h ok
  cases h
  have ok : (Machine.dstOk f.d && Machine.srcOk f.a && Machine.immIn 1 1 f.b) = true := ok
  have b : f.b = .imm 1 := Encoding.imm_of 1 1 (by decide) rfl (Bool.and_eq_true _ _ ▸ ok).2
  refine ⟨by decide, by decide, ?_⟩
  show some (cacheopOf f) = _
  simp [cacheopOf, b]
theorem Encoding.cacheopDrop (f : FmtA) : Encoding.Statement (.cacheopDrop f) := by
  intro op fl h ok
  cases h
  have ok : (Machine.dstOk f.d && Machine.srcOk f.a && Machine.immIn 2 2 f.b) = true := ok
  have b : f.b = .imm 2 := Encoding.imm_of 2 2 (by decide) rfl (Bool.and_eq_true _ _ ▸ ok).2
  refine ⟨by decide, by decide, ?_⟩
  show some (cacheopOf f) = _
  simp [cacheopOf, b]
theorem Encoding.cacheopZero (f : FmtA) : Encoding.Statement (.cacheopZero f) := by
  intro op fl h ok
  cases h
  have ok : (Machine.dstOk f.d && Machine.srcOk f.a && Machine.immIn 3 3 f.b) = true := ok
  have b : f.b = .imm 3 := Encoding.imm_of 3 3 (by decide) rfl (Bool.and_eq_true _ _ ▸ ok).2
  refine ⟨by decide, by decide, ?_⟩
  show some (cacheopOf f) = _
  simp [cacheopOf, b]
theorem Encoding.cacheopL1all (f : FmtA) : Encoding.Statement (.cacheopL1all f) := by
  intro op fl h ok
  cases h
  have ok : (Machine.dstOk f.d && Machine.unused f.a && Machine.immIn 4 4 f.b) = true := ok
  have b : f.b = .imm 4 := Encoding.imm_of 4 4 (by decide) rfl (Bool.and_eq_true _ _ ▸ ok).2
  refine ⟨by decide, by decide, ?_⟩
  show some (cacheopOf f) = _
  simp [cacheopOf, b]
theorem Encoding.cacheopL2all (f : FmtA) : Encoding.Statement (.cacheopL2all f) := by
  intro op fl h ok
  cases h
  have ok : (Machine.dstOk f.d && Machine.unused f.a && Machine.immIn 5 5 f.b) = true := ok
  have b : f.b = .imm 5 := Encoding.imm_of 5 5 (by decide) rfl (Bool.and_eq_true _ _ ▸ ok).2
  refine ⟨by decide, by decide, ?_⟩
  show some (cacheopOf f) = _
  simp [cacheopOf, b]
theorem Encoding.cancel (f : FmtA) : Encoding.Statement (.cancel f) := by
  intro op fl h _
  cases h
  exact ⟨by decide, by decide, rfl⟩
theorem Encoding.topk (f : FmtA) : Encoding.Statement (.topk f) := by
  intro op fl h _
  cases h
  exact ⟨by decide, by decide, rfl⟩
theorem Encoding.kmerge (f : FmtA) : Encoding.Statement (.kmerge f) := by
  intro op fl h _
  cases h
  exact ⟨by decide, by decide, rfl⟩
theorem Encoding.skim (f : FmtA) : Encoding.Statement (.skim f) := by
  intro op fl h _
  cases h
  exact ⟨by decide, by decide, rfl⟩
theorem Encoding.kfilt (f : FmtP) : Encoding.Statement (.kfilt f) := by
  intro op fl h _
  cases h
  exact ⟨by decide, by decide, rfl⟩
theorem Encoding.distL2 (v : DistType) (f : FmtA) : Encoding.Statement (.distL2 v f) := by
  intro op fl h _
  cases h
  cases v <;> exact ⟨by decide, by decide, rfl⟩
theorem Encoding.distIp (v : DistType) (f : FmtA) : Encoding.Statement (.distIp v f) := by
  intro op fl h _
  cases h
  cases v <;> exact ⟨by decide, by decide, rfl⟩
theorem Encoding.distCos (v : DistType) (f : FmtA) : Encoding.Statement (.distCos v f) := by
  intro op fl h _
  cases h
  cases v <;> exact ⟨by decide, by decide, rfl⟩
theorem Encoding.pickerCycle : Encoding.Statement .pickerCycle := Encoding.statement_of_event rfl
theorem Encoding.fixedLatencyWriteback (th : Nat) : Encoding.Statement (.fixedLatencyWriteback th) := Encoding.statement_of_event rfl
theorem Encoding.variableLatencyCompletion (th : Nat) (dc : Nat) : Encoding.Statement (.variableLatencyCompletion th dc) := Encoding.statement_of_event rfl
theorem Encoding.heldRelease (th : Nat) : Encoding.Statement (.heldRelease th) := Encoding.statement_of_event rfl
theorem Encoding.yieldExpiry (th : Nat) : Encoding.Statement (.yieldExpiry th) := Encoding.statement_of_event rfl
theorem Encoding.teamPlacement : Encoding.Statement .teamPlacement := Encoding.statement_of_event rfl
theorem Encoding.taskBind (team : Nat) : Encoding.Statement (.taskBind team) := Encoding.statement_of_event rfl
theorem Encoding.hostCancel (unit : UnitRef) : Encoding.Statement (.hostCancel unit) := Encoding.statement_of_event rfl
theorem Encoding.trapEntry (th : Nat) (trp : TrapInfo) : Encoding.Statement (.trapEntry th trp) := Encoding.statement_of_event rfl
theorem Encoding.faultReplay (th : Nat) : Encoding.Statement (.faultReplay th) := Encoding.statement_of_event rfl
theorem Encoding.preemptionRequest (team : Nat) : Encoding.Statement (.preemptionRequest team) := Encoding.statement_of_event rfl
theorem Encoding.preemptionEntry (team : Nat) : Encoding.Statement (.preemptionEntry team) := Encoding.statement_of_event rfl
theorem Encoding.preemptionTimeout (team : Nat) : Encoding.Statement (.preemptionTimeout team) := Encoding.statement_of_event rfl
theorem Encoding.teamSave (team : Nat) : Encoding.Statement (.teamSave team) := Encoding.statement_of_event rfl
theorem Encoding.teamResume (team : Nat) : Encoding.Statement (.teamResume team) := Encoding.statement_of_event rfl
theorem Encoding.pageWalk (req : WalkReq) : Encoding.Statement (.pageWalk req) := Encoding.statement_of_event rfl
theorem Encoding.faultAnswer (ans : Word) : Encoding.Statement (.faultAnswer ans) := Encoding.statement_of_event rfl
theorem Encoding.faultTimeout (stack : Nat) (ticket : Nat) : Encoding.Statement (.faultTimeout stack ticket) := Encoding.statement_of_event rfl
theorem Encoding.floorReport (node : Nat) : Encoding.Statement (.floorReport node) := Encoding.statement_of_event rfl
theorem Encoding.belayBeat (node : Nat) : Encoding.Statement (.belayBeat node) := Encoding.statement_of_event rfl
theorem Encoding.scPerform : Encoding.Statement .scPerform := Encoding.statement_of_event rfl
theorem Encoding.epochAdvance : Encoding.Statement .epochAdvance := Encoding.statement_of_event rfl
theorem Encoding.deviceLost (dev : Nat) : Encoding.Statement (.deviceLost dev) := Encoding.statement_of_event rfl
theorem Encoding.peerAckTimeout (dev : Nat) (line : Nat) : Encoding.Statement (.peerAckTimeout dev line) := Encoding.statement_of_event rfl
theorem Encoding.readShared (core : Nat) (line : Nat) : Encoding.Statement (.readShared core line) := Encoding.statement_of_event rfl
theorem Encoding.readOwn (core : Nat) (line : Nat) : Encoding.Statement (.readOwn core line) := Encoding.statement_of_event rfl
theorem Encoding.upgrade (core : Nat) (line : Nat) : Encoding.Statement (.upgrade core line) := Encoding.statement_of_event rfl
theorem Encoding.join (core : Nat) (line : Nat) (tag : ChTag) (sigma : Int) : Encoding.Statement (.join core line tag sigma) := Encoding.statement_of_event rfl
theorem Encoding.invalidate (core : Nat) (line : Nat) : Encoding.Statement (.invalidate core line) := Encoding.statement_of_event rfl
theorem Encoding.recall (core : Nat) (line : Nat) (keep : Bool) : Encoding.Statement (.recall core line keep) := Encoding.statement_of_event rfl
theorem Encoding.mergeRecall (core : Nat) (line : Nat) : Encoding.Statement (.mergeRecall core line) := Encoding.statement_of_event rfl
theorem Encoding.wbreq (core : Nat) (line : Nat) : Encoding.Statement (.wbreq core line) := Encoding.statement_of_event rfl
theorem Encoding.wbgrant (core : Nat) (line : Nat) : Encoding.Statement (.wbgrant core line) := Encoding.statement_of_event rfl
theorem Encoding.wbData (core : Nat) (line : Nat) : Encoding.Statement (.wbData core line) := Encoding.statement_of_event rfl
theorem Encoding.hostMemRead (pa : Nat) (n : Nat) (keep : Bool) : Encoding.Statement (.hostMemRead pa n keep) := Encoding.statement_of_event rfl
theorem Encoding.hostMemWrite (pa : Nat) (data : Bytes) (own : Bool) : Encoding.Statement (.hostMemWrite pa data own) := Encoding.statement_of_event rfl
theorem Encoding.hostWriteback (sector : Nat) (data : Bytes) : Encoding.Statement (.hostWriteback sector data) := Encoding.statement_of_event rfl
theorem Encoding.bisnpResponse (sector : Nat) (inv : Bool) (data : Bytes) : Encoding.Statement (.bisnpResponse sector inv data) := Encoding.statement_of_event rfl
theorem Encoding.rdcurr (g : GuestAcc) : Encoding.Statement (.rdcurr g) := Encoding.statement_of_event rfl
theorem Encoding.rdshared (g : GuestAcc) : Encoding.Statement (.rdshared g) := Encoding.statement_of_event rfl
theorem Encoding.rdown (g : GuestAcc) : Encoding.Statement (.rdown g) := Encoding.statement_of_event rfl
theorem Encoding.rdownnodata (g : GuestAcc) : Encoding.Statement (.rdownnodata g) := Encoding.statement_of_event rfl
theorem Encoding.itomwr (g : GuestAcc) (data : Bytes) : Encoding.Statement (.itomwr g data) := Encoding.statement_of_event rfl
theorem Encoding.wrcur (g : GuestAcc) (data : Bytes) : Encoding.Statement (.wrcur g data) := Encoding.statement_of_event rfl
theorem Encoding.cleanevict (g : GuestAcc) : Encoding.Statement (.cleanevict g) := Encoding.statement_of_event rfl
theorem Encoding.cleanevictnodata (g : GuestAcc) : Encoding.Statement (.cleanevictnodata g) := Encoding.statement_of_event rfl
theorem Encoding.dirtyevict (g : GuestAcc) (data : Bytes) : Encoding.Statement (.dirtyevict g data) := Encoding.statement_of_event rfl
theorem Encoding.clflush (g : GuestAcc) : Encoding.Statement (.clflush g) := Encoding.statement_of_event rfl
theorem Encoding.guestUnsupportedRequest (pa : Nat) : Encoding.Statement (.guestUnsupportedRequest pa) := Encoding.statement_of_event rfl
theorem Encoding.guestSnoopResponse (sector : Nat) (inv : Bool) (data : Bytes) : Encoding.Statement (.guestSnoopResponse sector inv data) := Encoding.statement_of_event rfl
theorem Encoding.snoopTimeout (sector : Nat) : Encoding.Statement (.snoopTimeout sector) := Encoding.statement_of_event rfl
theorem Encoding.guestCompletion (q : Nat) (ticket : Nat) (result : Word) (code : Nat) (reason : Nat) : Encoding.Statement (.guestCompletion q ticket result code reason) := Encoding.statement_of_event rfl
theorem Encoding.translate (q : Nat) (ticket : Nat) (va : Word) (acc : Nat) : Encoding.Statement (.translate q ticket va acc) := Encoding.statement_of_event rfl
theorem Encoding.guestFault (q : Nat) (ticket : Nat) (addr : Word) (acc : Nat) (fatal : Bool) : Encoding.Statement (.guestFault q ticket addr acc fatal) := Encoding.statement_of_event rfl
theorem Encoding.guestFaultDeadline (q : Nat) (ticket : Nat) : Encoding.Statement (.guestFaultDeadline q ticket) := Encoding.statement_of_event rfl
theorem Encoding.guestFaultCompletionTimeout (q : Nat) (ticket : Nat) : Encoding.Statement (.guestFaultCompletionTimeout q ticket) := Encoding.statement_of_event rfl
theorem Encoding.shootdownAck (sid : Nat) : Encoding.Statement (.shootdownAck sid) := Encoding.statement_of_event rfl
theorem Encoding.preemptAck (pid : Nat) (saved : GuestTickets) : Encoding.Statement (.preemptAck pid saved) := Encoding.statement_of_event rfl
theorem Encoding.preemptAckTimeout (pid : Nat) : Encoding.Statement (.preemptAckTimeout pid) := Encoding.statement_of_event rfl
theorem Encoding.gateViolation (tenant : Nat) : Encoding.Statement (.gateViolation tenant) := Encoding.statement_of_event rfl
theorem Encoding.hello (h : Hello) : Encoding.Statement (.hello h) := Encoding.statement_of_event rfl
theorem Encoding.guestOtherMessage : Encoding.Statement .guestOtherMessage := Encoding.statement_of_event rfl
theorem Encoding.flitReceive (link : Nat) (flit : Flit) : Encoding.Statement (.flitReceive link flit) := Encoding.statement_of_event rfl
theorem Encoding.replayRequest (link : Nat) (seq : Nat) : Encoding.Statement (.replayRequest link seq) := Encoding.statement_of_event rfl
theorem Encoding.censusSend (link : Nat) : Encoding.Statement (.censusSend link) := Encoding.statement_of_event rfl
theorem Encoding.census (link : Nat) (counts : Counts) : Encoding.Statement (.census link counts) := Encoding.statement_of_event rfl
theorem Encoding.identification (link : Nat) (dev : Nat) (plink : Nat) : Encoding.Statement (.identification link dev plink) := Encoding.statement_of_event rfl
theorem Encoding.identificationTimeout (link : Nat) : Encoding.Statement (.identificationTimeout link) := Encoding.statement_of_event rfl
theorem Encoding.fabricRead (p : Packet) : Encoding.Statement (.fabricRead p) := Encoding.statement_of_event rfl
theorem Encoding.fabricWrite (p : Packet) : Encoding.Statement (.fabricWrite p) := Encoding.statement_of_event rfl
theorem Encoding.fabricAtomic (p : Packet) : Encoding.Statement (.fabricAtomic p) := Encoding.statement_of_event rfl
theorem Encoding.bulkPiece (p : Packet) : Encoding.Statement (.bulkPiece p) := Encoding.statement_of_event rfl
theorem Encoding.drainMarker (p : Packet) : Encoding.Statement (.drainMarker p) := Encoding.statement_of_event rfl
theorem Encoding.fabricInvalidate (p : Packet) : Encoding.Statement (.fabricInvalidate p) := Encoding.statement_of_event rfl
theorem Encoding.fabricMergeRecall (p : Packet) : Encoding.Statement (.fabricMergeRecall p) := Encoding.statement_of_event rfl
theorem Encoding.readResponse (p : Packet) : Encoding.Statement (.readResponse p) := Encoding.statement_of_event rfl
theorem Encoding.atomicResponse (p : Packet) : Encoding.Statement (.atomicResponse p) := Encoding.statement_of_event rfl
theorem Encoding.writeAcknowledgement (p : Packet) : Encoding.Statement (.writeAcknowledgement p) := Encoding.statement_of_event rfl
theorem Encoding.invalidateAcknowledgement (p : Packet) : Encoding.Statement (.invalidateAcknowledgement p) := Encoding.statement_of_event rfl
theorem Encoding.partialPacket (p : Packet) : Encoding.Statement (.partialPacket p) := Encoding.statement_of_event rfl
theorem Encoding.slotStart : Encoding.Statement .slotStart := Encoding.statement_of_event rfl
theorem Encoding.dataTimeStart : Encoding.Statement .dataTimeStart := Encoding.statement_of_event rfl
theorem Encoding.dataTimeEnd : Encoding.Statement .dataTimeEnd := Encoding.statement_of_event rfl
theorem Encoding.sendQueueDepart (dest : Nat) : Encoding.Statement (.sendQueueDepart dest) := Encoding.statement_of_event rfl
theorem Encoding.drainReturn (dest : Nat) (path : Nat) : Encoding.Statement (.drainReturn dest path) := Encoding.statement_of_event rfl
theorem Encoding.slotTableSwitch (link : Nat) : Encoding.Statement (.slotTableSwitch link) := Encoding.statement_of_event rfl
theorem Encoding.linkRetire (link : Nat) : Encoding.Statement (.linkRetire link) := Encoding.statement_of_event rfl
theorem Encoding.retireNotice (link : Nat) (seq : Nat) : Encoding.Statement (.retireNotice link seq) := Encoding.statement_of_event rfl
theorem Encoding.belayNodeCycle (node : Nat) : Encoding.Statement (.belayNodeCycle node) := Encoding.statement_of_event rfl
theorem Encoding.nodeForward (node : Nat) : Encoding.Statement (.nodeForward node) := Encoding.statement_of_event rfl
theorem Encoding.completionDelivery (d : PhaseDelivery) : Encoding.Statement (.completionDelivery d) := Encoding.statement_of_event rfl
theorem Encoding.boundSignalRelease (bid : Nat) : Encoding.Statement (.boundSignalRelease bid) := Encoding.statement_of_event rfl
theorem Encoding.uplinkFailover : Encoding.Statement .uplinkFailover := Encoding.statement_of_event rfl
theorem Encoding.phaserAllocation (a : PhaserAlloc) : Encoding.Statement (.phaserAllocation a) := Encoding.statement_of_event rfl
theorem Encoding.phaserFree (handle : Word) : Encoding.Statement (.phaserFree handle) := Encoding.statement_of_event rfl
theorem Encoding.stageAddition (team : Nat) (cmd : Nat) : Encoding.Statement (.stageAddition team cmd) := Encoding.statement_of_event rfl
theorem Encoding.pinitEffect (team : Nat) (cmd : Nat) : Encoding.Statement (.pinitEffect team cmd) := Encoding.statement_of_event rfl
theorem Encoding.mmaGroupRetire (team : Nat) : Encoding.Statement (.mmaGroupRetire team) := Encoding.statement_of_event rfl
theorem Encoding.engineCommandCompletion (team : Nat) (eq : EngineQueue) : Encoding.Statement (.engineCommandCompletion team eq) := Encoding.statement_of_event rfl
theorem Encoding.acwaitTimeout (th : Nat) (oid : Nat) : Encoding.Statement (.acwaitTimeout th oid) := Encoding.statement_of_event rfl
theorem Encoding.ffenceTimeout (th : Nat) (oid : Nat) : Encoding.Statement (.ffenceTimeout th oid) := Encoding.statement_of_event rfl
theorem Encoding.kick (q : Nat) (v : Word) : Encoding.Statement (.kick q v) := Encoding.statement_of_event rfl
theorem Encoding.kickRestart (q : Nat) (v : Word) : Encoding.Statement (.kickRestart q v) := Encoding.statement_of_event rfl
theorem Encoding.queueFetch (q : Nat) : Encoding.Statement (.queueFetch q) := Encoding.statement_of_event rfl
theorem Encoding.queueRetryRead (q : Nat) : Encoding.Statement (.queueRetryRead q) := Encoding.statement_of_event rfl
theorem Encoding.queueStall (q : Nat) : Encoding.Statement (.queueStall q) := Encoding.statement_of_event rfl
theorem Encoding.launchPacket (q : Nat) (entry : Quads) : Encoding.Statement (.launchPacket q entry) := Encoding.statement_of_event rfl
theorem Encoding.legMark (q : Nat) (mirror : Word) : Encoding.Statement (.legMark q mirror) := Encoding.statement_of_event rfl
theorem Encoding.badPacket (q : Nat) (idx : Nat) : Encoding.Statement (.badPacket q idx) := Encoding.statement_of_event rfl
theorem Encoding.waitPoll (launch : Nat) : Encoding.Statement (.waitPoll launch) := Encoding.statement_of_event rfl
theorem Encoding.mirrorWrite (unit : UnitRef) : Encoding.Statement (.mirrorWrite unit) := Encoding.statement_of_event rfl
theorem Encoding.placementPreempt (launch : Nat) : Encoding.Statement (.placementPreempt launch) := Encoding.statement_of_event rfl
theorem Encoding.gateClose (tenant : Nat) (power : Bool) : Encoding.Statement (.gateClose tenant power) := Encoding.statement_of_event rfl
theorem Encoding.gateOpen (tenant : Nat) : Encoding.Statement (.gateOpen tenant) := Encoding.statement_of_event rfl
theorem Encoding.evheadWrite (v : Word) : Encoding.Statement (.evheadWrite v) := Encoding.statement_of_event rfl
theorem Encoding.bar0OtherAccess (off : Nat) (isWrite : Bool) : Encoding.Statement (.bar0OtherAccess off isWrite) := Encoding.statement_of_event rfl
theorem Encoding.deviceStart (st : StartInput) : Encoding.Statement (.deviceStart st) := Encoding.statement_of_event rfl
theorem Encoding.functionReady (bit : Nat) : Encoding.Statement (.functionReady bit) := Encoding.statement_of_event rfl
theorem Encoding.startFailure (reason : Nat) : Encoding.Statement (.startFailure reason) := Encoding.statement_of_event rfl
theorem Encoding.queueDescriptorInstall (c : Signed) (q : Nat) (d : QueueDesc) : Encoding.Statement (.queueDescriptorInstall c q d) := Encoding.statement_of_event rfl
theorem Encoding.contextDescriptorWrite (c : Signed) (ctx : Nat) (d : CtxWrite) : Encoding.Statement (.contextDescriptorWrite c ctx d) := Encoding.statement_of_event rfl
theorem Encoding.tenantContextMapWrite (c : Signed) (tenant : Nat) (v : Word) : Encoding.Statement (.tenantContextMapWrite c tenant v) := Encoding.statement_of_event rfl
theorem Encoding.budgetSet (c : Signed) (tenant : Nat) (b : BudgetVals) : Encoding.Statement (.budgetSet c tenant b) := Encoding.statement_of_event rfl
theorem Encoding.slotTableInstall (c : Signed) (link : Nat) (ctl : Word) (entries : Quads) : Encoding.Statement (.slotTableInstall c link ctl entries) := Encoding.statement_of_event rfl
theorem Encoding.faultRingSet (c : Signed) (stack : Nat) (addr : Nat) : Encoding.Statement (.faultRingSet c stack addr) := Encoding.statement_of_event rfl
theorem Encoding.domainCommand (c : Signed) (d : DomainCmd) : Encoding.Statement (.domainCommand c d) := Encoding.statement_of_event rfl
theorem Encoding.revocation (c : Signed) (d : RevokeCmd) : Encoding.Statement (.revocation c d) := Encoding.statement_of_event rfl
theorem Encoding.rootRotation (c : Signed) (vendor : Bool) (root : Nat) : Encoding.Statement (.rootRotation c vendor root) := Encoding.statement_of_event rfl
theorem Encoding.counterClear (c : Signed) : Encoding.Statement (.counterClear c) := Encoding.statement_of_event rfl
theorem Encoding.retentionSleep (c : Signed) : Encoding.Statement (.retentionSleep c) := Encoding.statement_of_event rfl
theorem Encoding.retentionWake : Encoding.Statement .retentionWake := Encoding.statement_of_event rfl
theorem Encoding.anchorSiteReset : Encoding.Statement .anchorSiteReset := Encoding.statement_of_event rfl
theorem Encoding.linkRestore (link : Nat) : Encoding.Statement (.linkRestore link) := Encoding.statement_of_event rfl
theorem Encoding.attestationRequest (nonce : Nat) (domain : Nat) : Encoding.Statement (.attestationRequest nonce domain) := Encoding.statement_of_event rfl
theorem Encoding.sramError (x : SramError) : Encoding.Statement (.sramError x) := Encoding.statement_of_event rfl
theorem Encoding.serviceGroupRestart (cluster : Nat) : Encoding.Statement (.serviceGroupRestart cluster) := Encoding.statement_of_event rfl
theorem Encoding.belayNodeFailure (node : Nat) : Encoding.Statement (.belayNodeFailure node) := Encoding.statement_of_event rfl
theorem Encoding.hostSnoop (line : Nat) : Encoding.Statement (.hostSnoop line) := Encoding.statement_of_event rfl
theorem Encoding.hbm4eError (line : Nat) (word : Nat) (unc : Bool) : Encoding.Statement (.hbm4eError line word unc) := Encoding.statement_of_event rfl

end Sys2Proof.Laws
end

