-- ==== Sys2Proof/Tests/Slice0.lean ====
section
/-! SUPPORT. The model's own tests: encodings written out in the spec, ill-formed words, single steps on small states, and for each statement states and operands that meet its hypotheses. -/
namespace Sys2Proof.Tests
open Sys2Proof Sys2Proof.Machine
/-! One theorem is checked after another: each `decide` below holds memory of its own. -/
set_option Elab.async false

/-! ### A small state -/

/-- A header with the guard that is always true. -/
def hdr (sc : Nat) : Hdr := ⟨⟨false, 31⟩, BitVec.ofNat 3 sc⟩
/-- The gang, the launch and the team of a placed instruction after reset. -/
def gidT : Nat := State.reset.nextId + 1
def launchT : Nat := State.reset.nextId + 2
def teamT : Nat := State.reset.nextId
def gangT : Gang := placedGang launchT 0
/-- After reset, a gang of one thread of a rotate group stands at its first word. -/
def base : State := { State.reset.withFetchWord 64 0 with issueQ := [], cur := some gidT }
/-- The same with its thread and its team changed. -/
def prep (f : Thread → Thread) (m : Team → Team) : State := (base.modThr 0 f).modTeam teamT m
/-- A 64-bit register of a thread set; State numbers the slices of a thread from 64. -/
def setQ (first v : Nat) (t : Thread) : Thread := t.putAll ((Dest.slices (first + 64) 16).writes v)
/-- Operands: a 64-bit and a 32-bit register at a slice, an immediate, an address field with an order code. -/
def q (n : Nat) : Operand := .slice (BitVec.ofNat 10 n) 7
def l (n : Nat) : Operand := .slice (BitVec.ofNat 10 n) 5
def i (v : Int) : Operand := .imm (BitVec.ofInt 13 v)
def fa (sc : Nat) (d a b : Operand) : FmtA := ⟨hdr sc, d, a, b⟩
/-- An action that ends well and changes nothing. -/
def still {α : Type} (m : M α) : M α := fun s =>
  match m s with
  | (.ok a, t) => if t = s then (.ok a, s) else (.error .hold, s)
  | x => x
/-- Actions that end well. -/
def runs {α : Type} (m : M α) (s : State) : Bool :=
  match m s with
  | (.ok _, _) => true
  | _ => false
theorem runs_ok {α : Type} {m : M α} {s : State} (h : runs m s = true) : ∃ a s', m s = (.ok a, s') := by
  unfold runs at h
  split at h
  · exact ⟨_, _, by assumption⟩
  · cases h
def runs2 {α β : Type} (m : M α) (n : α → M β) (s : State) : Bool :=
  match m s with
  | (.ok a, s') => runs (n a) s'
  | _ => false
theorem runs2_ok {α β : Type} {m : M α} {n : α → M β} {s : State} (h : runs2 m n s = true) : ∃ a s' b s'', m s = (.ok a, s') ∧ n a s' = (.ok b, s'') := by
  unfold runs2 at h
  split at h
  · obtain ⟨b, t, e⟩ := runs_ok h
    exact ⟨_, _, b, t, by assumption, e⟩
  · cases h
/-- It is the turn of the gang, for a word of any header with that guard. -/
theorem turn (f : Thread → Thread) (m : Team → Team) (sc : Nat) (roles : Role → Bool) (h : (!(prep f m).serial 0 && roles ((prep f m).groupOf 0).role) = true) :
    (prep f m).Turn gidT gangT 0 (hdr sc) roles :=
  have h := (Bool.and_eq_true _ _ ▸ h : _ ∧ _)
  ⟨rfl, rfl, rfl, rfl, rfl, by decide, by simpa using h.1, h.2, rfl⟩

/-! ### When the hypotheses of a shape are met -/

/-- The turn and room in a dependence counter. -/
def Ready (s : State) (h : Hdr) (roles : Role → Bool) : Prop := s.Turn gidT gangT 0 h roles ∧ s.Room 0 h
theorem ready (f : Thread → Thread) (m : Team → Team) (sc : Nat) (roles : Role → Bool)
    (h : (!(prep f m).serial 0 && roles ((prep f m).groupOf 0).role && decide (((prep f m).thr 0).dcount (((prep f m).thr 0).counter (hdr sc).sc.toNat) < 63)) = true) : Ready (prep f m) (hdr sc) roles := by
  simp only [Bool.and_eq_true, decide_eq_true_eq] at h
  exact ⟨turn f m sc roles (by simp only [Bool.and_eq_true]; exact h.1), h.2⟩
/-- Operands that can be read, and a last action on them that ends well. -/
def ends {β : Type} (s : State) (srcs : List (Operand × Option Nat)) (d : Option (Operand × Option Nat)) (last : List SVal → Dest → M β) : Bool :=
  runs2 (operands 0 srcs d) (fun r => last r.1 r.2) s
def Ends {β : Type} (s : State) (srcs : List (Operand × Option Nat)) (d : Option (Operand × Option Nat)) (last : List SVal → Dest → M β) : Prop :=
  ∃ vs dst s1 b s2, operands 0 srcs d s = (.ok (vs, dst), s1) ∧ last vs dst s1 = (.ok b, s2)
theorem ends_ok {β : Type} {s : State} {srcs : List (Operand × Option Nat)} {d : Option (Operand × Option Nat)} {last : List SVal → Dest → M β} (h : ends s srcs d last = true) : Ends s srcs d last := by
  obtain ⟨⟨vs, dst⟩, s1, b, s2, h1, h2⟩ := runs2_ok h
  exact ⟨vs, dst, s1, b, s2, h1, h2⟩
/-- Operands that can be read, a value they give, and a last action with it. -/
def gives {α : Type} (s : State) (srcs : List (Operand × Option Nat)) (d : Option (Operand × Option Nat)) (v : State → Nat → List SVal → Option α) (last : α → Dest → M Unit) : Bool :=
  match operands 0 srcs d s with
  | (.ok (vs, dst), s1) => match v s1 0 vs with
    | some r => runs (last r dst) s1
    | none => false
  | _ => false
def Gives {α : Type} (s : State) (srcs : List (Operand × Option Nat)) (d : Option (Operand × Option Nat)) (v : State → Nat → List SVal → Option α) (last : α → Dest → M Unit) : Prop :=
  ∃ vs dst s1 r s2, operands 0 srcs d s = (.ok (vs, dst), s1) ∧ v s1 0 vs = some r ∧ last r dst s1 = (.ok (), s2)
theorem gives_ok {α : Type} {s : State} {srcs : List (Operand × Option Nat)} {d : Option (Operand × Option Nat)} {v : State → Nat → List SVal → Option α} {last : α → Dest → M Unit}
    (h : gives s srcs d v last = true) : Gives s srcs d v last := by
  unfold gives at h
  split at h
  · rename_i vs dst s1 e
    split at h
    · rename_i r e2
      obtain ⟨⟨⟩, t, e3⟩ := runs_ok h
      exact ⟨vs, dst, s1, r, t, e, e2, e3⟩
    · cases h
  · cases h
/-- Operands that can be read, an action whose answer is one of a kind, and a last action with it. -/
def acts {α β : Type} (s : State) (srcs : List (Operand × Option Nat)) (d : Option (Operand × Option Nat)) (a : List SVal → M α) (p : List SVal → α → State → Bool) (last : List SVal → α → Dest → M β) : Bool :=
  match operands 0 srcs d s with
  | (.ok (vs, dst), s1) => match a vs s1 with
    | (.ok r, s2) => p vs r s2 && runs (last vs r dst) s2
    | _ => false
  | _ => false
def Acts {α β : Type} (s : State) (srcs : List (Operand × Option Nat)) (d : Option (Operand × Option Nat)) (a : List SVal → M α) (p : List SVal → α → State → Bool) (last : List SVal → α → Dest → M β) : Prop :=
  ∃ vs dst s1 r s2 b s3, operands 0 srcs d s = (.ok (vs, dst), s1) ∧ a vs s1 = (.ok r, s2) ∧ p vs r s2 = true ∧ last vs r dst s2 = (.ok b, s3)
theorem acts_ok {α β : Type} {s : State} {srcs : List (Operand × Option Nat)} {d : Option (Operand × Option Nat)} {a : List SVal → M α} {p : List SVal → α → State → Bool} {last : List SVal → α → Dest → M β}
    (h : acts s srcs d a p last = true) : Acts s srcs d a p last := by
  unfold acts at h
  split at h
  · rename_i vs dst s1 e
    split at h
    · rename_i r s2 e2
      simp only [Bool.and_eq_true] at h
      obtain ⟨b, t, e3⟩ := runs_ok h.2
      exact ⟨vs, dst, s1, r, s2, b, t, e, e2, h.1, e3⟩
    · cases h
  · cases h

/-! ### Hypotheses met: integer, float and control words (01, 03, 04) -/

/-- The small state itself. -/
def s0 : State := prep id id
def fm (sc : Nat) (d a b : Operand) (m : Option Modifier) : FmtM := ⟨hdr sc, d, a, b, m⟩
def pd (c : Nat) : PDst := ⟨3, 4, BitVec.ofNat 5 c⟩
theorem turn0 (roles : Role → Bool) (h : roles .rotate = true) (sc : Nat) : s0.Turn gidT gangT 0 (hdr sc) roles := turn id id sc roles (by rw [Bool.and_eq_true]; exact ⟨by decide +kernel, h⟩)
theorem ready0 : Ready s0 (hdr 0) anyRole ∧ Ready s0 (hdr 0) vecRoles ∧ Ready s0 (hdr 0) matRoles ∧ Ready s0 (hdr 0) copyRoles :=
  ⟨ready _ _ _ _ (by decide +kernel), ready _ _ _ _ (by decide +kernel), ready _ _ _ _ (by decide +kernel), ready _ _ _ _ (by decide +kernel)⟩
theorem meets_IntegerArithmetic : Ends s0 (plainOps [l 8, l 16]) (some (l 32, none)) (fun vs d => result 0 d (low 32 (intRes .s32 true 32 (intVal .s32 (src vs 0) + intVal .s32 (src vs 1)))) 2)
    ∧ Ends s0 (plainOps [l 8, i (-1), q 64]) (some (q 32, none)) (fun vs d => result 0 d (low 64 (intRes .z64 false 64 (intVal .z64 (src vs 0) * intVal .z64 (src vs 1) + vs[2]?.elim 0 (intVal .z64)))) 4) :=
  ⟨ends_ok (by decide +kernel), ends_ok (by decide +kernel)⟩
theorem meets_IntegerNarrowing : (8 ≤ itBits .s8 ∧ itBits .z8 ≤ 8 ∧ itSigned .z8 = false ∧ itBits .s8 ≤ 8 ∧ itSigned .s8 = true) ∧ ((0 : Int) ≤ 255 ∧ (255 : Int) < 2 ^ 8 ∧ (-1 : Int) < 0 ∧ (2 : Int) ^ 8 ≤ 256)
    ∧ (-(2 : Int) ^ 7 ≤ -128 ∧ (127 : Int) < 2 ^ 7 ∧ (-129 : Int) < -(2 ^ 7) ∧ (2 : Int) ^ 7 ≤ 128) := by decide
theorem meets_Division : Ends s0 (plainOps [l 8, l 16]) (some (l 32, none)) (fun vs d => issueVar 0 0 d (low 32 (intRes .s32 false 32 (divQ (intVal .s32 (src vs 0)) (intVal .s32 (src vs 1))))) 6 (some (divLatest .s32)) .time true none 0)
    ∧ (-(2 : Int) ^ 31 = -(2 : Int) ^ (itBits .s32 - 1) ∧ itSigned .s32 = true ∧ (0 : Int) ≤ 0) := ⟨ends_ok (by decide +kernel), by decide⟩
theorem meets_CompareSelectMove : (∃ vs x s2, operands 0 (plainOps [l 8, i 5]) none s0 = (.ok (vs, x), s0) ∧ coverPreds 0 (pd 2) s0 = (.ok (), s0) ∧ predResult 0 (pd 2) (icmpCond 2 (intVal .s32 (src vs 0)) (intVal .s32 (src vs 1))) 2 s0 = (.ok (), s2))
    ∧ Ends s0 (plainOps [l 8, l 16, l 24]) (some (l 32, none)) (fun vs d => result 0 d (low 32 (if vs[2]?.elim 0 (·.zx) ≠ 0 then (src vs 0).zx else (src vs 1).zx)) 2)
    ∧ (∃ vs dst s1 r s2 s3, operands 0 (plainOps [opZero, i 8]) (some (q 32, none)) s0 = (.ok (vs, dst), s1) ∧ curPc s1 = (.ok r, s2) ∧ result 0 dst (low 64 (r.toNat + (src vs 1).sx)) 2 s2 = (.ok (), s3)) :=
  ⟨⟨_, _, _, rfl, rfl, rfl⟩, ends_ok (by decide +kernel), ⟨_, _, _, _, _, _, rfl, rfl, rfl⟩⟩
theorem meets_ShiftsAndLogic : Ends s0 (plainOps [l 8, i 32]) (some (l 32, none)) (fun vs d => result 0 d (low 32 (if 32 ≤ (src vs 1).zx then 0 else low 32 ((src vs 0).ext 32 false * 2 ^ (src vs 1).zx))) 2) := ends_ok (by decide +kernel)
theorem meets_BitFields : Ends s0 (plainOps [q 0, i 63]) (some (q 32, none)) (fun vs d => result 0 d (low 64 (firstBit (src vs 0).zx (low 6 (src vs 1).v) false + 256 * firstBit (src vs 0).zx (low 6 (src vs 1).v) true)) 3)
    ∧ Ends s0 (plainOps [q 0, l 16, l 24]) (some (q 32, none)) (fun vs d => result 0 d (low 64 (bfxField true (src vs 0).zx (src vs 1).v (vs[2]?.elim 0 (·.zx)))) 3) := ⟨ends_ok (by decide +kernel), ends_ok (by decide +kernel)⟩
theorem meets_PredicateWords : ∃ x y s2, readPSrc 0 ⟨true, 3⟩ s0 = (.ok x, s0) ∧ readPSrc 0 ⟨false, 31⟩ s0 = (.ok y, s0) ∧ coverPreds 0 (pd 0) s0 = (.ok (), s0) ∧ predResult 0 (pd 0) (x && y) 2 s0 = (.ok (), s2) := ⟨_, _, _, rfl, rfl, rfl, rfl⟩
/-- What an element word does ends well: its operands, its value, its result. -/
theorem meets_FloatArithmetic : runs (do
      let x ← elemOperands 0 (ftFmt .f16) [q 8, q 24] (q 40) none
      let r ← roundElems 0 (ftFmt .f16) none (fun dn i => (elemAt (ftFmt .f16) x.1 i).add dn (elemAt (ftFmt .f16) x.2.1 i)) 4
      result 0 x.2.2.2 r (arithLat .f16)) s0 = true
    ∧ runs (do
      let x ← elemOperands 0 (ftFmt .f64) [q 8] (q 40) none
      let r ← roundElems 0 (ftFmt .f64) none (fun _ i => (elemAt (ftFmt .f64) x.1 i).sqrt) 1
      issueVar 0 0 x.2.2.2 r (divCycles .f64).1 (some (divCycles .f64).2) .time true none 0) s0 = true := by decide +kernel
theorem meets_FloatOther : runs (do
      let x ← elemOperands 0 (ftFmt .f32) [q 8, i 1] (q 40) none
      result 0 x.2.2.2 (ofDigits 32 (List.zipWith (minMaxF (ftFmt .f32) false) x.1 x.2.1)) 2) s0 = true
    ∧ (∃ vs x s2, operands 0 (plainOps [l 8, i 1]) none s0 = (.ok (vs, x), s0) ∧ coverPreds 0 (pd 13) s0 = (.ok (), s0) ∧ predResult 0 (pd 13) true 2 s0 = (.ok (), s2)) :=
  ⟨by decide +kernel, ⟨_, _, _, rfl, rfl, rfl⟩⟩
theorem meets_ConvertAndDot : packWidth (i (-8)) = some (8, true) ∧ packWidth (i 32) = some (32, false)
    ∧ Ends s0 (plainOps [q 8]) (some (l 32, none)) (fun vs d => result 0 d (low 32 (ofDigits 8 ((elemsOf 16 4 (ofI 16) (src vs 0)).map (low 8)))) 2)
    ∧ Ends s0 (plainOps [q 8, q 24, l 48]) (some (l 32, none)) (fun vs d => do
        let mode ← roundMode 0 none
        let rs ← drawsFor 0 mode 1
        result 0 d (low 32 (dotOf .f16 Modifier.none' mode (rs.headD 0) 4 (src vs 0) (src vs 1) vs[2]?)) 5) := ⟨by decide, by decide, ends_ok (by decide +kernel), ends_ok (by decide +kernel)⟩
theorem meets_LaneWordsAlone : Ends s0 (plainOps [q 8, i 511]) (some (l 32, none)) (fun vs d => result 0 d (low 32 (bits (src vs 0).zx (32 * (bits (src vs 1).v 5 4 % (64 / 32))) 32)) 3)
    ∧ (∃ p s1 dst s2, readPSrc 0 ⟨false, 31⟩ s0 = (.ok p, s0) ∧ operands 0 [] (some (l 32, none)) s0 = (.ok ([], dst), s1) ∧ result 0 dst (low 32 (voteOf 3 [(keyLane 0, p)])) 3 s1 = (.ok (), s2)) :=
  ⟨ends_ok (by decide +kernel), ⟨_, _, _, _, rfl, rfl, rfl⟩⟩
/-- A return address of 0x10000 and a window base of 0 stand on the control stack; so does the page of the code. -/
def s1 : State := prep (fun t => { t with cstk := wd 0x100800 }) id
def s2 : State := { s1 with mem := memPutN s1.mem 0x100800 (leBytes 8 0x10000 ++ leBytes 8 0) }
theorem meets_ControlWords : (low 3 (jTarget gangT.pc ⟨hdr 0, 0, 2⟩).toNat = 0 ∧ runs (checkTarget 0 (jTarget gangT.pc ⟨hdr 0, 0, 2⟩)) s0 = true)
    ∧ (s0.thr 0).wbase + 64 * 15 < (s0.thr 0).alloc ∧ (s0.thr 0).cstk.toNat % 8 = 0 ∧ (s0.thr 0).cstkBase.toNat + 16 ≤ (s0.thr 0).cstk.toNat
    ∧ runs (do
        checkHead 0 (jTarget gangT.pc ⟨hdr 0, 15, 2⟩)
        checkTarget 0 (jTarget gangT.pc ⟨hdr 0, 15, 2⟩)
        let p ← storeCheck 0 ((s0.thr 0).cstk.toNat - 16) 8 false .rlx
        let q ← storeCheck 0 ((s0.thr 0).cstk.toNat - 8) 8 false .rlx
        storePlace 0 p (leBytes 8 (gangT.pc + 16).toNat) .rlx
        storePlace 0 q (leBytes 8 0) .rlx) s0 = true
    ∧ ((s2.thr 0).cstk.toNat % 8 = 0 ∧ (s2.thr 0).cstk ≠ (s2.thr 0).cstkTop) ∧ runs (do
        let a ← loadPlain 0 0x100800 8
        let _ ← loadPlain 0 0x100808 8
        if low 3 (wd (ofLe a)).toNat = 0 then checkTarget 0 (wd (ofLe a)) else holdM) s2 = true
    ∧ (0 ≤ ((s0.thr 0).wbase : Int) + 64 * toS 30 15 ∧ ((s0.thr 0).wbase : Int) + 64 * toS 30 15 < (s0.thr 0).alloc) := by decide +kernel

/-! ### Hypotheses met: the other words

Each line is a state, the roles of a word, and its hypotheses in their order: actions that end well and conditions that hold. -/

/-- A condition. -/
def chk (b : Bool) : M Unit := if b then pure () else holdM
/-- The gang of the small state stands at a word of those roles with room in its counter, and an action ends well. -/
def can {α : Type} (s : State) (roles : Role → Bool) (m : M α) : Bool :=
  decide (s.cur = some gidT ∧ tget s.gangs gidT = some gangT) && !s.serial 0 && roles (s.groupOf 0).role
    && decide ((s.thr 0).dcount ((s.thr 0).counter (hdr 0).sc.toNat) < 63) && runs m s
theorem can_ok {α : Type} {s : State} {roles : Role → Bool} {m : M α} (h : can s roles m = true) : Ready s (hdr 0) roles ∧ ∃ a s', m s = (.ok a, s') := by
  simp only [can, Bool.and_eq_true, decide_eq_true_eq, Bool.not_eq_true'] at h
  obtain ⟨⟨⟨⟨⟨c, g⟩, se⟩, r⟩, d⟩, m⟩ := h
  exact ⟨⟨⟨c, g, rfl, rfl, rfl, by decide, se, r, rfl⟩, d⟩, runs_ok m⟩
/-- Sources and a destination, then an action on them. -/
def ws {α : Type} (srcs : List (Operand × Option Nat)) (d : Option (Operand × Option Nat)) (m : List SVal → Dest → M α) : M α := do
  let r ← operands 0 srcs d
  m r.1 r.2
/-- A plain 64-bit destination. -/
def d64 : Option (Operand × Option Nat) := some (q 32, none)
/-- A later result. -/
def lt (d : Dest) (v : Nat) : M Unit := later 0 (hdr 0) d v
def launchSet (s : State) (f : Launch → Launch) : State := s.modLaunch launchT f
def teamOf : M Team := view fun s => s.team (s.thr 0).team

def sTask (n : Nat) : State :=
  launchSet (prep id fun t => { t with groups := t.groups.map fun g => { g with task := true }, taskQ := List.replicate n ⟨0, []⟩ }) fun l => { l with entries := [0] }
def taskIs (p : State → Bool) (v : Nat) : M Unit := ws (plainOps [q 8, q 16]) d64 fun vs d => do
  chk ((src vs 1).zx % 32 = 0)
  let _ ← loadSpanPlain 0 (src vs 1).zx 32
  let s ← get
  chk (p s && !s.mustWait 0 true false)
  lt d v
theorem meets_TaskAndYield : can s0 anyRole (taskIs (fun s => (s.team (s.thr 0).team).groups.any (·.task) == false) 3) = true
    ∧ can (launchSet (sTask 0) fun l => { l with entries := [8] }) anyRole (taskIs (fun s => !(s.launchOf 0).entries.contains 0) 2) = true
    ∧ can (sTask 256) anyRole (taskIs (fun s => (s.launchOf 0).entries.contains 0 && decide (256 ≤ (s.team (s.thr 0).team).taskQ.length)) 1) = true
    ∧ can (sTask 255) anyRole (taskIs (fun s => (s.launchOf 0).entries.contains 0 && decide ((s.team (s.thr 0).team).taskQ.length < 256)) 0) = true := by decide +kernel

/-- The run has one word; its thread has no result under way. -/
def sTrail : State := { s0 with gangs := tset s0.gangs gidT { gangT with count := 1 } }
/-- The same with its thread changed. -/
def sTrailT (f : Thread → Thread) : State := sTrail.modThr 0 f
def gTrail : Gang := { gangT with count := 1 }
/-- A trailer of a run of one word that waits for every counter and publishes nothing. -/
def trailT : FmtT := ⟨1, 255, false, opZero, opZero⟩
theorem atTrailer (b : Option Back) : (sTrailT fun t => { t with back := b }).AtTrailer gidT gTrail 0 ((sTrailT fun t => { t with back := b }).thr 0) trailT :=
  ⟨rfl, rfl, rfl, rfl, rfl, rfl, rfl, rfl, by decide, rfl, ⟨rfl, rfl⟩, rfl, rfl, rfl, fun _ _ _ => rfl⟩
theorem meets_TrailerReady : (sTrailT fun t => { t with back := none }).AtTrailer gidT gTrail 0 ((sTrailT fun t => { t with back := none }).thr 0) trailT ∧ ((sTrailT fun t => { t with back := none }).thr 0).back = none
    ∧ (sTrail.team (sTrail.thr 0).team).preempt = none ∧ sTrail.gateClosed (sTrail.launchOf 0).tenant = false := ⟨atTrailer none, rfl, rfl, by decide +kernel⟩

theorem meets_LoadsAndStores : can s0 anyRole (ws (plainOps [q 8, i 64]) d64 fun vs d => do
      chk (addrAB (src vs 0) (src vs 1) % 8 = 0)
      let b ← loadPiece 0 (addrAB (src vs 0) (src vs 1)) 8 true { acq := some 6, rel := none }
      lt d (ofLe b)) = true
    ∧ can s0 anyRole (ws (plainOps [q 8, i 64, q 32]) none fun vs _ => do
      chk (addrAB (src vs 0) (src vs 1) % 8 = 0)
      storePiece 0 (addrAB (src vs 0) (src vs 1)) (leBytes 8 (src vs 2).zx) true { acq := none, rel := some 2 }
      lt .nowhere 0) = true
    ∧ can s0 anyRole (ws (plainOps [q 8, i (-1)]) d64 fun vs d => do
      chk (low 64 ((src vs 0).zx + (src vs 1).sx * 8) % 8 = 0)
      let b ← loadPiece 0 0x10000 8 true .rlx
      lt d (ofLe b)) = true := by decide +kernel
/-- An address at the start of the aperture. -/
def sPad : State := prep (setQ 8 aperture) id
theorem meets_ScWords : can s0 anyRole (ws (plainOps [q 8, i 64]) d64 fun vs d => do
      let p ← locate 0 (addrAB (src vs 0) (src vs 1)) 8 1
      let s ← get
      chk (p == .dev 64 && !s.mustWait 0 false true)
      raceCheck 0 64 64 true false 2
      holdSc 0 (hdr 0) d 64 8 p .load 0 0 0) = true
    ∧ can sPad anyRole (ws (plainOps [q 8, i 64]) d64 fun vs d => do
      let p ← locate 0 (addrAB (src vs 0) (src vs 1)) 8 1
      let s ← get
      chk (p == .spad 64 && !s.mustWait 0 false true && !s.orphanBytes (s.thr 0).team 64 8)
      holdSc 0 (hdr 0) d (aperture + 64) 8 p .load 0 0 0) = true
    ∧ can s0 anyRole (ws (plainOps [q 8, i 64, q 32]) none fun vs _ => do
      let _ ← locate 0 (addrAB (src vs 0) (src vs 1)) 8 2
      let s ← get
      chk (!s.mustWait 0 true true)
      let p ← storeCheck 0 (addrAB (src vs 0) (src vs 1)) 8 true .sc
      holdSc 0 (hdr 0) .nowhere 64 8 p .store (src vs 2).zx 0 0) = true := by decide +kernel
/-- A count of 0x23 slices at nibble 1, and the same with an empty count. -/
def sSpill (c a : Nat) : State := prep (fun t => setQ 0 c (setQ 16 a t)) id
/-- A spill or fill from slice 512 of the slices and to the address that slices 0 and 16 name. -/
def spillIs (s : State) (m : Nat → Nat → Nat → M Unit) : Bool := can s anyRole (do
  let r ← still (spillOperands 0 (fa 0 (q 16) (l 512) (q 0)))
  m r.1 r.2.1 r.2.2)
def pieces (a c v : Nat) : List (List (Nat × Bytes)) := pagesOf (byteSegs (a / 2) (leBytes ((a % 2 + c + (a + c) % 2) / 2) (low (4 * c) v * 2 ^ (4 * (a % 2)))))
theorem meets_SpillFillStream : spillIs (sSpill 0 1) (fun f c _ => do
      let _ ← still (readSlices 0 f c)
      chk (c = 0)
      lt .nowhere 0) = true
    ∧ spillIs (sSpill 3 0x20001) (fun f c a => do
      let v ← still (readSlices 0 f c)
      chk (c ≠ 0)
      forM' (pieces a c v) (fun p => do forM' p (fun g => spillCheck 0 a (a + c) g.1 g.2.length); forM' p fun g => spillPiece 0 a (a + c) g.1 g.2)
      lt .nowhere 0) = true
    ∧ (4096 < 4097 ∨ (s0.thr 0).alloc + 64 < 64 + 4097) ∧ (4096 < 1 ∨ (s0.thr 0).alloc + 64 < (s0.thr 0).alloc + 64 + 1) ∧ (0 ≤ 4096 ∧ (s0.thr 0).alloc + 64 + 0 ≤ (s0.thr 0).alloc + 64)
    ∧ runs (do
      let _ ← storeCheck 0 0x10000 2 false .rlx
      let _ ← edgeNibble 0 (2 * 0x10000) (decide (2 * 0x10000 < 0x20001))
      edgeNibble 0 0x20003 (decide (0x20003 < 2 * (0x10000 + 2)))) s0 = true
    ∧ spillIs (sSpill 3 0x20001) (fun f c a => do
      still (coverDest 0 (.slices f c))
      let b ← loadSpan 0 (a / 2) (if c = 0 then 0 else (a % 2 + c + 1) / 2) false
      later 0 (hdr 0) (.slices f c) (ofLe b / 2 ^ (4 * (a % 2)))) = true
    ∧ can s0 anyRole (ws (plainOps [q 0, i 4095]) none fun vs _ => do
      let s ← get
      chk (match (prefetch 0 (low 64 ((src vs 0).zx + (src vs 1).sx)) s).1 with | .error .hold => false | _ => true)
      modify fun s => (prefetch 0 (low 64 ((src vs 0).zx + (src vs 1).sx)) s).2
      lt .nowhere 0) = true
    ∧ can (sSpill 0x40 (2 ^ 63 + 7 * 2 ^ 32 + 8)) anyRole (ws (plainOps [q 0, q 16]) none fun vs _ => do
      let s ← get
      chk ((src vs 0).zx % 8 = 0 ∧ bits (src vs 1).zx 48 15 = 0 ∧ low 3 (src vs 1).zx = 0 ∧ (s.thr 0).outst.any (fun o => o.dest.onPort 7) = false)
      modT 0 fun t => { t with streams := dset StreamPort.unbound t.streams 7 ⟨wd (src vs 0).zx, wd (src vs 1).zx, wd (2 ^ 63)⟩ }
      lt .nowhere 0) = true := by decide +kernel

/-- Atomics: the operands are read, the place is checked, and the operation ends well there. -/
def atDev (c n acc : Nat) (op : AtomOp) (s : State) : Bool := can s anyRole (do
  let r ← operandsX 0 [addrOp (.slice 8 (BitVec.ofNat 3 c)), plainOp (q 16)] d64 (op == .cas) (fun _ => pure ())
  let vs := r.1
  let d := r.2
  let p ← atomPlace 0 (src vs 0).zx n acc (ordRel c || c == 4) (c == 4)
  let s ← get
  match p with
  | .dev pa =>
    chk (!s.atomFull 0 acc pa n (c == 4))
    atomCheck 0 (src vs 0).zx false p
    if c = 4 then holdSc 0 (hdr 0) d (src vs 0).zx n p op ((src vs 1).ext 64 false) 0 (if acc = 3 then srcReturn else srcSilent)
    else
      let v ← atomDev 0 teamT pa n op ((src vs 1).ext 64 false) (src vs 2).zx (if ordAcq c then some 5 else none) (if ordRel c then some 5 else none)
      let _ ← issueVar 0 0 d v 1 none .time true none (if acc = 3 then srcReturn else srcSilent)
      pure ()
  | .spad off =>
    atomCheck 0 (src vs 0).zx false p
    if c = 4 then holdSc 0 (hdr 0) d (src vs 0).zx n p op ((src vs 1).ext 64 false) 0 0
    else
      let v ← atomPad 0 teamT off n op ((src vs 1).ext 64 false) (src vs 2).zx (if ordAcq c then some 1 else none) (if ordRel c then some 1 else none)
      let _ ← issueVar 0 0 d v 1 none .time true none 0
      pure ()
  | _ => holdM)
theorem meets_Atomics : atDev 0 8 3 .add s0 = true ∧ atDev 3 8 3 (.addF .f64) s0 = true ∧ atDev 4 8 2 .maxS s0 = true ∧ atDev 0 8 3 .cas s0 = true ∧ atDev 4 8 3 .add sPad = true ∧ atDev 0 8 3 .plset sPad = true ∧ atDev 3 8 2 (.addF .f64) sPad = true
    ∧ runs (atomPad 0 teamT 65528 8 .xor 5 0 none none) s0 = true ∧ (tget s0.teams teamT).isSome = true ∧ Memory.wf (s0.team teamT).spad = true
    ∧ can s0 anyRole (do
      let r ← operandsX 0 [addrOp (q 8), descOp (q 16) 2] (some (descOp (q 64) 2)) true (fun _ => pure ())
      let vs := r.1
      let d := r.2
      let p ← atomPlace 0 (src vs 0).zx 16 3 false false
      let s ← get
      match p with
      | .dev pa =>
        chk (!s.atomFull 0 3 pa 16 false)
        atomCheck 0 (src vs 0).zx false p
        let v ← atomDev 0 teamT pa 16 .cas (src vs 1).v (src vs 2).v none none
        let _ ← issueVar 0 0 d v 1 none .time true none srcReturn
        pure ()
      | _ => holdM) = true := by decide +kernel
theorem meets_ChurnWords : can sPad anyRole (ws [addrOp (q 8), plainOp (l 16)] none fun vs _ => do
      let p ← atomPlace 0 (src vs 0).zx 4 2 false false
      atomCheck 0 (src vs 0).zx true p
      chk (p == .spad 0)
      let s ← get
      modify fun s => (s.spadPut teamT 0 (leBytes 4 (churnBits .addF32 32 (ofLe (s.spadGet teamT 0 4)) (src vs 1).zx))).padRecords teamT 0 4 (s.tagOf teamT) (s.core 0).clock .churn
      lt .nowhere (0 * s.now)) = true
    ∧ can s0 anyRole (ws [addrOp (q 8), plainOp (l 16)] none fun vs _ => do
      let p ← atomPlace 0 (src vs 0).zx 4 2 false false
      atomCheck 0 (src vs 0).zx true p
      let s ← get
      chk (p == .dev 0 && s.mapOf 0 == none)
      let j ← joinLine 0 0 .addF32 0
      chk j
      lt .nowhere 0) = true
    ∧ can s0 anyRole (ws [addrOp (q 8), plainOp (l 16), plainOp (i 4095)] none fun vs _ => do
      let p ← atomPlace 0 (src vs 0).zx 8 2 false false
      atomCheck 0 (src vs 0).zx true p
      chk (scaleOf (src vs 2) == none)
      laterErr 0 (hdr 0) .nowhere 0 0x3000 4) = true
    ∧ can sPad anyRole (ws [addrOp (q 8)] d64 fun vs d => do
      let p ← locateAtom 0 (src vs 0).zx 1 1
      chk (p == .spad 0)
      lt d 1) = true
    ∧ can (s0.setDir 0 (.churn .addF32 0 [])) anyRole (ws [addrOp (q 8)] d64 fun vs d => do
      let p ← locateAtom 0 (src vs 0).zx 1 1
      let s ← get
      chk (p == .dev 0 && (s.unbusy 0).dirOf 0 == .churn .addF32 0 [])
      modify fun s => s.unbusy 0
      clearPeers 0
      modify fun s => s.mergeLine 0 true
      lt d 0) = true := by decide +kernel

theorem meets_Fences : can s0 anyRole (ws [] (some (plainOp (q 32))) fun _ d => laterWait 0 (hdr 0) d 0 (.floor 0)) = true
    ∧ can s0 anyRole (ws [] (some (plainOp (q 32))) fun _ d => do
      let s ← get
      laterWait 0 (hdr 0) d 0 (s.fenceWait 0)) = true
    ∧ can s0 anyRole (ws [] (some (plainOp (q 32))) fun _ d => do
      let st ← takeSerial 0
      laterWait 0 (hdr 0) d 0 (.floor st)) = true ∧ immOf (i 6) = some 6 ∧ immOf (i 5) ≠ some 6 := by decide +kernel
/-- A barrier of the team; a group that is alone in its team's barrier 3 needs no other arrival. -/
def sBar (n : Nat) (x : Barrier) : State := prep id fun t => { t with barriers := [(n, x)] }
def barOk (s : State) (v : Nat) (b : Operand) : Bool := can s anyRole (ws [plainOp b] d64 fun vs d => do
  let r ← arrive 0 (barOperand (src vs 0)).1 (barOperand (src vs 0)).2
  chk (r.1 == v)
  if r.1 = 0 then laterWait 0 (hdr 0) d r.2 (.barrier (barOperand (src vs 0)).1 r.2) else lt d (r.1 * 2 ^ 60 + r.2))
theorem meets_BarrierWords : barOk s0 0 (i 15) = true ∧ barOk (sBar 15 ⟨7, 2, [5]⟩) 1 (i 15) = true ∧ barOk (prep (setQ 8 (2 ^ 33 + 3)) id) 2 (q 8) = true
    ∧ can s0 anyRole (ws [plainOp (i 15)] (some (plainOp (q 32))) fun _ d => lt d 0) = true
    ∧ tget (sBar 3 ⟨7, 1, [0]⟩).teams teamT ≠ none ∧ dwf Barrier.empty ((sBar 3 ⟨7, 1, [0]⟩).team teamT).barriers = true ∧ (sBar 3 ⟨7, 1, [0]⟩).barNeed teamT 3 = 0
    ∧ (sBar 3 ⟨7, 1, []⟩).barNeed teamT 3 ≠ 0 ∧ (sBar 15 ⟨7, 2, [5]⟩).barMask teamT 0 ≠ 2
    ∧ bitAt (s0.barMask teamT 2) (s0.thr 0).grp = false := by decide +kernel
/-- A mapped line 0x200 at the start of the scratchpad, and an open window on it. -/
def sMap (ws : List PadWindow) : State := (prep (setQ 8 0x10000) fun t => { t with maps := [⟨0x10000, [0x200], 0⟩], windows := ws }).setDir 0x200 (.mapped 0 teamT)
/-- A descriptor of two quads at slice 64. -/
def sDesc (a b : Nat) : State := prep (fun t => setQ 64 a (setQ 80 b t)) id
/-- The page of the code in the TLB of the stack, which engines ask; a context whose page table is empty. -/
def withDie (s : State) : State := { s with dies := [(0, { Stack.reset with tlb := [placedPage] })] }
def tableT : Nat := 0x1000000
def withCtx (s : State) : State := { s with mem := memPutN s.mem tableT (leBytes 32 (0x30000 * 2 ^ 192 + 2 ^ 183)), host := { s.host with ctxTable := some tableT } }
theorem meets_MappingWords : can (withDie (sDesc 0x20000 (128 * 2 ^ 32))) anyRole (ws [descOp (q 64) 2] d64 fun vs d => do
      let r ← tryMap 0 (quadOf (src vs 0) 0) (bits (quadOf (src vs 0) 1) 32 32) (low 32 (quadOf (src vs 0) 1))
      chk (r == some 0)
      lt d 0) = true
    ∧ can (withCtx (sDesc 0x7000000000 (128 * 2 ^ 32))) anyRole (ws [descOp (q 64) 2] d64 fun vs d => do
      let r ← tryMap 0 (quadOf (src vs 0) 0) (bits (quadOf (src vs 0) 1) 32 32) (low 32 (quadOf (src vs 0) 1))
      chk (r.isNone)
      laterWait 0 (hdr 0) d 0 (.map (quadOf (src vs 0) 0) 128 0)) = true
    ∧ can s0 anyRole (ws [plainOp (q 8)] d64 fun vs d => do
      let t ← teamOf
      chk (!(t.maps.any fun m => m.va == (src vs 0).zx))
      lt d 1) = true
    ∧ can (sMap []) anyRole (ws [plainOp (q 8)] d64 fun vs d => do
      let t ← teamOf
      match t.maps.find? (fun m => m.va == (src vs 0).zx) with
      | some m => do
        modify fun s => s.unmapOne teamT m
        lt d 0
      | none => holdM) = true
    ∧ can (sMap []) anyRole (ws (plainOps [q 8, i 0]) d64 fun vs d => do
      chk (low 8 (src vs 1).zx = 0)
      lt d 3) = true
    ∧ can (sMap []) anyRole (ws (plainOps [q 8, i 256]) d64 fun vs d => do
      chk (bitAt (src vs 1).zx 8)
      lt d 3) = true
    ∧ can s0 anyRole (ws (plainOps [q 8, i 1]) d64 fun vs d => do
      let s ← get
      chk (s.windowLines teamT (src vs 0).zx 1 == none)
      lt d 1) = true
    ∧ can (withDie (sMap [])) anyRole (ws (plainOps [q 8, i 1]) d64 fun vs d => do
      let s ← get
      chk (low 8 (src vs 1).zx ≠ 0 ∧ bits (src vs 1).zx 11 53 = 0 ∧ bitAt (src vs 1).zx 8 = false)
      chk (s.windowLines teamT (src vs 0).zx (low 8 (src vs 1).zx) == some [0x200])
      chk ((s.team teamT).windows == [])
      modTm teamT fun t => { t with windows := t.windows ++ [⟨128 * 0x200, false, 0⟩] }
      lt d 0) = true
    ∧ can (sMap [⟨128 * 0x200, false, 0⟩]) anyRole (ws (plainOps [q 8, i 1]) d64 fun vs d => do
      let s ← get
      chk (s.windowLines teamT (src vs 0).zx (src vs 1).zx == some [0x200])
      chk (([0x200] : List Nat).all fun l => (s.team teamT).windows.any fun w => w.pa == 128 * l)
      modTm teamT fun t => { t with windows := t.windows.filter fun w => !([0x200] : List Nat).contains (w.pa / 128) }
      laterWait 0 (hdr 0) d 0 (.window (s.throughWindows (s.team teamT).core [0x200]))) = true := by decide +kernel

/-! ### Hypotheses met: engines, rings, guest queues (09, 20) -/

theorem meets_EngineCommands : can s0 matRoles (ws [descOp (q 64) 4] (some (plainOp (q 32))) fun vs d => do
      let t ← teamOf
      chk (t.carabiner == some 0)
      acceptCmd 0 (hdr 0) d .mma .matrix (digits 64 4 (src vs 0).v) none 0) = true
    ∧ can s0 matRoles (ws (plainOps [q 8, i 64]) d64 fun vs d => acceptCmd 0 (hdr 0) d .macc .matrix [(src vs 0).zx, (src vs 1).zx] none 0) = true
    ∧ can s0 copyRoles (ws [descOp (q 64) 5] d64 fun vs d => acceptCmd 0 (hdr 0) d .cpyg .copy (digits 64 5 (src vs 0).v) none 0) = true
    ∧ can s0 copyRoles (ws [descOp (q 64) 4, plainOp (q 8)] d64 fun vs d => acceptCmd 0 (hdr 0) d .cvd .converter (digits 64 4 (src vs 0).v) (some (src vs 1).zx) 0) = true
    ∧ (tget s0.teams (s0.thr 0).team).isSome = true := by decide +kernel
/-- An array command on slot 15 stands in the matrix queue. -/
def cmdT (q : EngineQueue) (quads : List Nat) (kind : CmdKind) : Cmd :=
  { id := 1, queue := q, th := 0, kind := kind, quads := quads, bind := none, mode := 0, started := false, doneAt := 0, piece := 0, data := [], flags := 0, stall := none, stop := false, status := none }
def sCmd : State := prep id fun t => { t with queues := [cmdT .matrix [15] .mzero] }
theorem meets_EngineWaits : can sCmd matRoles (ws [] d64 fun _ d => do
      let t ← teamOf
      chk (t.queues.any (fun c => c.slot = some 15))
      let s ← get
      laterWait 0 (hdr 0) d 0 (.slotDone 15 s.nextId)) = true
    ∧ can s0 matRoles (ws [] d64 fun _ d => do
      let t ← teamOf
      chk (!t.queues.any (fun c => c.slot = some 15))
      lt d 0) = true
    ∧ can s0 matRoles (ws [] d64 fun _ d => result 0 d 0 4) = true
    ∧ can s0 anyRole (ws [] d64 fun _ d => do
      let s ← get
      chk (s.queuesDone teamT 15 s.nextId)
      lt d 0) = true
    ∧ can sCmd anyRole (ws [] d64 fun _ d => do
      let s ← get
      chk (!s.queuesDone teamT 1 s.nextId)
      laterWait 0 (hdr 0) d 0 (.queues 1 s.nextId)) = true := by decide +kernel
/-- A ring at header offset 64 of two stages, the first in a given state with a registry; binding 64 names its first stage. -/
def sRing (state registry : Nat) : State := prep (setQ 8 64) fun t => { t with rings := [(64, ⟨0, 128, [⟨state, 0, 0, registry, 0⟩, ⟨0, 0, 0, 1, 0⟩]⟩)] }
def pwaitIs (s : State) (v : Option Nat) : Bool := can s anyRole (ws [plainOp (q 8)] d64 fun vs d => do
  let s ← get
  match s.bindOf teamT (src vs 0).zx with
  | none => chk (v == some 4)
  | some b => chk (b.2.2.waitStatus 1 false == v)
  if v = none then laterWait 0 (hdr 0) d 0 (.stage 64 0 1 false) else lt d (v.getD 0))
def prelIs (s : State) (mode : Nat) : Bool := can s anyRole (ws [plainOp (q 8)] d64 fun vs d => do
  let s ← get
  match s.bindOf teamT (src vs 0).zx with
  | none => lt d 4
  | some (h, n, st) =>
    chk (mode ≠ 0 || !s.mustSignal 0)
    modify fun s => s.modStage teamT h n fun _ => (st.prel mode 0).1
    lt d (st.prel mode 0).2)
theorem meets_RingWords : can (sDesc 1 0) anyRole (ws [descOp (q 64) 2] d64 fun vs d => do
      chk (pinitOk (quadOf (src vs 0) 0) (quadOf (src vs 0) 1) 65536 1 == false)
      laterErr 0 (hdr 0) d 0x3000 0x3000 1) = true
    ∧ can (sDesc (2 ^ 32 + 2 * 2 ^ 27 + 64) (128 * 2 ^ 20 + 1024)) anyRole (ws [descOp (q 64) 2] d64 fun vs d => do
      chk (pinitOk (quadOf (src vs 0) 0) (quadOf (src vs 0) 1) 65536 1)
      modify fun s => { s with nextId := s.nextId + 1 }
      let _ ← issueVar 0 0 d 0 1 none (.command State.reset.nextId) false none 1
      pure ()) = true
    ∧ pwaitIs s0 (some 4) = true ∧ pwaitIs (sRing 0 1) none = true ∧ (Stage.waitStatus ⟨3, 0, 5, 1, 0⟩ 1 false).isSome = true
    ∧ prelIs s0 0 = true ∧ prelIs (sRing 2 1) 0 = true ∧ prelIs (sRing 2 1) 1 = true ∧ prelIs (sRing 4 0) 2 = true
    ∧ (∃ st : Stage, st.state = 2 ∧ st.registry ≠ 0) ∧ (∃ st : Stage, st.state = 2 ∧ st.registry = 0) ∧ (∃ st : Stage, st.state ≠ 2 ∧ st.state ≠ 3 ∧ st.state ≠ 4)
    ∧ (∃ st : Stage, st.state = 3) ∧ (∃ st : Stage, st.state = 4) := by
  refine ⟨?_, ?_, ?_, ?_, ?_, ?_, ?_, ?_, ?_, ⟨⟨2, 0, 0, 1, 0⟩, ?_⟩, ⟨⟨2, 0, 0, 0, 0⟩, ?_⟩, ⟨⟨0, 0, 0, 0, 0⟩, ?_⟩, ⟨⟨3, 0, 0, 0, 0⟩, ?_⟩, ⟨⟨4, 0, 0, 0, 0⟩, ?_⟩⟩ <;> decide +kernel
/-- A socket with a guest queue 5 of one place holding so many packets. -/
def packetT (ticket : Nat) : GuestPacket := { ticket := ticket, team := teamT, tenant := 0, ctx := 0, quads := [], saved := false, held := none, faultAt := none, fatalAt := none }
def sGuest (rdy fenced : Bool) (ps : List GuestPacket) : State :=
  let s := prep (setQ 8 5) fun t => { t with guest := ps.map fun p => (1, 5, p.ticket) }
  { s with socket := { s.socket with ready := rdy, fenced := fenced, queues := [(5, { base := 0x500000, size := 1, posted := 0, nextTicket := 9, packets := ps, late := [] })] } }
def gsubIs (s : State) (p : State → Nat → Bool) (v : Nat) : Bool := can s anyRole (ws (plainOps [q 64, q 8]) d64 fun vs d => do
  let s ← get
  chk ((src vs 0).zx % 64 = 0 ∧ s.fencedOff teamT 3 s.nextId = false)
  let _ ← loadSpanPlain 0 (src vs 0).zx 64
  let s ← get
  chk (p s (src vs 1).zx)
  lt d v)
def cbpassIs (s : State) (p : Team → Bool) (v : Nat) : Bool := can s matRoles (ws [] d64 fun _ d => do
  let t ← teamOf
  let s ← get
  chk (p t && !s.mustSignal 0)
  lt d v)
theorem meets_CarabinerAndGuest : immOf (i 0) = some 0 ∧ immOf (i (-1)) = some (-1) ∧ cbpassIs (prep id fun t => { t with pair := false }) (fun t => t.pair == false) 3 = true
    ∧ cbpassIs (prep id fun t => { t with carabiner := none }) (fun t => t.pair && t.carabiner != some 0) 1 = true
    ∧ cbpassIs s0 (fun t => t.pair && t.carabiner == some 0 && !(t.carList.contains 3 && (t.groups[3]?.elim false (·.live)))) 2 = true
    ∧ cbpassIs s0 (fun t => t.pair && t.carabiner == some 0 && (t.carList.contains 0 && (t.groups[0]?.elim false (·.live)))) 0 = true
    ∧ cbpassIs s0 (fun t => t.pair && t.carabiner == some 0) 0 = true
    ∧ can (prep id fun t => { t with carabiner := none }) matRoles (ws [] d64 fun _ d => laterWait 0 (hdr 0) d 0 .carabiner) = true
    ∧ gsubIs (sGuest true true []) (fun s _ => s.socket.fenced) (7 * 2 ^ 28) = true ∧ gsubIs (sGuest false false []) (fun s _ => !s.socket.fenced && !s.socket.ready) (3 * 2 ^ 28) = true
    ∧ gsubIs (sGuest true false [packetT 8]) (fun s q => !s.socket.fenced && s.socket.ready && (tget s.socket.queues q).elim false fun x => decide (x.size ≤ x.packets.length)) (2 ^ 28) = true
    ∧ can (sGuest true false []) anyRole (ws (plainOps [q 64, q 8]) d64 fun vs d => do
      let b ← loadSpanPlain 0 (src vs 0).zx 64
      let s ← get
      match tget s.socket.queues (src vs 1).zx with
      | some x => do
        chk (decide (x.packets.length < x.size))
        let t ← appendGuest 0 (src vs 1).zx x b
        lt d t
      | none => holdM) = true
    ∧ can (sGuest true true []) anyRole (ws (plainOps [q 8, i 8]) d64 fun _ d => laterErr 0 (hdr 0) d 0x7000 0x7000 3) = true
    ∧ can (sGuest true false [packetT 8]) anyRole (ws (plainOps [q 8, i 8]) d64 fun vs d => do
      let s ← get
      chk (!s.socket.fenced && (tget s.socket.queues (src vs 0).zx).elim false fun x => x.packets.any (·.ticket == (src vs 1).zx))
      issueVar 0 0 d 0 1 none (.guest (src vs 0).zx (src vs 1).zx) false none 3) = true
    ∧ can (sGuest true false [packetT 8]) anyRole (ws (plainOps [q 8, i 7]) d64 fun vs d => do
      let s ← get
      chk (!s.socket.fenced && !(tget s.socket.queues (src vs 0).zx).elim false fun x => x.packets.any (·.ticket == (src vs 1).zx))
      lt d 0) = true := by decide +kernel

/-! ### Hypotheses met: phasers and the fabric (15) -/

/-- A phaser at slot 5 of stack 0, with the team's group among its registrants or not; slice 8 holds its handle. -/
def regT (sg wt : Bool) : Registrant := { dev := 0, unit := .group launchT 0 0, sig := sg, wait := wt, since := 0, r := 3, counted := [], left := none }
def phT (anyOf : Bool) (p domain : Nat) (rs : List Registrant) : Phaser :=
  { anyOf := anyOf, p := p, regs := rs, c0 := 0, c1 := 0, events := false, broken := false, broken1 := false, found := false, ann := 0, words := [], ctx := 0, tenant := 0, job := 0, domain := domain }
def sPh (p : Phaser) : State :=
  let s := prep (setQ 8 5) id
  { s with belay := { s.belay with phasers := [(5, p)] } }
/-- A word on a phaser with a condition on it, then its last action. -/
def phIs (s : State) (b : Operand) (c : State → Phaser → Bool) (m : Dest → SVal → M Unit) : Bool := can s anyRole (ws (plainOp (q 8) :: if unused b then [] else [plainOp b]) d64 fun vs d => do
  let s ← get
  chk (!s.regOnWay (s.unitOf 0 (unitField b)) (wd (src vs 0).zx) && !s.mustSignal 0)
  match s.phaserFor 0 (src vs 0).zx (unitField b) with
  | .error e => chk (e == 6 && c s (phT false 0 0 []))
  | .ok p => chk (c s p)
  m d (src vs 1))
def msgSent (d : Dest) (v : Nat) : M Unit := do
  let id ← newId
  laterWait 0 (hdr 0) d v (.message id)
theorem meets_PhaserWords : phIs s0 (i 1) (fun _ _ => true) (fun d _ => lt d (6 * 2 ^ 60)) = true
    ∧ phIs (sPh (phT false 3 7 [])) (i 3) (fun s p => p.domain ≠ 0 && s.domainOf (s.launchOf 0).tenant ≠ p.domain) (fun d _ => lt d (7 * 2 ^ 60)) = true
    ∧ phIs (sPh (phT false 3 0 (List.replicate 64 (regT true true)))) (i 3) (fun s p => p.domain == 0 && decide (64 ≤ s.teamRegs teamT)) (fun d _ => lt d (8 * 2 ^ 60)) = true
    ∧ phIs (sPh (phT false 3 0 (List.replicate 63 (regT true true)))) (i 3) (fun s p => p.domain == 0 && decide (s.teamRegs teamT < 64)) (fun d _ => msgSent d 3) = true
    ∧ phIs (sPh (phT false 3 0 [])) (i 0) (fun s p => (p.find 0 (s.unitOf 0 0)).filter (·.sig) == none) (fun d _ => lt d (4 * 2 ^ 60 + 3)) = true
    ∧ phIs (sPh (phT false 3 0 [{ regT true false with unit := .copyQueue launchT 0 }])) (i 4) (fun s p => (p.find 0 (s.unitOf 0 1)).filter (·.sig) != none)
      (fun d _ => do acceptCmd 0 (hdr 0) d .phsig .copy [5, 3] none 0; takePhase 5 (.copyQueue launchT 0)) = true
    ∧ phIs (sPh (phT false 3 0 [regT true false])) (i 0) (fun s p => (p.find 0 (s.unitOf 0 0)).filter (·.sig) == some (regT true false))
      (fun d _ => do takePhase 5 (.group launchT 0 0); let _ ← takeSerial 0; msgSent d 3) = true
    ∧ phIs (sPh (phT false 3 0 [regT true false])) (i 0) (fun s p => (p.find 0 (s.unitOf 0 0)).filter (·.sig) == some (regT true false)) (fun d _ => boundSignal 0 (hdr 0) d 0 5 3 plainFinder) = true
    ∧ phIs (sPh (phT false 3 0 [regT true false])) (l 8) (fun _ p => p.anyOf == false) (fun d _ => lt d (6 * 2 ^ 60)) = true
    ∧ phIs (sPh (phT true 3 0 [regT false true])) (l 8) (fun s p => p.anyOf && (p.find 0 (s.unitOf 0 0)).filter (·.sig) == none) (fun d b => do chk (low 32 b.zx ≠ plainFinder); lt d (4 * 2 ^ 60 + 3)) = true
    ∧ phIs (sPh (phT true 3 0 [regT true false])) (l 8) (fun s p => p.anyOf && (p.find 0 (s.unitOf 0 0)).filter (·.sig) == some (regT true false)) (fun d b => do chk (low 32 b.zx ≠ plainFinder); boundSignal 0 (hdr 0) d 0 5 3 (low 32 b.zx)) = true
    ∧ phIs (sPh (phT false 3 0 [regT true false])) opZero (fun _ p => p.p == 3) (fun d _ => lt d (2 ^ 32 + 3)) = true
    ∧ phIs (sPh (phT false 6 0 [regT true false])) (l 8) (fun s p => (p.find 0 (s.unitOf 0 0)).filter (·.wait) == none) (fun d _ => lt d (4 * 2 ^ 60 + 5)) = true
    ∧ phIs (sPh (phT false 6 0 [regT false true])) (l 8) (fun s p => (p.find 0 (s.unitOf 0 0)).filter (·.wait) != none && p.result 5 == some (2 * 2 ^ 60)) (fun d _ => do acquirePhase 0 5; lt d (2 * 2 ^ 60)) = true
    ∧ phIs (sPh (phT false 5 0 [regT false true])) (l 8) (fun s p => (p.find 0 (s.unitOf 0 0)).filter (·.wait) != none && p.result 5 == none) (fun d _ => laterWait 0 (hdr 0) d 0 (.phase 5 5)) = true
    ∧ phIs (sPh (phT false 5 0 [regT false true])) (l 8) (fun s p => (p.find 0 (s.unitOf 0 0)).filter (·.wait) != none && p.result 5 == none) (fun d _ => lt d (2 ^ 60 + 5)) = true := by decide +kernel
/-- fld, fst, fatm and bulk to the device itself, at the lowest and the highest order. -/
theorem meets_FabricWords : can s0 anyRole (ws [addrOp (q 8), plainOp (i 64)] d64 fun vs d => do
      chk (fabVa (src vs 0).zx (src vs 1).sx % 8 = 0)
      request 0 (hdr 0) d (fabDev (src vs 0).zx) 8 (fabVa (src vs 0).zx (src vs 1).sx) 0 0 false [] 0) = true
    ∧ can s0 anyRole (ws [addrOp (.slice 8 4), plainOp (i 64)] d64 fun vs d => do
      let w ← takeSerial 0
      request 0 (hdr 0) d (fabDev (src vs 0).zx) 8 (fabVa (src vs 0).zx (src vs 1).sx) 4 0 true [] w) = true
    ∧ can s0 anyRole (ws [addrOp (.slice 8 2), plainOp (i 64), plainOp (q 32)] none fun vs _ => do
      let s ← get
      chk (s.queueFull (fabDev (src vs 0).zx) == false && s.threadQuiet 0)
      let w ← takeSerial 0
      let _ ← sendWrite 0 (fabDev (src vs 0).zx) 8 (fabVa (src vs 0).zx (src vs 1).sx) 2 1 (leBytes 8 (src vs 2).zx) w none 0
      let s ← get
      chk (s.leavesAtOnce (fabDev (src vs 0).zx))
      lt .nowhere 0) = true
    ∧ can { s0 with fabric := { s0.fabric with present := [32], tables := [(0, ⟨[some ⟨32, 0, 0⟩], 0, none, 0⟩)], links := [(32, { Link.reset with up := true })] } } anyRole
      (ws [addrOp (.slice 8 0), plainOp (i 64), plainOp (q 32)] none fun _ _ => do
      let id ← sendWrite 0 32 8 64 0 1 (leBytes 8 0) 0 none 0
      let s ← get
      chk (!s.leavesAtOnce 32 && !(s.fabric.writes.all fun y => y.id != id))
      laterWait 0 (hdr 0) .nowhere 0 (.sent id)) = true
    ∧ can (prep (setQ 64 1) id) anyRole (do
      let r ← operandsRw 0 [addrOp (.slice 8 0), descOp (q 64) 2] (plainOp (q 32))
      let vs := r.1
      let d := r.2
      let c := quadOf (src vs 1) 0
      chk (bitAt c 0 && fabVa (src vs 0).zx 0 % 8 == 0 && bits c 8 56 == 0 && bits c 1 2 == 0 && decide (bits c 4 4 ≤ 7))
      request 0 (hdr 0) d (fabDev (src vs 0).zx) 8 0 (low 8 c) 2 false (leBytes 8 (quadOf (src vs 1) 1) ++ leBytes 8 (src vs 2).zx) 0) = true
    ∧ can s0 anyRole (ws [descOp (q 64) 4] d64 fun vs d => do
      chk (bulkOk (quadOf (src vs 0) 1) (quadOf (src vs 0) 2) (quadOf (src vs 0) 3) == false)
      lt d (8 * 2 ^ 60)) = true
    ∧ can (prep (setQ 96 1) id) anyRole (ws [descOp (q 64) 4] d64 fun vs d => do
      let s ← get
      chk (bulkOk (quadOf (src vs 0) 1) (quadOf (src vs 0) 2) (quadOf (src vs 0) 3) && !s.queueFull (fabDev (quadOf (src vs 0) 1)))
      let id ← enterWrite 0 (fabDev (quadOf (src vs 0) 1)) 0 0 noLaunch none true false
      laterWait 0 (hdr 0) d 0 (.bulk id)) = true := by decide +kernel
/-- A record at offset 0xFFF0, the last of the scratchpad, or elsewhere; counters armed or not. -/
def sArr (off : Nat) (l : Tbl Arrival) (spad : List Host.Cell) : State :=
  let s := prep (setQ 8 (aperture + off)) fun t => { t with spad := spad }
  { s with fabric := { s.fabric with arrivals := l } }
/-- Every counter armed elsewhere. -/
def allArmed : Tbl Arrival := (List.range' 0 4096).map fun n => (n, ⟨99, 0⟩)
theorem armed_get (m : Nat) : ∀ lo n, lo ≤ n → n < lo + m → (tget ((List.range' lo m).map fun n => (n, (⟨99, 0⟩ : Arrival))) n).isSome = true := by
  induction m with
  | zero => intro lo n h1 h2; omega
  | succ m ih =>
    intro lo n h1 h2
    simp only [List.range'_succ, List.map_cons, tget]
    rw [if_neg (by omega)]
    split
    · rfl
    · exact ih (lo + 1) n (by omega) (by omega)
theorem allArmed_get (n : Nat) (h : n < 4096) : (tget (sArr 0 allArmed []).fabric.arrivals n).isSome = true := armed_get 4096 0 n (Nat.zero_le n) (by omega)
def acIs (s : State) (b : Operand) (p : State → Nat → Nat → Bool) (m : Dest → M Unit) : Bool := can s anyRole (ws (plainOps [q 8, b]) d64 fun vs d => do
  let off ← recordOff 0 (src vs 0).zx
  let s ← get
  chk (p s off (src vs 1).zx)
  m d)
theorem meets_ArrivalsAndFence : acIs (sArr 0x10000 [] []) (i 1) (fun s off _ => decide ((s.team teamT).spadSize < off + 16)) (fun d => lt d (acHandle 2 0 0)) = true
    ∧ acIs (sArr 0xFFF0 [] []) (i (-1)) (fun s off v => decide (off + 16 ≤ (s.team teamT).spadSize ∧ 2 ^ 40 ≤ v)) (fun d => lt d (acHandle 3 0 0)) = true
    ∧ acIs (sArr 0xFFF0 [] []) (i 0) (fun s off v => decide (off + 16 ≤ (s.team teamT).spadSize ∧ v = 0) && s.arrivalAt teamT off == none) (fun d => do modify fun s => s.spadPut teamT (0xFFF0 + 13) [0]; lt d (acHandle 0 0 0)) = true
    ∧ acIs (sArr 0xFFF0 [(7, ⟨teamT, 0xFFF0⟩)] []) (i 0) (fun s off v => decide (v = 0) && s.arrivalAt teamT off == some 7)
      (fun d => do modify fun s => ({ s with fabric := { s.fabric with arrivals := tdel s.fabric.arrivals 7 } } : State).spadPut teamT (0xFFF0 + 13) [0]; lt d (acHandle 0 0 7)) = true
    ∧ acIs (sArr 0 allArmed []) (i 1) (fun s off _ => s.arrivalAt teamT off == none) (fun d => lt d (acHandle 1 0 0)) = true ∧ (∀ n, n < 4096 → (tget (sArr 0 allArmed []).fabric.arrivals n).isSome = true)
    ∧ acIs (sArr 0xFFF0 [] []) (i 1) (fun s off _ => s.arrivalAt teamT off == none && tget s.fabric.arrivals 0 == none)
      (fun d => do modify fun s => ({ s with fabric := { s.fabric with arrivals := tset s.fabric.arrivals 0 ⟨teamT, 0xFFF0⟩ } } : State).spadPut teamT 0xFFF0 (recordBytes 0 1 1 0); lt d (acHandle 0 0 0)) = true
    ∧ acIs (sArr 16 [(7, ⟨teamT, 16⟩)] []) (i 1) (fun s off _ => s.arrivalAt teamT off == some 7)
      (fun d => do modify fun s => ({ s with fabric := { s.fabric with arrivals := tset s.fabric.arrivals 7 ⟨teamT, 16⟩ } } : State).spadPut teamT 16 (recordBytes 0 1 1 7); lt d (acHandle 0 0 7)) = true
    ∧ acIs (sArr 16 [] []) opZero (fun s off _ => s.arrivalAt teamT off == none) (fun d => lt d (3 * 2 ^ 60)) = true
    ∧ acIs (sArr 16 [(7, ⟨teamT, 16⟩)] [(16, 5), (24, 5)]) opZero (fun s off _ => s.arrivalAt teamT off == some 7 && decide (s.arrivalTarget teamT off ≤ s.arrivalCount teamT off)) (fun d => lt d 5) = true
    ∧ acIs (sArr 16 [(7, ⟨teamT, 16⟩)] [(16, 4), (24, 5)]) opZero (fun s off _ => s.arrivalAt teamT off == some 7 && decide (s.arrivalCount teamT off < s.arrivalTarget teamT off)) (fun d => lt d (2 ^ 60 + 4)) = true
    ∧ acIs (sArr 16 [(7, ⟨teamT, 16⟩)] [(16, 4), (24, 5)]) opZero (fun s off _ => decide (s.arrivalCount teamT off < s.arrivalTarget teamT off)) (fun d => laterWait 0 (hdr 0) d 4 (.arrival 16 0)) = true
    ∧ bitAt (8190 : BitVec 13).toNat 0 = false ∧ bitAt (8191 : BitVec 13).toNat 0 = true
    ∧ can s0 anyRole (ws [] d64 fun _ d => laterWait 0 (hdr 0) d 0 (.allFabric 0 3)) = true :=
  ⟨by decide +kernel, by decide +kernel, by decide +kernel, by decide +kernel, by decide +kernel, allArmed_get, by decide +kernel, by decide +kernel, by decide +kernel, by decide +kernel, by decide +kernel, by decide +kernel, by decide +kernel, by decide +kernel, by decide +kernel⟩

/-! ### Hypotheses met: system words and traps (21, 23) -/

def sysIs (s : State) (n : Nat) (p : Nat → Bool) : Bool := s.privOf 0 && can s anyRole (ws [plainOp (q 8)] d64 fun vs d => do
  chk (p (src vs 0).zx)
  issueVar 0 0 d n 1 none .time true none 15)
def tlbIs (s : State) (c : Nat) (p : State → Bool) (m : Dest → M Unit) : Bool := can s anyRole (ws (plainOps [q 8, i c]) d64 fun vs d => do
  let s ← get
  chk ((src vs 1).zx == c && p s && s.privOf 0)
  m d)
/-- A unit of the tenant: the launch of the team with its mirror word at 64. -/
def cancelIs (s : State) (b : Nat) (p : State → Option UnitRef → Bool) (m : Dest → M Unit) : Bool := can s anyRole (ws [] d64 fun _ d => do
  let s ← get
  chk (s.privOf 0 && p s (s.unitOfThread 0 b))
  m d)
/-- A unit is named by its mirror word, with none there, one that has ended or one that has not. -/
theorem meets_SystemWords_mirror : can s0 anyRole (ws [plainOp (q 8)] d64 fun vs d => do
      let s ← get
      chk (s.privOf 0 && s.unitMirrored 0 2 (wd (src vs 0).zx) == none)
      lt d 2) = true
    ∧ can (launchSet (prep (setQ 8 0x500) id) fun l => { l with lmir := 0x500 }) anyRole (ws [plainOp (q 8)] d64 fun vs d => do
      let s ← get
      chk (s.privOf 0 && s.unitMirrored 0 1 (wd (src vs 0).zx) == some (.launch launchT) && s.unitCount (.launch launchT) != some 0)
      lt d 0) = true := by decide +kernel
theorem meets_SystemWords : can s0 anyRole (ws [] d64 fun _ d => do
      let s ← get
      chk (s.privOf 0)
      lt d (s.sysRead 0 0xC)) = true
    ∧ sysIs (prep (setQ 8 6) id) 1 (fun v => sysTakes (s0.thr 0) 0 v == false) = true ∧ sysIs (prep (setQ 8 5) id) 0 (fun v => sysTakes (s0.thr 0) 0 v) = true
    ∧ sysIs (prep (setQ 8 1024) id) 1 (fun v => sysTakes (s0.thr 0) 4 v == false) = true ∧ sysIs (prep (setQ 8 960) id) 0 (fun v => sysTakes (s0.thr 0) 4 v) = true
    ∧ tlbIs s0 3 (fun _ => low 2 3 = 3) (fun d => lt d 3) = true ∧ tlbIs s0 8 (fun _ => bits 8 3 13 ≠ 0) (fun d => lt d 3) = true
    ∧ tlbIs s0 2 (fun _ => bitAt 2 2 == false) (fun d => do modify (fun s => s.dropTlb (some 0) 2 0 0); let t ← get; laterWait 0 (hdr 0) d 0 (.window (t.translated (some 0)))) = true
    ∧ tlbIs s0 6 (fun s => s.socket.ready == false) (fun d => do modify (fun s => s.dropTlb none 2 0 0); let t ← get; laterWait 0 (hdr 0) d 0 (.window (t.translated none))) = true
    ∧ tlbIs (sGuest true false []) 6 (fun s => s.socket.ready && !s.socket.fenced) (fun d => do
      modify fun s => s.dropTlb none 2 0 0
      let t ← get
      let id ← newId
      laterWait 0 (hdr 0) d 0 (.shootdown id (t.translated none))) = true
    ∧ cancelIs s0 2 (fun _ u => u == none) (fun d => lt d 2) = true
    ∧ cancelIs (launchSet s0 fun l => { l with count := 0 }) 1 (fun s u => u.isSome && u.elim false fun x => s.unitCount x == some 0) (fun d => lt d 1) = true
    ∧ cancelIs s0 1 (fun s u => u.isSome && u.elim false fun x => s.unitCount x != some 0) (fun d => lt d 0) = true := by decide +kernel
def lineIs (s : State) (p : Place → State → Bool) (m : Dest → M Unit) : Bool := can s anyRole (ws [plainOp (q 8)] d64 fun vs d => do
  let x ← lineAt 0 (src vs 0).zx
  still (ownOrder 0 x 128)
  let s ← get
  chk (p x s)
  m d)
/-- A dirty line of core 0 at 0x10000. -/
def sDirty : State := ((prep (setQ 8 0x10000) id).setDir 0x200 (.owned 0)).setL1 0 0x200 (some (.m (List.replicate 128 1)))
/-- cacheop.l2all writes what the agent of the issuing stack holds of another stack's line. -/
theorem meets_CacheWords_l2all : can { s0 with agents := [(agentKey 0 0x200, .dirty (List.replicate 128 1))] } anyRole (ws [] d64 fun _ d => do
      modify fun s => s.cleanStack (coreStack (keyCore 0))
      let s ← get
      chk (s.privOf 0 && memGet s.mem 0x1007F == 1 && tget s.agents (agentKey 0 0x200) == some .clean)
      lt d 0) = true := by decide +kernel
theorem meets_CacheWords : lineIs sPad (fun x _ => x == .spad 0) (fun d => lt d 0) = true ∧ lineIs (sMap []) (fun x s => x == .dev 0x10000 && s.mapOf 0x200 != none) (fun d => lt d 1) = true
    ∧ lineIs s0 (fun x s => x == .dev 0 && s.mapOf 0 == none) (fun d => do
      snoopSectors 0 128 false
      let s ← get
      chk (s.dirOf 0 == .uncached)
      lt d 0) = true
    ∧ lineIs sDirty (fun x s => x == .dev 0x10000 && s.mapOf 0x200 == none) (fun d => do
      snoopSectors 0x10000 128 false
      let s ← get
      chk (s.dirOf 0x200 == .owned 0 && s.l1Of 0 0x200 == some (.m (List.replicate 128 1)))
      modify fun s => (s.recallShared 0 0x200).setDir 0x200 (.shared [0])
      lt d 0) = true
    ∧ lineIs sDirty (fun x s => x == .dev 0x10000 && s.mapOf 0x200 == none) (fun d => do
      snoopSectors 0x10000 128 true
      homeOwn 0x200
      let s ← get
      chk (s.dirOf 0x200 == .uncached)
      lt d 0) = true
    ∧ lineIs sDirty (fun x s => x == .dev 0x10000 && s.mapOf 0x200 == none) (fun d => do
      modify fun s => s.dropCopy 0 0x200
      lt d 0) = true
    ∧ lineIs s0 (fun x s => x == .dev 0 && s.mapOf 0 == none) (fun d => do
      storePiece 0 0 (List.replicate 128 0) true .rlx
      lt d 0) = true
    ∧ can s0 anyRole (ws [] d64 fun _ d => do
      let s ← get
      chk (s.privOf 0)
      lt d 0) = true := by decide +kernel
/-- A trap table at 0x20000 whose every vector is 0x10000; a cairn record of class 18 in its place. -/
def withTraps (s : State) : State := launchSet { s with mem := memPutN s.mem 0x20000 ((List.range 32).flatMap fun _ => leBytes 8 0x10000) } fun l => { l with traps := 0x20000 }
def infoT (cls : Nat) (mid : Bool) : TrapInfo := ⟨cls, 7, 0, 0, 0, 0, 0x10000, mid⟩
def sHand (mid : Bool) : State :=
  let s := prep (fun t => { t with handler := true }) id
  { s with mem := memPutN s.mem 0x100000 (cairnBytes (s.thr 0) { infoT 18 mid with pos := if mid then 0x10008 else 0x10000 }) }
theorem meets_TrapWords : can s0 anyRole (takeTrap 0 (infoT 18 true)) = true ∧ can (withTraps s0) anyRole (takeTrap 0 (infoT 19 false)) = true := by decide +kernel
/-- The trap is taken up to the record that it writes; the gate of its tenant is open there, or closed. -/
def entryIs (s : State) (closed : Bool) : Bool := runs (do
      modT 0 fun t => { t with status := .held .word }
      let b ← loadPlain 0 ((0x20000 : Nat) + 8 * 18) 8
      chk (ofLe b ≠ 0 ∧ low 3 (ofLe b) = 0)
      let _ ← threadXlate 0 (ofLe b) 4
      let t ← getT 0
      storeSpan 0 t.cairn.toNat (cairnBytes t (infoT 18 true)) false
      let s ← get
      chk ((tget s.threads 0).isSome && s.gateClosed (s.launchOf 0).tenant == closed)) s
/-- The gate of tenant 0 closed. -/
def gated (s : State) : State := { s with host := { s.host with budgets := [(0, { Budget.unset with closed := true })] } }
theorem meets_TrapEntry : (∃ t, tget (withTraps s0).threads 0 = some t ∧ t.pend = [] ∧ t.handler = false ∧ low 8 t.cairn.toNat = 0) ∧ trapTicket (infoT 18 true) = 0
    ∧ entryIs (withTraps s0) false = true ∧ entryIs (gated (withTraps s0)) true = true ∧ (∃ t, tget (gated (withTraps s0)).threads 0 = some t ∧ t.pend = [] ∧ t.handler = false ∧ low 8 t.cairn.toNat = 0)
    ∧ (∃ t, tget (sHand true).threads 0 = some t ∧ t.pend = [] ∧ t.handler = true) :=
  ⟨⟨_, rfl, rfl, rfl, rfl⟩, by decide, by decide +kernel, by decide +kernel, ⟨_, rfl, rfl, rfl, rfl⟩, ⟨_, rfl, rfl, rfl⟩⟩
def rfxIs (s : State) (p : Bytes → Bool) : Bool := can s anyRole (do
  let t ← getT 0
  chk (t.handler && !(t.outst.any fun o => 8 ≤ o.dc) && t.pend.isEmpty && low 8 t.cairn.toNat == 0)
  let b ← loadSpanPlain 0 t.cairn.toNat 256
  chk (cairnOk b && p b)
  let _ ← fetchWord 0 (low 64 (ofLe (cut b 0 8) / 8 * 8 + 8))
  pure ())
def headIs (s : State) (v : Bool) : Bool := can s anyRole (do
  let t ← getT 0
  let b ← loadSpanPlain 0 t.cairn.toNat 256
  let h ← runHeadAt 0 (wd (ofLe (cut b 0 8) / 8 * 8))
  chk (h.getD (!bitAt (ofLe (cut b 8 8)) 48) = v))
/-- The return that an rfx has read. -/
def backT (park head : Bool) : Back := ⟨park, List.replicate 256 0, 0x10008, head, 0⟩
theorem meets_TrapReturn : rfxIs (sHand true) (fun _ => true) = true ∧ headIs (sHand true) false = true ∧ rfxIs (sHand false) (fun _ => true) = true ∧ headIs (sHand false) true = true
    ∧ bitAt (immNat (i 1)) 0 = true ∧ bitAt (immNat (i 2)) 1 = true := by decide +kernel
theorem meets_TrapReturn_trailer : (∀ p h, (sTrailT fun t => { t with back := some (backT p h) }).AtTrailer gidT gTrail 0 ((sTrailT fun t => { t with back := some (backT p h) }).thr 0) trailT
      ∧ ((sTrailT fun t => { t with back := some (backT p h) }).thr 0).back = some (backT p h))
    ∧ (sTrail.team (sTrail.thr 0).team).preempt = none ∧ sTrail.gateClosed (sTrail.launchOf 0).tenant = false := ⟨fun p h => ⟨atTrailer (some (backT p h)), rfl⟩, rfl, by decide +kernel⟩

/-! ### Hypotheses met: search words (21) -/

/-- Sources, and a destination that is read, then an action on them. -/
def wsRw {α : Type} (srcs : List (Operand × Option Nat)) (d : Operand × Option Nat) (m : List SVal → Dest → M α) : M α := do
  let r ← operandsRw 0 srcs d
  m r.1 r.2
theorem meets_DistanceWords : can s0 vecRoles (wsRw (plainOps [l 16, l 32]) (plainOp (l 48)) fun vs d =>
      result 0 d (distSum (src vs 2).v (List.zipWith (fun x y => (x.add false y.neg).mul (x.add false y.neg)) (distElems .f16 32 (src vs 0)) (distElems .f16 32 (src vs 1)))) 5) = true
    ∧ can s0 vecRoles (wsRw (plainOps [q 16, q 32]) (plainOp (q 48)) fun vs d =>
      result 0 d (distSum (src vs 2).v [] + 2 ^ 32 * distSum ((src vs 2).v / 2 ^ 32) ((distElems .s8 64 (src vs 1)).map fun x => x.mul x)) 5) = true := by decide +kernel
/-- A list of n entries, m of them written as sentinels, at the start of the scratchpad; slice 16 points at it, slice 32 holds a candidate. -/
def sList (n m c : Nat) : State := prep (fun t => setQ 32 c (setQ 16 aperture t)) fun t => { t with spad := memPutN [] 0 (leBytes 8 n ++ leBytes (8 * m) (2 ^ (64 * m) - 1)) }
def topkIs (s : State) (p : List Nat × Nat × Nat × Bool → Bool) : Bool := can s vecRoles (ws (plainOps [q 32, q 16]) (some (plainOp (q 48))) fun vs d => do
  let l ← readList 0 (src vs 1).zx
  match l with
  | none => lt d (2 * 2 ^ 60)
  | some es => do
    let r := topkInsert es.length (src vs 0).zx es
    chk (p r)
    if r.2.2.2 then writeList 0 (src vs 1).zx r.1 (liveEntries r.1) else pure ()
    lt d (r.2.1 * 2 ^ 60 + r.2.2.1))
/-- A list whose one entry has id 5 and a better key than the candidate that follows it. -/
def sBetter : State := prep (fun t => setQ 32 (5 * 2 ^ 32 + 0x3F000000) (setQ 16 aperture t)) fun t => { t with spad := memPutN [] 0 (leBytes 8 2 ++ leBytes 8 (5 * 2 ^ 32) ++ leBytes 8 (2 ^ 64 - 1)) }
/-- A kmerge descriptor at slices 64 to 127: two lists, a destination, and the lengths. -/
def sMerge (q0 q1 q2 q3 : Nat) : State := prep (fun t => setQ 64 q0 (setQ 80 q1 (setQ 96 q2 (setQ 112 q3 t)))) id
/-- A skim list at 0x30000 of a capacity with some entries; slice 8 points at it, the entry is at slice 64. -/
def sSkim (cap n e0 e1 : Nat) : State :=
  let s := prep (fun t => setQ 8 0x30000 (setQ 64 e0 (setQ 80 e1 t))) id
  { s with mem := memPutN s.mem 0x30000 (leBytes 8 cap ++ leBytes 8 n) }
def skimIs (s : State) (p : Nat → Nat → Nat → Nat → Bool) : Bool := can s vecRoles (ws [plainOp (q 8), descOp (q 64) 2] d64 fun vs d => do
  let va := (src vs 0).zx
  chk (va % 128 = 0)
  let pa ← skimPlace 0 va 16
  let s ← get
  chk (!s.atomFull 0 3 pa 16 false)
  raceCheck 0 va pa true false 3
  snoopSectors pa 16 true
  homeOwn (lineOf pa)
  let h ← homeRead pa 16
  chk (p (low 32 (ofLe h)) (bits (ofLe h) 64 32) (quadOf (src vs 1) 0) (quadOf (src vs 1) 1))
  let ep ← skimPlace 0 (low 64 (va + 128 + 16 * bits (ofLe h) 64 32)) 16
  raceCheck 0 (low 64 (va + 128 + 16 * bits (ofLe h) 64 32)) ep true false 3
  homeWrite ep (leBytes 8 (quadOf (src vs 1) 0) ++ leBytes 8 (quadOf (src vs 1) 1))
  let _ ← takeSerial 0
  homeWrite (pa + 8) (leBytes 4 (bits (ofLe h) 64 32 + 1))
  returned 0 (hdr 0) d (bits (ofLe h) 64 32))
/-- A post-filter of the list at slice 16 with a bitmap and a skim list given at slices 64 to 111. -/
def kfiltIs (s : State) : Bool := can s vecRoles (ws [plainOp (q 16), descOp (q 64) 3] none fun vs _ => do
  still (coverPreds 0 (pd 0))
  let l ← readList 0 (src vs 0).zx
  let out ← kfiltReads 0 (quadOf (src vs 1) 0) (quadOf (src vs 1) 1) (quadOf (src vs 1) 2) ((l.getD []).filter (· != sentinel))
  match l with
  | none => later 0 (hdr 0) (.preds 3 4) 1
  | some es => do
    writeList 0 (src vs 0).zx (out ++ List.replicate (es.length - out.length) sentinel) out.length
    later 0 (hdr 0) (.preds 3 4) (b2n (out.length < es.length)))
/-- What kfilt reads, with a filter or without one. -/
def kreadsIs (s : State) (q0 q1 q2 : Nat) (fs : List Nat) : Bool := runs (do
  let n ← if q2 = 0 then pure 0 else do
    chk (low 64 (q2 + 8) % 4 = 0)
    let b ← loadPieceX 0 (low 64 (q2 + 8)) 4 true { acq := some 5, rel := none } false
    pure (ofLe b)
  let _ ← skimEntries 0 q2 n 0
  let _ ← mapM' (fun e => bitmapHas 0 q0 q1 (candId e)) fs
  pure ()) s
theorem meets_SearchWords : can s0 vecRoles (wsRw [plainOp (q 8)] (descOp (q 64) 8) fun vs d => later 0 (hdr 0) d (ofDigits 64 (topkInsert 8 (src vs 0).zx (digits 64 8 (src vs 1).v)).1)) = true
    ∧ topkIs (sList 0 0 1) (fun _ => true) = true ∧ topkIs (sList 65 0 1) (fun _ => true) = true ∧ topkIs (sList 2 2 1) (fun r => r.2.2.2) = true ∧ topkIs sBetter (fun r => !r.2.2.2) = true := by decide +kernel
theorem meets_SearchWords_merge : can (sMerge 0x20000 0x21000 0x22004 1) vecRoles (ws [descOp (q 64) 4] d64 fun vs d => do
      chk (quadOf (src vs 0) 2 % 8 ≠ 0)
      lt d (3 * 2 ^ 60)) = true
    ∧ can (sMerge 0x20000 0x21000 0x22000 (2 ^ 48 + 2 ^ 32 + 2)) vecRoles (ws [descOp (q 64) 4] d64 fun vs d => do
      chk (bits (quadOf (src vs 0) 3) 18 14 = 0 ∧ low 18 (quadOf (src vs 0) 3) = 2 ∧ spansMeet 0x22000 16 0x20000 8 = false ∧ spansMeet 0x22000 16 0x21000 8 = false)
      let m ← mergeLoop 0 0x20000 1 0x21000 1 0x22000 2 3 0 0 []
      forM' (List.range (2 - m)) fun e => storeQuad 0 (0x22000 + 8 * (m + e)) sentinel
      lt d m) = true
    ∧ skimIs (sSkim 4 4 0 1) (fun cap n _ _ => decide (cap ≤ n)) = true ∧ skimIs (sSkim 4 3 (2 ^ 32) 1) (fun cap n e0 _ => decide (n < cap ∧ bits e0 32 31 ≠ 0)) = true
    ∧ skimIs (sSkim 4 3 5 0) (fun cap n e0 e1 => decide (n < cap ∧ bitAt e0 63 = false ∧ e1 = 0)) = true ∧ skimIs (sSkim 4 3 (2 ^ 63 + 5) 0) (fun cap n e0 _ => decide (n < cap ∧ bits e0 32 31 = 0 ∧ bitAt e0 63 = true)) = true
    ∧ kfiltIs (sList 0 0 0) = true ∧ kfiltIs sBetter = true
    ∧ kfiltIs { sBetter with threads := tmod sBetter.threads 0 fun t => setQ 64 0x20000 (setQ 80 8 (setQ 96 0x30000 t)) } = true
    ∧ kreadsIs s0 0 0 0 [] = true ∧ kreadsIs s0 0x20000 8 0x30000 [5] = true
    ∧ ((0 : Nat) < 2 ∧ [1, sentinel].length = 2 ∧ (topkInsert 2 (2 ^ 64 - 2 ^ 32) [1, sentinel]).2.1 = 1 ∧ (topkInsert 2 (7 * 2 ^ 32) [1, sentinel]).2.1 = 0) := by decide +kernel

/-! ### Hypotheses met: encoding and the step (01, 02) -/

theorem meets_RoundTrip : (∃ i : Instr, formOk i = true ∧ ∃ w, encode i = [w]) ∧ (∃ i : Instr, formOk i = true ∧ ∃ w m, encode i = [w, m]) ∧ wordOp plainTrailer = opTrailer := by
  refine ⟨⟨.nop ⟨hdr 0, opZero, opZero, opZero⟩, by decide, _, rfl⟩, ⟨.fma .f16 ⟨hdr 3, .slice 64 7, .slice 16 7, .slice 24 3, some { Modifier.none' with c := .slice 32 7, clamp := 1, round := 6 }⟩, by decide, _, _, rfl⟩, by decide⟩
theorem meets_DecodeEncode : decode 0x012340514042FFF9#64 plainTrailer = .ok (.iadd .s32 ⟨⟨⟨true, 3⟩, 2⟩, .slice 40 5, .slice 16 5, .imm 0x1FF9, none⟩) 1
    ∧ decode 0x839F6081C04380C3#64 0xFF80839000C00000#64 = .ok (.fma .f16 ⟨hdr 3, .slice 64 7, .slice 16 7, .slice 24 3, some { Modifier.none' with c := .slice 32 7, clamp := 1, round := 6 }⟩) 2 := by decide
/-- A word placed where the machine fetches. -/
def placed (w : Nat) : State := State.reset.withFetchWord 64 w
def fetched (w : Nat) : Bool := runs (fetchPair 0 (wd placeAddr)) { placed w with issueQ := [] }
theorem meets_StepRunsDecoded : (placed 0).agenda = [] ∧ (placed 0).issueQ = [gidT] ∧ tget (placed 0).gangs gidT = some gangT ∧ (gangT.members.find? fun k => !gangT.done.contains k) = some 0
    ∧ fetched 0x012340514042FFF9 = true ∧ fetched 0xFBC0000000000000 = true ∧ State.reset.agenda = [] ∧ State.reset.issueQ = [] ∧ ({ placed 0 with agenda := [.epochAdvance] } : State).agenda = .epochAdvance :: []
    ∧ decode 0xFBC0000000000000#64 plainTrailer = .illegalOpcode ∧ decode 0xFF80000000000000#64 plainTrailer = .illegalForm ∧ runs (takeTrap 0 (infoT 1 false)) (placed 0xFBC0000000000000) = true :=
  ⟨rfl, rfl, rfl, rfl, by decide +kernel, by decide +kernel, rfl, rfl, rfl, by decide, by decide, by decide +kernel⟩
/-- The small state with its group of another role and privilege. -/
def sRole (r : Role) (p : Bool) : State := prep id fun t => { t with carabiner := none, groups := t.groups.map fun g => { g with role := r, priv := p } }
theorem atT (r : Role) (p : Bool) : (sRole r p).At gidT gangT 0 := ⟨rfl, rfl, rfl, rfl, rfl, by decide, by cases r <;> cases p <;> decide +kernel⟩
theorem meets_RoleAndPrivilege : (sRole .matrix true).At gidT gangT 0 ∧ ((sRole .matrix true).groupOf 0).role = .matrix ∧ ((sRole .copy true).groupOf 0).role = .copy ∧ ((sRole .vector true).groupOf 0).role = .vector
    ∧ (sRole .vector false).privOf 0 = false ∧ matRoles ((sRole .matrix true).groupOf 0).role = true ∧ ((sRole .matrix true).team ((sRole .matrix true).thr 0).team).carabiner ≠ some ((sRole .matrix true).thr 0).grp
    ∧ runs (takeTrap 0 (infoT 3 false)) (sRole .matrix true) = true ∧ runs (takeTrap 0 (infoT 4 false)) (sRole .vector false) = true ∧ runs (takeTrap 0 (infoT 5 false)) (sRole .matrix true) = true
    ∧ guardOf 0 ⟨true, 31⟩ s0 = (.ok false, s0) ∧ (∀ sc, (sRole .matrix true).full 0 sc = false) ∧ (∀ sc, (sRole .vector false).full 0 sc = false) ∧ (∀ sc, (sRole .copy true).full 0 sc = false) :=
  ⟨atT _ _, by decide +kernel, by decide +kernel, by decide +kernel, by decide +kernel, by decide +kernel, by decide +kernel, by decide +kernel, by decide +kernel, by decide +kernel, rfl, fun _ => rfl, fun _ => rfl, fun _ => rfl⟩
theorem meets_MemoryReadWrite : Memory.wf [(5, 1), (9, 2)] = true ∧ Memory.wf [] = true := by decide

/-! ### Hypotheses met: results, frames, the picker (06, 07) -/

/-- Outstanding instruction 1 on counter 0 with a result for slice 64. -/
def outT (w : Wait) : Outst := { id := 1, dc := 0, doneAt := 0, dest := .slices 64 8, contested := [], val := 5, wait := w, fixed := true, err := none, report := [], src := 0 }
def sOut (w : Wait) : State := prep (fun t => { t with outst := [outT w] }) id
theorem meets_ResultWrites : (∃ t, tget s0.threads 0 = some t) ∧ runs (result 0 (.slices 64 8) 5 2) s0 = true ∧ (Dest.slices 64 8).writes 5 ≠ [] ∧ (∀ p va w, Dest.slices 64 8 ≠ .element p va w) ∧ runs (later 0 (hdr 0) (.slices 64 8) 5) s0 = true
    ∧ (∃ t p, tget (prep (fun t => { t with pend := [⟨0, [(.slice 64, 5)], false⟩] }) id).threads 0 = some t ∧ t.pend = [p] ∧ p.land ≤ (prep (fun t => { t with pend := [⟨0, [(.slice 64, 5)], false⟩] }) id).now)
    ∧ (∃ t, tget (prep (fun t => { t with pend := [⟨1, [(.slice 64, 5)], false⟩] }) id).threads 0 = some t ∧ ∀ p, p ∈ t.pend → (prep (fun t => { t with pend := [⟨1, [(.slice 64, 5)], false⟩] }) id).now < p.land)
    ∧ dwf 0 (s0.thr 0).slices = true
    ∧ (∃ t o, tget (sOut .time).threads 0 = some t ∧ t.status = .gathered ∧ t.outst.find? (·.dc == 0) = some o ∧ o.wait = .time ∧ o.contested = [] ∧ o.doneAt ≤ (sOut .time).now ∧ ∀ p va w, o.dest ≠ .element p va w)
    ∧ ((sOut .carabiner).thr 0).outst.find? (·.dc == 0) = some (outT .carabiner) ∧ (sOut (.floor 0)).mayComplete 0 (outT (.floor 0)) = false := by
  refine ⟨⟨_, rfl⟩, by decide +kernel, by decide, (fun _ _ _ h => by cases h), by decide +kernel, ⟨_, _, rfl, rfl, by decide⟩, ⟨_, rfl, fun p h => ?_⟩, by decide +kernel, ⟨_, _, rfl, rfl, rfl, rfl, rfl, by decide, fun _ _ _ h => by cases h⟩, rfl, by decide +kernel⟩
  cases h with
  | head => decide
  | tail _ h => cases h
theorem meets_RegisterFrame : Ends s0 (plainOps [l 8, l 16]) (some (l 32, none)) (fun vs d => result 0 d (low 32 (intRes .s32 true 32 (intVal .s32 (src vs 0) + intVal .s32 (src vs 1)))) 2)
    ∧ (∀ o, o ∈ plainOps [l 8, l 16] → plainOperand o.1 = true) ∧ plainOperand (l 32) = true
    ∧ Ends s0 [plainOp (i 15)] (some (plainOp (q 32))) (fun _ d => later 0 (hdr 0) d 0) := ⟨ends_ok (by decide +kernel), by decide, by decide, ends_ok (by decide +kernel)⟩
theorem meets_MemoryFrame : runs (storePlace 0 (.spad 65535) [7] .rlx) s0 = true ∧ (tget s0.teams teamT).isSome = true ∧ Memory.wf (s0.team teamT).spad = true ∧ runs (storePlace 0 (.hostm 127) [7, 8] .rlx) s0 = true ∧ Memory.wf s0.hostMem = true
    ∧ runs (storePlace 0 (.dev 255) [7] .rlx) s0 = true ∧ runs (coreLoad 0 0x1007F 1) sDirty = true := by decide +kernel
theorem tget_mem {α : Type} (k : Nat) (v : α) : ∀ l : Tbl α, tget l k = some v → (k, v) ∈ l
  | [], h => by cases h
  | (j, w) :: r, h => by
    rw [tget] at h
    split at h
    · cases h
    · split at h
      · next e => cases h; subst e; exact List.mem_cons_self ..
      · exact List.mem_cons_of_mem _ (tget_mem k v r h)
/-- What holds of the cores of a table, and of one after reset, holds of every core. -/
theorem core_all (s : State) (p : Core → Bool) (h : (s.cores.all fun e => p e.2) = true) (hr : p Core.reset = true) (c : Nat) : p (s.core c) = true := by
  unfold State.core
  cases e : tget s.cores c with
  | none => exact hr
  | some x => exact List.all_eq_true.mp h _ (tget_mem c x _ e)
/-- Slices of which the package holds a few lines have room. -/
theorem few (s : State) (h : s.dir.length + s.agents.length + s.peerCopies.length < sliceLines) (n : Nat) : s.sliceCount n < sliceLines := by
  have h1 := List.length_filter_le (fun e => homeSlice e.1 == n) s.dir
  have h2 := List.length_filter_le (fun e => agentSlice (e.1 / 2 ^ 40) (e.1 % 2 ^ 40) == n) s.agents
  have h3 := List.length_filter_le (fun e => peerSlice (e.1 % 2 ^ 40) == n) s.peerCopies
  unfold State.sliceCount
  omega
theorem tidy (s : State) (h : (tsorted 0 s.dir && tsorted 0 s.agents && Memory.wf s.mem) = true) (h1 : (s.cores.all fun e => tsorted 0 e.2.l1 && e.2.victim.isEmpty) = true) : s.Tidy := by
  simp only [Bool.and_eq_true] at h
  have hc (c : Nat) : tsorted 0 (s.core c).l1 = true ∧ (s.core c).victim = [] := by
    have := core_all s (fun x => tsorted 0 x.l1 && x.victim.isEmpty) h1 rfl c
    simp only [Bool.and_eq_true, List.isEmpty_iff] at this
    exact this
  exact ⟨h.1.1, h.1.2, h.2, fun c => (hc c).1, fun c => by rw [(hc c).2]; rfl, fun c _ _ => by rw [(hc c).2]; rfl⟩
theorem meets_MemoryFrame_lines : s0.Tidy ∧ s0.Quiet 0 1 ∧ sDirty.Tidy ∧ sDirty.Quiet 0 0x200 :=
  ⟨tidy s0 (by decide +kernel) (by decide +kernel), ⟨rfl, rfl, (fun _ _ h => by cases h), few s0 (by decide +kernel) _, fun _ _ => few s0 (by decide +kernel) _, .inl ⟨rfl, rfl⟩⟩,
    tidy sDirty (by decide +kernel) (by decide +kernel), ⟨by decide +kernel, by decide +kernel, (fun _ _ h => by cases h), few sDirty (by decide +kernel) _, fun _ _ => few sDirty (by decide +kernel) _,
      .inr ⟨by decide +kernel, .inr ⟨List.replicate 128 1, by decide +kernel, List.length_replicate⟩⟩⟩⟩
/-! An engine's spans of many bytes: a page of host memory takes them all. -/

/-- The second GiB of context 0 is a page of host memory. -/
def hostPage : TlbEntry := { placedPage with host := true, va := 1 }
/-- Team i's engines reach the second GiB as host memory, of which no core holds a line, and the first as device memory. -/
structure Hosted (i : Nat) (s : State) : Prop where
  hit : ∀ va, 2 ^ 30 ≤ va → va < 2 ^ 31 → s.tlbFind (s.engAsker i) (s.launch (s.team i).launch).ctx va = some (2, hostPage)
  none : ∀ c l, s.l1Of c l = none
theorem hosted_with {i : Nat} {s : State} (h : Hosted i s) (m : List Host.Cell) (f : Nat) : Hosted i { s with hostMem := m, free := f } := ⟨h.hit, h.none⟩
theorem hosted_of (i : Nat) (s : State) (h1 : (s.die (coreStack (s.team i).core)).tlb = [placedPage, hostPage]) (h2 : (s.launch (s.team i).launch).ctx = 0) (h3 : (s.cores.all fun e => e.2.l1.isEmpty) = true) : Hosted i s := by
  refine ⟨fun va h h' => ?_, fun c l => ?_⟩
  · rw [h2]
    show ((s.die (coreStack (s.team i).core)).tlb.find? fun x => x.hits 0 va).map (fun e => (2, e)) = _
    have e1 : (placedPage.hits 0 va) = false := by
      show (0 == 0 && va / 2 ^ 30 == 0) = false
      have : va / 2 ^ 30 = 1 := by omega
      rw [this]; rfl
    have e2 : (hostPage.hits 0 va) = true := by
      show (0 == 0 && va / 2 ^ 30 == 1) = true
      have : va / 2 ^ 30 = 1 := by omega
      rw [this]; rfl
    rw [h1, List.find?_cons, e1, List.find?_cons, e2]
    rfl
  · have := core_all s (fun x => x.l1.isEmpty) h3 rfl c
    rw [State.l1Of, List.isEmpty_iff.mp this]
    rfl
/-- An engine's access to a page that its stack's TLB holds. -/
theorem xlate_hit {s : State} (a : Asker) (ctx va acc : Nat) (e : TlbEntry) (ha : a.core = none) (hv : va < 2 ^ 50) (h : s.tlbFind a ctx va = some (2, e))
    (hp : (!e.permits acc || beyondMemory e.host (e.phys va) || s.guarded e.host (e.phys va)) = false) : Machine.translate a ctx va acc s = (.ok (.ok (e.host, e.phys va)), { s with free := s.free + 1 }) := by
  unfold Machine.translate
  rw [M.bind_ok (M.run_get s), if_neg (by omega)]
  simp only
  rw [h]
  simp only
  rw [M.bind_ok (M.run_freeM s), M.bind_ok (M.run_modify _ _), hp]
  unfold State.fillTlb
  rw [ha]
  rfl
theorem hosted_locate {i : Nat} {s : State} (h : Hosted i s) (va n acc : Nat) (hl : 2 ^ 30 ≤ va) (hv : va < 2 ^ 31) (ha : acc < 4) :
    engLocate i va n acc s = (.ok (.ok (.hostm (va - 2 ^ 30))), { s with free := s.free + 1 }) := by
  have hp : hostPage.permits acc = true := by
    have : acc = 0 ∨ acc = 1 ∨ acc = 2 ∨ acc = 3 := by omega
    rcases this with r | r | r | r <;> rw [r] <;> rfl
  have hphys : hostPage.phys va = va - 2 ^ 30 := by
    show 0 + va % 2 ^ 30 = va - 2 ^ 30
    omega
  have h1 : (aperture ≤ va && va < apertureEnd) = false := by
    have : ¬ aperture ≤ va := by simp only [aperture]; omega
    simp [this]
  have h2 : ¬ apertureEnd ≤ va := by simp only [apertureEnd]; omega
  have ht := xlate_hit (s.engAsker i) (s.launch (s.team i).launch).ctx va acc hostPage rfl (by omega) (h.hit va hl hv) (by rw [hp]; rfl)
  unfold engLocate
  rw [M.bind_ok (M.run_get s)]
  simp only [h1]
  rw [if_neg (by decide), if_neg h2, M.bind_ok ht, hphys]
  rfl
theorem hosted_store {i : Nat} {s : State} (h : Hosted i s) (pa : Nat) (b : Bytes) : s.hostStore pa b = { s with hostMem := memPutN s.hostMem pa b } := by
  unfold State.hostStore
  have : ∀ l : List Nat, l.foldl (fun s c => if (s.l1Of c (hostLine pa)).isSome then s.setL1 c (hostLine pa) none else s) s = s := by
    intro l
    induction l with
    | nil => rfl
    | cons a r ih => rw [List.foldl_cons, h.none]; exact ih
  simp only [this]
theorem hosted_write {i : Nat} (l : List (Nat × Bytes)) : ∀ s : State, Hosted i s → (∀ g, g ∈ l → 2 ^ 30 ≤ g.1 ∧ g.1 < 2 ^ 31) → ∃ m f, engWriteSegs i l s = (.ok (.ok ()), { s with hostMem := m, free := f }) := by
  induction l with
  | nil => intro s _ _; exact ⟨s.hostMem, s.free, rfl⟩
  | cons g r ih =>
    intro s h hg
    have e : engWrite i g.1 g.2 s = (.ok (.ok ()), { s with hostMem := memPutN s.hostMem (g.1 - 2 ^ 30) g.2, free := s.free + 1 }) := by
      unfold engWrite
      rw [M.bind_ok (hosted_locate h _ _ _ (hg g (List.mem_cons_self ..)).1 (hg g (List.mem_cons_self ..)).2 (by decide)), M.bind_ok (M.run_get _)]
      show (Except.ok (Except.ok ()), State.hostStore _ _ _) = _
      rw [hosted_store (hosted_with h s.hostMem (s.free + 1))]
    obtain ⟨m, f, e2⟩ := ih _ (hosted_with h (memPutN s.hostMem (g.1 - 2 ^ 30) g.2) (s.free + 1)) fun x hx => hg x (List.mem_cons_of_mem _ hx)
    refine ⟨m, f, ?_⟩
    rw [engWriteSegs, M.bind_ok e]
    exact e2
theorem hosted_read {i : Nat} (l : List (Nat × Nat)) : ∀ s : State, Hosted i s → s.hostMem = [] → (∀ g, g ∈ l → 2 ^ 30 ≤ g.1 ∧ g.1 < 2 ^ 31) →
    ∃ f, engReadSegs i l s = (.ok (.ok (List.replicate (l.map (·.2)).sum 0)), { s with hostMem := [], free := f }) := by
  induction l with
  | nil => intro s _ h0 _; exact ⟨s.free, by rw [← h0]; rfl⟩
  | cons g r ih =>
    intro s h h0 hg
    have e : engRead i g.1 g.2 s = (.ok (.ok (List.replicate g.2 0)), { s with hostMem := [], free := s.free + 1 }) := by
      unfold engRead
      rw [M.bind_ok (hosted_locate h _ _ _ (hg g (List.mem_cons_self ..)).1 (hg g (List.mem_cons_self ..)).2 (by decide)), M.bind_ok (M.run_get _)]
      show (Except.ok (Except.ok (memGetN s.hostMem (g.1 - 2 ^ 30) g.2)), _) = _
      rw [h0]
      have z : ∀ n a, memGetN [] a n = List.replicate n 0 := by
        intro n
        induction n with
        | zero => intro a; rfl
        | succ n ih => intro a; rw [memGetN, ih, List.replicate_succ]; rfl
      rw [z, ← h0]
    obtain ⟨f, e2⟩ := ih _ (hosted_with h [] (s.free + 1)) rfl fun x hx => hg x (List.mem_cons_of_mem _ hx)
    refine ⟨f, ?_⟩
    rw [engReadSegs, M.bind_ok e]
    simp only
    rw [M.bind_ok e2]
    show _ = _
    rw [List.map_cons, List.sum_cons, ← List.replicate_append_replicate]
    rfl
theorem segments_in : ∀ f va n hi, va + n ≤ hi → hi < 2 ^ 64 → ∀ g, g ∈ segments va f n → n ≠ 0 ∧ va ≤ g.1 ∧ g.1 < hi
  | 0, _, _, _, _, _, _, h => by cases h
  | f + 1, va, n, hi, h, hh, g, hg => by
    rw [segments] at hg
    split at hg
    · cases hg
    · cases hg with
      | head => exact ⟨‹_›, Nat.le_refl _, by show va < hi; omega⟩
      | tail _ hg =>
        have hl : Machine.low 64 (va + min n (128 - va % 128)) = va + min n (128 - va % 128) := Nat.mod_eq_of_lt (by omega)
        rw [hl] at hg
        have r := segments_in f _ _ hi (by omega) hh g hg
        exact ⟨‹_›, by omega, r.2.2⟩
theorem segments_sum : ∀ f va n, va + n < 2 ^ 64 → n = 0 ∨ n + va % 128 ≤ 128 * f → ((segments va f n).map (·.2)).sum = n
  | 0, va, n, _, h => by simp [segments]; omega
  | f + 1, va, n, hh, h => by
    rw [segments]
    split
    · next r => rw [r]; rfl
    · rw [List.map_cons, List.sum_cons]
      have hl : Machine.low 64 (va + min n (128 - va % 128)) = va + min n (128 - va % 128) := Nat.mod_eq_of_lt (by omega)
      rw [hl, segments_sum f _ _ (by omega) (by omega)]
      show min n (128 - va % 128) + _ = _
      omega
theorem byteSegs_in (b : Bytes) : ∀ l : List (Nat × Nat), ∀ g, g ∈ byteSegs.go b l → ∃ h, h ∈ l ∧ h.1 = g.1 := by
  intro l
  induction l generalizing b with
  | nil => intro g h; cases h
  | cons a r ih =>
    intro g h
    cases h with
    | head => exact ⟨a, List.mem_cons_self .., rfl⟩
    | tail _ h => obtain ⟨x, hx, e⟩ := ih _ g h; exact ⟨x, List.mem_cons_of_mem _ hx, e⟩

theorem leBytes_len : ∀ n v, (leBytes n v).length = n
  | 0, _ => rfl
  | n + 1, v => by rw [leBytes, List.length_cons, leBytes_len n]
theorem leBytes_zero : ∀ n, leBytes n 0 = List.replicate n 0
  | 0 => rfl
  | n + 1 => by rw [leBytes, List.replicate_succ, Nat.zero_div, leBytes_zero n]; rfl
def blkT : TeamBlock := ⟨[], none, [], []⟩
theorem flat_const (n m : Nat) : ((List.range n).flatMap fun _ => List.replicate m (0 : Byte)) = List.replicate (n * m) 0 := by
  induction n with
  | zero => simp
  | succ n ih => rw [List.range_succ, List.flatMap_append, ih, List.flatMap_cons, List.flatMap_nil, List.append_nil, List.replicate_append_replicate, Nat.succ_mul]
theorem blkT_bytes : blkT.bytes = List.replicate 16384 0 := by
  have e1 : (Barrier.empty).bytes = List.replicate 264 0 := by decide +kernel
  have e2 : (AccSlot.empty).bytes = List.replicate 24 0 := by decide +kernel
  unfold TeamBlock.bytes blkT
  simp only [dget, tget, Option.getD_none, Option.elim_none, List.find?_nil, List.flatMap_nil, List.length_nil, e1, e2, flat_const, leBytes_zero, List.append_nil, List.replicate_append_replicate, List.length_replicate]
theorem meets_PickerCycle : runs unitsTick s0.tick = true ∧ ([] : List (Nat × Gang)).length ≤ 4 := by decide +kernel

/-! ### Hypotheses met: events of threads, faults, placement, engines (06, 09, 23) -/

/-- A thread with an entry that has some property. -/
def has (s : State) (p : Thread → Bool) : Bool := (tget s.threads 0).elim false p
/-- The small state with its thread changed, or its team. -/
def sT (f : Thread → Thread) : State := prep f id
def sM (f : Team → Team) : State := prep id f
theorem meets_TimeoutEvents : has (sT fun t => { t with status := .held .trailer, twait := some ⟨0, [], 0⟩ }) (fun t => t.status == .held .trailer && t.twait.isSome && t.trailerMet ⟨0, [], 0⟩ && t.dcErr == [] && t.back.isNone) = true
    ∧ has (sT fun t => { t with status := .held .trailer, twait := some ⟨1, [], 0⟩, outst := [outT .time] }) (fun t => t.status == .held .trailer && !t.trailerMet ⟨1, [], 0⟩) = true
    ∧ has (sT fun t => { t with status := .held .gate }) (fun t => t.status == .held .gate) = true ∧ s0.gateClosed (s0.launchOf 0).tenant = false ∧ (s0.team (s0.thr 0).team).preempt = none
    ∧ (has (prep (fun t => { t with status := .held .gate }) fun t => { t with preempt := some ⟨0, true, false, 0⟩ }) (fun t => t.status == .held .gate && !t.handler && t.outst.all fun o => 8 ≤ o.dc) = true
      ∧ ((sM fun t => { t with preempt := some ⟨0, true, false, 0⟩ }).team teamT).preempt ≠ none ∧ (sM fun t => { t with preempt := some ⟨0, true, false, 0⟩ }).gateClosed 0 = false)
    ∧ has (sT fun t => { t with mid := true }) (·.mid) = true ∧ has s0 (!·.mid) = true
    ∧ has (sT fun t => { t with yielded := some ⟨0, []⟩ }) (·.yielded.isSome) = true
    ∧ (∃ t o, tget { sOut (.arrival 16 1) with now := 1 }.threads 0 = some t ∧ t.outst = [o] ∧ o.id = 1 ∧ o.wait = .arrival 16 1) ∧ (1 ≠ 0 ∧ 1 ≤ ({ sOut (.arrival 16 1) with now := 1 } : State).now)
    ∧ ((sOut (.allFabric 9 9)).thr 0).outst.find? (·.id == 1) = some (outT (.allFabric 9 9)) :=
  ⟨by decide +kernel, by decide +kernel, by decide +kernel, by decide +kernel, by decide +kernel, by decide +kernel, by decide +kernel, by decide +kernel, by decide +kernel, ⟨_, _, rfl, rfl, rfl, rfl⟩, by decide, rfl⟩
/-- A ticket of stack 0 out for page 0x50 of context 0, and a thread that waits for one, answered or not. -/
def missT : Miss := ⟨0, 0x50, 1, 1, 3, 1, 0, none⟩
def sMiss : State := { withCtx s0 with dies := [(0, { Stack.reset with misses := [missT] })] }
def sWaits (a : Option Nat) (e : Bool) : State := sT fun t => { t with status := .held .word, faultWait := some ⟨0, 1, a, infoT 11 true, e⟩ }
def answerT (k : Nat) : Word := BitVec.ofNat 64 (k * 2 ^ 60 + 1)
/-- A page of 1 GiB at address 0 in the page table of context 0; a miss table that is full. -/
def sLeaf : State := { withCtx s0 with mem := memPutN (memPutN (withCtx s0).mem 0x30000 (leBytes 8 0x31001)) 0x31000 (leBytes 8 0x1F) }
def sFull : State := { withCtx s0 with dies := [(3, { Stack.reset with misses := (List.range 8192).map fun n => { missT with page := n + 0x100 } })] }
/-- Where a walk ends. -/
def walks (s : State) (p : Walk → Bool) : Bool := match walk 0 0x50000 s with
  | (.ok w, _) => p w
  | _ => false
theorem meets_FaultEvents_walk : (((s0.die 3).misses.length < Config.missEntries) ∧ walks sLeaf (fun w => match w with | .leaf _ => true | _ => false) = true ∧ walks s0 (fun w => match w with | .bad _ => true | _ => false) = true
      ∧ walks (withCtx s0) (fun w => match w with | .fault _ => true | _ => false) = true)
    ∧ (sMiss.die 0).missOf 0 0x50000 = some missT ∧ ((sFull.die 3).missOf 0 0x50000 = none ∧ Config.missEntries ≤ (sFull.die 3).misses.length) := by decide +kernel
theorem meets_FaultEvents : runs (pageWalk { core := none, die := 3, src := 1 } 0 0x50000 1 2) (withCtx s0) = true
    ∧ (bits (answerT 2).toNat 62 2 = 0 ∧ (sMiss.die 0).misses.find? (fun m => m.ticket == low 32 (answerT 2).toNat && m.fatal.isNone) = some missT ∧ bits (answerT 2).toNat 60 2 = 2 ∧ bits (answerT 2).toNat 32 24 = 0 ∧ (sMiss.die 0).misses.find? (fun m => m.ticket == 1 && m.fatal.isNone) = some missT)
    ∧ (bits (answerT 1).toNat 60 2 = 1 ∧ runs (pageWalk { core := none, die := 0, src := 0 } 0 0x50000 1 1) (sMiss.modDie 0 fun x => { x with misses := x.misses.filter fun y => y.ticket != 1 }) = true)
    ∧ (s0.die 0).misses.find? (fun m => m.ticket == low 32 (answerT 1).toNat && m.fatal.isNone) = none ∧ bits (answerT 0).toNat 60 2 = 0 ∧ bits (answerT 3).toNat 60 2 = 3
    ∧ has (sWaits none false) (fun t => t.status == .held .word && t.faultWait == some ⟨0, 1, none, infoT 11 true, false⟩) = true ∧ (sWaits none false).ticketOpen 0 1 = false ∧ (sWaits none false).gateClosed ((sWaits none false).launchOf 0).tenant = false
    ∧ has (sWaits (some 5) false) (fun t => t.faultWait == some ⟨0, 1, some 5, infoT 11 true, false⟩) = true
    ∧ runs (takeTrap 0 (TrapInfo.fatal (infoT 11 true) 5)) ((sWaits (some 5) false).modThr 0 fun t => { t with faultWait := none }) = true
    ∧ (sWaits none false).gateClosed 0 = false ∧ (gated (sWaits none false)).gateClosed ((gated (sWaits none false)).launchOf 0).tenant = true ∧ has (gated (sWaits none false)) (fun t => t.status == .held .word && t.faultWait.isSome) = true
    ∧ has (sWaits (some 5) true) (fun t => t.faultWait == some ⟨0, 1, some 5, infoT 11 true, true⟩) = true ∧ { sMiss with threads := (sWaits none false).threads }.ticketOpen 0 1 = true
    ∧ has s0 (·.faultWait.isNone) = true ∧ runs (takeTrap 0 (infoT 18 false)) s0 = true := by decide +kernel
/-- A launch 9 of one team that waits for a place, with stack 0 ready. -/
def sPlace : State := { s0 with host := { s0.host with launches := tset s0.host.launches 9 { placedLaunch with placed := 0 } }, trust := { s0.trust with ready := 2 ^ 12 } }
/-- The team has a task group with a queued task and no thread. -/
def sBind : State := { (sM fun t => { t with groups := t.groups.map fun g => { g with task := true, live := true }, taskQ := [⟨0x10000, []⟩] }) with threads := [] }
def preT (e : Bool) : Preempt := ⟨0, true, e, 0⟩
/-- The team under pre-emption, its thread in a state. -/
def sPre (e : Bool) (st : ThreadStatus) : State := prep (fun t => { t with status := st }) fun t => { t with preempt := some (preT e) }
/-- The stack's TLB holds a page of device memory and one of host memory. -/
def withHost (s : State) : State := { s with dies := [(0, { Stack.reset with tlb := [placedPage, hostPage] })] }
/-- A team whose thread is saved, its save area in host memory. -/
def sSaveHost : State := withHost (launchSet { sT (fun t => { t with status := .saved }) with teams := (sM fun t => { t with carabiner := none, preempt := some ⟨0, true, true, 0⟩ }).teams } fun l => { l with save := wd (2 ^ 30) })

/-- The team saved, its class-22 vector at 0x10000, its block in a page of host memory. -/
def sSavedHost : State := withHost (launchSet (withTraps { prep (fun t => { t with status := .saved }) (fun t => { t with preempt := some ⟨0, true, true, 0⟩, placed := false, carabiner := none, block := some blkT }) with
  trust := { s0.trust with ready := 2 ^ 12 }, belay := { s0.belay with nodes := [(nodePackage, { Node.reset with floor := 5 })] } }) fun l => { l with save := wd (2 ^ 30) })
/-- The vectors of classes 21 and 22 of a team with a save area. -/
def sVec (v w : Nat) : State := withDie (launchSet { withTraps s0 with mem := memPutN (withTraps s0).mem (0x20000 + 8 * 21) (leBytes 8 v ++ leBytes 8 w) } fun l => { l with traps := 0x20000, save := 0x40000 })
def vecs (s : State) (p : Nat → Nat → Bool) : Bool := match vectorOf teamT 21 s with
  | (.ok (.at' v), s1) => match vectorOf teamT 22 s1 with
    | (.ok (.at' w), s2) => p v w && (tget s2.teams teamT).isSome
    | _ => false
  | _ => false
def vec22 (s : State) (p : Vector' → Bool) : Bool := match vectorOf teamT 22 s with
  | (.ok v, _) => p v
  | _ => false
/-- What a resume reads. -/
def resumes (s : State) (p : Option (Option Nat) → Bool) : Bool := match resumeReads teamT blkT s with
  | (.ok r, s1) => p r && (tget s1.teams teamT).isSome && (s1.team teamT).guest.isEmpty
  | _ => false
/-- What becomes of the block of a save. -/
def saves (s : State) (p : Except EngFail Unit → Bool) : Bool := match engWriteSpan teamT (s.blockAddr teamT) (s.blockOf teamT).bytes (s.unmapAll teamT) with
  | (.ok r, s1) => p r && (tget s1.teams teamT).isSome && (s1.team teamT).preempt.isSome
  | _ => false
/-- The team at the end of its save handler, its save area at an address. -/
def sSaving (a : Nat) : State := withDie (withCtx (launchSet (sPre true .saved) fun l => { l with save := wd a }))
/-- The launch 9 has waited for room since the start, at priority 7. -/
def sLate : State := { sPlace with now := 200000 * Config.ticksPerNs, host := { sPlace.host with launches := tmod sPlace.host.launches 9 fun x => { x with roomSince := some 0, prio := 7 } } }
theorem meets_PlacementEvents : (match sPlace.nextPlacement with | some (9, none, 2, _) => true | _ => false) = true ∧ s0.nextPlacement.isNone = true
    ∧ (sBind.bindDue teamT = true ∧ (sBind.team teamT).taskQ = [⟨0x10000, []⟩] ∧ sBind.freeTaskSlot teamT = some (0, 0))
    ∧ runs (requestPreempt teamT) s0 = true ∧ ((sM fun t => { t with placed := false }).team teamT).placed = false ∧ ((sM fun t => { t with fin := true }).team teamT).fin = true ∧ ((sPre false .ready).team teamT).preempt.isSome = true
    ∧ (sPre false (.held .preempt)).entryDue teamT = true ∧ (sPre false (.held .preempt)).armed teamT = false ∧ (sArr 16 [(7, ⟨teamT, 16⟩)] []).armed teamT = true
    ∧ vec22 (sVec 0x10000 0x10000) (· == .at' 0x10000) = true ∧ vec22 (sVec 0x10000 0) (· == .at' 0) = true ∧ vec22 (withCtx (launchSet s0 fun l => { l with traps := 0x7000000000 })) (· == .wait) = true
    ∧ (vecs (sVec 0x10000 0x10000) (fun v w => v != 0 && w != 0) = true ∧ vecs (sVec 0 0x10000) (fun v _ => v == 0) = true ∧ vecs (sVec 0x10000 0) (fun _ w => w == 0) = true
      ∧ ((sVec 1 1).launch ((sVec 1 1).team teamT).launch).save ≠ 0 ∧ ((sVec 1 1).team teamT).guest = [] ∧ ((sVec 1 1).team teamT).placed = true ∧ ((sVec 1 1).team teamT).fin = false ∧ ((sVec 1 1).team teamT).preempt = none)
    ∧ (0 ∈ (sVec 1 1).threadsOf teamT ∧ has (prep (fun t => { t with status := .ready }) id) (fun t => t.status == .ready && t.atRest) = true)
    ∧ runs (forM' ((sPre false (.held .preempt)).threadsOf teamT) fun k => takeTrap k ⟨21, 0, 0, 0, 0, 0, 0x10000, false⟩) ((sPre false (.held .preempt)).modTeam teamT fun t => { t with preempt := t.preempt.map fun p => { p with entered := true } }) = true
    ∧ s0.entryDue teamT = false ∧ ((sPre true .ready).team teamT).preempt = some (preT true) ∧ ((sPre false .ready).team teamT).preempt = some (preT false) ∧ (sPre false .ready).now < 0 + preemptLimit
    ∧ (0 + preemptLimit ≤ ({ sPre false .ready with now := preemptLimit } : State).now ∧ (({ sPre false .ready with now := preemptLimit } : State).team teamT).placed = true) := by decide +kernel
theorem meets_PlacementEvents_save : (sLate.roomLate (sLate.launch 9) = true ∧ sLate.victimFor 9 = some teamT ∧ runs (requestPreempt teamT) (sLate.modLaunch 9 fun x => { x with roomSince := some sLate.now }) = true) ∧ s0.roomLate (s0.launch 9) = false
    ∧ ((sPre true .saved).saveDue teamT = true ∧ (tget (sPre true .saved).teams teamT).isSome = true) ∧ s0.saveDue teamT = false ∧ (s0.team teamT).block = none
    ∧ saves (sSaving 0x7000000000) (fun r => match r with | .error (.stall _ _) => true | _ => false) = true
    ∧ saves (withDie (launchSet (sPre true .saved) fun l => { l with save := 0x7000000000 })) (fun r => match r with | .error (.fatal _ _) => true | _ => false) = true
    ∧ ((sSavedHost.team teamT).block = some blkT ∧ (match sSavedHost.roomFor (sSavedHost.launch (sSavedHost.team teamT).launch) with | some (2, 0, 0, _) => true | _ => false) = true ∧ (sSavedHost.team teamT).preempt = some ⟨0, true, true, 0⟩
      ∧ (sSavedHost.team teamT).placed = false ∧ (sSavedHost.team teamT).fin = false ∧ clkLt 0 sSavedHost.podFloor = true ∧ resumes (withCtx (launchSet sSavedHost fun l => { l with save := 0x7000000000 })) (· == none) = true) := by decide +kernel
/-- The save of a team whose save area is a page of host memory is written whole. -/
theorem meets_save : (∃ s1, engWriteSpan teamT (sSaveHost.blockAddr teamT) (sSaveHost.blockOf teamT).bytes (sSaveHost.unmapAll teamT) = (.ok (.ok ()), s1) ∧ (tget s1.teams teamT).isSome = true ∧ (s1.team teamT).preempt = some ⟨0, true, true, 0⟩)
    ∧ sSaveHost.saveDue teamT = true := by
  have h : Hosted teamT (sSaveHost.unmapAll teamT) := hosted_of _ _ (by decide +kernel) (by decide +kernel) (by decide +kernel)
  have e : sSaveHost.blockOf teamT = blkT := by decide +kernel
  have ea : 2 ^ 30 ≤ sSaveHost.blockAddr teamT ∧ sSaveHost.blockAddr teamT < 2 ^ 30 + 2 ^ 29 := by decide +kernel
  rw [e, blkT_bytes]
  obtain ⟨m, f, r⟩ := hosted_write (byteSegs (sSaveHost.blockAddr teamT) (List.replicate 16384 0)) _ h (by
    intro g hg
    obtain ⟨x, hx, e⟩ := byteSegs_in _ _ g hg
    have := segments_in _ _ _ (sSaveHost.blockAddr teamT + 16384) (by rw [List.length_replicate]) (by omega) x hx
    omega)
  have ht : (tget (sSaveHost.unmapAll teamT).teams teamT).isSome = true ∧ ((sSaveHost.unmapAll teamT).team teamT).preempt = some ⟨0, true, true, 0⟩ := by decide +kernel
  exact ⟨⟨_, r, ht.1, ht.2⟩, by decide +kernel⟩
/-- A saved team's vector and its block are read as they were saved. -/
theorem meets_resume : ∃ s1, resumeReads teamT blkT sSavedHost = (.ok (some (some 0x10000)), s1) ∧ (tget s1.teams teamT).isSome = true ∧ (s1.team teamT).guest = [] := by
  unfold resumeReads
  obtain ⟨v, hv⟩ : ∃ v, (vectorOf teamT 22 sSavedHost) = (.ok (.at' 0x10000), v) ∧ Hosted teamT v ∧ v.hostMem = [] ∧ (tget v.teams teamT).isSome = true ∧ (v.team teamT).guest = []
      ∧ v.tlbFind (v.engAsker teamT) (v.launch (v.team teamT).launch).ctx 0x10000 = some (2, placedPage) ∧ v.guarded false 0x10000 = false := by
    have e : (vectorOf teamT 22 sSavedHost).1 = .ok (.at' 0x10000) := by decide +kernel
    exact ⟨(vectorOf teamT 22 sSavedHost).2, Prod.ext e rfl, hosted_of _ _ (by decide +kernel) (by decide +kernel) (by decide +kernel), by decide +kernel, by decide +kernel, by decide +kernel, by decide +kernel, by decide +kernel⟩
  obtain ⟨hv, h, h0, ht, hg, hp, hgd⟩ := hv
  have ea : 2 ^ 30 ≤ sSavedHost.blockAddr teamT ∧ sSavedHost.blockAddr teamT < 2 ^ 30 + 2 ^ 29 := by decide +kernel
  obtain ⟨f, r⟩ := hosted_read (segs (sSavedHost.blockAddr teamT) 16384) v h h0 (by
    intro g hg
    have := segments_in _ _ _ (sSavedHost.blockAddr teamT + 16384) (Nat.le_refl _) (by omega) g hg
    omega)
  rw [show ((segs (sSavedHost.blockAddr teamT) 16384).map (·.2)).sum = 16384 from segments_sum _ _ _ (by omega) (.inr (by omega))] at r
  have hc : sSavedHost.engAsker teamT = v.engAsker teamT ∧ (sSavedHost.launch (sSavedHost.team teamT).launch).ctx = (v.launch (v.team teamT).launch).ctx := by
    have e : v = (vectorOf teamT 22 sSavedHost).2 := by rw [hv]
    rw [e]
    decide +kernel
  have x := xlate_hit (s := { v with hostMem := [], free := f }) (v.engAsker teamT) (v.launch (v.team teamT).launch).ctx 0x10000 4 placedPage rfl (by decide) hp (by
    show (false || false || v.guarded false 0x10000) = false
    rw [hgd]; rfl)
  refine ⟨{ v with hostMem := [], free := f + 1 }, ?_, ht, hg⟩
  rw [M.bind_ok (M.run_get _), M.bind_ok hv]
  simp only
  rw [M.bind_ok (show engReadSpan teamT (sSavedHost.blockAddr teamT) 16384 v = _ from r)]
  simp only
  rw [hc.1, hc.2, M.bind_ok (show tryTranslate _ _ _ _ { v with hostMem := [], free := f } = _ by unfold tryTranslate; rw [x])]
  rw [blkT_bytes]
  generalize List.replicate 16384 (0 : Byte) = z
  simp

/-- A command of the team's that has started, with a tick at which it ends. -/
def sRun (kind : CmdKind) (q : EngineQueue) (quads : List Nat) (b : Option Nat) (st : Option Nat) : State := withDie (sM fun t => { t with
  queues := [{ cmdT q quads kind with started := true, bind := b, status := st }], inits := [⟨9, 0, 64, 1024, 128, 2, 1⟩], rings := [(64, ⟨0, 128, [⟨0, 0, 0, 1, 0⟩, ⟨0, 0, 0, 1, 0⟩]⟩)] })
def mmaQuads : List Nat := [0x40000, 0x50000, 0, 0]
theorem meets_EngineEvents : (match asParty (partyEngine teamT) (holdM : M Unit) s0 with | (.error .hold, _) => true | _ => false) = true ∧ s0.mmaDue teamT = none
    ∧ ((sRun .mma .matrix mmaQuads none none).mmaDue teamT).isSome = true ∧ (match (sRun .mma .matrix mmaQuads none none).mmaDue teamT with | some c => runs (tryPiece teamT c (mmaGroup teamT c)) (sRun .mma .matrix mmaQuads none none) | none => false) = true
    ∧ s0.cmd teamT 1 = none
    ∧ (match (sRun .cpy .copy [0x40000, 0x50000, 4096] (some 64) none).cmd teamT 1 with
      | some c => c.started && c.status.isNone && c.stall.isNone && c.bind.isSome && runs (tryPiece teamT c (workPiece teamT c)) (sRun .cpy .copy [0x40000, 0x50000, 4096] (some 64) none).nextFree.2
      | none => false) = true
    ∧ (match (sRun .cpy .copy [0x40000, 2 ^ 50, 4096] (some 64) none).cmd teamT 1 with
      | some c => c.started && c.status.isNone && c.stall.isNone && c.bind.isSome && match tryPiece teamT c (workPiece teamT c) (sRun .cpy .copy [0x40000, 2 ^ 50, 4096] (some 64) none).nextFree.2 with
        | (.ok r, _) => r != .done
        | _ => false
      | none => false) = true
    ∧ (s0.team teamT).queues.find? (·.queue == .copy) = none
    ∧ (match ((sRun .cpy .copy [] none (some 0)).team teamT).queues.find? (·.queue == .copy) with
      | some c => c.started && c.stall.isNone && decide (c.doneAt ≤ (sRun .cpy .copy [] none (some 0)).now) && c.kind != .phsig && c.status == some 0
      | none => false) = true
    ∧ (s0.team teamT).inits.find? (·.id == 9) = none
    ∧ (((sRun .cpy .copy [] (some 64) none).team teamT).inits.find? (·.id == 9) = some ⟨9, 0, 64, 1024, 128, 2, 1⟩ ∧ (sRun .cpy .copy [] (some 64) none).pinitReady teamT ⟨9, 0, 64, 1024, 128, 2, 1⟩ = false)
    ∧ ((tget (sRun .cpy .copy [] none none).teams teamT).isSome = true ∧ (sRun .cpy .copy [] (some 0x80) none).pinitReady teamT ⟨9, 0, 64, 1024, 128, 2, 1⟩ = true) := by decide +kernel

/-! ### Hypotheses met: the home and the host, queues (14, 24) -/

/-- Core 0 holds line 5 in a state, known to the home as its owner or not; its victim buffer holds line 7. -/
def mData : L1Line := .m (List.replicate 128 1)
def sLine (d : LineState) (x : Option L1Line) : State := (s0.setDir 5 d).setL1 0 5 x
def sVictim : State := (s0.setDir 7 (.owned 0)).modCore 0 fun c => { c with victim := [(7, mData)] }
/-- The victim buffer's line 7 has its grant; or it is a partial of a line in the Churn state. -/
def sBusy : State := sVictim.setDir 7 (.busy 0 (.owned 0))
def partT : L1Line := .c .addF32 0 (List.replicate 128 0)
def sPartial : State := (s0.setDir 7 (.churn .addF32 0 [])).modCore 0 fun c => { c with victim := [(7, partT)] }
/-- A sector in states toward the host and the guest die. -/
def sSect (h g : SectorState) (hs : Bool) (gs : Option Nat) : State := s0.setSector 3 ⟨h, g, hs, gs⟩
/-- A domain that owns the first MiB. -/
def sDomain : State := { s0 with trust := { s0.trust with domains := [(1, { members := [0], epoch := 1, secret := 7, prevSecret := 6, switchAt := 0, tenants := [], ranges := [(0, 2 ^ 20)], removed := [], seen := [], sendSeq := [] })] } }
theorem meets_CoherenceEvents : ((sLine (.owned 0) (some mData)).l1Of 0 5 = some mData ∧ (List.replicate 128 (1 : Byte)).length = 128 ∧ Memory.wf (sLine (.owned 0) (some mData)).mem = true ∧ tget ((sLine (.owned 0) (some mData)).core 0).victim 5 = none
      ∧ tsorted 0 ((sLine (.owned 0) (some mData)).core 0).l1 = true ∧ (sLine (.owned 0) (some mData)).dirOf 5 = .owned 0 ∧ ((sLine (.owned 0) (some mData)).core 0).victim.length < 32)
    ∧ (tget (sVictim.core 0).victim 7 = some mData ∧ sVictim.dirOf 7 = .owned 0 ∧ sVictim.peerAcks.any (·.line == 7) = false) ∧ tget (s0.core 0).victim 7 = none
    ∧ (tget (sBusy.core 0).victim 7 = some mData ∧ sBusy.dirOf 7 = .busy 0 (.owned 0) ∧ foreignStack 0 7 = none ∧ sBusy.l1Of 0 7 = none ∧ tsorted 0 sBusy.dir = true ∧ tsorted 0 (sBusy.core 0).victim = true ∧ Memory.wf sBusy.mem = true)
    ∧ (tget (sPartial.core 0).victim 7 = some partT ∧ sPartial.dirOf 7 = .churn .addF32 0 [] ∧ sPartial.peerAcks.any (·.line == 7) = false)
    ∧ ((s0.unbusy 7).partialAt 0 7 = none ∧ (sPartial.unbusy 7).partialAt 0 7 ≠ none) ∧ ((s0.peer (7 / 16)).mode = 0 ∧ s0.peerAcks.any (·.line == 7) = false ∧ s0.lineOpen 7 = true)
    ∧ (s0.hostSees 0 64 = true ∧ s0.hostSees (Config.memBytes - 1) 1 = true ∧ s0.barred 0 64 = false ∧ runs (do forM' (sectorsOf 0 64) (snoopOther false false); homeBytes 0 64) (s0.inName partyHost) = true)
    ∧ (sDomain.hostSees (2 ^ 20 - 1) 1 = true ∧ sDomain.barred (2 ^ 20 - 1) 1 = true ∧ sDomain.barred (2 ^ 20) 1 = false)
    ∧ runs (do forM' (sectorsOf 127 2) (snoopOther false true); forM' (linesOf 127 2) homeOwn; outsideWrite 127 [1, 2]) (s0.inName partyHost) = true ∧ s0.hostSees 127 2 = true ∧ s0.barred 127 2 = false
    ∧ (match hostRead 192 1 true ((sSect .i .m false none).inName partyHost) with | (.error .hold, _) => true | _ => false) = true
    ∧ ((sSect .m .i false none).sector 3).host = .m ∧ ((sSect .s .i true none).sector 3).host ≠ .m ∧ ((sSect .s .i true none).sector 3).hostSnoop = true ∧ ((sSect .s .i true none).sector 3).host = .s ∧ ((sSect .m .i false none).sector 3).hostSnoop = false
    ∧ (tget s0.cores 0).isSome = true := by decide +kernel
theorem calm (s : State) (c l : Nat) (h : ((tget s.cores c).isSome && (tget (s.core c).victim l).isNone && s.agents.isEmpty && decide (s.dir.length + s.agents.length + s.peerCopies.length < sliceLines)
    && decide ((setLines (s.core c).l1 l).length < 16) && !s.lineHeld l && decide ((s.peer (l / 16)).mode = 0) && !(s.peerAcks.any (·.line == l)) && s.lineOpen l) = true) : s.Calm c l := by
  simp only [Bool.and_eq_true, Bool.not_eq_true', Option.isNone_iff_eq_none, List.isEmpty_iff, decide_eq_true_eq] at h
  obtain ⟨⟨⟨⟨⟨⟨⟨⟨h1, h2⟩, h3⟩, h4⟩, h5⟩, h6⟩, h7⟩, h8⟩, h9⟩ := h
  exact ⟨h1, h2, (fun st d => by rw [h3]; nofun), few s h4 _, fun _ _ => few s h4 _, h5, h6, h7, h8, h9⟩
theorem meets_CoherenceEvents_calm : (s0.Calm 0 5 ∧ s0.dirOf 5 = .uncached ∧ s0.l1Of 0 5 = none) ∧ ((sLine (.shared [0]) (some .s)).Calm 0 5 ∧ (sLine (.shared [0]) (some .s)).dirOf 5 = .shared [0] ∧ (sLine (.shared [0]) (some .s)).l1Of 0 5 = some .s) :=
  ⟨⟨calm _ _ _ (by decide +kernel), rfl, rfl⟩, ⟨calm _ _ _ (by decide +kernel), by decide +kernel, by decide +kernel⟩⟩
/-- Core 192, of another stack than line 7, writes it back: the data go to the agent of its stack. -/
def sForeign : State := (s0.setDir 7 (.busy 192 (.owned 192))).modCore 192 fun c => { c with victim := [(7, mData)] }
theorem meets_CoherenceEvents_agent : foreignStack 192 7 = some 1 ∧ tget (sForeign.core 192).victim 7 = some mData ∧ sForeign.dirOf 7 = .busy 192 (.owned 192) ∧ sForeign.l1Of 192 7 = none ∧ tsorted 0 sForeign.dir = true ∧ tsorted 0 sForeign.agents = true
    ∧ tsorted 0 (sForeign.core 192).victim = true := by decide +kernel
theorem meets_CoherenceEvents_cores : ∀ d, tsorted 0 (s0.core d).l1 = true := by
  intro d
  rw [show s0.core d = (tget [(0, s0.core 0)] d).getD Core.reset from rfl]
  rcases Nat.lt_trichotomy d 0 with h | h | h
  · omega
  · subst h; rfl
  · rw [show tget [(0, s0.core 0)] d = none by simp only [tget]; rw [if_neg (by omega), if_neg (by omega)]]; rfl
/-- Work queue 3, its ring of two entries in device memory at 0x40000, in a state. -/
def descT : QueueDesc := { base := 0x40000, inHost := false, z := 1, tenant := 0, ctx := 0, job := 4, priv := false, cap := 7 }
def queueT (st : QueueState) (h t tries : Nat) : WorkQueue := { desc := descT, head := h, tail := t, state := st, retryAt := 0, tries := tries, packet := none, leg := none }
def sQ (w : WorkQueue) (b0 b1 : Nat) : State :=
  let s := withDie (withCtx s0)
  { s with now := 20000 * Config.ticksPerNs, mem := memPutN s.mem 0x40000 (leBytes 8 (b0 + 256 * b1) ++ leBytes 8 0), host := { s.host with queues := [(3, w)] }, trust := { s.trust with ready := 2 ^ 27 } }
def consumes (s : State) (v : Bool) : Bool := match tget s.host.queues 3 with
  | some w => match consume 3 w s with
    | (.ok b, _) => b == v
    | _ => false
  | none => false
/-- A launch that waits for words at an address, and one unit's counter with a mirror. -/
def sWaitL (v : Nat) : State :=
  let s := withDie s0
  { s with dies := (List.range 4).map fun d => (d, { Stack.reset with tlb := [placedPage] }), mem := memPutN s.mem 0x60000 (leBytes 8 v),
           host := { s.host with launches := tset s.host.launches 9 { placedLaunch with eligible := none, waits := [0x60000] } } }
def waits (s : State) (p : List Nat → Bool) : Bool := match waitWords 0 (s.launch 9).waits s with
  | (.ok (.ok l), _) => p l
  | _ => false
def launchE : Quads := [BitVec.ofNat 64 (2 ^ 32 + 2 ^ 24)]
theorem meets_QueueEvents : (s0.trust.sleeping = false ∧ tget (sQ (queueT .idle 5 5 0) 0 0).host.queues 3 = some (queueT .idle 5 5 0) ∧ ((sQ (queueT .idle 5 5 0) 0 0).ctxAt (queueT .idle 5 5 0).desc.ctx).isSome = true ∧ (queueT .idle 5 5 0).tail = (queueT .idle 5 5 0).head ∧ bits 6 32 31 = 0 ∧ low 32 6 = low 32 (5 + 1) ∧ 1 ≤ (queueT .idle 5 5 0).size)
    ∧ ((sQ (queueT .fetch 0 1 0) 1 9).queueOn = true ∧ (queueT .fetch 0 1 0).packet = none ∧ (queueT .fetch 0 1 0).head < (queueT .fetch 0 1 0).tail ∧ consumes (sQ (queueT .fetch 0 1 0) 1 9) true = true ∧ consumes (sQ (queueT .fetch 0 1 0) 0 9) false = true)
    ∧ (queueT .idle 5 5 0).state ≠ .fetch ∧ ((queueT .retry 0 1 6).rereadDue (sQ (queueT .retry 0 1 6) 1 2).now = true ∧ consumes (sQ (queueT .retry 0 1 6) 1 2) true = true ∧ consumes (sQ (queueT .retry 0 1 6) 2 2) false = true)
    ∧ (queueT .retry 0 1 7).stallDue (sQ (queueT .retry 0 1 7) 0 0).now = true
    ∧ (match launchPacket 3 launchE (sQ (queueT .idle 1 1 0) 0 0) with | (.ok false, _) => true | _ => false) = true
    ∧ (match launchPacket 3 ([BitVec.ofNat 64 (2 ^ 32 + 2 ^ 24), 0x50000, BitVec.ofNat 64 (512 * 2 ^ 32)]) ((sQ (queueT .idle 1 1 0) 0 0).setSector (0x50000 / 64) { (sQ (queueT .idle 1 1 0) 0 0).sector (0x50000 / 64) with host := .m }) with | (.ok true, _) => true | _ => false) = true
    ∧ tget s0.host.queues 3 = none
    ∧ (match phaserAlloc ⟨0, some 3, 0x70000⟩ (sQ (queueT .idle 1 1 0) 0 0) with | (.ok false, _) => true | _ => false) = true
    ∧ (match phaserAlloc ⟨0, some 3, 0x3FFFFFFF0000⟩ (sQ (queueT .idle 1 1 0) 0 0) with | (.ok true, _) => true | _ => false) = true
    ∧ ((sWaitL 0).launch 9).fin = false ∧ ((sWaitL 0).launch 9).eligible = none ∧ waits (sWaitL 1) (fun l => l.any fun v => low 32 v != 0 || bits v 61 3 == 0) = true
    ∧ waits (sWaitL (2 ^ 61)) (fun l => !(l.any fun v => low 32 v != 0 || bits v 61 3 == 0) && decide ((l.map fun v => bits v 61 3).foldl max 0 ≤ 1)) = true
    ∧ waits (sWaitL (2 * 2 ^ 61)) (fun l => !(l.any fun v => low 32 v != 0 || bits v 61 3 == 0) && decide (1 < (l.map fun v => bits v 61 3).foldl max 0)) = true
    ∧ runs (mirrorWrite (.launch launchT)) s0 = true ∧ (s0.mirrorOf (.launch launchT)).1 = 0
    ∧ (s0.modBudget 0 fun b => { b with closed := true }).gateClosed 0 = true ∧ tsorted 0 (s0.modBudget 0 fun b => { b with closed := true }).host.budgets = true ∧ tsorted 0 s0.threads = true ∧ s0.gateClosed 0 = false
    ∧ (2 = low 64 ((7 : Word).toNat + 2 ^ 64 - low 64 5) ∧ 2 ≤ ({ s0.host with evHead := 5, evTail := 7 } : HostSide).evTail - ({ s0.host with evHead := 5, evTail := 7 } : HostSide).evHead) := by decide +kernel

/-! ### Hypotheses met: the guest die (20) -/

/-- Guest queue 5 with one packet of the team. -/
def sPk (p : GuestPacket) : State := { sGuest true false [p] with now := 200 * usTicks }
def pkT : GuestPacket := packetT 8
def inQ (s : State) (p : GuestPacket → Bool) : Bool := s.socket.ready && !s.socket.fenced && ((tget s.socket.queues 5).bind fun x => (x.packets.find? (·.ticket == 8)).map fun y => !x.late.contains 8 && p y).getD false
def gOn (s : State) : Bool := s.socket.ready && !s.socket.fenced
def preQ (c : Bool) (l : List (Nat × Nat × Nat)) : State :=
  let s := sPk pkT
  { s.modTeam teamT fun t => { t with guest := l } with socket := { s.socket with preempts := [(4, teamT, 0, c)], shootdowns := [⟨6, 2, 0, 0, 0⟩] } }
def withXlate (s : State) : State := { s with socket := { s.socket with xlates := [⟨0, 0, 0, 30, 0, true, true⟩] } }
theorem meets_GuestEvents : gOn (sPk pkT) = true ∧ s0.socket.ready = false ∧ (sGuest true true []).socket.fenced = true
    ∧ (gOn (sPk pkT) = true ∧ (match tget (sPk pkT).socket.queues 5 with | some x => !x.late.contains 3 && (x.packets.find? (·.ticket == 3)).isNone | none => false) = true ∧ runs fenceGuest (sPk pkT) = true)
    ∧ (inQ (sPk pkT) (fun p => !p.saved && p.held.isNone && p.faultAt.isNone) = true ∧ runs (flush 5) ((sPk pkT).modPacket 5 8 fun p => { p with held := some (0, 0, 9) }) = true)
    ∧ (sPk pkT).guestPacket 5 3 = none ∧ (sPk pkT).guestPacket 5 8 = some pkT
    ∧ (inQ (sPk { pkT with fatalAt := some 0 }) (fun p => (sPk pkT).faultLate p) = true ∧ runs fenceGuest (sPk { pkT with fatalAt := some 0 }) = true)
    ∧ runs (faultReason 0 0x10000 1) (sPk pkT) = true
    ∧ (inQ (sPk { pkT with faultAt := some (1, 0) }) (fun p => (sPk pkT).faultDone p) = true ∧ runs (flush 5) ((sPk { pkT with faultAt := some (1, 0) }).modPacket 5 8 fun p => { p with held := some (2, 1, 0) }) = true)
    ∧ (match answerXlate ⟨5, 8, 0x10000, 1⟩ (withDie (sPk pkT)) with | (.ok false, _) => true | _ => false) = true := by decide +kernel
theorem meets_GuestEvents_answers : (gOn (preQ false []) = true ∧ (preQ false []).socket.shootdowns.find? (·.id == 3) = none ∧ (preQ false []).socket.shootdowns.find? (·.id == 6) = some ⟨6, 2, 0, 0, 0⟩)
    ∧ (preQ false []).socket.preempts.find? (·.1 == 3) = none ∧ ((preQ false []).socket.preempts.find? (·.1 == 4) = some (4, teamT, 0, false) ∧ ((preQ false []).team teamT).guest = [])
    ∧ (((preQ true [(1, 5, 8)]).team teamT).guest = [(1, 5, 8)] ∧ (preQ true [(1, 5, 8)]).guestPacket 5 8 = some pkT ∧ pkT.held = none ∧ pkT.saved = false ∧ runs fenceGuest ((preQ true [(1, 5, 8)]).setSocket fun y => { y with preempts := [] }) = true
      ∧ runs (flush 5) ((preQ true [(1, 5, 8)]).modPacket 5 8 fun p => { p with held := some (4, 0, 0) }) = true ∧ runs (flush 5) ((preQ false [(1, 5, 8)]).modPacket 5 8 fun p => { p with saved := true }) = true)
    ∧ (0 + 100 * usTicks ≤ (preQ false []).now ∧ runs fenceGuest (preQ false []) = true)
    ∧ (∃ h : Hello, h.version = 1 ∧ h.digest = s0.socket.expected) ∧ (∃ h : Hello, h.version ≠ 1 ∧ h.digest = s0.socket.expected) ∧ ({ s0.trust with ready := 2 ^ 25 } : Trust).ready = 2 ^ 25 ∧ bitAt (2 ^ 25) 39 = false ∧ bitAt (2 ^ 25) 25 = true
    ∧ ((sPk pkT).sector 3).guestSnoop = none ∧ (((sPk pkT).setSector 3 ⟨.i, .s, false, some 0⟩).sector 3).guestSnoop = some 0 ∧ (((sPk pkT).setSector 3 ⟨.i, .s, false, some 0⟩).sector 3).guest = .s
    ∧ (0 + usTicks ≤ ((sPk pkT).setSector 3 ⟨.i, .s, false, some 0⟩).now ∧ runs fenceGuest ((sPk pkT).setSector 3 ⟨.i, .s, false, some 0⟩) = true)
    ∧ (runs (guestRead ⟨5, 8, 0⟩ false) (withXlate (sPk pkT)) = true ∧ runs (guestRead ⟨5, 8, 0⟩ true) (withXlate (sPk pkT)) = true ∧ runs (guestOwn ⟨5, 8, 0⟩ true) (withXlate (sPk pkT)) = true ∧ runs (guestOwn ⟨5, 8, 0⟩ false) (withXlate (sPk pkT)) = true
      ∧ runs (guestWrite ⟨5, 8, 0⟩ (List.replicate 64 1)) (withXlate (sPk pkT)) = true ∧ runs (guestFlush ⟨5, 8, 0⟩) (withXlate (sPk pkT)) = true ∧ runs (portCheck ⟨5, 8, 0⟩ false (pure ()) (setGuest 0 .i)) (withXlate (sPk pkT)) = true)
    ∧ (tsorted 0 (withXlate (sPk pkT)).sectors = true ∧ gOn (withXlate (sPk pkT)) = true ∧ (withXlate (sPk pkT)).guestPacket 5 8 = some pkT
      ∧ ((withXlate (sPk pkT)).socket.xlates.any fun x => x.ctx == (withXlate (sPk pkT)).tenantCtx pkT.tenant pkT.ctx && x.pa ≤ 192 && 192 < x.pa + 2 ^ x.size && x.w) = true ∧ (withXlate (sPk pkT)).gateBroken 0 = false ∧ (withXlate (sPk pkT)).domainRange 192 64 = false
      ∧ (((withXlate (sPk pkT)).setSector 3 ⟨.i, .m, false, none⟩).sector (GuestAccSector ⟨5, 8, 192⟩)).guest = .m) := by
  refine ⟨?_, ?_, ?_, ?_, ?_, ⟨⟨0, 1, 0, 64⟩, ?_⟩, ⟨⟨0, 0, 0, 64⟩, ?_⟩, ?_, ?_, ?_, ?_, ?_, ?_, ?_, ?_, ?_⟩ <;> decide +kernel

/-- What a translation for the packet at an address gives; what a completion record meets. -/
def xlates (s : State) (va : Nat) (p : Except XFail (Bool × Nat) → State → Bool) : Bool := match Machine.translate (hubAsker va 2) (s.tenantCtx 0 0) va 1 s with
  | (.ok x, s') => p x s'
  | _ => false
def heldT : GuestPacket := { pkT with held := some (0, 0, 9), quads := [0, 0, 0, 0x40000] }
def recordIs (s : State) (p : Except Stop Unit → State → Bool) : Bool := match writeRecord heldT 0 9 (s.inName partyGuest) with
  | (r, s') => p r s'
theorem meets_GuestEvents_records : ((tget (sPk heldT).socket.queues 5).map (·.packets) = some [heldT]
      ∧ recordIs (withDie (sPk heldT)) (fun r s' => (match r with | .ok _ => true | _ => false) && ((tget (s'.retireGuest 5 heldT 0).socket.queues 5).bind (·.packets.head?)).isNone) = true)
    ∧ recordIs ((withDie (sPk heldT)).setSector 0x1000 ⟨.m, .i, false, none⟩) (fun r _ => match r with | .error .hold => true | _ => false) = true
    ∧ (tget (sPk pkT).socket.queues 5).bind (·.packets.head?) = some pkT ∧ pkT.held = none
    ∧ ((sPk pkT).socket.owed.any fun o => o.1 == 5 && o.2.1 == 3) = false ∧ (sPk pkT).owedLate 5 3 = false ∧ { sPk pkT with socket := { (sPk pkT).socket with owed := [(5, 3, 0)] } }.owedLate 5 3 = true
    ∧ (match takeFault 5 8 0x10000 1 0 (sPk pkT) with | (.ok _, _) => true | _ => false) = true ∧ pkT.faultAt = none := by decide +kernel
theorem meets_GuestEvents_translations : xlates (withDie (sPk pkT)) 0x10000 (fun x s' => (match x with | .ok (false, _) => true | _ => false) && (s'.tlbFind (hubAsker 0x10000 2) 0 0x10000).isSome) = true
    ∧ xlates (withCtx (sPk pkT)) 0x10000 (fun x _ => match x with | .error (.page _ _ _) => true | _ => false) = true
    ∧ xlates (withHost (sPk pkT)) (2 ^ 30) (fun x _ => match x with | .ok (true, _) => true | _ => false) = true
    ∧ (match answerXlate ⟨5, 8, 0x10000, 1⟩ ((withCtx (sPk pkT)).inName partyGuest) with | (.ok true, _) => true | _ => false) = true := by decide +kernel
theorem meets_GuestEvents_port : ((withXlate (sPk pkT)).socket.xlates.any fun x => x.pa ≤ 2 ^ 31 && 2 ^ 31 < x.pa + 2 ^ x.size) = false ∧ (withXlate (sPk pkT)).ringGuard (2 ^ 31) 1 = false
    ∧ { withXlate (sPk pkT) with socket := { (withXlate (sPk pkT)).socket with gates := [(0, 0)] } }.gateBroken 0 = true
    ∧ { withXlate (sPk pkT) with trust := sDomain.trust }.domainRange 192 64 = true ∧ { withXlate (sPk pkT) with host := (withCtx s0).host }.ctxGuard tableT 64 = true
    ∧ ((preQ false [(1, 5, 8)]).team teamT).preempt = none ∧ (((preQ false [(1, 5, 8)]).modTeam teamT fun t => { t with preempt := some (preT false) }).team teamT).preempt.isSome = true
    ∧ [(5, 8)].contains (5, 8) = true ∧ ([] : List (Nat × Nat)).contains (5, 8) = false := by decide +kernel

/-! ### Hypotheses met: packets at their target and at their source (15, 19) -/

/-- The tenant context map gives context 0 to tenant 0. -/
def withMap (s : State) : State := { s with mem := memPutN s.mem (tableT + ctxTableBytes) (leBytes 8 (2 ^ 63)) }
/-- Tenant 0 is served here in context 0; a packet of device 5 for it, at 0x10000 unless said otherwise. -/
def sFab : State :=
  withMap (withDie (withCtx s0))
def pF (kind op n ext : Nat) : Packet :=
  { s0.bare kind 0 0x10000 3 with src := 5, bytes := n, op := op, ext := ext, payload := List.replicate n 1 }
def lands (p : Packet) (acc : Nat) (s : State) (f : Nat → State → Bool) : Bool :=
  match targetXlate p acc s with
  | (.ok (.ok (some (false, pa))), s1) => f pa s1
  | _ => false
def checked (p : Packet) (pa : Nat) (y : Bool) (s : State) (c : Bool) (f : State → Bool) : Bool :=
  match targetCheck p pa y s with
  | (.ok b, s1) => b == c && f s1
  | _ => false
def refusedAt (p : Packet) (acc : Nat) (s : State) : Bool :=
  match targetXlate p acc s with
  | (.ok (.error _), _) => true
  | _ => false
def sHeld : State :=
  withMap (withDie (withCtx (sMap [])))
/-- The window at 0x10000 was written by a team that this one has not acquired. -/
def sConflict : State := { sFab with records := [(0x200, ⟨5, 1, false, 0, 9⟩)] }
def sCopies (c : PeerCopy) : State := { s0 with peerCopies := [(5 * 2 ^ 40 + 0x200, c)] }
def reqT (atomic acq : Bool) : FabReq := { id := 3, th := 0, oid := 1, dst := 5, acq := acq, atomic := atomic, va := 0x10000, n := 8, sc := false, core := 0, clk := 4, reached := none }
/-- The copy of a read by device 5 needs a place in the home's peer table. -/
def readAt (pa : Nat) (s : State) : Bool := runs (do
  let _ ← homeRead pa 8
  let s ← get
  chk (s.copyLeft (asKind (pF 0 0 8 0) 0) (lineOf pa))
  still (peerRoom (lineOf pa))) s
def sReq (r : FabReq) : State := { s0 with fabric := { s0.fabric with reqs := [r] } }
def scT (op : AtomOp) (r : Option Packet) : ScAccess :=
  { id := 1, clk := 4, core := 0, th := 0, oid := 1, va := 0x10000, pa := 0x10000, team := teamT, spad := false, host := false, n := 8, op := op, data := 1, cmp := 0, reply := r, pos := 0, mid := false, ports := [] }
def sSc (a : ScAccess) : State := { s0.modNode nodePackage (fun x => { x with floor := 9 }) with scHeld := [a] }
theorem meets_FabricPackets : (Instr.fabricRead (pF 0 0 8 0), 0) ∈ [(Instr.fabricRead (pF 0 0 8 0), 0)] ∧ runs (requestAct (asKind (pF 0 0 8 0) 0)) sFab = true
    ∧ (s0.fabric.stalled.any fun q => q.src == 5 && lineOf q.va == lineOf 0x10000 && q.kind < 7) = false
    ∧ ({ s0 with fabric := { s0.fabric with stalled := [pF 0 0 8 0] } }.fabric.stalled.any fun q => q.src == 5 && lineOf q.va == lineOf 0x10000 && q.kind < 7) = true
    ∧ (sFab.fabric.stalled = [] ∧ lands (asKind (pF 0 0 8 0) 0) 1 sFab (fun pa s1 => checked (asKind (pF 0 0 8 0) 0) pa false s1 true (readAt pa)) = true ∧ low 3 (asKind (pF 0 0 8 0) 0).op ≠ 4)
    ∧ (refusedAt (asKind { pF 0 0 8 0 with tenant := 9 } 0) 1 sFab = true ∧ refusedAt (asKind { pF 0 0 8 0 with tenant := 9 } 1) 2 sFab = true ∧ refusedAt (asKind { pF 0 0 8 0 with tenant := 9 } 2) 3 sFab = true)
    ∧ lands (asKind (pF 1 0 8 0) 1) 2 sHeld (fun pa s1 => !s1.targetMayWrite (asKind (pF 1 0 8 0) 1) (lineOf pa)) = true
    ∧ lands (asKind { pF 1 0 8 0 with src := 0 } 1) 2 sConflict (fun pa s1 => s1.targetMayWrite (asKind { pF 1 0 8 0 with src := 0 } 1) (lineOf pa) && checked (asKind { pF 1 0 8 0 with src := 0 } 1) pa false s1 false fun _ => true) = true
    ∧ lands (asKind (pF 1 0 8 0) 1) 2 sFab (fun pa s1 => s1.targetMayWrite (asKind (pF 1 0 8 0) 1) (lineOf pa) && checked (asKind (pF 1 0 8 0) 1) pa false s1 true (runs (homeWrite pa (List.replicate 8 1)))) = true
    ∧ lands (asKind (pF 1 2 8 0) 1) 2 sFab (fun pa s1 => s1.targetMayWrite (asKind (pF 1 2 8 0) 1) (lineOf pa) && checked (asKind (pF 1 2 8 0) 1) pa true s1 true (runs (homeWrite pa (List.replicate 8 1)))) = true
    ∧ lands (asKind (pF 2 1 16 0) 2) 3 sFab (fun pa s1 => s1.targetMayWrite (asKind (pF 2 1 16 0) 2) (lineOf pa) && !(s1.cluster (homeCluster pa)).faulted
      && checked (asKind (pF 2 1 16 0) 2) pa true s1 true (runs (homeAtomic pa (fatmBytes 1) (fatmOp 1) 1 1 0 0 (.sync (ordRel 0) 0)))) = true
    ∧ (bitAt (2 ^ 127) 127 = true ∧ s0.arrivalOf (low 64 (2 ^ 127)) = none)
    ∧ (bitAt (2 ^ 127 + 7) 127 = true ∧ (sArr 0 [(7, ⟨teamT, 0⟩)] []).arrivalOf (low 64 (2 ^ 127 + 7)) = some ⟨teamT, 0⟩ ∧ 64 + 8 ≤ ((sArr 0 [(7, ⟨teamT, 0⟩)] []).team teamT).spadSize
      ∧ (sArr 0 [(7, ⟨teamT, 0⟩)] []).controlBytes teamT 64 8 = false)
    ∧ (sFab.arrivalOf (low 64 0) = none ∧ lands (asKind (pF 3 0 8 0) 3) 2 sFab (fun pa s1 => s1.targetMayWrite (asKind (pF 3 0 8 0) 3) (lineOf pa) && checked (asKind (pF 3 0 8 0) 3) pa false s1 true (runs (homeWrite pa (List.replicate 8 1)))) = true)
    ∧ tget s0.peerCopies (5 * 2 ^ 40 + lineOf 0x10000) = none ∧ tget (sCopies .shared).peerCopies (5 * 2 ^ 40 + lineOf 0x10000) = some .shared
    ∧ tget (sCopies (.part .addF32 0 [1])).peerCopies (5 * 2 ^ 40 + lineOf 0x10000) = some (.part .addF32 0 [1])
    ∧ (match answerAct (asKind (pF 7 0 8 0) 7) s0 with | (.ok false, _) => true | _ => false) = true
    ∧ ((reqT false false).acq = false ∧ bitAt (pF 7 0 8 0).ext 6 = false ∧ (sReq (reqT false false)).reqFor (pF 7 0 8 0) = some (reqT false false)) ∧ bits (asKind (pF 2 1 16 0) 2).op 8 3 ≠ 4
    ∧ s0.reqFor (pF 7 0 8 0) = none ∧ (sReq (reqT true false)).reqFor (pF 7 0 8 0) = some (reqT true false) ∧ ({ pF 7 0 8 0 with status := 3 } : Packet).status ≠ 0
    ∧ ((sReq (reqT true true)).reqFor (pF 8 0 8 0) = some (reqT true true) ∧ (tget (sReq (reqT true true)).threads 0).isSome = true ∧ runs (acquireRec 0 (recOf (pF 8 0 8 0)) 6) (sReq (reqT true true)) = true)
    ∧ (s0.scHeld.any s0.scReady) = false
    ∧ (minBy (sSc (scT .add none)).stampLt ((sSc (scT .add none)).scHeld.filter (sSc (scT .add none)).scReady) = some (scT .add none) ∧ runs (scAct (scT .add none)) (sSc (scT .add none)) = true)
    ∧ (minBy (sSc (scT .add (some (pF 2 1 16 0)))).stampLt ((sSc (scT .add (some (pF 2 1 16 0)))).scHeld.filter (sSc (scT .add (some (pF 2 1 16 0)))).scReady) = some (scT .add (some (pF 2 1 16 0)))
      ∧ runs (scAct (scT .add (some (pF 2 1 16 0)))) (sSc (scT .add (some (pF 2 1 16 0)))) = true) := by
  refine ⟨List.mem_singleton.mpr rfl, ?_⟩
  decide +kernel

/-- A held SC access meets the record of another team's write, where its team checks. -/
def sScRace (a : ScAccess) : State := launchSet { sSc a with records := [(0x200, ⟨5, 1, false, 0, 99⟩)] } fun l => { l with check := true }
def scChecked (a : ScAccess) (s : State) (p : Except Stop Bool → Bool) : Bool := p (scCheck a (s.inName (partySc a.id))).1
theorem meets_FabricPackets_sc : scChecked (scT .add none) (sSc (scT .add none)) (fun r => match r with | .ok true => true | _ => false) = true
    ∧ scChecked (scT .add none) (sScRace (scT .add none)) (fun r => match r with | .error (.trap _ _ _ _ _ _) => true | _ => false) = true
    ∧ (minBy (sScRace (scT .add none)).stampLt ((sScRace (scT .add none)).scHeld.filter (sScRace (scT .add none)).scReady) = some (scT .add none))
    ∧ scChecked (scT .add (some (pF 2 1 16 0))) (sSc (scT .add (some (pF 2 1 16 0)))) (fun r => match r with | .ok true => true | _ => false) = true
    ∧ scChecked (scT .load (some { pF 0 4 8 0 with src := 0 })) (sScRace (scT .load (some { pF 0 4 8 0 with src := 0 }))) (fun r => match r with | .ok false => true | _ => false) = true
    ∧ lands (asKind { pF 0 0 8 0 with src := 0 } 0) 1 sConflict (fun pa s1 => checked (asKind { pF 0 0 8 0 with src := 0 } 0) pa false s1 false fun _ => true) = true
    ∧ (sFab.mapOf 0x200 = none ∧ sFab.groupBehind 0x10000 8 = false)
    ∧ ((sReq (reqT false false)).reqFor (pF 7 0 8 64) = some (reqT false false) ∧ bitAt (pF 7 0 8 64).ext 6 = true ∧ (pF 7 0 8 64).src ≠ s0.devno ∧ (pF 7 0 8 64).status = 0) := by decide +kernel
theorem meets_FabricPackets_room : (sReq (reqT false false)).sliceCount (peerSlice (lineOf (pF 7 0 8 64).va)) < sliceLines := few _ (by decide +kernel) _

/-! ### Hypotheses met: links, slots, send queues (19) -/

/-- Global link 32 of device 0 in circuit slot 0, whose circuit reaches link 2 of device 33; a send queue for it. -/
def linkT : Link := { Link.reset with up := true }
def entryT : SlotEntry := { peer := 33, plink := 2, allow := 4 }
def identT : Link := { linkT with identOk := true }
def sTable (x : Link) (q : Tbl SendQueue) (nx : Option (List (Option SlotEntry) × Nat)) (d : Bool) : State :=
  { s0 with fabric := { s0.fabric with links := [(32, x)], tables := [(0, { entries := [some entryT], start := 0, next := nx, nextAt := 0 })], phases := [(0, ⟨1, d⟩)], sendQ := q }, podTime := if d then 1000 else 0 }
def sL (x : Link) : State := sTable x [] none true
/-- The same in the guard interval of the slot. -/
def sShut (x : Link) : State := sTable x [] none false
def toT (dst kind n : Nat) : Packet := { s0.bare kind dst 0x10000 3 with bytes := n, payload := List.replicate n 1 }
def sendT (c f : List Packet) : SendQueue := { charged := c, free := f, allow := 512, held := [7], used := [] }
/-- A flit whose CRC is right, or one more than that. -/
def flitT (ok : Bool) (seq : Nat) : Flit :=
  let f := flitSigned { crc := 0, kind := 1, seq := seq, ack := 0, ret := [], packets := [], info := [] }
  { f with crc := f.crc + if ok then 0 else 1 }
def sAck (t : Nat) : State := { s0 with now := 64 * usTicks, peerAcks := [⟨9, 5, t⟩] }
/-- A link that resends from 5 has 5 and 6 in its replay buffer. -/
def againT : Link := { linkT with identOk := true, txSeq := 7, replay := [flitT true 5, flitT true 6], resendFrom := some 5 }
theorem meets_LinkEvents : (s0.link 32).up = false
    ∧ ((sL linkT).maySend 32 = true ∧ (sShut linkT).maySend 32 = false ∧ (sShut linkT).carries 32 = false ∧ ((sShut linkT).link 32).up = true)
    ∧ ((sL againT).carries 32 = true ∧ ((sL againT).link 32).resendFrom = some 5 ∧ ((sL againT).link 32).again 5 = [flitT true 5, flitT true 6] ∧ ((sL againT).link 32).replay.any (·.seq == 5) = true)
    ∧ ((sL linkT).link 32).up = true ∧ flitOk (flitT false 0) = false ∧ ((sL { linkT with skipping := true }).link 32).skipping = true ∧ ((sL linkT).link 32).skipping = false
    ∧ (flitOk (flitT true 0) = true ∧ (flitT true 0).kind < 5 ∧ (flitT true 0).seq = ((sL linkT).link 32).rxSeq)
    ∧ ((toT 0 0 8).kind < 12 ∧ (toT 0 0 128).bytes ≤ 128 ∧ (toT 0 0 8).dst = s0.devno ∧ (toT 0 0 8).sealed = none ∧ s0.fabric.lost.contains (toT 0 0 8).src = false ∧ s0.fabric.lost.contains (toT 0 0 8).dst = false)
    ∧ ({ s0 with fabric := { s0.fabric with lost := [5] } }.fabric.lost.contains { toT 0 0 8 with src := 5 }.src = true ∧ { s0 with fabric := { s0.fabric with lost := [5] } }.fabric.lost.contains (toT 5 0 8).dst = true)
    ∧ 12 ≤ (toT 0 12 8).kind ∧ 128 < (toT 0 0 129).bytes
    ∧ tsorted 0 ((sL linkT).link 32).freed = true
    ∧ ((sL linkT).ownEntry 32 = some entryT ∧ (sL linkT).ownData 32 = true ∧ ((sL linkT).link 32).identOk = false ∧ ((sL linkT).link 32).wrong = false ∧ entryT.peer = 33 ∧ entryT.plink = 2 ∧ entryT.peer ≠ 34)
    ∧ (s0.newSlots = [] ∧ s0.newData = [] ∧ s0.endData = []) ∧ { sL linkT with podTime := 10000 }.newSlots = [0] ∧ { sShut linkT with podTime := 1000 }.newData = [0] ∧ { sL linkT with podTime := 10000 }.endData = [0] := by decide +kernel
theorem meets_LinkEvents_queues : (tget s0.fabric.sendQ 33).isNone = true
    ∧ (tget (sTable identT [(33, sendT [toT 33 0 8] [])] none true).fabric.sendQ 33 = some (sendT [toT 33 0 8] []) ∧ (sTable identT [(33, sendT [toT 33 0 8] [])] none true).departs 33 (sendT [toT 33 0 8] []) = false)
    ∧ ((sTable identT [(1, sendT [] [toT 1 5 0])] none true).departs 1 (sendT [] [toT 1 5 0]) = true ∧ devGroup 1 = devGroup s0.devno)
    ∧ ((sTable identT [(65, sendT [] [toT 65 5 0])] none true).departs 65 (sendT [] [toT 65 5 0]) = true ∧ devGroup 65 ≠ devGroup s0.devno ∧ (sL linkT).joins (devGroup 65) = false)
    ∧ ((sTable identT [(33, sendT [] [toT 33 5 0])] none true).departs 33 (sendT [] [toT 33 5 0]) = true ∧ devGroup 33 ≠ devGroup s0.devno ∧ (sL linkT).joins (devGroup 33) = true ∧ (sL identT).pathOf (toT 33 5 0) = some 0)
    ∧ ((sTable identT [(33, { sendT [toT 33 0 8] [] with held := [] })] none true).departs 33 { sendT [toT 33 0 8] [] with held := [] } = true ∧ (sL identT).pathOf (toT 33 0 8) = some 0 ∧ packetCharge (toT 33 0 8) = some 8
      ∧ ((sL identT).writeOf (toT 33 0 8)).isNone = true ∧ (sL identT).linkTo 0 ≠ none) := by decide +kernel
theorem meets_LinkEvents_loss : (tget (sL linkT).fabric.tables 0 = some ⟨[some entryT], 0, none, 0⟩ ∧ SlotTable.switchDue ⟨[some entryT], 0, none, 0⟩ 0 = false)
    ∧ (tget (sTable linkT [] (some ([none], 0)) true).fabric.tables 0 = some ⟨[some entryT], 0, some ([none], 0), 0⟩ ∧ SlotTable.switchDue ⟨[some entryT], 0, some ([none], 0), 0⟩ 0 = true)
    ∧ s0.retireDue 32 = false ∧ (sL { linkT with identFails := 8 }).retireDue 32 = true
    ∧ (s0.link 32).retired = false ∧ ((sL { linkT with up := false, retired := true }).link 32).retired = true
    ∧ s0.devno = 0 ∧ { s0 with fabric := { s0.fabric with lost := [5] } }.fabric.lost.contains 5 = true ∧ 5 ≠ s0.devno ∧ s0.fabric.lost.contains 5 = false
    ∧ ((sAck 0).peerAcks.any fun a => a.dev == 5 && a.line == 9 && (sAck 0).ackLate a) = true ∧ ((sAck 1).peerAcks.any fun a => a.dev == 5 && a.line == 9 && (sAck 1).ackLate a) = false := by decide +kernel

/-! ### Hypotheses met: the belay network (11, 17) -/

def sNode (n : Nat) (f : Node → Node) : State := s0.modNode n f
def msgT (op : BelayOp) (node : Nat) (path : List (Nat × Nat)) (held : Bool) : BelayMsg :=
  { id := 4, th := none, dev := 0, unit := .group launchT 0 0, handle := 5, op := op, node := node, port := 0, path := path, at' := 0, held := held, covers := [] }
def sMsg (m : BelayMsg) : State := { s0 with belay := { s0.belay with msgs := [m] } }
def waitT : Outst := outT (.phase 5 3)
def inT : BelayIn := { dev := 7, unit := .device 7, handle := BitVec.ofNat 64 (2 ^ 63), op := .reg true false, port := 9 }
theorem meets_BelayEvents : (s0.trust.sleeping = false ∧ (s0.node 4).alive = true ∧ 4 ≤ nodePackage ∧ (∀ e, e ∈ s0.reportsInto 4 → clkLt e.2 (s0.node 4).floor = false) ∧ clkLt (low 50 s0.podTime) (s0.node 4).floor = false)
    ∧ { s0 with trust := { s0.trust with sleeping := true } }.trust.sleeping = true ∧ ((sNode 2 fun x => { x with alive := false }).node 2).alive = false
    ∧ (tget s0.cores 0 = some (s0.core 0) ∧ coreStack 0 = 0)
    ∧ ((sMsg (msgT .leave 4 [] false)).belay.msgs = [msgT .leave 4 [] false] ∧ (msgT .leave 4 [] false).here 4 s0.now = true ∧ (sMsg (msgT .leave 4 [] false)).eligible (msgT .leave 4 [] false) = true)
    ∧ (sMsg (msgT (.signal 3 plainFinder 9 false) 4 [] false)).eligible (msgT (.signal 3 plainFinder 9 false) 4 [] false) = false
    ∧ (msgT .leave 0 [(4, 0)] false).here 0 s0.now = true ∧ s0.belay.inbox = []
    ∧ (handleNode inT.handle.toNat = some 8 ∧ inT.dev ≠ s0.devno ∧ inT.op = .reg true false ∧ ({ s0 with inPod := true, belay := { s0.belay with inbox := [(8, inT)] } }.node 8).alive = true)
    ∧ (([regT true false].any fun r => r.owes 0 (.group launchT 0 0) 3) = true ∧ ([{ regT true false with counted := [3] }].any fun r => r.owes 0 (.group launchT 0 0) 3) = false ∧ phaseLt 3 (phT false 3 0 [{ regT true false with counted := [3] }]).p = false)
    ∧ (phT false 3 0 []).due = false ∧ ({ phT false 3 0 [] with events := true } : Phaser).due = true ∧ (phT false 3 0 []).p < 2 ^ 32 ∧ phaseLt 2 (phT false 3 0 []).p = true
    ∧ (tget (sOut (.phase 5 3)).threads 0 = some ((sOut (.phase 5 3)).thr 0) ∧ ((sOut (.phase 5 3)).thr 0).outst = [waitT] ∧ waitT.wait = .phase 5 3)
    ∧ (msgT .leave 4 [] true).held = true ∧ (msgT .leave 4 [] true).covers = []
    ∧ (∀ m, m ∈ s0.belay.msgs → m.id ≠ 4 ∨ m.held = false ∨ m.covers ≠ [])
    ∧ s0.inPod = false ∧ ({ s0 with inPod := true }.inPod = true ∧ ({ s0 with inPod := true }.node nodePackage).uplink = 0) := by decide +kernel

/-! ### Hypotheses met: starts, commands and errors (25) -/

/-- A command that is signed under a root, with a count. -/
def goodT (root n : Nat) : Signed := ⟨n, 11, Config.oneSig root 11⟩
theorem goodT_ok (root n : Nat) : Config.sigValid root (goodT root n).msg (goodT root n).sig = true := by simp [Config.sigValid, goodT]
/-- A start whose image, of version 3, the vendor signed. -/
def startT (root : Nat) : StartInput := ⟨true, true, 11, 3, Config.oneSig root 11, 6, true, [6], [], 0, [], [], tableT, [], [], [], 16⟩
def domT : Domain := { members := [0, 5], epoch := 1, secret := 7, prevSecret := 6, switchAt := 0, tenants := [], ranges := [], removed := [], seen := [], sendSeq := [] }
def ctxQuads (v : Nat) : CtxWrite := [0, 0, BitVec.ofNat 64 (v * 2 ^ 55), 0x4000]
theorem meets_CommandEvents : (startT 0).firmwareOk = true ∧ s0.imageOk (startT s0.trust.vendorRoot) = true ∧ s0.imageOk { startT s0.trust.vendorRoot with digestsOk := false } = false
    ∧ ({ startT 0 with firmwareOk := false } : StartInput).firmwareOk = false
    ∧ s0.mayRaise 25 = false ∧ { s0 with trust := { s0.trust with ready := 2 ^ 25 } }.mayRaise 26 = true
    ∧ s0.trust.sleeping = false ∧ (goodT 0 0).count ≤ s0.trust.count
    ∧ (Config.sigValid s0.trust.ownerRoot (goodT s0.trust.ownerRoot 1).msg (goodT s0.trust.ownerRoot 1).sig = true ∧ s0.trust.count < (goodT s0.trust.ownerRoot 1).count)
    ∧ queueOk 16383 { descT with z := 4 } = true ∧ queueOk 16384 { descT with z := 4 } = false
    ∧ (ctxOk 65535 (ctxQuads 1) = true ∧ bitAt ((ctxQuads 1).getD 2 0).toNat 55 = true ∧ ctxOk 65535 (ctxQuads 0) = true ∧ bitAt ((ctxQuads 0).getD 2 0).toNat 55 = false ∧ (ctxQuads 1).length = 4 ∧ (withCtx s0).host.ctxTable = some tableT ∧ Memory.wf (withCtx s0).mem = true) ∧ s0.host.ctxTable = none ∧ ctxOk 65536 (ctxQuads 1) = false
    ∧ ((withCtx s0).ctxAt 0 = some ⟨0x30000, 0, 0⟩ ∧ (withCtx s0).ctxAt 9 = none)
    ∧ 768 ≤ 768 ∧ (bits (BitVec.ofNat 64 1000).toNat 50 8 = 0 ∧ bits (BitVec.ofNat 64 1000).toNat 58 6 + 1 = ([0] : List Word).length ∧ low 50 (BitVec.ofNat 64 1000).toNat % 1000 = 0
      ∧ ([0] : List Word).mapM (fun e : Word => decodeSlot s0.fabric.present e.toNat) = some [none])
    ∧ 1000 * 2 + 131072 ≤ Config.memBytes
    ∧ ([0, 5].contains s0.devno = true ∧ bitAt s0.trust.ready 39 = false)
    ∧ tget s0.trust.domains 1 = none ∧ (tget { s0 with trust := { s0.trust with domains := [(1, domT)] } }.trust.domains 1 = some domT ∧ tsorted 0 [(1, domT)] = true ∧ (∀ e, e ∈ State.reset.host.launches → e.2.fin = true))
    ∧ State.reset.maySleep = true ∧ s0.maySleep = false
    ∧ (s0.podTime / 2 ^ 48 = s0.trust.sleepEpoch ∧ { s0 with podTime := 2 ^ 50 }.podTime / 2 ^ 48 ≠ s0.trust.sleepEpoch)
    ∧ runs fenceGuest s0 = true ∧ (s0.socket.ready = false ∧ s0.socket.queues = []) := by
  refine ⟨?_, ?_, ?_, ?_, ?_, ?_, ?_, ?_, ⟨goodT_ok _ _, ?_⟩, ?_⟩
  · decide +kernel
  · simp only [State.imageOk, startT, Config.sigValid]; simp; decide +kernel
  · simp [State.imageOk]
  all_goals decide +kernel
theorem meets_ErrorEvents : ((tget s0.teams teamT).isSome = true ∧ Memory.wf (s0.team teamT).spad = true) ∧ (tget s0.threads 0 = some (s0.thr 0) ∧ dwf 0 (s0.thr 0).slices = true)
    ∧ Memory.wf s0.mem = true ∧ 16 ≤ (lastHour 9 (List.replicate 15 9)).length ∧ (lastHour s0.now s0.trust.sramuTimes).length < 16 := by decide +kernel

/-! ### Words written out from the encodings of 01 and 02: each decodes to the instruction it stands for -/

/-- The guard not p3, stall count or counter 2; the special operand zero. -/
def h : Hdr := ⟨⟨true, 3⟩, 2⟩
def z : Operand := .special 0x18 0
/-- Words, each with its instruction. -/
def reads (l : List (Nat × Instr)) : Bool := l.all fun e => decode (BitVec.ofNat 64 e.1) plainTrailer == .ok e.2 1
theorem test_decode_integer : reads [
  (0x00A34051C042FFF9, .iadd .s16 ⟨h, .slice 40 7, .slice 16 5, .imm 0x1FF9, none⟩), (0x02E34051C042FFF9, .isub .z16 ⟨h, .slice 40 7, .slice 16 5, .imm 0x1FF9, none⟩),
  (0x05E34051C042FFF9, .imul .z64 ⟨h, .slice 40 7, .slice 16 5, .imm 0x1FF9, none⟩), (0x07E34051C042FFF9, .imulh .z64 ⟨h, .slice 40 7, .slice 16 5, .imm 0x1FF9⟩),
  (0x08E34051C042FFF9, .imad .z16 ⟨h, .slice 40 7, .slice 16 5, .imm 0x1FF9, none⟩), (0x0B234051C042FFF9, .idiv .s32 ⟨h, .slice 40 7, .slice 16 5, .imm 0x1FF9⟩),
  (0x0D634051C042FFF9, .irem .z32 ⟨h, .slice 40 7, .slice 16 5, .imm 0x1FF9⟩), (0x0F634051C042FFF9, .imin .z32 ⟨h, .slice 40 7, .slice 16 5, .imm 0x1FF9⟩),
  (0x11E34051C042FFF9, .imax .z64 ⟨h, .slice 40 7, .slice 16 5, .imm 0x1FF9⟩), (0x13E34051C043A0C0, .iabs .z64 ⟨h, .slice 40 7, .slice 16 7, z, none⟩),
  (0x14E34051C043A0C0, .ineg .z16 ⟨h, .slice 40 7, .slice 16 7, z, none⟩), (0x166343214043FFF9, .icmp .z8 ⟨h, ⟨3, 4, 5⟩, .slice 16 7, .imm 0x1FF9⟩),
  (0x18234051C042FFF9, .sxt ⟨h, .slice 40 7, .slice 16 5, .imm 0x1FF9⟩), (0x18634051C042FFF9, .zxt ⟨h, .slice 40 7, .slice 16 5, .imm 0x1FF9⟩),
  (0x18A34051C043A0C0, .mov ⟨h, .slice 40 7, .slice 16 7, z⟩), (0x18E34051EABCDEF1, .movi ⟨h, .slice 40 7, 0x2ABCDEF1⟩),
  (0x19234051C042FFF9, .lea ⟨h, .slice 40 7, .slice 16 5, .imm 0x1FF9⟩), (0x19634051C042FFF9, .isel ⟨h, .slice 40 7, .slice 16 5, .imm 0x1FF9, none⟩),
  (0x1A234051C042FFF9, .shl ⟨h, .slice 40 7, .slice 16 5, .imm 0x1FF9⟩), (0x1A634051C042FFF9, .shr ⟨h, .slice 40 7, .slice 16 5, .imm 0x1FF9⟩),
  (0x1AA34051C042FFF9, .sar ⟨h, .slice 40 7, .slice 16 5, .imm 0x1FF9⟩), (0x1AE34051C042FFF9, .rot ⟨h, .slice 40 7, .slice 16 5, .imm 0x1FF9⟩),
  (0x1B234051C042FFF9, .land ⟨h, .slice 40 7, .slice 16 5, .imm 0x1FF9⟩), (0x1B634051C042FFF9, .lor ⟨h, .slice 40 7, .slice 16 5, .imm 0x1FF9⟩),
  (0x1BA34051C042FFF9, .lxor ⟨h, .slice 40 7, .slice 16 5, .imm 0x1FF9⟩), (0x1BE34051C042FFF9, .landn ⟨h, .slice 40 7, .slice 16 5, .imm 0x1FF9⟩),
  (0x1C234051C043A0C0, .popc ⟨h, .slice 40 7, .slice 16 7, z⟩), (0x1C634051C043A0C0, .clz ⟨h, .slice 40 7, .slice 16 7, z⟩),
  (0x1CA34051C043A0C0, .ctz ⟨h, .slice 40 7, .slice 16 7, z⟩), (0x1CE34051C043A0C0, .brev ⟨h, .slice 40 7, .slice 16 7, z⟩),
  (0x1E234051C042FFF9, .bfxS ⟨h, .slice 40 7, .slice 16 5, .imm 0x1FF9, none⟩), (0x1E634051C042FFF9, .bfxZ ⟨h, .slice 40 7, .slice 16 5, .imm 0x1FF9, none⟩),
  (0x1EA34051C042FFF9, .bfi ⟨h, .slice 40 7, .slice 16 5, .imm 0x1FF9, none⟩), (0x1EE34051C042FFF9, .ffcs ⟨h, .slice 40 7, .slice 16 5, .imm 0x1FF9⟩),
  (0x1F234051C042FFF9, .plset ⟨h, .slice 40 7, .slice 16 5, .imm 0x1FF9⟩), (0x1F634051C042FFF9, .perm ⟨h, .slice 40 7, .slice 16 5, .imm 0x1FF9⟩)] = true := by decide +kernel
theorem test_decode_predicate_control : reads [
  (0x202343200043A0C0, .pset ⟨h, ⟨3, 4, 0⟩, .slice 16 7, z⟩), (0x206343200014801F, .pand ⟨h, ⟨3, 4, 0⟩, ⟨true, 9⟩, ⟨false, 31⟩⟩),
  (0x20A343200014801F, .por ⟨h, ⟨3, 4, 0⟩, ⟨true, 9⟩, ⟨false, 31⟩⟩), (0x20E343200014801F, .pxor ⟨h, ⟨3, 4, 0⟩, ⟨true, 9⟩, ⟨false, 31⟩⟩),
  (0x21235F200014A0C0, .pmov ⟨h, ⟨31, 4, 0⟩, ⟨true, 9⟩, z⟩), (0x402340FFFFFFFFFB, .bra ⟨h, 0, 0xFFFFFFFFFB⟩),
  (0x406348300043A0C0, .brx ⟨h, z, .slice 16 7, z⟩), (0x40A34FFFFFFFFFFB, .call ⟨h, 15, 0xFFFFFFFFFB⟩),
  (0x40E34830106020C0, .ret ⟨h, z, z, z⟩), (0x41234830106020C0, .exit ⟨h, z, z, z⟩),
  (0x41634051C042FFF9, .task ⟨h, .slice 40 7, .slice 16 5, .imm 0x1FF9⟩), (0x41A34830106020C0, .yield ⟨h, z, z, z⟩),
  (0x41E348302ABCDEF1, .winb ⟨h, z, 0x2ABCDEF1⟩), (0x42234830106020C0, .nop ⟨h, z, z, z⟩),
  (0xFFF103028A830000, .trail ⟨24, 0x81, true, .slice 40 5, z⟩)] = true := by decide +kernel
theorem test_decode_memory : reads [
  (0x60234050C043F000, .ldRlx ⟨h, .slice 40 3, .slice 16 7, .imm 0x1000⟩), (0x606340514043EFFF, .stRlx ⟨h, .slice 40 5, .slice 16 7, .imm 0xFFF⟩),
  (0x60A34050C043F000, .ldSc ⟨h, .slice 40 3, .slice 16 7, .imm 0x1000⟩), (0x60E340514043EFFF, .stSc ⟨h, .slice 40 5, .slice 16 7, .imm 0xFFF⟩),
  (0x61234050C043F000, .ldx ⟨h, .slice 40 3, .slice 16 7, .imm 0x1000⟩), (0x62A34050C043F000, .ldAcq .core ⟨h, .slice 40 3, .slice 16 7, .imm 0x1000⟩),
  (0x652340514043EFFF, .stRel .stack ⟨h, .slice 40 5, .slice 16 7, .imm 0xFFF⟩), (0x6A234051C0407FF8, .spill ⟨h, .slice 40 7, .slice 16 0, .imm 0x1FF8⟩),
  (0x6A634051C0407FF8, .fill ⟨h, .slice 40 7, .slice 16 0, .imm 0x1FF8⟩), (0x6AA348300043E040, .pf ⟨h, z, .slice 16 7, .imm 0x40⟩),
  (0x6AE34827C043801F, .sbind ⟨h, .special 19 7, .slice 16 7, .slice 3 7⟩)] = true := by decide +kernel
theorem test_decode_float : reads [
  (0x80E34051C043D40F, .fadd .bf16 ⟨h, .slice 40 7, .slice 16 7, .indexed 2 129 7, none⟩), (0x81234051C043D40F, .fsub .f64 ⟨h, .slice 40 7, .slice 16 7, .indexed 2 129 7, none⟩),
  (0x82234051C043D40F, .fmul .f64 ⟨h, .slice 40 7, .slice 16 7, .indexed 2 129 7, none⟩), (0x83234051C043D40F, .fma .f64 ⟨h, .slice 40 7, .slice 16 7, .indexed 2 129 7, none⟩),
  (0x84A34051C043D40F, .fms .f16 ⟨h, .slice 40 7, .slice 16 7, .indexed 2 129 7, none⟩), (0x85A34051C043D40F, .fnma .f16 ⟨h, .slice 40 7, .slice 16 7, .indexed 2 129 7, none⟩),
  (0x86A34051C043D40F, .fmin .f16 ⟨h, .slice 40 7, .slice 16 7, .indexed 2 129 7, none⟩), (0x87234051C043D40F, .fmax .f64 ⟨h, .slice 40 7, .slice 16 7, .indexed 2 129 7, none⟩),
  (0x88A343234041801B, .fcmp .f16 ⟨h, ⟨3, 4, 13⟩, .slice 16 3, .slice 3 3, none⟩), (0x89634051C043D40F, .fdiv .f32 ⟨h, .slice 40 7, .slice 16 7, .indexed 2 129 7, none⟩),
  (0x8A234051E723A0C0, .fsqrt .f64 ⟨h, .slice 40 7, .indexed 1 200 7, z, none⟩), (0x8BE34051E723A0C0, .frcp .bf16 ⟨h, .slice 40 7, .indexed 1 200 7, z, none⟩),
  (0x8C234051E723A0C0, .frsq .f64 ⟨h, .slice 40 7, .indexed 1 200 7, z, none⟩), (0x8D634051E723A0C0, .fexp2 .f32 ⟨h, .slice 40 7, .indexed 1 200 7, z, none⟩),
  (0x8EA34051E723A0C0, .flog2 .f16 ⟨h, .slice 40 7, .indexed 1 200 7, z, none⟩), (0x8F234051E723A0C0, .fsin .f64 ⟨h, .slice 40 7, .indexed 1 200 7, z, none⟩),
  (0x90E34051E723A0C0, .fcos .bf16 ⟨h, .slice 40 7, .indexed 1 200 7, z, none⟩), (0x91634051E723A0C0, .ftanh .f32 ⟨h, .slice 40 7, .indexed 1 200 7, z, none⟩),
  (0x92634051E723A0C0, .fsig .f32 ⟨h, .slice 40 7, .indexed 1 200 7, z, none⟩), (0x932340514043A0C0, .fclass .f64 ⟨h, .slice 40 5, .slice 16 7, z, none⟩),
  (0x94A34051E723A0C0, .fround .f16 ⟨h, .slice 40 7, .indexed 1 200 7, z, none⟩), (0xB82340504043A0C0, .cvt .e4m3 .f64 ⟨h, .slice 40 1, .slice 16 7, z, none⟩),
  (0x982340514043FFF8, .pack ⟨h, .slice 40 5, .slice 16 7, .imm 0x1FF8, none⟩), (0x98634051C042FFF8, .unpack ⟨h, .slice 40 7, .slice 16 5, .imm 0x1FF8, none⟩),
  (0x9A2340514043801D, .lshf ⟨h, .slice 40 5, .slice 16 7, .slice 3 5, none⟩), (0x9A6340514043E1FF, .lbcast ⟨h, .slice 40 5, .slice 16 7, .imm 0x1FF, none⟩),
  (0x9AA34051C043FFF9, .lrot ⟨h, .slice 40 7, .slice 16 7, .imm 0x1FF9, none⟩), (0x9AE34051C014E003, .lvote ⟨h, .slice 40 7, ⟨true, 9⟩, .imm 0x3, none⟩),
  (0x9C234051C043A0C0, .lredAdd .f64 ⟨h, .slice 40 7, .slice 16 7, z, none⟩), (0x9DE34051C043A0C0, .lredMin .bf16 ⟨h, .slice 40 7, .slice 16 7, z, none⟩),
  (0x9E634051C043A0C0, .lredMax .f32 ⟨h, .slice 40 7, .slice 16 7, z, none⟩), (0xA0A34051C043A0C0, .lscanAdd .f16 ⟨h, .slice 40 7, .slice 16 7, z, none⟩),
  (0xA1634051C043A0C0, .lscanMin .f32 ⟨h, .slice 40 7, .slice 16 7, z, none⟩), (0xA2E34051C043A0C0, .lscanMax .bf16 ⟨h, .slice 40 7, .slice 16 7, z, none⟩),
  (0xA4A340514043801F, .dot .s8 ⟨h, .slice 40 5, .slice 16 7, .slice 3 7, none⟩), (0xA6634051C043801D, .dsmul .bf16 ⟨h, .slice 40 7, .slice 16 7, .slice 3 5, none⟩)] = true := by decide +kernel
theorem test_decode_engine : reads [
  (0xC0234051C043A0C0, .mma ⟨h, .slice 40 7, .slice 16 7, z⟩), (0xC0634051D060601F, .mwait ⟨h, .slice 40 7, z, .imm 0x1F⟩),
  (0xC0A34051D060600F, .mrow ⟨h, .slice 40 7, z, .imm 0xF⟩), (0xC0E34051C042FFF9, .macc ⟨h, .slice 40 7, .slice 16 5, .imm 0x1FF9⟩),
  (0xC1234051D060603F, .mzero ⟨h, .slice 40 7, z, .imm 0x3F⟩), (0xC2234051EFFF801F, .cpy ⟨h, .slice 40 7, .indexed 3 255 7, .slice 3 7⟩),
  (0xC2634051EFFF801F, .cpy2d ⟨h, .slice 40 7, .indexed 3 255 7, .slice 3 7⟩), (0xC2A34051EFFF801F, .cpyg ⟨h, .slice 40 7, .indexed 3 255 7, .slice 3 7⟩),
  (0xC3234051EFFF801F, .cvq ⟨h, .slice 40 7, .indexed 3 255 7, .slice 3 7⟩), (0xC3634051EFFF801F, .cvd ⟨h, .slice 40 7, .indexed 3 255 7, .slice 3 7⟩),
  (0xC4234051C043A0C0, .pinit ⟨h, .slice 40 7, .slice 16 7, z⟩), (0xC4634051C043E005, .pwait ⟨h, .slice 40 7, .slice 16 7, .imm 0x5⟩),
  (0xC4A34051C043E000, .prelRelease ⟨h, .slice 40 7, .slice 16 7, .imm 0x0⟩), (0xC4A34051C043E001, .prelLeave ⟨h, .slice 40 7, .slice 16 7, .imm 0x1⟩),
  (0xC4A34051C043E002, .prelJoin ⟨h, .slice 40 7, .slice 16 7, .imm 0x2⟩), (0xC4E34051C043A0C0, .pphase ⟨h, .slice 40 7, .slice 16 7, z⟩),
  (0xC6234051D0607FFF, .cbpass ⟨h, .slice 40 7, z, .imm 0x1FFF⟩), (0xC6634051D0606001, .cbwait ⟨h, .slice 40 7, z, .imm 0x1⟩),
  (0xC7234051D060600C, .qfence ⟨h, .slice 40 7, z, .imm 0xC⟩), (0xC8234051C042FFF9, .gsub ⟨h, .slice 40 7, .slice 16 5, .imm 0x1FF9⟩),
  (0xC8634051C042FFF9, .gwait ⟨h, .slice 40 7, .slice 16 5, .imm 0x1FF9⟩)] = true := by decide +kernel
theorem test_decode_atomic : reads [
  (0xD0234051C041801F, .atmAdd ⟨h, .slice 40 7, .slice 16 3, .slice 3 7⟩), (0xD0634051C041801F, .atmMinS ⟨h, .slice 40 7, .slice 16 3, .slice 3 7⟩),
  (0xD0A34051C041801F, .atmMinZ ⟨h, .slice 40 7, .slice 16 3, .slice 3 7⟩), (0xD0E34051C041801F, .atmMaxS ⟨h, .slice 40 7, .slice 16 3, .slice 3 7⟩),
  (0xD1234051C041801F, .atmMaxZ ⟨h, .slice 40 7, .slice 16 3, .slice 3 7⟩), (0xD1634051C041801F, .atmAnd ⟨h, .slice 40 7, .slice 16 3, .slice 3 7⟩),
  (0xD1A34051C041801F, .atmOr ⟨h, .slice 40 7, .slice 16 3, .slice 3 7⟩), (0xD1E34051C041801F, .atmXor ⟨h, .slice 40 7, .slice 16 3, .slice 3 7⟩),
  (0xD2234051C041801F, .atmExch ⟨h, .slice 40 7, .slice 16 3, .slice 3 7⟩), (0xD2634051C041801F, .atmCas ⟨h, .slice 40 7, .slice 16 3, .slice 3 7⟩),
  (0xD2A34051C0420287, .atmCas128 ⟨h, .slice 40 7, .slice 16 4, .slice 80 7⟩), (0xD2E34051C041801F, .atmBfi ⟨h, .slice 40 7, .slice 16 3, .slice 3 7⟩),
  (0xD3234051C041801F, .atmFfcs ⟨h, .slice 40 7, .slice 16 3, .slice 3 7⟩), (0xD3634051C041801F, .atmPlset ⟨h, .slice 40 7, .slice 16 3, .slice 3 7⟩),
  (0xD3E340514041801D, .atmAddFloat .f32 ⟨h, .slice 40 5, .slice 16 3, .slice 3 5⟩), (0xD4A34051C041801F, .atmMinFloat .f64 ⟨h, .slice 40 7, .slice 16 3, .slice 3 7⟩),
  (0xD62340514041801D, .atmMaxFloat .f16 ⟨h, .slice 40 5, .slice 16 3, .slice 3 5⟩), (0xD6A348300041001D, .redAdd ⟨h, z, .slice 16 2, .slice 3 5⟩),
  (0xD6E348300041001D, .redMinS ⟨h, z, .slice 16 2, .slice 3 5⟩), (0xD72348300041001D, .redMinZ ⟨h, z, .slice 16 2, .slice 3 5⟩),
  (0xD76348300041001D, .redMaxS ⟨h, z, .slice 16 2, .slice 3 5⟩), (0xD7A348300041001D, .redMaxZ ⟨h, z, .slice 16 2, .slice 3 5⟩),
  (0xD7E348300041001D, .redAnd ⟨h, z, .slice 16 2, .slice 3 5⟩), (0xD82348300041001D, .redOr ⟨h, z, .slice 16 2, .slice 3 5⟩),
  (0xD86348300041001D, .redXor ⟨h, z, .slice 16 2, .slice 3 5⟩), (0xD92348300041001D, .redAddFloat .f16 ⟨h, z, .slice 16 2, .slice 3 5⟩),
  (0xDC2348300040001D, .chup .addS32 ⟨h, z, .slice 16 0, .slice 3 5⟩), (0xD9A34051C04020C0, .chfl ⟨h, .slice 40 7, .slice 16 0, z⟩),
  (0xD9E34051D0606006, .fence ⟨h, .slice 40 7, z, .imm 0x6⟩), (0xDA234051D06020C0, .sfence ⟨h, .slice 40 7, z, z⟩),
  (0xDA634051D060600E, .bar ⟨h, .slice 40 7, z, .imm 0xE⟩), (0xDAA34051D060600E, .barw ⟨h, .slice 40 7, z, .imm 0xE⟩),
  (0xDAE34051D060001F, .twait ⟨h, .slice 40 7, z, .slice 3 7⟩), (0xDB234051C043A0C0, .map ⟨h, .slice 40 7, .slice 16 7, z⟩),
  (0xDB634051C043A0C0, .unmap ⟨h, .slice 40 7, .slice 16 7, z⟩), (0xDBA34051C042FFF9, .wopen ⟨h, .slice 40 7, .slice 16 5, .imm 0x1FF9⟩),
  (0xDBE34051C042FFF9, .wclose ⟨h, .slice 40 7, .slice 16 5, .imm 0x1FF9⟩)] = true := by decide +kernel
theorem test_decode_fabric : reads [
  (0xE0234051C043E00B, .phreg ⟨h, .slice 40 7, .slice 16 7, .imm 0xB⟩), (0xE0634051C043E008, .phleave ⟨h, .slice 40 7, .slice 16 7, .imm 0x8⟩),
  (0xE0A34051C043E008, .phsig ⟨h, .slice 40 7, .slice 16 7, .imm 0x8⟩), (0xE0E34051C043E008, .phsigb ⟨h, .slice 40 7, .slice 16 7, .imm 0x8⟩),
  (0xE1234051C043801D, .phany ⟨h, .slice 40 7, .slice 16 7, .slice 3 5⟩), (0xE1634051C043801D, .phwait ⟨h, .slice 40 7, .slice 16 7, .slice 3 5⟩),
  (0xE1A34051C043801D, .phtry ⟨h, .slice 40 7, .slice 16 7, .slice 3 5⟩), (0xE1E34051C043A0C0, .phget ⟨h, .slice 40 7, .slice 16 7, z⟩),
  (0xE2234050C0427FF9, .fld ⟨h, .slice 40 3, .slice 16 4, .imm 0x1FF9⟩), (0xE263405140417FF9, .fst ⟨h, .slice 40 5, .slice 16 2, .imm 0x1FF9⟩),
  (0xE2A34051C0420287, .fatm ⟨h, .slice 40 7, .slice 16 4, .slice 80 7⟩), (0xE2E34051C043A0C0, .bulk ⟨h, .slice 40 7, .slice 16 7, z⟩),
  (0xE3234051C042FFF9, .acset ⟨h, .slice 40 7, .slice 16 5, .imm 0x1FF9⟩), (0xE3634051C043FFFF, .acwait ⟨h, .slice 40 7, .slice 16 7, .imm 0x1FFF⟩),
  (0xE3A34051D0606FFF, .ffence ⟨h, .slice 40 7, z, .imm 0xFFF⟩)] = true := by decide +kernel
theorem test_decode_system : reads [
  (0xEC23483010606FFF, .trap ⟨h, z, z, .imm 0xFFF⟩), (0xEC63483010606003, .rfx ⟨h, z, z, .imm 0x3⟩),
  (0xECA3483010606FFF, .brk ⟨h, z, z, .imm 0xFFF⟩), (0xECE34051D0606034, .sysrd ⟨h, .slice 40 7, z, .imm 0x34⟩),
  (0xED234051C043E027, .syswr ⟨h, .slice 40 7, .slice 16 7, .imm 0x27⟩), (0xED634051C042FFF9, .tlbinv ⟨h, .slice 40 7, .slice 16 5, .imm 0x1FF9⟩),
  (0xEDA34051C043E000, .cacheopClean ⟨h, .slice 40 7, .slice 16 7, .imm 0x0⟩), (0xEDA34051C043E001, .cacheopFlush ⟨h, .slice 40 7, .slice 16 7, .imm 0x1⟩),
  (0xEDA34051C043E002, .cacheopDrop ⟨h, .slice 40 7, .slice 16 7, .imm 0x2⟩), (0xEDA34051C043E003, .cacheopZero ⟨h, .slice 40 7, .slice 16 7, .imm 0x3⟩),
  (0xEDA34051D0606004, .cacheopL1all ⟨h, .slice 40 7, z, .imm 0x4⟩), (0xEDA34051D0606005, .cacheopL2all ⟨h, .slice 40 7, z, .imm 0x5⟩),
  (0xEDE34051C043E004, .cancel ⟨h, .slice 40 7, .slice 16 7, .imm 0x4⟩), (0xEEE34051C043E010, .topk ⟨h, .slice 40 7, .slice 16 7, .imm 0x10⟩),
  (0xEF234051C043A0C0, .kmerge ⟨h, .slice 40 7, .slice 16 7, z⟩), (0xEF634051C0438287, .skim ⟨h, .slice 40 7, .slice 16 7, .slice 80 7⟩),
  (0xEFA343200043801F, .kfilt ⟨h, ⟨3, 4, 0⟩, .slice 16 7, .slice 3 7⟩), (0xF0A340514043801F, .distL2 .s8 ⟨h, .slice 40 5, .slice 16 7, .slice 3 7⟩),
  (0xF16340514043801F, .distIp .bf16 ⟨h, .slice 40 5, .slice 16 7, .slice 3 7⟩), (0xF2634051C043801F, .distCos .bf16 ⟨h, .slice 40 7, .slice 16 7, .slice 3 7⟩)] = true := by decide +kernel
/-- Modifier words and their fields; words that no instruction has, and words whose fields are not legal. -/
theorem test_decode_modifier : decode 0x839F6081C04380C3#64 0xFF80839000C00000#64 = .ok (.fma .f16 ⟨⟨⟨false, 31⟩, 3⟩, .slice 64 7, .slice 16 7, .slice 24 3, some ⟨.slice 32 7, false, 1, false, false, false, false, false, false, 0, 6⟩⟩) 2
    ∧ decode 0x834100514042801D#64 0xFF8082FB7F600000#64 = .ok (.fma .f32 ⟨⟨⟨false, 1⟩, 0⟩, .slice 40 5, .slice 16 5, .slice 3 5, some ⟨.slice 32 5, true, 3, true, false, true, true, false, true, 0x3F, 3⟩⟩) 2 := by decide +kernel
theorem test_decode_illegal : [0x215F000000000000, 0x65DF0051C043E000, 0xF81F000000000000].all (fun w => decode (BitVec.ofNat 64 w) plainTrailer == .illegalOpcode) = true
    ∧ [0xFF9F000000000000, 0x189F0051C043801F, 0x171F03180043E000, 0x171F03218043E000].all (fun w => decode (BitVec.ofNat 64 w) plainTrailer == .illegalForm) = true := by decide +kernel

/-! ### Terms that are not well-formed: one for each check (R15, R22, R33, R40, R57) -/

def d8 : Operand := .slice 40 7
def a8 : Operand := .slice 16 7
def i0 (v : Int) : Operand := .imm (BitVec.ofInt 13 v)
def A (d a b : Operand) : FmtA := ⟨h, d, a, b⟩
def F (d a b : Operand) : FmtM := ⟨h, d, a, b, none⟩
/-- A modifier that sets nothing. -/
def plainMod : Modifier := ⟨z, false, 0, false, false, false, false, false, false, 0, 0⟩
def FM (d a b : Operand) (m : Modifier) : FmtM := ⟨h, d, a, b, some m⟩
def noneOk (l : List Instr) : Bool := l.all fun i => !formOk i
/-- Operands: unassigned specials, read-only specials as destinations, immediates outside B, unused fields that are not the special zero, predicates. -/
theorem test_ill_operands : noneOk [.shl (A d8 (.special 0x1C 7) a8), .shl (A d8 (i0 1) a8), .shl (A d8 a8 (.special 0x1C 7)), .shl (A (.special 0x19 7) a8 a8), .shl (A (i0 1) a8 a8), .mov (A d8 a8 a8), .movi ⟨h, i0 1, 0⟩,
  .winb ⟨h, d8, 0⟩, .exit (A z z d8), .brx (A d8 a8 z), .brx (A z a8 d8), .brx (A z (i0 1) z), .icmp .s32 ⟨h, ⟨3, 3, 0⟩, a8, a8⟩, .icmp .s32 ⟨h, ⟨3, 4, 6⟩, a8, a8⟩, .fcmp .f64 ⟨h, ⟨3, 4, 14⟩, a8, a8, none⟩, .fcmp .f64 ⟨h, ⟨3, 4, 0⟩, .slice 16 5, a8, none⟩,
  .pset ⟨h, ⟨3, 4, 1⟩, a8, z⟩, .pset ⟨h, ⟨3, 4, 0⟩, a8, a8⟩, .pand ⟨h, ⟨3, 3, 0⟩, ⟨false, 0⟩, ⟨false, 0⟩⟩, .pmov ⟨h, ⟨3, 4, 0⟩, ⟨false, 0⟩, a8⟩, .kfilt ⟨h, ⟨3, 4, 1⟩, a8, a8⟩, .kfilt ⟨h, ⟨3, 4, 0⟩, a8, .slice 0 5⟩] = true := by decide +kernel
/-- Control, trailers, memory: links, lengths, publish operands, widths, order codes, ports. -/
theorem test_ill_memory : noneOk [.bra ⟨h, 1, 0⟩, .call ⟨h, 16, 0⟩, .trail ⟨0, 0, false, z, z⟩, .trail ⟨25, 0, false, z, z⟩, .trail ⟨1, 0, false, i0 1, z⟩, .trail ⟨1, 0, false, z, .special 0x10 7⟩, .trail ⟨1, 0, false, .indexed 0 0 7, z⟩,
  .ldRlx (A (.slice 40 4) a8 (i0 0)), .ldAcq .pod (A (i0 1) a8 (i0 0)), .stRlx (A (.slice 40 6) a8 (i0 0)), .stRel .team (A (i0 1) a8 (i0 0)), .spill (A a8 d8 (i0 0)), .fill (A a8 (.indexed 0 0 0) (i0 0)), .pf (A d8 a8 (i0 0)),
  .sbind (A (.special 0x0F 7) a8 a8), .sbind (A (.special 0x10 5) a8 a8), .sbind (A d8 a8 a8), .atmAdd (A (.slice 40 3) a8 (.slice 0 3)), .atmAdd (A d8 (.slice 16 5) d8), .atmAdd (A d8 (.slice 16 0) (.slice 0 5)), .atmFfcs (A (.slice 40 5) (.slice 16 0) (i0 0)),
  .atmCas128 (A (.slice 40 5) (.slice 16 0) d8), .atmCas128 (A d8 (.slice 16 0) (.special 0 7)), .atmAddFloat .f64 (A (.slice 40 5) (.slice 16 0) (.slice 0 5)), .atmAddFloat .f32 (A (.slice 40 5) (.slice 16 0) (i0 1)), .redAdd (A z (.slice 16 1) a8), .redAdd (A z (.slice 16 0) (i0 1)),
  .redAdd (A d8 (.slice 16 0) a8), .redAdd (A z (.slice 16 0) (.slice 0 3)), .redAddFloat .f64 (A z (.slice 16 0) (.slice 0 5)), .chup .addS32 (A z (.slice 16 1) (.slice 0 5)), .chup .addS32 (A d8 (.slice 16 0) (.slice 0 5)), .chup .addS64 (A z (.slice 16 0) (.slice 0 5)),
  .chup .addQ32 (A (i0 1) (.slice 16 0) a8), .chfl (A d8 (.slice 16 1) z), .fence (A d8 z (i0 7)), .fence (A d8 a8 (i0 0)), .bar (A d8 a8 (i0 0)), .twait (A d8 z (i0 0))] = true := by decide +kernel
/-- Elements, conversions, lanes and modifier fields. -/
theorem test_ill_vector : noneOk [.fadd .f64 (F (.slice 40 5) a8 a8), .fadd .f16 (F d8 (.slice 16 5) a8), .fadd .f16 (F d8 a8 (.slice 0 5)), .fsqrt .f16 (F d8 a8 a8), .fclass .f32 (F d8 a8 z), .cvt .f16 .f16 (F d8 a8 z), .cvt .f64 .f32 (F (.slice 40 5) (.slice 16 5) z), .cvt .f32 .sint (F d8 a8 z),
  .pack (F d8 a8 (i0 8)), .pack (F d8 a8 (i0 7)), .pack (F d8 a8 a8), .unpack (F a8 a8 (i0 8)), .lshf (F d8 (.slice 16 5) a8), .lbcast (F d8 a8 (i0 512)), .lbcast (F d8 a8 a8), .lrot (F d8 (.slice 16 5) a8), .lvote ⟨h, d8, ⟨false, 0⟩, i0 4, none⟩, .lredAdd .f64 (F (.slice 40 5) (.slice 16 5) z),
  .lscanMin .f16 (F d8 (.slice 16 5) z), .dot .s8 (F d8 a8 a8), .dot .s8 (F (.slice 40 5) a8 (.slice 0 5)), .dot .f16 (F (.slice 40 5) a8 (i0 0)), .dot .f16 (F (.slice 40 5) (.slice 16 1) (.slice 0 1)), .dsmul .f16 (F d8 a8 a8), .dsmul .f16 (F (.slice 40 1) (.slice 16 1) (.slice 0 1)),
  .distL2 .f16 (A d8 a8 a8), .distCos .f16 (A (.slice 40 5) a8 a8), .distIp .s8 (A (.slice 40 5) a8 (.slice 0 5)), .distIp .f16 (A (.slice 40 5) (.slice 16 1) (.slice 0 1))] = true := by decide +kernel
theorem test_ill_modifier : noneOk ([{ plainMod with negA := true }, { plainMod with absB := true }, { plainMod with negC := true }, { plainMod with absC := true }, { plainMod with c := d8 }, { plainMod with scale := 1 }, { plainMod with clamp := 1 }, { plainMod with round := 1 }, { plainMod with round := 7 }].map
    fun m => .iadd .s32 (FM d8 a8 a8 m)) = true
    ∧ noneOk [.isel (FM d8 a8 a8 { plainMod with sat := true }), .fadd .f64 (FM d8 a8 a8 { plainMod with round := 7 }), .fma .f64 (FM d8 a8 a8 { plainMod with c := .special 0x1C 7 }), .fma .f64 (FM d8 a8 a8 { plainMod with c := i0 1 }), .fma .f64 (FM d8 a8 a8 { plainMod with c := .slice 0 5 }),
      .lredAdd .f64 (FM d8 a8 z { plainMod with round := 5 }), .dot .f16 (FM (.slice 40 5) a8 a8 { plainMod with c := d8 }), .dot .s8 (FM (.slice 40 5) a8 a8 { plainMod with round := 1 })] = true
    ∧ formOk (.iadd .s32 (FM d8 a8 a8 plainMod)) = true := by decide +kernel
/-- Engines, phasers, the fabric, system words, search: descriptors, immediates, handles, register numbers. -/
theorem test_ill_system : noneOk [.mma (A d8 (.slice 16 5) z), .mma (A d8 (.special 0 7) z), .mma (A d8 a8 a8), .mwait (A d8 z (i0 32)), .mwait (A d8 z (i0 (-1))), .mrow (A d8 z (i0 16)), .mzero (A d8 z (i0 64)), .cpy (A d8 a8 (.special 0x1C 7)), .pwait (A d8 a8 (i0 8)), .prelRelease (A d8 a8 (i0 1)), .prelLeave (A d8 a8 (i0 2)),
  .prelJoin (A d8 a8 (i0 3)), .cbpass (A d8 z (i0 32)), .cbpass (A d8 z (i0 (-2))), .cbwait (A d8 z (i0 2)), .qfence (A d8 z (i0 16)), .phreg (A d8 a8 (i0 4)), .phreg (A d8 (.slice 16 5) (i0 1)), .phsig (A d8 a8 (i0 1)), .phsigb (A d8 a8 (i0 4)), .phwait (A d8 a8 (i0 0)), .phget (A d8 a8 a8),
  .fld (A (.slice 40 6) (.slice 16 0) (i0 0)), .fld (A d8 (.slice 16 2) (i0 0)), .fst (A d8 (.slice 16 1) (i0 0)), .fatm (A d8 (.slice 16 5) d8), .fatm (A d8 (.slice 16 0) (.slice 0 5)), .acwait (A d8 a8 a8), .ffence (A d8 z (i0 (-1))), .trap (A d8 z (i0 0)), .trap (A z z (i0 (-1))), .rfx (A z z (i0 4)),
  .sysrd (A d8 z (i0 9)), .sysrd (A d8 z (i0 0x35)), .sysrd (A d8 a8 (i0 0)), .syswr (A d8 a8 (i0 5)), .syswr (A d8 a8 (i0 0x28)), .cacheopClean (A d8 a8 (i0 1)), .cacheopL1all (A d8 a8 (i0 4)), .cancel (A d8 a8 (i0 5)), .topk (A d8 a8 (i0 0)), .topk (A d8 a8 (i0 17)), .topk (A (.slice 40 5) a8 (i0 1)),
  .skim (A d8 a8 (.slice 0 5))] = true := by decide +kernel

/-! ### One step on a small state: the worked examples of 03, 04 and 07 and hand calculations from the rules named -/

/-- What an instruction will write to the registers of the thread. -/
def wrote (i : Instr) (f : Thread → Thread) : List (Loc × Nat) :=
  match exec i (prep f id) with
  | .next s => (s.thr 0).pend.flatMap (·.writes)
  | _ => []
/-- The value of a variable-latency instruction that is fixed at issue. -/
def gave (i : Instr) (f : Thread → Thread) : Option Nat :=
  match exec i (prep f id) with
  | .next s => (s.thr 0).outst.head?.map (·.val)
  | _ => none
def qv (n v : Nat) : List (Loc × Nat) := (Dest.slices (n + 64) 16).writes v
def S (n : Nat) (w : BitVec 3) : Operand := .slice (BitVec.ofNat 10 n) w
/-- R70, R71: q2 = 0xF0F7. -/
theorem test_ffcs : wrote (.ffcs (fa 0 (q 64) (q 32) (i 2))) (setQ 32 0xF0F7) = qv 64 0x0203 := by decide +kernel
theorem test_plset : wrote (.plset (fa 0 (q 80) (q 32) (i 14))) (setQ 32 0xF0F7) = qv 80 0xF3FF := by decide +kernel
/-- R54, R59: 0x70 + 0x30 in eight bits, saturated and not. -/
theorem test_iadd_sat : wrote (.iadd .s16 (fm 0 (S 24 1) (S 4 3) (S 8 3) (some { plainMod with sat := true }))) (setQ 0 0x3000700000) = (Dest.slices 88 2).writes 0x7F
    ∧ wrote (.iadd .s16 (fm 0 (S 24 1) (S 4 3) (S 8 3) none)) (setQ 0 0x3000700000) = (Dest.slices 88 2).writes 0xA0 := by decide +kernel
/-- R151: slices 34 to 36 of 0x89ABCDEF are 0xBCD, sign-extended; the sum goes to six slices. -/
theorem test_iadd_narrow : wrote (.iadd .s32 (fm 1 (S 36 4) (S 34 2) (i 1) none)) (setQ 32 0x89ABCDEF) = (Dest.slices 100 6).writes 0xFFFBCE := by decide +kernel
/-- R93 to R99: a × b + c on four f16 elements, one of them broadcast, clamped to [0, 1]. -/
theorem test_fma_clamp : wrote (.fma .f16 (fm 3 (q 64) (q 16) (S 8 3) (some { plainMod with c := q 32, clamp := 1 }))) (setQ 0 0x380000000000 ∘ setQ 16 0x34004000B8003C00 ∘ setQ 32 0x3A00340034003400) = qv 64 0x3B003C0000003A00 := by decide +kernel
/-- R99: 1 + 2^-24 ties to the even 1.0; 1 + 3 · 2^-24 rounds up. -/
theorem test_fadd_ties : wrote (.fadd .f32 (fm 0 (l 32) (l 0) (l 8) none)) (setQ 0 0x338000003F800000) = (Dest.slices 96 8).writes 0x3F800000
    ∧ wrote (.fadd .f32 (fm 0 (l 32) (l 0) (l 8) none)) (setQ 0 0x344000003F800000) = (Dest.slices 96 8).writes 0x3F800002 := by decide +kernel
/-- R66: a shift by the width gives 0, an arithmetic one the sign. -/
theorem test_shift_width : wrote (.shl (fa 0 (l 32) (l 0) (i 32))) (setQ 0 0x80000001) = (Dest.slices 96 8).writes 0 ∧ wrote (.sar (fa 0 (l 32) (l 0) (i 32))) (setQ 0 0x80000001) = (Dest.slices 96 8).writes 0xFFFFFFFF := by decide +kernel
/-- R60: the quotient is truncated toward zero, the remainder has the sign of a. -/
theorem test_divide : gave (.idiv .s32 (fa 0 (l 32) (l 0) (i 2))) (setQ 0 0xFFFFFFF9) = some 0xFFFFFFFD ∧ gave (.irem .s32 (fa 0 (l 32) (l 0) (i 2))) (setQ 0 0xFFFFFFF9) = some 0xFFFFFFFF := by decide +kernel
/-- R61: signed and unsigned order differ. -/
theorem test_icmp_signs : wrote (.icmp .s32 ⟨hdr 0, pd 2, l 0, i 1⟩) (setQ 0 0xFFFFFFFF) = [(.pred 3, 1), (.pred 4, 0)] ∧ wrote (.icmp .z32 ⟨hdr 0, pd 2, l 0, i 1⟩) (setQ 0 0xFFFFFFFF) = [(.pred 3, 0), (.pred 4, 1)] := by decide +kernel
/-- R12: the next run head is the word's address plus 8 × offset. -/
theorem test_bra_target : (match exec (.bra ⟨hdr 0, 0, 2⟩) s0 with | .next s => (s.thr 0).nextHead | _ => none) = some (wd 0x10010) := by decide +kernel
/-- R1, R83: a store of 32 bits in the scratchpad, lowest byte first. -/
theorem test_store_bytes : (match exec (.stRlx (fa 0 (l 0) (q 16) (i 4))) (prep (setQ 0 0x11223344 ∘ setQ 16 aperture) id) with | .next s => memGetN (s.team teamT).spad 4 4 | _ => []) = [0x44, 0x33, 0x22, 0x11] := by decide +kernel
end Sys2Proof.Tests
end

section
/-! PROOFS. What a word of each shape answers, said once for the shape's own operation (R13, R27, R28). -/
namespace Sys2Proof.Machine

variable {m : Meta} {h : Hdr} {s s1 s2 : State} {gid k : Nat} {g : Gang} {i : Instr} {srcs : List Operand}

/-! ### The turn of a gang -/

/-- The checks before the guard ask no more than the role where a word is not privileged and not of a carabiner (R40, R131, R194). -/
theorem preCheck_of_role (hp : m.priv = false) (hc : m.car = false) (hr : m.roles (s.groupOf k).role = true) :
    preCheck m k s = (.ok (), s) := by
  simp [preCheck, M.run_bind, hp, hc, hr]
theorem State.not_full_of_room (h1 : s.Room k h) : s.full k h.sc.toNat = false := by
  simpa [State.full, State.Room] using h1
theorem roomFor_of_room (h1 : s.Room k h) : roomFor k h s = (.ok (), s) := by
  have h2 : ¬ 63 ≤ (s.thr k).dcount ((s.thr k).counter h.sc.toNat) := Nat.not_le.mpr h1
  simp [roomFor, M.run_bind, h2]
/-- A fixed-latency word whose turn it is does its effect, and the gang moves on (R13, R27). -/
theorem State.Turn.runWord_fixed {body : Nat → M Unit} (ht : s.Turn gid g k h m.roles) (hv : m.var = false) (hp : m.priv = false)
    (hc : m.car = false) (hb : body k s = (.ok (), s2)) : runWord m h body s = .next (movedOn gid g m.words h s2) := by
  rw [runWord_one ht.cur ht.gang ht.issues ht.members ht.done ht.short ht.serial (by simp [hv]) (preCheck_of_role hp hc ht.role) ht.guard hb]
  simp [hv, movedOn]
/-- A variable-latency word whose turn it is, with room in its counter, does its effect, and the gang moves on (R13, R28). -/
theorem State.Turn.runWord_var {body : Nat → M Unit} (ht : s.Turn gid g k h m.roles) (h1 : s.Room k h) (hv : m.var = true)
    (hp : m.priv = false) (hc : m.car = false) (hb : body k s = (.ok (), s2)) :
    runWord m h body s = .next (movedNext gid g m.words s2) := by
  rw [runWord_one ht.cur ht.gang ht.issues ht.members ht.done ht.short ht.serial (by simp [State.not_full_of_room h1])
    (preCheck_of_role hp hc ht.role) ht.guard hb]
  simp [hv, movedNext]

/-! ### Shapes of words -/

theorem actWord_of_fixedWord {d : Operand} {lat : Nat} {v : Nat → List SVal → M Nat} (hv : m.var = false) (hp : m.priv = false)
    (hc : m.car = false) (hx : ∀ s, exec i s = fixedWord m h srcs d lat v s) : ActWord i h m.roles m.words srcs d lat v := by
  intro s gid g k s1 s2 s3 vs dst r ht hops hval hres
  rw [hx s, fixedWord]
  apply ht.runWord_fixed hv hp hc
  rw [M.bind_ok hops]
  exact (M.bind_ok hval).trans hres
/-- A word whose value needs no action of the thread is one whose action is `pure`. -/
theorem fixedWord_of_pureWord {d : Operand} {lat : Nat} {v : List SVal → Nat} (hv : m.var = false) (hp : m.priv = false)
    (hc : m.car = false) (hx : ∀ s, exec i s = pureWord m h srcs d lat v s) : FixedWord i h m.roles m.words srcs d lat v :=
  fun s gid g k s1 s2 vs dst ht hops hres =>
    actWord_of_fixedWord (v := fun _ vs => pure (v vs)) hv hp hc hx s gid g k s1 s1 s2 vs dst _ ht hops rfl hres
/-- The same for a word that every role may issue. -/
theorem fixedWord_of_pureWord_anyRole {words : Nat} {d : Operand} {lat : Nat} {v : List SVal → Nat}
    (hx : ∀ s, exec i s = pureWord { words := words } h srcs d lat v s) : FixedWord i h anyRole words srcs d lat v :=
  fixedWord_of_pureWord (m := { words := words }) rfl rfl rfl hx
theorem predWord_of_predWord {d : PDst} {v : List SVal → Bool} (hv : m.var = false) (hp : m.priv = false) (hc : m.car = false)
    (hx : ∀ s, exec i s = predWord m h srcs d v s) : PredWord i h m.roles m.words srcs d v := by
  intro s gid g k s1 s2 vs x ht hops hcover hres
  rw [hx s, predWord]
  apply ht.runWord_fixed hv hp hc
  rw [M.bind_ok hops]
  exact (M.bind_ok hcover).trans hres
theorem timedWord_of_divideWord {t : IType} {f : FmtA} {op : Int → Int → Int} (hx : ∀ s, exec i s = divideWord t f op s) :
    TimedWord i f.hdr anyRole 1 (plainOps [f.a, f.b]) (f.d, none) 6 (divLatest t)
      fun vs => intRes t false (fieldBits f.d) (op (intVal t (src vs 0)) (intVal t (src vs 1))) := by
  intro s gid g k s1 s2 vs dst id ht hroom hops hissue
  rw [hx s, divideWord]
  apply State.Turn.runWord_var (m := { var := true }) ht hroom rfl rfl rfl
  rw [M.bind_ok (roomFor_of_room hroom), M.bind_ok hops]
  exact M.bind_ok hissue

end Sys2Proof.Machine
end

section
/-! PROOFS. The opcode field of an encoding (R9). -/
namespace Sys2Proof
open Machine

/-- Bits [63:54] of a word that is put together from its fields are those of its leading ten bits (R9). -/
theorem wordOp_encFields (op : Nat) (f : Fields) : wordOp (encFields op f) = op % 1024 := by
  cases f <;> simp only [wordOp, fld', encFields, encA] <;>
    (repeat rw [BitVec.extractLsb'_append_eq_of_le (by decide)]) <;>
    simp
theorem encode_of_wordOf {i : Instr} {op : Nat} {f : Fields} (hi : wordOf i = some (op, f)) :
    encode i = encFields op f :: ((fieldsMod f).map encModifier).toList := by
  simp [encode, hi]
/-- The first word of an encoding carries the opcode of the map; the words after it are the modifier alone. -/
theorem wordOp_of_encode {i : Instr} {op : Nat} {f : Fields} {w : Word} {ws : List Word} (hi : wordOf i = some (op, f)) (hop : op < 1024)
    (he : encode i = w :: ws) : wordOp w = op ∧ ws = ((fieldsMod f).map encModifier).toList := by
  rw [encode_of_wordOf hi] at he
  obtain ⟨rfl, rfl⟩ := List.cons.inj he
  exact ⟨(wordOp_encFields op f).trans (Nat.mod_eq_of_lt hop), rfl⟩

end Sys2Proof
end

section
/-! PROOFS. Arithmetic of n-bit patterns and of division. -/
namespace Sys2Proof.Machine

/-! ### Patterns of n bits (R54) -/

theorem ofI_cast (n : Nat) (e : Int) : (ofI n e : Int) = e % 2 ^ n :=
  Int.toNat_of_nonneg (Int.emod_nonneg e (by positivity))
theorem ofI_lt (n : Nat) (e : Int) : ofI n e < 2 ^ n := by
  zify
  rw [ofI_cast]
  exact Int.emod_lt_of_pos e (by positivity)
theorem ofI_congr {n : Nat} {a b : Int} (h : a % 2 ^ n = b % 2 ^ n) : ofI n a = ofI n b := by
  simp only [ofI, h]
@[simp] theorem low_ofI (n : Nat) (e : Int) : low n (ofI n e) = ofI n e := Nat.mod_eq_of_lt (ofI_lt n e)
/-- The signed value of a pattern is the pattern modulo 2^n. -/
theorem toS_emod (n x : Nat) : toS n x % 2 ^ n = x % 2 ^ n := by
  unfold toS low
  split <;> simp
@[simp] theorem ofI_toS_ofI (n : Nat) (e : Int) : ofI n (toS n (ofI n e)) = ofI n e :=
  ofI_congr (by rw [toS_emod, ofI_cast, Int.emod_emod])
theorem ofI_neg_one (n : Nat) : ofI n (-1) = 2 ^ n - 1 := by
  have hpos : (0 : Int) < 2 ^ n := by positivity
  have hmod : (-1 : Int) % 2 ^ n = 2 ^ n - 1 := by
    rw [← Int.add_emod_right, Int.emod_eq_of_lt (by omega) (by omega)]
    omega
  zify [Nat.one_le_two_pow]
  rw [ofI_cast, hmod]
/-- The positive bound 2^n wraps round to the most negative value of n + 1 bits. -/
theorem toS_ofI_two_pow (n : Nat) : toS (n + 1) (ofI (n + 1) (2 ^ n)) = -2 ^ n := by
  have hlt : 2 ^ n < 2 ^ (n + 1) := Nat.pow_lt_pow_succ (by decide)
  have hpat : ofI (n + 1) (2 ^ n) = 2 ^ n := by
    zify
    rw [ofI_cast, Int.emod_eq_of_lt (by positivity) (by exact_mod_cast hlt)]
  have hlow : low (n + 1) (2 ^ n) = 2 ^ n := Nat.mod_eq_of_lt hlt
  rw [toS, hpat, hlow, if_neg (by omega)]
  push_cast
  ring
/-- A destination as wide as the operation receives the exact result modulo 2^N. -/
theorem intRes_itBits (t : IType) (e : Int) : intRes t false (itBits t) e = ofI (itBits t) e := by
  simp only [intRes, Bool.false_eq_true, if_false]
  split
  · exact ofI_toS_ofI _ _
  · exact low_ofI _ _
theorem itBits_pos (t : IType) : 0 < itBits t := by
  cases t <;> decide

/-! ### Quotient and remainder (R60) -/

@[simp] theorem divQ_zero (a : Int) : divQ a 0 = -1 := rfl
@[simp] theorem divR_zero (a : Int) : divR a 0 = a := rfl
@[simp] theorem divQ_neg_one (a : Int) : divQ a (-1) = -a := by
  simp [divQ]
@[simp] theorem divR_neg_one (a : Int) : divR a (-1) = 0 := by
  simp [divR]
theorem divQ_of_ne {b : Int} (hb : b ≠ 0) (a : Int) : divQ a b = a.tdiv b := if_neg hb
theorem divR_of_ne {b : Int} (hb : b ≠ 0) (a : Int) : divR a b = a.tmod b := if_neg hb
theorem mul_divQ_add_divR {b : Int} (hb : b ≠ 0) (a : Int) : a = b * divQ a b + divR a b := by
  rw [divQ_of_ne hb, divR_of_ne hb, Int.mul_tdiv_add_tmod]
theorem natAbs_divR_lt {b : Int} (hb : b ≠ 0) (a : Int) : (divR a b).natAbs < b.natAbs := by
  rw [divR_of_ne hb, Int.natAbs_tmod]
  exact Nat.mod_lt _ (Int.natAbs_pos.mpr hb)
theorem divR_nonneg {a b : Int} (hb : b ≠ 0) (ha : 0 ≤ a) : 0 ≤ divR a b := by
  rw [divR_of_ne hb]
  exact Int.tmod_nonneg b ha
theorem divR_nonpos {a b : Int} (hb : b ≠ 0) (ha : a ≤ 0) : divR a b ≤ 0 := by
  have h := Int.tmod_nonneg b (Int.neg_nonneg.mpr ha)
  rw [Int.neg_tmod] at h
  rw [divR_of_ne hb]
  exact Int.neg_nonneg.mp h
theorem intRes_divQ_zero (t : IType) (a : Int) : intRes t false (itBits t) (divQ a 0) = 2 ^ itBits t - 1 := by
  rw [divQ_zero, intRes_itBits, ofI_neg_one]
/-- The one quotient that does not fit its width wraps round to the dividend. -/
theorem toS_intRes_divQ_neg_one (t : IType) :
    toS (itBits t) (intRes t false (itBits t) (divQ (-2 ^ (itBits t - 1)) (-1))) = -2 ^ (itBits t - 1) := by
  obtain ⟨n, hn⟩ := Nat.exists_eq_succ_of_ne_zero (itBits_pos t).ne'
  rw [intRes_itBits, divQ_neg_one, neg_neg, hn]
  exact toS_ofI_two_pow n

end Sys2Proof.Machine
end

section
/-! PROOFS. Integer words of 03: division; compare, select, moves, extensions and lea; shifts and logic. -/
namespace Sys2Proof.Machine

/-- Settles O3: the words by the shape of a division, the numbers by truncation toward zero and by what wraps round in N bits. -/
theorem division : Obligations.Division := by
  unfold Obligations.Division
  refine ⟨fun t f => ?quotient, fun t f => ?remainder, fun a => ?byZero, fun a b hb => ?nonzero, intRes_divQ_zero, fun t a ha _ => ?overflow⟩
  case quotient => exact timedWord_of_divideWord fun s => exec_idiv t f s
  case remainder => exact timedWord_of_divideWord fun s => exec_irem t f s
  case byZero => exact ⟨divQ_zero a, divR_zero a⟩
  case nonzero => exact ⟨mul_divQ_add_divR hb a, natAbs_divR_lt hb a, divR_nonneg hb, divR_nonpos hb⟩
  case overflow =>
    subst ha
    exact ⟨toS_intRes_divQ_neg_one t, divR_neg_one _⟩

/-- isel with its C in a modifier (R62). -/
theorem fixedWord_isel_modifier {f : FmtM} {m : Modifier} (hm : f.mod = some m) :
    FixedWord (.isel f) f.hdr anyRole 2 [f.a, f.b, m.c] f.d 2 fun vs => if vs[2]?.elim 0 (·.zx) ≠ 0 then (src vs 0).zx else (src vs 1).zx :=
  fixedWord_of_pureWord_anyRole fun s => by simp only [exec_isel, execIsel, hm]; rfl
/-- isel without a modifier (R62). -/
theorem fixedWord_isel_plain {f : FmtM} (hm : f.mod = none) :
    FixedWord (.isel f) f.hdr anyRole 1 [f.a, f.b] f.d 2 fun vs => if vs[2]?.elim 0 (·.zx) ≠ 0 then (src vs 0).zx else (src vs 1).zx :=
  fixedWord_of_pureWord_anyRole fun s => by simp only [exec_isel, execIsel, hm]; rfl

/-- Settles O4: each word by its shape, the opcodes by the opcode field of an encoding. -/
theorem compareSelectMove : Obligations.CompareSelectMove := by
  unfold Obligations.CompareSelectMove
  refine ⟨fun t f => ?icmp, fun f m => fixedWord_isel_modifier, fun f => fixedWord_isel_plain, fun f => ?mov, fun f => ?movi, fun f => ?sxt,
    fun f => ?zxt, fun f => ?lea, fun f e i n w ws hin he => ?opcodes⟩
  case icmp => exact predWord_of_predWord (m := {}) rfl rfl rfl fun s => exec_icmp t f s
  case mov => exact fixedWord_of_pureWord_anyRole fun s => exec_mov f s
  case movi => exact fixedWord_of_pureWord_anyRole fun s => exec_movi f s
  case sxt => exact fixedWord_of_pureWord_anyRole fun s => exec_sxt f s
  case zxt => exact fixedWord_of_pureWord_anyRole fun s => exec_zxt f s
  case lea => exact actWord_of_fixedWord (m := {}) rfl rfl rfl fun s => exec_lea f s
  case opcodes =>
    have hi : ∃ fl, wordOf i = some (n, fl) ∧ n < 1024 := by
      simp only [List.mem_cons, Prod.mk.injEq, List.not_mem_nil, or_false] at hin
      obtain ⟨rfl, rfl⟩ | ⟨rfl, rfl⟩ | ⟨rfl, rfl⟩ | ⟨rfl, rfl⟩ | ⟨rfl, rfl⟩ := hin <;>
        exact ⟨_, rfl, by decide⟩
    obtain ⟨fl, hw, hn⟩ := hi
    exact (wordOp_of_encode hw hn he).1

/-- Settles O5: each word by its shape, the opcodes by the opcode field of an encoding. -/
theorem shiftsAndLogic : Obligations.ShiftsAndLogic := by
  unfold Obligations.ShiftsAndLogic
  refine ⟨fun f => ?shl, fun f => ?shr, fun f => ?sar, fun f => ?rot, fun f => ?land, fun f => ?lor, fun f => ?lxor, fun f => ?landn,
    fun f i n w ws hin he => ?opcodes⟩
  case shl => exact fixedWord_of_pureWord_anyRole fun s => exec_shl f s
  case shr => exact fixedWord_of_pureWord_anyRole fun s => exec_shr f s
  case sar => exact fixedWord_of_pureWord_anyRole fun s => exec_sar f s
  case rot => exact fixedWord_of_pureWord_anyRole fun s => exec_rot f s
  case land => exact fixedWord_of_pureWord_anyRole fun s => exec_land f s
  case lor => exact fixedWord_of_pureWord_anyRole fun s => exec_lor f s
  case lxor => exact fixedWord_of_pureWord_anyRole fun s => exec_lxor f s
  case landn => exact fixedWord_of_pureWord_anyRole fun s => exec_landn f s
  case opcodes =>
    have hi : wordOf i = some (n, .a f) ∧ n < 1024 := by
      simp only [List.mem_cons, Prod.mk.injEq, List.not_mem_nil, or_false] at hin
      obtain ⟨rfl, rfl⟩ | ⟨rfl, rfl⟩ | ⟨rfl, rfl⟩ | ⟨rfl, rfl⟩ | ⟨rfl, rfl⟩ | ⟨rfl, rfl⟩ | ⟨rfl, rfl⟩ | ⟨rfl, rfl⟩ := hin <;>
        exact ⟨rfl, by decide⟩
    obtain ⟨hw, hn⟩ := hi
    exact wordOp_of_encode hw hn he

end Sys2Proof.Machine
end

section
/-! PROOFS. Fields of words: each is read back from a word put together from its fields, and a word is put together from the fields read from it (R9 to R17). -/
namespace Sys2Proof
open Machine

/-! ### From fields to the word and back -/

@[simp] theorem bit1_eq_one (b : Bool) : decide (bit1 b = 1#1) = b := by
  cases b <;> rfl
@[simp] theorem bit1_decide (x : BitVec 1) : bit1 (decide (x = 1)) = x := by
  obtain rfl | rfl := BitVec.eq_zero_or_eq_one x <;> rfl
@[simp] theorem decOperand_encOperand (o : Operand) : decOperand (encOperand o) = o := by
  cases o <;>
    simp -index (disch := decide) only [decOperand, encOperand, BitVec.extractLsb'_append_eq_of_le, BitVec.extractLsb'_append_eq_of_add_le] <;>
    simp
@[simp] theorem decPDst_encPDst (d : PDst) : decPDst (encPDst d) = d := by
  simp -index (disch := decide) only [decPDst, encPDst, BitVec.extractLsb'_append_eq_of_le, BitVec.extractLsb'_append_eq_of_add_le]
  simp
@[simp] theorem decPSrc_encPSrc (p : PSrc) : decPSrc (encPSrc p) = some p := by
  simp -index (disch := decide) only [decPSrc, encPSrc, BitVec.extractLsb'_append_eq_of_le, BitVec.extractLsb'_append_eq_of_add_le]
  simp
@[simp] theorem decModifier_encModifier (m : Modifier) : decModifier (encModifier m) = some m := by
  simp -index (disch := decide) only [decModifier, encModifier, fld', BitVec.extractLsb'_append_eq_of_le, BitVec.extractLsb'_append_eq_of_add_le]
  simp
@[simp] theorem wordOp_encModifier (m : Modifier) : wordOp (encModifier m) = opModifier := by
  simp -index (disch := decide) only [wordOp, encModifier, fld', BitVec.extractLsb'_append_eq_of_le]
  rfl


/-! ### Fields read from a word put together from fields -/

section
variable (op : Nat) (h : Hdr) (x y z : BitVec 15)

@[simp] theorem decHdr_encA : decHdr (encA op h x y z) = h := by
  simp -index (disch := decide) only [decHdr, encA, encHdr, fld', BitVec.extractLsb'_append_eq_of_le, BitVec.extractLsb'_append_eq_of_add_le]
  simp
@[simp] theorem fldD_encA : fldD (encA op h x y z) = x := by
  simp -index (disch := decide) only [fldD, encA, fld', BitVec.extractLsb'_append_eq_of_le, BitVec.extractLsb'_append_eq_of_add_le]
  simp
@[simp] theorem fldA_encA : fldA (encA op h x y z) = y := by
  simp -index (disch := decide) only [fldA, encA, fld', BitVec.extractLsb'_append_eq_of_le, BitVec.extractLsb'_append_eq_of_add_le]
  simp
@[simp] theorem fldB_encA : fldB (encA op h x y z) = z := by
  simp -index (disch := decide) only [fldB, encA, fld', BitVec.extractLsb'_append_eq_of_add_le]
  simp

end

/-- The fields of an instruction word with another modifier in the place of their own. -/
def Fields.withMod (md : Option Modifier) : Fields → Fields
  | .m f => .m { f with mod := md }
  | .pm f => .pm { f with mod := md }
  | .vm f => .vm { f with mod := md }
  | f => f
/-- Whether the format of the fields has a place for a modifier (R14). -/
def Fields.takesMod : Fields → Bool
  | .m _ | .pm _ | .vm _ => true
  | _ => false

/-- Under the form of its fields a word put together from them gives them back, with the modifier that comes beside it. -/
theorem build_encFields {fm : OpForm} {f : Fields} {i : Instr} (op : Nat) (md : Option Modifier) (hm : Laws.Encoding.madeBy fm f = some i) :
    build (encFields op f) md fm = Laws.Encoding.madeBy fm (f.withMod md) := by
  cases fm <;> cases f <;> simp only [Laws.Encoding.madeBy, reduceCtorEq] at hm <;>
    simp only [build, encFields, Laws.Encoding.madeBy, Fields.withMod, decHdr_encA, fldD_encA, fldA_encA, fldB_encA, decOperand_encOperand,
      decPDst_encPDst, decPSrc_encPSrc]
  case l =>
    simp -index (disch := decide) only [decHdr, encHdr, fldD, fld', BitVec.extractLsb'_append_eq_of_le, BitVec.extractLsb'_append_eq_of_add_le]
    simp
  case j =>
    simp -index (disch := decide) only [decHdr, encHdr, fld', BitVec.extractLsb'_append_eq_of_le, BitVec.extractLsb'_append_eq_of_add_le]
    simp
  case t =>
    simp -index (disch := decide) only [fld', BitVec.extractLsb'_append_eq_of_le, BitVec.extractLsb'_append_eq_of_add_le]
    simp

/-! ### A word put together from the fields read from it -/

/-- Of the four kinds of an operand field, what is none of the first three is the last (Table 01-5). -/
theorem kind_eq_three {k : BitVec 2} (h0 : k ≠ 0) (h1 : k ≠ 1) (h2 : k ≠ 2) : k = 3 := by
  revert k
  decide
@[simp] theorem encOperand_decOperand (x : BitVec 15) : encOperand (decOperand x) = x := by
  unfold decOperand
  split
  next h =>
    rw [encOperand, show 0#2 = x.extractLsb' 13 2 from h.symm]
    simp -index (disch := decide) only [BitVec.extractLsb'_append_extractLsb'_eq_extractLsb']
    simp
  split
  next h =>
    rw [encOperand, show 1#2 = x.extractLsb' 13 2 from h.symm]
    simp -index (disch := decide) only [BitVec.extractLsb'_append_extractLsb'_eq_extractLsb']
    simp
  split
  next h =>
    rw [encOperand, show 2#2 = x.extractLsb' 13 2 from h.symm]
    simp -index (disch := decide) only [BitVec.extractLsb'_append_extractLsb'_eq_extractLsb']
    simp
  next h0 h1 h2 =>
    rw [encOperand, show 3#2 = x.extractLsb' 13 2 from (kind_eq_three h0 h1 h2).symm]
    simp -index (disch := decide) only [BitVec.extractLsb'_append_extractLsb'_eq_extractLsb']
    simp
@[simp] theorem encPDst_decPDst (x : BitVec 15) : encPDst (decPDst x) = x := by
  simp -index (disch := decide) only [encPDst, decPDst, BitVec.extractLsb'_append_extractLsb'_eq_extractLsb']
  simp
theorem encPSrc_of_decPSrc {x : BitVec 15} {p : PSrc} (h : decPSrc x = some p) : encPSrc p = x := by
  obtain ⟨hz, hs⟩ := Option.ite_none_right_eq_some.mp h
  obtain rfl := Option.some.inj hs
  rw [encPSrc, bit1_decide, show 0#9 = x.extractLsb' 6 9 from hz.symm]
  simp -index (disch := decide) only [BitVec.extractLsb'_append_extractLsb'_eq_extractLsb']
  simp
theorem ofNat_wordOp (w : Word) : BitVec.ofNat 10 (wordOp w) = w.extractLsb' 54 10 := BitVec.eq_of_toNat_eq (by simp [wordOp, fld'])
theorem encHdr_decHdr (w : Word) : encHdr (decHdr w) = w.extractLsb' 45 9 := by
  simp only [encHdr, decHdr, bit1_decide]
  simp only [fld']
  simp -index (disch := decide) only [BitVec.extractLsb'_append_extractLsb'_eq_extractLsb']
theorem encModifier_of_decModifier {w : Word} {m : Modifier} (h : decModifier w = some m) (hop : wordOp w = opModifier) : encModifier m = w := by
  obtain ⟨hz, hs⟩ := Option.ite_none_right_eq_some.mp h
  obtain rfl := Option.some.inj hs
  simp only [encModifier, bit1_decide, encOperand_decOperand, ← hop, ofNat_wordOp]
  simp only [fld']
  rw [show 0#21 = w.extractLsb' 0 21 from hz.symm]
  simp -index (disch := decide) only [BitVec.extractLsb'_append_extractLsb'_eq_extractLsb']
  simp
theorem encA_fields (w : Word) : encA (wordOp w) (decHdr w) (fldD w) (fldA w) (fldB w) = w := by
  simp only [encA, ofNat_wordOp, encHdr_decHdr, fldD, fldA, fldB, fld']
  simp -index (disch := decide) only [BitVec.extractLsb'_append_extractLsb'_eq_extractLsb']
  simp

/-- What a form makes of a word's fields: an instruction whose fields, put together under the word's opcode, are that word. -/
theorem fields_of_build {w : Word} {md : Option Modifier} {fm : OpForm} {i : Instr} (hb : build w md fm = some i) :
    ∃ f, Laws.Encoding.madeBy fm f = some i ∧ encFields (wordOp w) f = w ∧ (f.takesMod = true → fieldsMod f = md) ∧ (f.takesMod = false → fieldsMod f = none) := by
  cases fm with
  | a mk => exact ⟨.a _, hb, by simp [encFields, encA_fields], nofun, fun _ => rfl⟩
  | m mk => exact ⟨.m _, hb, by simp [encFields, encA_fields], fun _ => rfl, nofun⟩
  | p mk => exact ⟨.p _, hb, by simp [encFields, encA_fields], nofun, fun _ => rfl⟩
  | pm mk => exact ⟨.pm _, hb, by simp [encFields, encA_fields], fun _ => rfl, nofun⟩
  | q mk =>
    simp only [build] at hb
    split at hb
    next p q hp hq => exact ⟨.q _, hb, by simp [encFields, encPSrc_of_decPSrc hp, encPSrc_of_decPSrc hq, encA_fields], nofun, fun _ => rfl⟩
    next => cases hb
  | r mk =>
    simp only [build] at hb
    split at hb
    next p hp => exact ⟨.r _, hb, by simp [encFields, encPSrc_of_decPSrc hp, encA_fields], nofun, fun _ => rfl⟩
    next => cases hb
  | vm mk =>
    simp only [build] at hb
    split at hb
    next p hp => exact ⟨.vm _, hb, by simp [encFields, encPSrc_of_decPSrc hp, encA_fields], fun _ => rfl, nofun⟩
    next => cases hb
  | l mk =>
    refine ⟨.l _, hb, ?_, nofun, fun _ => rfl⟩
    simp only [encFields, ofNat_wordOp, encHdr_decHdr, encOperand_decOperand, fldD, fld']
    simp -index (disch := decide) only [BitVec.extractLsb'_append_extractLsb'_eq_extractLsb']
    simp
  | j mk =>
    refine ⟨.j _, hb, ?_, nofun, fun _ => rfl⟩
    simp only [encFields, ofNat_wordOp, encHdr_decHdr, fld']
    simp -index (disch := decide) only [BitVec.extractLsb'_append_extractLsb'_eq_extractLsb']
    simp
  | t mk =>
    simp only [build] at hb
    obtain ⟨hz, hb⟩ := Option.ite_none_right_eq_some.mp hb
    refine ⟨.t _, hb, ?_, nofun, fun _ => rfl⟩
    simp only [encFields, ofNat_wordOp, encOperand_decOperand, bit1_decide]
    rw [show 0#10 = fld' w 0 10 from hz.symm]
    simp only [fld']
    simp -index (disch := decide) only [BitVec.extractLsb'_append_extractLsb'_eq_extractLsb']
    simp

/-! ### The opcode map read backwards -/

/-- The form that the map gives for an opcode makes instructions of that opcode alone (Tables 02-3 to 02-10). -/
def OpForm.Names (op : Nat) (fm : OpForm) : Prop := ∀ f i, Laws.Encoding.madeBy fm f = some i → wordOf i = some (op, f)

section
variable {op : Nat} {fm : OpForm}

theorem OpForm.names_a {mk : FmtA → Instr} (h : ∀ f, wordOf (mk f) = some (op, .a f)) : (OpForm.a mk).Names op := by
  intro f i hi
  cases f <;> cases hi
  exact h _
theorem OpForm.names_m {mk : FmtM → Instr} (h : ∀ f, wordOf (mk f) = some (op, .m f)) : (OpForm.m mk).Names op := by
  intro f i hi
  cases f <;> cases hi
  exact h _

/-- The opcode as the base of a block of the map and the offset in it. -/
theorem OpForm.Names.of_eq {op' : Nat} (h : fm.Names op') (he : op' = op) : fm.Names op := he ▸ h

theorem names_of_intForm {t : IType} {k : Nat} (h : intForm t k = some fm) : fm.Names (8 * k + itCode t) := by
  unfold intForm at h
  split at h <;> cases h <;> intro f i hi <;> cases f <;> cases hi <;> rfl
theorem names_of_floatForm {t : FType} {k : Nat} (h : floatForm t k = some fm) : fm.Names (0x200 + 4 * k + ftCode t) := by
  unfold floatForm at h
  split at h <;> cases h <;> intro f i hi <;> cases f <;> cases hi <;> rfl
theorem names_of_laneForm {t : FType} {k : Nat} (h : laneForm t k = some fm) : fm.Names (0x270 + 4 * k + ftCode t) := by
  unfold laneForm at h
  split at h <;> cases h <;> intro f i hi <;> cases f <;> cases hi <;> rfl
theorem names_of_atomForm {t : FType} {k : Nat} (h : atomForm t k = some fm) : fm.Names (0x34E + 4 * k + ftCode t) := by
  unfold atomForm at h
  split at h <;> cases h <;> intro f i hi <;> cases f <;> cases hi <;> rfl
theorem names_of_distForm {t : DistType} {k : Nat} (h : distForm t k = some fm) : fm.Names (0x3C0 + 4 * k + dvCode t) := by
  unfold distForm at h
  split at h <;> cases h <;> intro f i hi <;> cases f <;> cases hi <;> rfl

theorem wordOf_prelOf (f : FmtA) : wordOf (prelOf f) = some (0x312, .a f) := by
  unfold prelOf
  split
  · rfl
  · split <;> rfl
theorem wordOf_cacheopOf (f : FmtA) : wordOf (cacheopOf f) = some (0x3B6, .a f) := by
  unfold cacheopOf
  repeat' split
  all_goals rfl

theorem names_of_coreForm (h : coreForm op = some fm) : fm.Names op := by
  unfold coreForm at h
  split at h <;> cases h <;> intro f i hi <;> cases f <;> cases hi <;> rfl
theorem names_of_controlForm (h : controlForm op = some fm) : fm.Names op := by
  unfold controlForm at h
  split at h <;> cases h <;> intro f i hi <;> cases f <;> cases hi <;> rfl
theorem names_of_vectorForm (h : vectorForm op = some fm) : fm.Names op := by
  unfold vectorForm at h
  split at h <;> cases h <;> intro f i hi <;> cases f <;> cases hi <;> rfl
theorem names_of_engineForm (h : engineForm op = some fm) : fm.Names op := by
  unfold engineForm at h
  split at h <;> cases h
  case h_13 => exact OpForm.names_a wordOf_prelOf
  all_goals
    intro f i hi
    cases f <;> cases hi
    rfl
theorem names_of_atomicForm (h : atomicForm op = some fm) : fm.Names op := by
  unfold atomicForm at h
  split at h <;> cases h <;> intro f i hi <;> cases f <;> cases hi <;> rfl
theorem names_of_systemForm (h : systemForm op = some fm) : fm.Names op := by
  unfold systemForm at h
  split at h <;> cases h
  case h_22 => exact OpForm.names_a wordOf_cacheopOf
  all_goals
    intro f i hi
    cases f <;> cases hi
    rfl

/-- A form of a family of types: its type has the code that the opcode shows. -/
theorem of_famAt {α : Type} {ty : Nat → Option α} {fam : α → Nat → Option OpForm} {size off : Nat} (h : famAt ty fam size off = some fm) :
    ∃ t, ty (off % size) = some t ∧ fam t (off / size) = some fm := by
  unfold famAt at h
  split at h
  · cases h
  next t ht => exact ⟨t, ht, h⟩

theorem itCode_of_itOf {n : Nat} {t : IType} (h : itOf n = some t) : itCode t = n := by
  unfold itOf at h
  split at h <;> cases h <;> rfl
theorem ftCode_of_ftOf {n : Nat} {t : FType} (h : ftOf n = some t) : ftCode t = n := by
  unfold ftOf at h
  split at h <;> cases h <;> rfl
theorem scCode_of_scOf {n : Nat} {t : Scope} (h : scOf n = some t) : scCode t = n := by
  unfold scOf at h
  split at h <;> cases h <;> rfl
theorem cvCode_of_cvOf {n : Nat} {t : CvtType} (h : cvOf n = some t) : cvCode t = n := by
  unfold cvOf at h
  split at h <;> cases h <;> rfl
theorem dtCode_of_dtOf {n : Nat} {t : DotType} (h : dtOf n = some t) : dtCode t = n := by
  unfold dtOf at h
  split at h <;> cases h <;> rfl
theorem hfCode_of_hfOf {n : Nat} {t : HalfType} (h : hfOf n = some t) : hfCode t = n := by
  unfold hfOf at h
  split at h <;> cases h <;> rfl
theorem dvCode_of_dvOf {n : Nat} {t : DistType} (h : dvOf n = some t) : dvCode t = n := by
  unfold dvOf at h
  split at h <;> cases h <;> rfl
theorem tgCode_of_tgOf {n : Nat} {t : ChTag} (h : tgOf n = some t) : tgCode t = n := by
  unfold tgOf at h
  split at h <;> cases h <;> rfl

theorem names_of_opForm (h : opForm op = some fm) : fm.Names op := by
  unfold opForm at h
  obtain ⟨-, h⟩ | ⟨-, h⟩ := ite_eq_iff.mp h
  case inl =>
    obtain ⟨t, ht, hf⟩ := of_famAt h
    exact (names_of_intForm hf).of_eq (by rw [itCode_of_itOf ht]; omega)
  obtain ⟨-, h⟩ | ⟨-, h⟩ := ite_eq_iff.mp h
  case inl => exact names_of_coreForm h
  obtain ⟨hr, h⟩ | ⟨-, h⟩ := ite_eq_iff.mp h
  case inl =>
    obtain ⟨t, ht, rfl⟩ := Option.map_eq_some_iff.mp h
    exact (OpForm.names_a (op := 0x188 + scCode t) fun f => rfl).of_eq (by rw [scCode_of_scOf ht]; grind)
  obtain ⟨hr, h⟩ | ⟨-, h⟩ := ite_eq_iff.mp h
  case inl =>
    obtain ⟨t, ht, rfl⟩ := Option.map_eq_some_iff.mp h
    exact (OpForm.names_a (op := 0x190 + scCode t) fun f => rfl).of_eq (by rw [scCode_of_scOf ht]; grind)
  obtain ⟨-, h⟩ | ⟨hc, h⟩ := ite_eq_iff.mp h
  case inl => exact names_of_controlForm h
  obtain ⟨hr, h⟩ | ⟨-, h⟩ := ite_eq_iff.mp h
  case inl =>
    obtain ⟨t, ht, hf⟩ := of_famAt h
    exact (names_of_floatForm hf).of_eq (by rw [ftCode_of_ftOf ht]; omega)
  obtain ⟨hr, h⟩ | ⟨-, h⟩ := ite_eq_iff.mp h
  case inl =>
    obtain ⟨t, ht, hf⟩ := of_famAt h
    exact (names_of_laneForm hf).of_eq (by rw [ftCode_of_ftOf ht]; grind)
  obtain ⟨hr, h⟩ | ⟨-, h⟩ := ite_eq_iff.mp h
  case inl =>
    obtain ⟨t, ht, rfl⟩ := Option.map_eq_some_iff.mp h
    exact (OpForm.names_m (op := 0x290 + dtCode t) fun f => rfl).of_eq (by rw [dtCode_of_dtOf ht]; grind)
  obtain ⟨hr, h⟩ | ⟨-, h⟩ := ite_eq_iff.mp h
  case inl =>
    obtain ⟨t, ht, rfl⟩ := Option.map_eq_some_iff.mp h
    exact (OpForm.names_m (op := 0x298 + hfCode t) fun f => rfl).of_eq (by rw [hfCode_of_hfOf ht]; grind)
  obtain ⟨-, h⟩ | ⟨hc, h⟩ := ite_eq_iff.mp h
  case inl => exact names_of_vectorForm h
  obtain ⟨-, h⟩ | ⟨-, h⟩ := ite_eq_iff.mp h
  case inl =>
    split at h
    next d e hd he =>
      obtain ⟨-, h⟩ := Option.ite_none_left_eq_some.mp h
      cases h
      exact (OpForm.names_m (op := 0x2C0 + 8 * cvCode d + cvCode e) fun f => rfl).of_eq (by rw [cvCode_of_cvOf hd, cvCode_of_cvOf he]; omega)
    next => cases h
  obtain ⟨-, h⟩ | ⟨hc, h⟩ := ite_eq_iff.mp h
  case inl => exact names_of_engineForm h
  obtain ⟨hr, h⟩ | ⟨-, h⟩ := ite_eq_iff.mp h
  case inl =>
    obtain ⟨t, ht, hf⟩ := of_famAt h
    exact (names_of_atomForm hf).of_eq (by rw [ftCode_of_ftOf ht]; grind)
  obtain ⟨hr, h⟩ | ⟨-, h⟩ := ite_eq_iff.mp h
  case inl =>
    obtain ⟨t, ht, rfl⟩ := Option.map_eq_some_iff.mp h
    exact (OpForm.names_a (op := 0x370 + tgCode t) fun f => rfl).of_eq (by rw [tgCode_of_tgOf ht]; grind)
  obtain ⟨-, h⟩ | ⟨-, h⟩ := ite_eq_iff.mp h
  case inl => exact names_of_atomicForm h
  obtain ⟨hr, h⟩ | ⟨-, h⟩ := ite_eq_iff.mp h
  case inl =>
    obtain ⟨t, ht, hf⟩ := of_famAt h
    exact (names_of_distForm hf).of_eq (by rw [dvCode_of_dvOf ht]; grind)
  obtain ⟨-, h⟩ | ⟨-, h⟩ := ite_eq_iff.mp h
  case inl => exact names_of_systemForm h
  obtain ⟨rfl, h⟩ := Option.ite_none_right_eq_some.mp h
  cases h
  intro f i hi
  cases f <;> cases hi
  rfl

end

/-- The map of every instruction word, from the laws of each instruction. -/
theorem encoding_statement (i : Instr) : Laws.Encoding.Statement i := by
  open Laws in
  cases i with
  | iadd t f => exact Encoding.iadd t f
  | isub t f => exact Encoding.isub t f
  | imul t f => exact Encoding.imul t f
  | imulh t f => exact Encoding.imulh t f
  | imad t f => exact Encoding.imad t f
  | idiv t f => exact Encoding.idiv t f
  | irem t f => exact Encoding.irem t f
  | imin t f => exact Encoding.imin t f
  | imax t f => exact Encoding.imax t f
  | iabs t f => exact Encoding.iabs t f
  | ineg t f => exact Encoding.ineg t f
  | icmp t f => exact Encoding.icmp t f
  | sxt f => exact Encoding.sxt f
  | zxt f => exact Encoding.zxt f
  | mov f => exact Encoding.mov f
  | movi f => exact Encoding.movi f
  | lea f => exact Encoding.lea f
  | isel f => exact Encoding.isel f
  | shl f => exact Encoding.shl f
  | shr f => exact Encoding.shr f
  | sar f => exact Encoding.sar f
  | rot f => exact Encoding.rot f
  | land f => exact Encoding.land f
  | lor f => exact Encoding.lor f
  | lxor f => exact Encoding.lxor f
  | landn f => exact Encoding.landn f
  | popc f => exact Encoding.popc f
  | clz f => exact Encoding.clz f
  | ctz f => exact Encoding.ctz f
  | brev f => exact Encoding.brev f
  | bfxS f => exact Encoding.bfxS f
  | bfxZ f => exact Encoding.bfxZ f
  | bfi f => exact Encoding.bfi f
  | ffcs f => exact Encoding.ffcs f
  | plset f => exact Encoding.plset f
  | perm f => exact Encoding.perm f
  | pset f => exact Encoding.pset f
  | pand f => exact Encoding.pand f
  | por f => exact Encoding.por f
  | pxor f => exact Encoding.pxor f
  | pmov f => exact Encoding.pmov f
  | bra f => exact Encoding.bra f
  | brx f => exact Encoding.brx f
  | call f => exact Encoding.call f
  | ret f => exact Encoding.ret f
  | exit f => exact Encoding.exit f
  | task f => exact Encoding.task f
  | yield f => exact Encoding.yield f
  | winb f => exact Encoding.winb f
  | nop f => exact Encoding.nop f
  | trail f => exact Encoding.trail f
  | ldRlx f => exact Encoding.ldRlx f
  | stRlx f => exact Encoding.stRlx f
  | ldSc f => exact Encoding.ldSc f
  | stSc f => exact Encoding.stSc f
  | ldx f => exact Encoding.ldx f
  | ldAcq sco f => exact Encoding.ldAcq sco f
  | stRel sco f => exact Encoding.stRel sco f
  | spill f => exact Encoding.spill f
  | fill f => exact Encoding.fill f
  | pf f => exact Encoding.pf f
  | sbind f => exact Encoding.sbind f
  | fadd ty f => exact Encoding.fadd ty f
  | fsub ty f => exact Encoding.fsub ty f
  | fmul ty f => exact Encoding.fmul ty f
  | fma ty f => exact Encoding.fma ty f
  | fms ty f => exact Encoding.fms ty f
  | fnma ty f => exact Encoding.fnma ty f
  | fmin ty f => exact Encoding.fmin ty f
  | fmax ty f => exact Encoding.fmax ty f
  | fcmp ty f => exact Encoding.fcmp ty f
  | fdiv ty f => exact Encoding.fdiv ty f
  | fsqrt ty f => exact Encoding.fsqrt ty f
  | frcp ty f => exact Encoding.frcp ty f
  | frsq ty f => exact Encoding.frsq ty f
  | fexp2 ty f => exact Encoding.fexp2 ty f
  | flog2 ty f => exact Encoding.flog2 ty f
  | fsin ty f => exact Encoding.fsin ty f
  | fcos ty f => exact Encoding.fcos ty f
  | ftanh ty f => exact Encoding.ftanh ty f
  | fsig ty f => exact Encoding.fsig ty f
  | fclass ty f => exact Encoding.fclass ty f
  | fround ty f => exact Encoding.fround ty f
  | cvt td ts f => exact Encoding.cvt td ts f
  | pack f => exact Encoding.pack f
  | unpack f => exact Encoding.unpack f
  | lshf f => exact Encoding.lshf f
  | lbcast f => exact Encoding.lbcast f
  | lrot f => exact Encoding.lrot f
  | lvote f => exact Encoding.lvote f
  | lredAdd ty f => exact Encoding.lredAdd ty f
  | lredMin ty f => exact Encoding.lredMin ty f
  | lredMax ty f => exact Encoding.lredMax ty f
  | lscanAdd ty f => exact Encoding.lscanAdd ty f
  | lscanMin ty f => exact Encoding.lscanMin ty f
  | lscanMax ty f => exact Encoding.lscanMax ty f
  | dot dt f => exact Encoding.dot dt f
  | dsmul h f => exact Encoding.dsmul h f
  | mma f => exact Encoding.mma f
  | mwait f => exact Encoding.mwait f
  | mrow f => exact Encoding.mrow f
  | macc f => exact Encoding.macc f
  | mzero f => exact Encoding.mzero f
  | cpy f => exact Encoding.cpy f
  | cpy2d f => exact Encoding.cpy2d f
  | cpyg f => exact Encoding.cpyg f
  | cvq f => exact Encoding.cvq f
  | cvd f => exact Encoding.cvd f
  | pinit f => exact Encoding.pinit f
  | pwait f => exact Encoding.pwait f
  | prelRelease f => exact Encoding.prelRelease f
  | prelLeave f => exact Encoding.prelLeave f
  | prelJoin f => exact Encoding.prelJoin f
  | pphase f => exact Encoding.pphase f
  | cbpass f => exact Encoding.cbpass f
  | cbwait f => exact Encoding.cbwait f
  | qfence f => exact Encoding.qfence f
  | gsub f => exact Encoding.gsub f
  | gwait f => exact Encoding.gwait f
  | atmAdd f => exact Encoding.atmAdd f
  | atmMinS f => exact Encoding.atmMinS f
  | atmMinZ f => exact Encoding.atmMinZ f
  | atmMaxS f => exact Encoding.atmMaxS f
  | atmMaxZ f => exact Encoding.atmMaxZ f
  | atmAnd f => exact Encoding.atmAnd f
  | atmOr f => exact Encoding.atmOr f
  | atmXor f => exact Encoding.atmXor f
  | atmExch f => exact Encoding.atmExch f
  | atmCas f => exact Encoding.atmCas f
  | atmCas128 f => exact Encoding.atmCas128 f
  | atmBfi f => exact Encoding.atmBfi f
  | atmFfcs f => exact Encoding.atmFfcs f
  | atmPlset f => exact Encoding.atmPlset f
  | atmAddFloat ty f => exact Encoding.atmAddFloat ty f
  | atmMinFloat ty f => exact Encoding.atmMinFloat ty f
  | atmMaxFloat ty f => exact Encoding.atmMaxFloat ty f
  | redAdd f => exact Encoding.redAdd f
  | redMinS f => exact Encoding.redMinS f
  | redMinZ f => exact Encoding.redMinZ f
  | redMaxS f => exact Encoding.redMaxS f
  | redMaxZ f => exact Encoding.redMaxZ f
  | redAnd f => exact Encoding.redAnd f
  | redOr f => exact Encoding.redOr f
  | redXor f => exact Encoding.redXor f
  | redAddFloat ty f => exact Encoding.redAddFloat ty f
  | chup g f => exact Encoding.chup g f
  | chfl f => exact Encoding.chfl f
  | fence f => exact Encoding.fence f
  | sfence f => exact Encoding.sfence f
  | bar f => exact Encoding.bar f
  | barw f => exact Encoding.barw f
  | twait f => exact Encoding.twait f
  | map f => exact Encoding.map f
  | unmap f => exact Encoding.unmap f
  | wopen f => exact Encoding.wopen f
  | wclose f => exact Encoding.wclose f
  | phreg f => exact Encoding.phreg f
  | phleave f => exact Encoding.phleave f
  | phsig f => exact Encoding.phsig f
  | phsigb f => exact Encoding.phsigb f
  | phany f => exact Encoding.phany f
  | phwait f => exact Encoding.phwait f
  | phtry f => exact Encoding.phtry f
  | phget f => exact Encoding.phget f
  | fld f => exact Encoding.fld f
  | fst f => exact Encoding.fst f
  | fatm f => exact Encoding.fatm f
  | bulk f => exact Encoding.bulk f
  | acset f => exact Encoding.acset f
  | acwait f => exact Encoding.acwait f
  | ffence f => exact Encoding.ffence f
  | trap f => exact Encoding.trap f
  | rfx f => exact Encoding.rfx f
  | brk f => exact Encoding.brk f
  | sysrd f => exact Encoding.sysrd f
  | syswr f => exact Encoding.syswr f
  | tlbinv f => exact Encoding.tlbinv f
  | cacheopClean f => exact Encoding.cacheopClean f
  | cacheopFlush f => exact Encoding.cacheopFlush f
  | cacheopDrop f => exact Encoding.cacheopDrop f
  | cacheopZero f => exact Encoding.cacheopZero f
  | cacheopL1all f => exact Encoding.cacheopL1all f
  | cacheopL2all f => exact Encoding.cacheopL2all f
  | cancel f => exact Encoding.cancel f
  | topk f => exact Encoding.topk f
  | kmerge f => exact Encoding.kmerge f
  | skim f => exact Encoding.skim f
  | kfilt f => exact Encoding.kfilt f
  | distL2 v f => exact Encoding.distL2 v f
  | distIp v f => exact Encoding.distIp v f
  | distCos v f => exact Encoding.distCos v f
  | _ => exact Encoding.statement_of_event rfl

/-! ### The modifier among the fields -/

/-- An instruction without the modifier among its fields. -/
def Instr.bare : Instr → Instr
  | .iadd t f => .iadd t { f with mod := none }
  | .isub t f => .isub t { f with mod := none }
  | .imul t f => .imul t { f with mod := none }
  | .imad t f => .imad t { f with mod := none }
  | .iabs t f => .iabs t { f with mod := none }
  | .ineg t f => .ineg t { f with mod := none }
  | .isel f => .isel { f with mod := none }
  | .bfxS f => .bfxS { f with mod := none }
  | .bfxZ f => .bfxZ { f with mod := none }
  | .bfi f => .bfi { f with mod := none }
  | .fadd ty f => .fadd ty { f with mod := none }
  | .fsub ty f => .fsub ty { f with mod := none }
  | .fmul ty f => .fmul ty { f with mod := none }
  | .fma ty f => .fma ty { f with mod := none }
  | .fms ty f => .fms ty { f with mod := none }
  | .fnma ty f => .fnma ty { f with mod := none }
  | .fmin ty f => .fmin ty { f with mod := none }
  | .fmax ty f => .fmax ty { f with mod := none }
  | .fcmp ty f => .fcmp ty { f with mod := none }
  | .fdiv ty f => .fdiv ty { f with mod := none }
  | .fsqrt ty f => .fsqrt ty { f with mod := none }
  | .frcp ty f => .frcp ty { f with mod := none }
  | .frsq ty f => .frsq ty { f with mod := none }
  | .fexp2 ty f => .fexp2 ty { f with mod := none }
  | .flog2 ty f => .flog2 ty { f with mod := none }
  | .fsin ty f => .fsin ty { f with mod := none }
  | .fcos ty f => .fcos ty { f with mod := none }
  | .ftanh ty f => .ftanh ty { f with mod := none }
  | .fsig ty f => .fsig ty { f with mod := none }
  | .fclass ty f => .fclass ty { f with mod := none }
  | .fround ty f => .fround ty { f with mod := none }
  | .cvt td ts f => .cvt td ts { f with mod := none }
  | .pack f => .pack { f with mod := none }
  | .unpack f => .unpack { f with mod := none }
  | .lshf f => .lshf { f with mod := none }
  | .lbcast f => .lbcast { f with mod := none }
  | .lrot f => .lrot { f with mod := none }
  | .lvote f => .lvote { f with mod := none }
  | .lredAdd ty f => .lredAdd ty { f with mod := none }
  | .lredMin ty f => .lredMin ty { f with mod := none }
  | .lredMax ty f => .lredMax ty { f with mod := none }
  | .lscanAdd ty f => .lscanAdd ty { f with mod := none }
  | .lscanMin ty f => .lscanMin ty { f with mod := none }
  | .lscanMax ty f => .lscanMax ty { f with mod := none }
  | .dot dt f => .dot dt { f with mod := none }
  | .dsmul h f => .dsmul h { f with mod := none }
  | i => i

/-- An instruction that honours a modifier is of a format that has a place for one (R14, R15). -/
theorem takesMod_of_honours {i : Instr} {hn : Honour} {op : Nat} {f : Fields} (hh : honours i = some hn) (hw : wordOf i = some (op, f)) :
    f.takesMod = true := by
  cases i <;> cases hh <;> cases hw <;> rfl
theorem wordOf_bare {i : Instr} {op : Nat} {f : Fields} (hw : wordOf i = some (op, f)) : wordOf i.bare = some (op, f.withMod none) := by
  cases i <;> cases hw <;> rfl
theorem honours_bare (i : Instr) : honours i.bare = honours i := by
  cases i <;> rfl
theorem isBranch_bare (i : Instr) : isBranch i.bare = isBranch i := by
  cases i <;> rfl
/-- No instruction of the branch class takes a modifier, and what takes none is its own bare form. -/
theorem isBranch_of_takesMod {i : Instr} {op : Nat} {f : Fields} (hw : wordOf i = some (op, f)) (ht : f.takesMod = true) : isBranch i = false := by
  cases i <;> first | rfl | (cases hw; cases ht)
/-- A well-formed instruction is well-formed without its modifier, for none of the other checks asks more where no modifier is. -/
theorem formOk_bare {i : Instr} (hok : formOk i = true) : formOk i.bare = true := by
  cases i
  case fma | fms | fnma | dsmul | dot =>
    exact (Bool.and_true _).trans ((Bool.and_true _).trans (Bool.and_eq_true_iff.mp (Bool.and_eq_true_iff.mp hok).1).1)
  all_goals first
    | exact hok
    | exact (Bool.and_true _).trans (Bool.and_eq_true_iff.mp hok).1
/-- The modifier of a well-formed instruction sets only fields that the instruction honours (R15). -/
theorem modOk_of_formOk {i : Instr} {m : Modifier} {op : Nat} {f : Fields} (hok : formOk i = true) (hw : wordOf i = some (op, f)) (hm : fieldsMod f = some m) :
    ∃ hn, honours i = some hn ∧ modOk hn m = true := by
  have hmods : ∃ hn, honours i = some hn ∧ modsOk hn (fieldsMod f) = true := by
    cases i <;> cases hw <;> first | cases hm | skip
    case fma | fms | fnma | dsmul | dot =>
      exact ⟨_, rfl, (Bool.and_eq_true_iff.mp (Bool.and_eq_true_iff.mp hok).1).2⟩
    all_goals exact ⟨_, rfl, (Bool.and_eq_true_iff.mp hok).2⟩
  simpa only [hm, modsOk] using hmods

/-! ### The decoder -/

section
variable {w n m : Word} {i i' : Instr} {fm : OpForm} {hn : Honour} {md : Modifier}

/-- A word that stands alone: its form makes a well-formed instruction of it, no branch stands before what is neither trailer nor modifier, and no modifier follows that it honours. -/
theorem decode_one (hf : opForm (wordOp w) = some fm) (hb : build w none fm = some i) (hok : formOk i = true) (ht : wordOp n = opTrailer) :
    decode w n = .ok i 1 := by
  simp only [decode, hf, hb, hok, ht]
  cases honours i <;> simp [opTrailer, opModifier]
/-- A word and the modifier that follows it. -/
theorem decode_two (hf : opForm (wordOp w) = some fm) (hb : build w none fm = some i) (hok : formOk i = true) (hbr : isBranch i = false)
    (hh : honours i = some hn) (ho : wordOp m = opModifier) (hd : decModifier m = some md) (hm : modOk hn md = true)
    (hb' : build w (some md) fm = some i') (hok' : formOk i' = true) : decode w m = .ok i' 2 := by
  simp only [decode, hf, hb, hok, hbr, hh, ho, hd, hm, hb', hok']
  simp
/-- What a decoded word went through: its form made an instruction of it, and, where a modifier was attached, another one with it. -/
theorem decode_ok {c : Nat} (h : decode w n = .ok i c) :
    ∃ fm i₀, opForm (wordOp w) = some fm ∧ build w none fm = some i₀ ∧ formOk i = true ∧
      (c = 1 ∧ i = i₀ ∨ c = 2 ∧ wordOp n = opModifier ∧ ∃ hn md, honours i₀ = some hn ∧ decModifier n = some md ∧ build w (some md) fm = some i) := by
  unfold decode at h
  split at h
  · split at h <;> cases h
  next fm hf =>
  split at h
  · cases h
  next i₀ hb =>
  split at h
  · cases h
  next hok =>
  split at h
  · cases h
  split at h
  · cases h
    exact ⟨fm, _, hf, hb, by simpa using hok, .inl ⟨rfl, rfl⟩⟩
  next hn hh =>
  split at h
  next ho =>
    split at h
    · cases h
      exact ⟨fm, _, hf, hb, by simpa using hok, .inl ⟨rfl, rfl⟩⟩
    next md hd =>
    split at h
    · split at h
      · cases h
      next i' hb' =>
      split at h
      · cases h
        next hok' => exact ⟨fm, _, hf, hb, hok', .inr ⟨rfl, ho, hn, md, hh, hd, hb'⟩⟩
      · cases h
    · cases h
      exact ⟨fm, _, hf, hb, by simpa using hok, .inl ⟨rfl, rfl⟩⟩
  · cases h
    exact ⟨fm, _, hf, hb, by simpa using hok, .inl ⟨rfl, rfl⟩⟩

end

/-- A word that begins an encoding is read under the form that makes its instruction. -/
theorem opForm_of_wordOf {i : Instr} {op : Nat} {f : Fields} (hw : wordOf i = some (op, f)) (hok : i.WellFormed) :
    ∃ fm, opForm (wordOp (encFields op f)) = some fm ∧ Laws.Encoding.madeBy fm f = some i := by
  obtain ⟨hlt, -, hm⟩ := encoding_statement i op f hw hok
  rw [wordOp_encFields, Nat.mod_eq_of_lt hlt]
  exact Option.bind_eq_some_iff.mp hm

end Sys2Proof
end

section
/-! PROOFS. Decoding and encoding agree (R9 to R17, R33, R40). -/
namespace Sys2Proof
open Machine

theorem Fields.withMod_fieldsMod (f : Fields) : f.withMod (fieldsMod f) = f := by
  cases f <;> rfl

/-- Settles O37: the map gives an encoded word its own form, under which its fields are read back, with its modifier or without. -/
theorem roundTrip : Obligations.RoundTrip := by
  unfold Obligations.RoundTrip
  intro i w ws hok he
  cases hw : wordOf i with
  | none => simp [encode, hw] at he
  | some x =>
  obtain ⟨op, f⟩ := x
  rw [encode_of_wordOf hw] at he
  obtain ⟨rfl, rfl⟩ := List.cons.inj he
  obtain ⟨fm, hf, hm⟩ := opForm_of_wordOf hw hok
  refine ⟨fun hnil n hn => ?alone, fun m hcons => ?modified, ?length⟩
  case alone =>
    have hmod : fieldsMod f = none := by simpa using hnil
    refine decode_one hf ?_ hok hn
    rw [build_encFields op none hm, ← hmod, Fields.withMod_fieldsMod, hm]
  case modified =>
    obtain ⟨md, hmd, rfl⟩ : ∃ md, fieldsMod f = some md ∧ encModifier md = m := by
      cases hmod : fieldsMod f with
      | none => simp [hmod] at hcons
      | some md => exact ⟨md, rfl, by simpa [hmod] using hcons⟩
    obtain ⟨hn, hh, hmok⟩ := modOk_of_formOk hok hw hmd
    have hbare : build (encFields op f) none fm = some i.bare := by
      have hb := (encoding_statement i.bare op _ (wordOf_bare hw) (formOk_bare hok)).2.2
      rw [wordOp_encFields, Nat.mod_eq_of_lt (encoding_statement i op f hw hok).1] at hf
      rw [build_encFields op none hm]
      simpa only [hf, Option.bind_some] using hb
    refine decode_two hf hbare (formOk_bare hok) ?_ ((honours_bare i).trans hh) (wordOp_encModifier md) (decModifier_encModifier md) hmok ?_ hok
    · rw [isBranch_bare, isBranch_of_takesMod hw (takesMod_of_honours hh hw)]
    · rw [build_encFields op (some md) hm, ← hmd, Fields.withMod_fieldsMod, hm]
  case length => cases fieldsMod f <;> simp

/-- Settles O38: the instruction's fields, put together again under the word's opcode, are the word; a modifier is attached only where the format has a place for it. -/
theorem decodeEncode : Obligations.DecodeEncode := by
  unfold Obligations.DecodeEncode
  intro w n i c h
  obtain ⟨fm, i₀, hf, hb, hok, hc⟩ := decode_ok h
  refine ⟨hok, ?_⟩
  obtain ⟨rfl, rfl⟩ | ⟨rfl, ho, hn, md, hh, hd, hb'⟩ := hc
  case inl =>
    obtain ⟨f, hm, henc, hplace, hnone⟩ := fields_of_build hb
    have hmod : fieldsMod f = none := by
      cases ht : f.takesMod
      · exact hnone ht
      · exact hplace ht
    simp [encode_of_wordOf (names_of_opForm hf f i hm), henc, hmod]
  case inr =>
    obtain ⟨f₀, hm₀, -, -, -⟩ := fields_of_build hb
    obtain ⟨f, hm, henc, hplace, -⟩ := fields_of_build hb'
    have ht₀ : f₀.takesMod = true := takesMod_of_honours hh (names_of_opForm hf f₀ i₀ hm₀)
    have ht : f.takesMod = true := by
      cases fm <;> cases f₀ <;> cases hm₀ <;> cases f <;> cases hm <;> first | rfl | cases ht₀
    simp [encode_of_wordOf (names_of_opForm hf f i hm), henc, hplace ht, encModifier_of_decModifier hd ho]

end Sys2Proof
end

section
/-! PROOFS. Integer arithmetic, narrowing, bit fields and predicates (03). -/
namespace Sys2Proof.Machine

/-! ### Words with their C in a modifier (R15) -/

section
variable {i : Instr} {f : FmtM} {lat : Nat} {v : List SVal → Nat}
  (h : FixedWord i f.hdr anyRole (wordsOf f.mod) ([f.a, f.b] ++ (f.mod.map (·.c)).toList) f.d lat v)
include h

/-- A word whose C comes in its modifier has three sources, and two without one (R15). -/
theorem FixedWord.modified {m : Modifier} (hm : f.mod = some m) : FixedWord i f.hdr anyRole 2 [f.a, f.b, m.c] f.d lat v := by
  rw [hm] at h
  exact h
theorem FixedWord.unmodified (hm : f.mod = none) : FixedWord i f.hdr anyRole 1 [f.a, f.b] f.d lat v := by
  rw [hm] at h
  exact h

end

/-! ### Integer arithmetic (R59, R62, R63) -/

/-- imad takes its C in a modifier, or none. -/
theorem fixedWord_imad (t : IType) (f : FmtM) :
    FixedWord (.imad t f) f.hdr anyRole (wordsOf f.mod) ([f.a, f.b] ++ (f.mod.map (·.c)).toList) f.d 4 fun vs =>
      intRes t (modSat f.mod) (fieldBits f.d) (intVal t (src vs 0) * intVal t (src vs 1) + vs[2]?.elim 0 (intVal t)) :=
  fixedWord_of_pureWord_anyRole fun s => exec_imad t f s

/-- Settles O1: each word by its shape. -/
theorem integerArithmetic : Obligations.IntegerArithmetic := by
  unfold Obligations.IntegerArithmetic
  refine ⟨fun t f => ?iadd, fun t f => ?isub, fun t f => ?imul, fun t f => ?imulh, fun t f m hm => ?imadm, fun t f hm => ?imad,
    fun t f => ?imin, fun t f => ?imax, fun t f => ?iabs, fun t f => ?ineg⟩
  case iadd => exact fixedWord_of_pureWord_anyRole fun s => exec_iadd t f s
  case isub => exact fixedWord_of_pureWord_anyRole fun s => exec_isub t f s
  case imul => exact fixedWord_of_pureWord_anyRole fun s => exec_imul t f s
  case imulh => exact fixedWord_of_pureWord_anyRole fun s => exec_imulh t f s
  case imadm => simpa only [hm, modSat, Option.elim] using (fixedWord_imad t f).modified hm
  case imad => simpa only [hm, modSat, Option.elim] using (fixedWord_imad t f).unmodified hm
  case imin => exact fixedWord_of_pureWord_anyRole fun s => exec_imin t f s
  case imax => exact fixedWord_of_pureWord_anyRole fun s => exec_imax t f s
  case iabs => exact fixedWord_of_pureWord_anyRole fun s => exec_iabs t f s
  case ineg => exact fixedWord_of_pureWord_anyRole fun s => exec_ineg t f s

/-! ### Bit fields (R67 to R72) -/

/-- bfx and bfi take their C in a modifier, or none (R68, R69). -/
theorem fixedWord_bfx {sgn : Bool} {i : Instr} {f : FmtM} (hx : ∀ s, exec i s = bfxWord sgn f s) :
    FixedWord i f.hdr anyRole (wordsOf f.mod) ([f.a, f.b] ++ (f.mod.map (·.c)).toList) f.d 3 fun vs =>
      bfxField sgn (src vs 0).zx (src vs 1).v (vs[2]?.elim 0 (·.zx)) :=
  fixedWord_of_pureWord_anyRole hx
theorem fixedWord_bfi (f : FmtM) :
    FixedWord (.bfi f) f.hdr anyRole (wordsOf f.mod) ([f.a, f.b] ++ (f.mod.map (·.c)).toList) f.d 3 fun vs =>
      blend (src vs 0).zx (src vs 1).zx (vs[2]?.elim 0 (·.zx)) :=
  fixedWord_of_pureWord_anyRole fun s => exec_bfi f s
/-- The population count is the number of the positions whose bit is set. -/
theorem popc_eq_length_filter (n x : Nat) : popc n x = ((List.range n).filter fun i => bitAt x i).length := by
  induction n generalizing x with
  | zero => rfl
  | succ n ih =>
    have hbit (i : Nat) : bitAt x (i + 1) = bitAt (x / 2) i := by
      simp [bitAt, bits, Nat.pow_succ', Nat.div_div_eq_div_mul]
    have hzero : bitAt x 0 = (x % 2 == 1) := by
      simp [bitAt, bits]
    rw [popc, ih, List.range_succ_eq_map, List.filter_cons, List.filter_map, hzero]
    simp only [Function.comp_def, Nat.succ_eq_add_one, hbit]
    obtain h | h := Nat.mod_two_eq_zero_or_one x <;> simp [h, Nat.add_comm]

/-- Settles O6: each word by its shape, the population count by the positions it counts. -/
theorem bitFields : Obligations.BitFields := by
  unfold Obligations.BitFields
  refine ⟨fun f => ?popc, fun f => ?clz, fun f => ?ctz, fun f => ?brev, fun f m hm => ?bfxSm, fun f hm => ?bfxS, fun f m hm => ?bfxZm, fun f hm => ?bfxZ,
    fun f m hm => ?bfim, fun f hm => ?bfi, fun f => ?ffcs, fun f => ?plset, fun f => ?perm⟩
  case popc =>
    simp only [← popc_eq_length_filter]
    exact fixedWord_of_pureWord_anyRole fun s => exec_popc f s
  case clz => exact fixedWord_of_pureWord_anyRole fun s => exec_clz f s
  case ctz => exact fixedWord_of_pureWord_anyRole fun s => exec_ctz f s
  case brev => exact fixedWord_of_pureWord_anyRole fun s => exec_brev f s
  case bfxSm => exact (fixedWord_bfx fun s => exec_bfxS f s).modified hm
  case bfxS => exact (fixedWord_bfx fun s => exec_bfxS f s).unmodified hm
  case bfxZm => exact (fixedWord_bfx fun s => exec_bfxZ f s).modified hm
  case bfxZ => exact (fixedWord_bfx fun s => exec_bfxZ f s).unmodified hm
  case bfim => exact (fixedWord_bfi f).modified hm
  case bfi => exact (fixedWord_bfi f).unmodified hm
  case ffcs => exact fixedWord_of_pureWord_anyRole fun s => exec_ffcs f s
  case plset => exact fixedWord_of_pureWord_anyRole fun s => exec_plset f s
  case perm => exact fixedWord_of_pureWord_anyRole fun s => exec_perm f s

/-! ### Predicates (R73) -/

variable {h : Hdr} {d : PDst} {p q : PSrc} {s s2 : State} {gid k : Nat} {g : Gang} {x y : Bool}

/-- A word over two predicate sources writes its pair, both predicates from one value. -/
theorem State.Turn.predOp (ht : s.Turn gid g k h anyRole) (hp : readPSrc k p s = (.ok x, s)) (hq : readPSrc k q s = (.ok y, s))
    (hc : coverPreds k d s = (.ok (), s)) {op : Bool → Bool → Bool} (hr : predResult k d (op x y) 2 s = (.ok (), s2)) :
    Machine.predOp h d p q op s = .next (movedOn gid g 1 h s2) := by
  refine State.Turn.runWord_fixed (m := {}) ht rfl rfl rfl ?_
  rw [M.bind_ok hp, M.bind_ok hq, M.bind_ok hc]
  exact hr

/-- Settles O7: pset by its shape, the others by the word over two predicate sources, of which pmov uses one. -/
theorem predicateWords : Obligations.PredicateWords := by
  unfold Obligations.PredicateWords
  refine ⟨fun f => ?pset, fun f s gid g k s2 x y ht hx hy hc => ⟨fun hr => ?pand, fun hr => ?por, fun hr => ?pxor⟩,
    fun f s gid g k s2 x ht hx hc hr => ?pmov⟩
  case pset => exact predWord_of_predWord (m := {}) rfl rfl rfl fun s => exec_pset f s
  case pand => exact (exec_pand f s).trans (ht.predOp hx hy hc hr)
  case por => exact (exec_por f s).trans (ht.predOp hx hy hc hr)
  case pxor => exact (exec_pxor f s).trans (ht.predOp hx hy hc hr)
  case pmov => exact (exec_pmov f s).trans (ht.predOp hx hx hc hr)

/-! ### Narrowing (R54, R59) -/

/-- The signed value of an n-bit pattern lies in the signed range of n bits. -/
theorem toS_range {n : Nat} (hn : 0 < n) (x : Nat) : -(2 : Int) ^ (n - 1) ≤ toS n x ∧ toS n x < 2 ^ (n - 1) := by
  have hp : 2 ^ n = 2 * 2 ^ (n - 1) := by rw [← Nat.pow_succ']; congr 1; omega
  have hlt : low n x < 2 ^ n := Nat.mod_lt _ (by positivity)
  unfold toS
  split <;> zify at * <;> omega
/-- A number in the signed range of n bits is the signed value of its pattern. -/
theorem toS_ofI {n : Nat} (hn : 0 < n) {e : Int} (hlo : -(2 : Int) ^ (n - 1) ≤ e) (hhi : e < 2 ^ (n - 1)) : toS n (ofI n e) = e := by
  have hp : (2 : Int) ^ n = 2 * 2 ^ (n - 1) := by rw [← pow_succ']; congr 1; omega
  obtain ⟨h1, h2⟩ := toS_range hn (ofI n e)
  have hmod : toS n (ofI n e) % 2 ^ n = e % 2 ^ n := by rw [toS_emod, ofI_cast, Int.emod_emod]
  have hdvd : (2 : Int) ^ n ∣ toS n (ofI n e) - e := Int.dvd_of_emod_eq_zero (Int.emod_eq_emod_iff_emod_sub_eq_zero.mp hmod)
  exact sub_eq_zero.mp (Int.eq_zero_of_abs_lt_dvd hdvd (abs_lt.mpr ⟨by omega, by omega⟩))
theorem ofI_of_lt {n : Nat} {e : Int} (h0 : 0 ≤ e) (h1 : e < 2 ^ n) : (ofI n e : Int) = e := by
  rw [ofI_cast, Int.emod_eq_of_lt h0 h1]
/-- The low bits of a pattern are those of the number, as many as the pattern has. -/
theorem emod_two_pow_emod {n N : Nat} (h : n ≤ N) (e : Int) : e % 2 ^ N % 2 ^ n = e % 2 ^ n :=
  Int.emod_emod_of_dvd e (pow_dvd_pow 2 h)
theorem low_cast (n x : Nat) : (low n x : Int) = x % 2 ^ n := by
  simp [low]

section
variable {t : IType} {n : Nat} {e : Int}

theorem intRes_unsigned (ht : itSigned t = false) : (intRes t false n e : Int) = e % 2 ^ itBits t % 2 ^ n := by
  simp only [intRes, ht, Bool.false_eq_true, if_false, low_cast, ofI_cast]
theorem intRes_signed (ht : itSigned t = true) : intRes t false n e = ofI n (toS (itBits t) (ofI (itBits t) e)) := by
  simp only [intRes, ht, Bool.false_eq_true, if_false, if_true]
theorem intRes_of_le (h : n ≤ itBits t) : (intRes t false n e : Int) = e % 2 ^ n := by
  cases ht : itSigned t
  case false => rw [intRes_unsigned ht, emod_two_pow_emod h]
  case true => rw [intRes_signed ht, ofI_cast, ← emod_two_pow_emod h, toS_emod, ofI_cast, Int.emod_emod, emod_two_pow_emod h]
theorem intRes_of_ge_unsigned (h : itBits t ≤ n) (ht : itSigned t = false) : (intRes t false n e : Int) = e % 2 ^ itBits t := by
  rw [intRes_unsigned ht]
  exact Int.emod_eq_of_lt (Int.emod_nonneg _ (by positivity))
    ((Int.emod_lt_of_pos e (by positivity)).trans_le (pow_le_pow_right₀ (by decide) h))
/-- Sign extension keeps the signed value of the operation's own width. -/
theorem toS_intRes_of_ge (h : itBits t ≤ n) (ht : itSigned t = true) : toS n (intRes t false n e) = toS (itBits t) (ofI (itBits t) e) := by
  obtain ⟨hlo, hhi⟩ := toS_range (itBits_pos t) (ofI (itBits t) e)
  have hpow : (2 : Int) ^ (itBits t - 1) ≤ 2 ^ (n - 1) := pow_le_pow_right₀ (by decide) (Nat.sub_le_sub_right h 1)
  rw [intRes_signed ht]
  exact toS_ofI ((itBits_pos t).trans_le h) (by omega) (by omega)
theorem intRes_sat_unsigned (ht : itSigned t = false) : intRes t true n e = ofI n (clampI 0 (2 ^ n - 1) e) := by
  simp only [intRes, satTo, ht, Bool.false_eq_true, if_false, if_true]
theorem toS_intRes_sat (hn : 0 < n) (ht : itSigned t = true) : toS n (intRes t true n e) = clampI (-2 ^ (n - 1)) (2 ^ (n - 1) - 1) e := by
  simp only [intRes, satTo, ht, if_true]
  have hpos : (0 : Int) < 2 ^ (n - 1) := by positivity
  apply toS_ofI hn <;> unfold clampI <;> split_ifs <;> omega

end

/-- Settles O2: patterns below 2^n stand for themselves, and signed patterns for the signed numbers of their width. -/
theorem integerNarrowing : Obligations.IntegerNarrowing := by
  unfold Obligations.IntegerNarrowing
  refine ⟨fun t n e => intRes_of_le, fun t n e => intRes_of_ge_unsigned, fun t n e h ht => ?signed, fun t n e hn ht h0 h1 => ?inRange,
    fun t n e hn ht he => ?below, fun t n e hn ht he => ?above, fun t n e hn ht h0 h1 => ?inSigned, fun t n e hn ht he => ?belowSigned,
    fun t n e hn ht he => ?aboveSigned⟩
  case signed =>
    rw [toS_intRes_of_ge h ht, toS_emod, ofI_cast, Int.emod_emod]
    exact ⟨rfl, toS_range (itBits_pos t) _⟩
  case inRange =>
    rw [intRes_sat_unsigned ht, clampI, if_neg (by omega), if_neg (by omega), ofI_of_lt h0 h1]
  case below =>
    rw [intRes_sat_unsigned ht, clampI, if_pos he]
    simp [ofI]
  case above =>
    have hpos : (0 : Int) < 2 ^ n := by positivity
    rw [intRes_sat_unsigned ht, clampI, if_neg (by omega), if_pos (by omega)]
    zify [Nat.one_le_two_pow]
    exact ofI_of_lt (by omega) (by omega)
  case inSigned => rw [toS_intRes_sat hn ht, clampI, if_neg (by omega), if_neg (by omega)]
  case belowSigned => rw [toS_intRes_sat hn ht, clampI, if_pos he]
  case aboveSigned =>
    have hpos : (0 : Int) < 2 ^ (n - 1) := by positivity
    rw [toS_intRes_sat hn ht, clampI, if_neg (by omega), if_pos (by omega)]

end Sys2Proof.Machine
end

section
/-! PROOFS. Float, conversion, cross-lane and dot words (04). -/
namespace Sys2Proof.Machine

/-! ### Element-wise words -/

section
variable {i : Instr} {f : FmtM} {t : FType} {srcs : List Operand} {v : Nat → List Nat → List Nat → List Nat → M Nat}

/-- An element-wise word whose effect is to read its elements, compute a value and write it (R93 to R98). -/
theorem elemWord_of_body {lat : Nat}
    (hx : ∀ s, exec i s = runWord (vecMeta f.mod) f.hdr (fun k => do
      let e ← elemOperands k (ftFmt t) srcs f.d f.mod
      let r ← v k e.1 e.2.1 e.2.2.1
      result k e.2.2.2 r lat) s) : ElemWord i f t srcs lat v := by
  intro s gid g k s1 s2 s3 a b c dst r ht hops hv hr
  rw [hx s]
  apply ht.runWord_fixed (m := vecMeta f.mod) rfl rfl rfl
  rw [M.bind_ok hops, M.bind_ok hv]
  exact hr
/-- The same with a value that depends on the elements alone. -/
theorem elemWord_of_pure {lat : Nat} {w : List Nat → List Nat → List Nat → Nat}
    (hx : ∀ s, exec i s = runWord (vecMeta f.mod) f.hdr (fun k => do
      let e ← elemOperands k (ftFmt t) srcs f.d f.mod
      result k e.2.2.2 (w e.1 e.2.1 e.2.2.1) lat) s) : ElemWord i f t srcs lat fun _ a b c => pure (w a b c) :=
  elemWord_of_body fun s => by simp only [hx s, pure_bind]
/-- The same with a result that comes later. -/
theorem elemTimed_of_body {lo hi : Nat}
    (hx : ∀ s, exec i s = runWord { vecMeta f.mod with var := true } f.hdr (fun k => do
      roomFor k f.hdr
      let e ← elemOperands k (ftFmt t) srcs f.d f.mod
      let r ← v k e.1 e.2.1 e.2.2.1
      let _ ← issueVar k f.hdr.sc.toNat e.2.2.2 r lo (some hi) .time true none 0) s) : ElemTimed i f t srcs lo hi v := by
  intro s gid g k s1 s2 s3 a b c dst r id ht hroom hops hv hissue
  rw [hx s]
  apply ht.runWord_var (m := { vecMeta f.mod with var := true }) hroom rfl rfl rfl
  rw [M.bind_ok (roomFor_of_room hroom), M.bind_ok hops, M.bind_ok hv]
  exact M.bind_ok hissue

end

/-- Settles O8: each word reads its elements and rounds its exact result once. -/
theorem floatArithmetic : Obligations.FloatArithmetic := by
  unfold Obligations.FloatArithmetic
  refine ⟨fun t f => ?fadd, fun t f => ?fsub, fun t f => ?fmul, fun t f => ?fma, fun t f => ?fms, fun t f => ?fnma, fun t f => ?fdiv, fun t f => ?fsqrt⟩
  case fadd => exact elemWord_of_body fun s => exec_fadd t f s
  case fsub => exact elemWord_of_body fun s => exec_fsub t f s
  case fmul => exact elemWord_of_body fun s => exec_fmul t f s
  case fma => exact elemWord_of_body fun s => exec_fma t f s
  case fms => exact elemWord_of_body fun s => exec_fms t f s
  case fnma => exact elemWord_of_body fun s => exec_fnma t f s
  case fdiv => exact elemTimed_of_body fun s => exec_fdiv t f s
  case fsqrt => exact elemTimed_of_body fun s => exec_fsqrt t f s

/-- A special function of each element, clamped (R107, R108). -/
theorem elemWord_spec {i : Instr} {fn : SpecFn} {t : FType} {f : FmtM} (hx : ∀ s, exec i s = specWord fn t f s) :
    ElemWord i f t [f.a] (specLat t) fun _ a _ _ =>
      pure (ofDigits (ftBits t) (a.map fun x => clampF (ftFmt t) (f.mod.getD Modifier.none').clamp.toNat (specF fn (ftFmt t) x))) :=
  elemWord_of_pure hx

/-- Settles O9: each word by its shape. -/
theorem floatOther : Obligations.FloatOther := by
  unfold Obligations.FloatOther
  refine ⟨fun t f => ?fmin, fun t f => ?fmax, fun t f => ?fcmp, fun t f => ?fclass, fun t f => ?fround, fun t f c hc => ?special⟩
  case fmin => exact elemWord_of_pure fun s => exec_fmin t f s
  case fmax => exact elemWord_of_pure fun s => exec_fmax t f s
  case fcmp => exact predWord_of_predWord (m := vecMeta f.mod) rfl rfl rfl fun s => exec_fcmp t f s
  case fclass => exact fixedWord_of_pureWord (m := vecMeta f.mod) rfl rfl rfl fun s => exec_fclass t f s
  case fround => exact elemWord_of_body fun s => by simp only [exec_fround, execFround, bind_assoc, pure_bind]
  case special =>
    subst hc
    exact ⟨elemWord_spec fun s => exec_frcp t f s, elemWord_spec fun s => exec_frsq t f s, elemWord_spec fun s => exec_fexp2 t f s,
      elemWord_spec fun s => exec_flog2 t f s, elemWord_spec fun s => exec_fsin t f s, elemWord_spec fun s => exec_fcos t f s,
      elemWord_spec fun s => exec_ftanh t f s, elemWord_spec fun s => exec_fsig t f s⟩

/-! ### Conversion and dot products -/

/-- Settles O10: each word by its shape. -/
theorem convertAndDot : Obligations.ConvertAndDot := by
  unfold Obligations.ConvertAndDot
  refine ⟨fun td ts f => ?cvt, fun f p sg hp => ?pack, fun f p sg hp => ?unpack, fun dt f => ?dot, fun h f => ?dsmul⟩
  case cvt => exact actWord_of_fixedWord (m := vecMeta f.mod) rfl rfl rfl fun s => exec_cvt td ts f s
  case pack => exact fixedWord_of_pureWord (m := vecMeta f.mod) rfl rfl rfl fun s => by simp only [exec_pack, execPack, hp]; rfl
  case unpack => exact fixedWord_of_pureWord (m := vecMeta f.mod) rfl rfl rfl fun s => by simp only [exec_unpack, execUnpack, hp]; rfl
  case dot => exact actWord_of_fixedWord (m := vecMeta f.mod) rfl rfl rfl fun s => exec_dot dt f s
  case dsmul => exact actWord_of_fixedWord (m := vecMeta f.mod) rfl rfl rfl fun s => exec_dsmul h f s

/-! ### Cross-lane words in a gang of one thread (R113 to R119) -/

/-- What a lane holds where one lane alone takes part. -/
def loneLane {α : Type} (lane : Nat) (x : α) (l : Nat) : Option α := if lane = l then some x else none

/-- A cross-lane word whose turn it is, in a gang of one thread: no lane but its own takes part. -/
theorem State.Turn.laneWord {s s1 s2 s3 : State} {gid k : Nat} {g : Gang} {md : Option Modifier} {h : Hdr} {srcs : List Operand} {d : Operand} {lat v : Nat}
    {f : Nat → (Nat → Option (List SVal)) → List SVal → M Nat} {vs : List SVal} {dst : Dest} (ht : s.Turn gid g k h vecRoles)
    (hops : operands k (plainOps srcs) (some (d, none)) s = (.ok (vs, dst), s1)) (hv : f k (loneLane (keyLane k) vs) vs s1 = (.ok v, s2))
    (hr : result k dst (low (fieldBits d) v) lat s2 = (.ok (), s3)) : Machine.laneWord md h srcs d lat f s = .next (movedOn gid g (wordsOf md) h s3) := by
  refine runWordX_one (m := { vecMeta md with lane := true }) ht.cur ht.gang ht.issues ht.members ht.done ht.short ht.serial rfl
    (preCheck_of_role rfl rfl ht.role) ht.guard hops ?_
  have hlane : (fun l => (([(k, vs, dst)].find? fun e => keyLane e.1 == l && (s1.thr e.1).team == (s1.thr k).team && (s1.thr e.1).grp == (s1.thr k).grp).map
      (·.2.1))) = loneLane (keyLane k) vs := by
    funext l
    by_cases hl : keyLane k = l <;> simp [loneLane, hl]
  simp only [M.run_bind, M.run_get, hlane, hv, hr]
/-- A cross-lane word whose value comes from the sources alone. -/
theorem fixedWord_of_laneWord {i : Instr} {md : Option Modifier} {h : Hdr} {srcs : List Operand} {d : Operand} {lat : Nat}
    {f : Nat → (Nat → Option (List SVal)) → List SVal → M Nat} {v : List SVal → Nat} (hx : ∀ s, exec i s = Machine.laneWord md h srcs d lat f s)
    (hv : ∀ k vs s, f k (loneLane (keyLane k) vs) vs s = (.ok (v vs), s)) : FixedWord i h vecRoles (wordsOf md) srcs d lat v :=
  fun s _ _ k s1 _ vs _ ht hops hr => (hx s).trans (ht.laneWord hops (hv k vs s1) hr)
/-- A lane that takes no part gives the thread its own value, and so does its own lane. -/
theorem loneLane_getD {α β : Type} (lane l : Nat) (x : α) (f : α → β) : ((loneLane lane x l).map f).getD (f x) = f x := by
  unfold loneLane
  split <;> rfl
theorem shuffle_lone (d a : Operand) (lane : Nat) (vs : List SVal) :
    shuffle d a (loneLane lane vs) vs = bits (src vs 0).zx (fieldBits d * (bits (src vs 1).v 5 4 % (fieldBits a / fieldBits d))) (fieldBits d) := by
  simp only [shuffle, loneLane_getD lane _ vs fun l => (src l 0).zx]
/-- The tree of R118 over one lane that holds an element gives that element. -/
theorem redTree_lone (op : Nat → Nat → Nat) {lane : Nat} (hl : lane < 32) (x : Nat) : redTree op ((List.range 32).map (loneLane lane x)) = some x := by
  interval_cases lane <;> rfl
/-- The first lane that holds an element, and the element. -/
def FirstAt (lane x : Nat) (v : List (Option Nat)) : Prop := v[lane]? = some (some x) ∧ ∀ j < lane, (v[j]?).join = none
theorem getElem?_scanStep (op : Nat → Nat → Nat) (v : List (Option Nat)) (d j : Nat) :
    (scanStep op v d)[j]? = (v[j]?).map fun e => if d ≤ j then optOp op ((v[j - d]?).join) e else e := by
  simp [scanStep, List.getElem?_map, Option.map_map, Function.comp_def]
/-- A step of R119 combines a lane with lower ones alone. -/
theorem FirstAt.scanStep {lane x d : Nat} {v : List (Option Nat)} (op : Nat → Nat → Nat) (h : FirstAt lane x v) (hd : 0 < d) :
    FirstAt lane x (Machine.scanStep op v d) := by
  obtain ⟨hx, hlow⟩ := h
  refine ⟨?_, fun j hj => ?_⟩
  · rw [getElem?_scanStep, hx]
    by_cases hdl : d ≤ lane
    · simp [hdl, hlow (lane - d) (by omega), optOp]
    · simp [hdl]
  · have hjn := hlow j hj
    rw [getElem?_scanStep]
    cases hv : v[j]? with
    | none => rfl
    | some e =>
      obtain rfl : e = none := by simpa [hv] using hjn
      by_cases hdj : d ≤ j
      · simp [hdj, hlow (j - d) (by omega), optOp]
      · simp [hdj]
theorem scanAll_lone (op : Nat → Nat → Nat) {lane : Nat} (hl : lane < 32) (x : Nat) : ((scanAll op ((List.range 32).map (loneLane lane x)))[lane]?).join = some x := by
  have h0 : FirstAt lane x ((List.range 32).map (loneLane lane x)) := by
    refine ⟨by simp [loneLane, hl], fun j hj => ?_⟩
    have hne : lane ≠ j := by omega
    simp [List.getElem?_range (hj.trans hl), loneLane, hne]
  have h5 := ((((h0.scanStep op (d := 1) (by decide)).scanStep op (d := 2) (by decide)).scanStep op (d := 4) (by decide)).scanStep op (d := 8) (by decide)).scanStep op
    (d := 16) (by decide)
  simp only [scanAll, List.foldl_cons, List.foldl_nil, h5.1, Option.join_some]

/-- A reduction or scan over one participant gives its own elements, each NaN as the canonical one. -/
theorem fixedWord_of_foldLanes {i : Instr} {t : FType} {md : Option Modifier} {h : Hdr} {a d : Operand} {lat : Nat} {op : Nat → Nat → Nat → Nat}
    {pick : (Nat → Nat → Nat) → List (Option Nat) → Nat → Option Nat} (hx : ∀ s, exec i s = foldLanes t md h a d lat op pick s)
    (hp : ∀ op lane x, lane < 32 → pick op ((List.range 32).map (loneLane lane x)) lane = some x) :
    FixedWord i h vecRoles (wordsOf md) [a] d lat fun vs => ofDigits (ftBits t) ((List.range (fieldBits d / ftBits t)).map fun i =>
      canonF (ftFmt t) ((elemsOf (ftBits t) (fieldBits d / ftBits t) (intToF (ftFmt t)) (src vs 0)).getD i 0)) := by
  refine fixedWord_of_laneWord hx fun k vs s => ?_
  have hcol (j : Nat) : (fun l => (loneLane (keyLane k) vs l).map fun x => (elemsOf (ftBits t) (fieldBits d / ftBits t) (intToF (ftFmt t)) (src x 0)).getD j 0)
      = loneLane (keyLane k) ((elemsOf (ftBits t) (fieldBits d / ftBits t) (intToF (ftFmt t)) (src vs 0)).getD j 0) := by
    funext l
    unfold loneLane
    split <;> rfl
  have hlane : keyLane k < 32 := Nat.mod_lt _ (by decide)
  simp only [laneMode, roundMode, M.run_bind, M.run_getT, M.run_pure, hcol, hp _ _ _ hlane, Option.getD_some]

/-- Settles O11: the words of lanes by the lone lane, the vote by the one participant it counts. -/
theorem laneWordsAlone : Obligations.LaneWordsAlone := by
  unfold Obligations.LaneWordsAlone
  refine ⟨fun f => ?lshf, fun f => ?lbcast, fun f => ?lrot, fun f s gid g k s1 s2 p vs dst ht hp hops hr => ?lvote, fun t f v hv => ?fold⟩
  case lshf => exact fixedWord_of_laneWord (fun s => exec_lshf f s) fun k vs s => by rw [shuffle_lone, M.run_pure]
  case lbcast => exact fixedWord_of_laneWord (fun s => exec_lbcast f s) fun k vs s => by rw [shuffle_lone, M.run_pure]
  case lrot =>
    refine fixedWord_of_laneWord (fun s => exec_lrot f s) fun k vs s => ?_
    simp only [M.run_bind, M.run_get, M.run_pure, loneLane_getD _ _ vs fun x => (src x 0).zx]
  case lvote =>
    refine runWordX_one (m := { vecMeta f.mod with lane := true }) ht.cur ht.gang ht.issues ht.members ht.done ht.short ht.serial rfl
      (preCheck_of_role rfl rfl ht.role) ht.guard (M.bind_ok hp |>.trans (M.bind_ok hops)) ?_
    simpa [M.run_bind] using hr
  case fold =>
    subst hv
    have hred (op : Nat → Nat → Nat) (lane x : Nat) (hl : lane < 32) : pickRed op ((List.range 32).map (loneLane lane x)) lane = some x := redTree_lone op hl x
    have hscan (op : Nat → Nat → Nat) (lane x : Nat) (hl : lane < 32) : pickScan op ((List.range 32).map (loneLane lane x)) lane = some x := scanAll_lone op hl x
    exact ⟨fixedWord_of_foldLanes (fun s => exec_lredAdd t f s) hred, fixedWord_of_foldLanes (fun s => exec_lredMin t f s) hred,
      fixedWord_of_foldLanes (fun s => exec_lredMax t f s) hred, fixedWord_of_foldLanes (fun s => exec_lscanAdd t f s) hscan,
      fixedWord_of_foldLanes (fun s => exec_lscanMin t f s) hscan, fixedWord_of_foldLanes (fun s => exec_lscanMax t f s) hscan⟩

end Sys2Proof.Machine
end

section
/-! PROOFS. How the actions of M run: what a sequence that ends well went through, and the small actions that words share. -/
namespace Sys2Proof.Machine

/-- A sequence ends well when its first part does and the rest does after it. -/
theorem M.bind_eq_ok {α β : Type} {m : M α} {f : α → M β} {s s' : State} {b : β} :
    (m >>= f) s = (.ok b, s') ↔ ∃ a s1, m s = (.ok a, s1) ∧ f a s1 = (.ok b, s') := by
  rw [M.run_bind]
  constructor
  · intro h
    split at h
    next a s1 hm => exact ⟨a, s1, hm, h⟩
    next => cases h
  · rintro ⟨a, s1, hm, hf⟩
    rw [hm]
    exact hf
theorem M.run_ite {α : Type} (c : Prop) [Decidable c] (m n : M α) (s : State) : (if c then m else n) s = if c then m s else n s := by
  split <;> rfl

/-- A sequence whose first part ends well is the rest from there. -/
theorem M.bind_step {α β : Type} {m : M α} {f : α → M β} {s s1 : State} {a : α} {out : Except Stop β × State} (h : m s = (.ok a, s1)) (hf : f a s1 = out) :
    (m >>= f) s = out := (M.bind_ok h).trans hf
theorem M.get_step {β : Type} {f : State → M β} {s : State} {out : Except Stop β × State} (hf : f s s = out) : ((get : M State) >>= f) s = out := hf
theorem M.ite_step_pos {α : Type} {c : Prop} [Decidable c] {m n : M α} {s : State} {out : Except Stop α × State} (hc : c) (h : m s = out) :
    (if c then m else n) s = out := by rwa [if_pos hc]
theorem M.ite_step_neg {α : Type} {c : Prop} [Decidable c] {m n : M α} {s : State} {out : Except Stop α × State} (hc : ¬ c) (h : n s = out) :
    (if c then m else n) s = out := by rwa [if_neg hc]

variable {s s1 : State} {k gid : Nat} {g : Gang} {h : Hdr} {roles : Role → Bool}

/-- At a gang's turn the address of the present word is the gang's. -/
theorem State.Turn.curPc (ht : s.Turn gid g k h roles) : Machine.curPc s = (.ok g.pc, s) := by
  simp [Machine.curPc, M.run_bind, ht.cur, ht.gang]
theorem checkAlign_of_dvd {va n : Nat} (ha : va % n = 0) (s : State) : checkAlign va n s = (.ok (), s) := by
  rw [checkAlign, if_pos ha, M.run_pure]
theorem order_of_free {rel sc : Bool} (hw : s.mustWait k rel sc = false) : order k rel sc s = (.ok (), s) := by
  simp [order, M.run_bind, hw]
/-- With room in its counter a word goes on to the rest of what it does. -/
theorem roomFor_bind {α : Type} {m : M α} {out : Except Stop α × State} (hroom : s.Room k h) (hm : m s = out) :
    (do roomFor k h; m : M α) s = out := (M.bind_ok (roomFor_of_room hroom)).trans hm

/-- The entry of an instruction of variable latency (R28). -/
def State.newOutst (s : State) (k sc : Nat) (d : Dest) (v lo : Nat) (hi : Option Nat) (w : Wait) (final : Bool) (err : Option Nat) (src : Nat) : Outst :=
  let lat := hi.elim (lo + Config.freeNat s.free) fun h => lo + Config.freeNat s.free % (h - lo + 1)
  { id := s.nextId, dc := (s.thr k).counter sc, doneAt := s.now + lat * Config.ticksPerCycle, dest := d, contested := [], val := v, wait := w,
    fixed := final, err := err, src := src, report := [] }
/-- A thread with an instruction of variable latency outstanding, whose destinations wait for it (R28, R29). -/
def Thread.issue (t : Thread) (o : Outst) : Thread :=
  { t.contest o.dest.locs with outst := (t.contest o.dest.locs).outst ++ [o],
                               varDest := t.varDest ++ o.dest.locs.map fun l => { oid := o.id, dc := o.dc, loc := l, old := t.base l } }
/-- What an instruction of variable latency leaves when its counter has room (R28). -/
def State.issued (s : State) (k sc : Nat) (d : Dest) (v lo : Nat) (hi : Option Nat) (w : Wait) (final : Bool) (err : Option Nat) (src : Nat) : State :=
  State.modThr { s with free := s.free + 1, nextId := s.nextId + 1 } k (·.issue (s.newOutst k sc d v lo hi w final err src))
theorem issueVar_run (k sc : Nat) (d : Dest) (v lo : Nat) (hi : Option Nat) (w : Wait) (final : Bool) (err : Option Nat) (src : Nat) (s : State) :
    issueVar k sc d v lo hi w final err src s
      = if 63 ≤ (s.thr k).dcount ((s.thr k).counter sc) then (.error .hold, s) else (.ok s.nextId, s.issued k sc d v lo hi w final err src) := by
  simp only [issueVar, M.run_bind, M.run_getT, M.run_ite, M.run_holdM]
  split
  · rfl
  · cases hi <;> rfl
/-- An instruction that is issued takes the next serial. -/
theorem issueVar_ok {sc : Nat} {d : Dest} {v lo : Nat} {hi : Option Nat} {w : Wait} {final : Bool} {err : Option Nat} {src id : Nat}
    (h : issueVar k sc d v lo hi w final err src s = (.ok id, s1)) : id = s.nextId ∧ s1 = s.issued k sc d v lo hi w final err src := by
  rw [issueVar_run] at h
  split at h
  · cases h
  · cases h
    exact ⟨rfl, rfl⟩

end Sys2Proof.Machine
end

section
/-! PROOFS. Control, tasks, and the trailer: O12 to O14. -/
namespace Sys2Proof.Machine

variable {s s1 : State} {k gid : Nat} {g : Gang} {h : Hdr} {roles : Role → Bool}

/-- A branch whose aligned target passes the check makes it the next run head. -/
theorem goto'_of_check {target : Word} (ha : low 3 target.toNat = 0) (hc : checkTarget k target s = (.ok (), s1)) :
    goto' k target s = (.ok (), s1.modThr k fun t => { t with nextHead := some target }) := by
  simp [goto', M.run_bind, ha, hc]
theorem bra_next {f : FmtJ} (ht : s.Turn gid g k f.hdr anyRole) (ha : low 3 (jTarget g.pc f).toNat = 0) (hc : checkTarget k (jTarget g.pc f) s = (.ok (), s1)) :
    exec (.bra f) s = .next (movedOn gid g 1 f.hdr (s1.modThr k fun t => { t with nextHead := some (jTarget g.pc f) })) :=
  (exec_bra f s).trans <| ht.runWord_fixed (m := branchMeta) rfl rfl rfl <| (M.bind_ok ht.curPc).trans (goto'_of_check ha hc)
/-- A word keeps the low bits of the number it stands for. -/
theorem low_wd {n : Nat} (hn : n ≤ 64) (x : Nat) : low n (wd x).toNat = low n x := by
  rw [low, low, wd, BitVec.toNat_ofNat]
  exact Nat.mod_mod_of_dvd x (Nat.pow_dvd_pow 2 hn)
theorem brx_next {f : FmtA} {s2 : State} {vs : List SVal} {x : Dest} (ht : s.Turn gid g k f.hdr anyRole) (hops : operands k [plainOp f.a] none s = (.ok (vs, x), s1))
    (ha : low 3 (src vs 0).zx = 0) (hc : checkTarget k (wd (src vs 0).zx) s1 = (.ok (), s2)) :
    exec (.brx f) s = .next (movedOn gid g 1 f.hdr (s2.modThr k fun t => { t with nextHead := some (wd (src vs 0).zx) })) :=
  (exec_brx f s).trans <| ht.runWord_fixed (m := branchMeta) rfl rfl rfl <| M.bind_step hops <| goto'_of_check ((low_wd (by decide) _).trans ha) hc

/-! ### The trailer -/

/-- The destinations that a trailer's waited counters cover are uncovered no more. -/
def Thread.waitedOn (t : Thread) (mask : Nat) (dc : Nat) : Bool := (List.range 8).any fun n => bitAt mask n && t.counter n == dc
/-- A thread Held at a trailer whose conditions are met, with no counter error and no return to make, goes to its next run head (R30, R413). -/
theorem releaseHeld_toHead {t : Thread} {w : TrailWait} (hthr : s.thr k = t) (hst : t.status = .held .trailer) (hw : t.twait = some w)
    (hm : t.trailerMet w = true) (hgood : t.dcErr = []) (hback : t.back = none) :
    releaseHeld k s = (.ok (), (s.modThr k fun x => { x with varDest := x.varDest.filter fun v => !t.waitedOn w.mask v.dc }).toHead k w.next) := by
  subst hthr
  simp only [releaseHeld, M.run_bind, M.run_get, hst, hw, hm, hgood, hback, if_true, M.run_modT, List.find?_nil]
  rfl
/-- The constant zero publishes nothing. -/
theorem pubRange_opZero (k : Nat) (s : State) : pubRange k opZero s = (.ok [], s) := rfl
/-- A thread that waits at its trailer. -/
def Thread.atTrailer (t : Thread) (w : TrailWait) (yld : Bool) : Thread :=
  { t with status := .held .trailer, twait := some w, yieldBit := yld, pc := w.next, nextHead := none, pend := t.pend.map fun p => { p with pub := p.pub || p.within w.pubs } }
/-- A thread that no stall holds at a trailer of its run stands at its next run head. -/
theorem trailMember_toHead {t : Thread} {f : FmtT} {w : TrailWait} (ht : s.AtTrailer gid g k t f) (hback : t.back = none)
    (hw : w = { mask := f.wait.toNat, pubs := [], next := t.nextHead.getD (g.pc + 8) }) :
    trailMember g f k s = (.ok (), ((s.setThr k (t.atTrailer w f.yld)).modThr k fun x => { x with varDest := x.varDest.filter fun v => !t.waitedOn w.mask v.dc }).toHead k w.next) := by
  have hbad : ¬ (g.fromHead && g.count == 0 || g.fromHead && f.len.toNat != g.count) = true := by simp [ht.begun, ht.fits]
  have hpub0 : pubRange k f.pub0 s = (.ok [], s) := ht.silent.1 ▸ pubRange_opZero k s
  have hpub1 : pubRange k f.pub1 s = (.ok [], s) := ht.silent.2 ▸ pubRange_opZero k s
  have hmet : (t.atTrailer w f.yld).trailerMet w = true := by
    simp only [Thread.trailerMet, Thread.atTrailer, ht.written, List.map_nil, List.all_nil, Bool.and_true, List.all_eq_true, List.mem_range]
    intro n hn
    cases hbit : bitAt w.mask n with
    | false => rfl
    | true =>
      have hzero : t.dcount (t.counter n) = 0 := ht.zero n hn (by simpa [hw] using hbit)
      exact beq_iff_eq.mpr hzero
  have hthr : (s.setThr k (t.atTrailer w f.yld)).thr k = t.atTrailer w f.yld := by simp [State.thr_setThr]
  have hrel := releaseHeld_toHead hthr rfl rfl hmet ht.good hback
  subst hw
  refine M.ite_step_neg hbad <| M.bind_step hpub0 <| M.bind_step hpub1 <| M.bind_step (M.run_getT k s) ?_
  rw [State.thr_of_some ht.thread]
  refine M.ite_step_neg (by simp [ht.alive]) <| M.bind_step (M.run_modT ..) ?_
  rw [State.modThr_of_some _ ht.thread]
  exact hrel
/-- A gang whose one member passes its trailer goes on from there. -/
theorem execTrail_of_member {t : Thread} {f : FmtT} (ht : s.AtTrailer gid g k t f) (hm : trailMember g f k s = (.ok (), s1)) :
    exec (.trail f) s = .next (advance gid g [] 1 1 s1) := by
  have hpart : runPart k (trailMember g f k) s = (.ok (), s1) := by rw [runPart, hm]
  rw [exec_trail, execTrail]
  simp only [ht.cur, ht.gang, ht.members, ht.done, List.contains_nil, Bool.not_false, List.filter_true, List.any_cons, List.any_nil, ht.serial, Bool.or_false,
    Bool.false_eq_true, if_false, List.foldl_cons, List.foldl_nil, Run.act, hpart, List.filter_nil, List.map_nil, M.forM'_nil, afterWord, ht.issues, Bool.false_and]
/-- A gang whose one member has left its run is over. -/
theorem advance_of_left (hm : g.members = [k]) (hs : (s.thr k).status ≠ .gathered) (stay : List Nat) (words delay : Nat) :
    advance gid g stay words delay s = { s with cur := none, gangs := tdel s.gangs gid } := by
  simp [advance, hm, hs]
/-- At a run head behind no closed gate, and with no pre-emption of its team, a thread is Ready. -/
theorem State.headStatus_ready (hp : (s.team (s.thr k).team).preempt = none) (hg : s.gateClosed (s.launchOf k).tenant = false) : s.headStatus k = .ready := by
  simp [State.headStatus, hp, hg]

end Sys2Proof.Machine

open Sys2Proof Sys2Proof.Machine

/-- Settles O12: each word's checks pass as the statement says, and its effect is then the one named. -/
theorem controlWords : Obligations.ControlWords := by
  refine ⟨fun f s gid g k s1 => bra_next, fun f s gid g k s1 s2 vs x => brx_next, ?_, ?_, ?_, ?_, ?_⟩
  · intro f s gid g k t s0 s1 s2 s3 s4 s5 p q ht hthr hb hal hsp hh hc hp hq hwp hwq
    subst hthr
    exact (exec_call f s).trans <| ht.runWord_fixed (m := branchMeta) rfl rfl rfl <| M.bind_step ht.curPc <| M.bind_step (M.run_getT k s) <| M.bind_step hh <|
      M.ite_step_neg (Nat.not_le.mpr hb) <| M.ite_step_neg (not_not.mpr hal) <| M.ite_step_neg (Nat.not_lt.mpr hsp) <|
      M.bind_step hc <| M.bind_step hp <| M.bind_step hq <| M.bind_step hwp <| M.bind_step hwq <| M.run_modT ..
  · intro f s gid g k t s1 s2 s3 a b ht hthr hal hne ha hb htgt hc
    subst hthr
    exact (exec_ret f s).trans <| ht.runWord_fixed (m := branchMeta) rfl rfl rfl <| M.bind_step (M.run_getT k s) <|
      M.ite_step_neg (not_not.mpr hal) <| M.ite_step_neg hne <| M.bind_step ha <| M.bind_step hb <| M.bind_step (goto'_of_check htgt hc) <| M.run_modT ..
  · intro f s gid g k ht
    exact (exec_exit f s).trans <| ht.runWord_fixed (m := branchMeta) rfl rfl rfl <| M.run_modify ..
  · intro f s gid g k ht h0 hal
    have hin : ¬ (decide (((s.thr k).wbase : Int) + 64 * toS 30 f.imm.toNat < 0) || decide (((s.thr k).alloc : Int) ≤ ((s.thr k).wbase : Int) + 64 * toS 30 f.imm.toNat)) = true := by
      simp [h0, hal]
    exact (exec_winb f s).trans <| ht.runWord_fixed (m := {}) rfl rfl rfl <| M.bind_step (M.run_getT k s) <| M.ite_step_neg hin <| M.run_modT ..
  · intro f s gid g k ht
    exact (exec_nop f s).trans <| ht.runWord_fixed (m := {}) rfl rfl rfl <| M.run_pure ..

/-- Settles O13: the statuses are decided in the order 3, 2, 1, 0 once the record is read and the earlier accesses are performed. -/
theorem taskAndYield : Obligations.TaskAndYield := by
  refine ⟨?_, ?_⟩
  · intro f s gid g k s1 s2 vs dst b ht hroom hops hal hb hw
    have hrun : ∀ s3 : State, (do
        let s ← get
        if !((s.team (s.thr k).team).groups.any (·.task)) then later k f.hdr dst 3
        else if !((s.launchOf k).entries.contains (wd (src vs 0).zx)) then later k f.hdr dst 2
        else if taskDepth ≤ (s.team (s.thr k).team).taskQ.length then later k f.hdr dst 1
        else
          modTm (s.thr k).team fun t => { t with taskQ := t.taskQ ++ [{ entry := wd (src vs 0).zx, args := b }] }
          later k f.hdr dst 0 : M Unit) s2 = (.ok (), s3) → exec (.task f) s = .next (movedNext gid g 1 s3) := fun s3 hr =>
      (exec_task f s).trans <| ht.runWord_var (m := { var := true }) hroom rfl rfl rfl <| roomFor_bind hroom <| (M.bind_ok hops).trans <|
        (M.bind_ok (checkAlign_of_dvd hal s1)).trans <| (M.bind_ok hb).trans <| (M.bind_ok (order_of_free hw)).trans hr
    refine ⟨fun s3 h3 hl => hrun s3 ?_, fun s3 h3 h2 hl => hrun s3 ?_, fun s3 h3 h2 h1 hl => hrun s3 ?_, fun s3 h3 h2 h1 hl => hrun s3 ?_⟩
    · exact M.get_step <| M.ite_step_pos (by rw [h3]; rfl) hl
    · exact M.get_step <| M.ite_step_neg (by rw [h3]; decide) <| M.ite_step_pos (by rw [h2]; rfl) hl
    · exact M.get_step <| M.ite_step_neg (by rw [h3]; decide) <| M.ite_step_neg (by rw [h2]; decide) <| M.ite_step_pos h1 hl
    · exact M.get_step <| M.ite_step_neg (by rw [h3]; decide) <| M.ite_step_neg (by rw [h2]; decide) <| M.ite_step_neg (Nat.not_le.mpr h1) <|
        M.bind_step (M.run_modTm ..) hl
  · intro f s gid g k mates ht hm
    subst hm
    exact (exec_yield f s).trans <| ht.runWord_fixed (m := {}) rfl rfl rfl <| M.get_step <| M.run_modT ..

/-- Settles O14: the trailer's one member passes its conditions at once, stands at its next run head, and leaves its gang empty. -/
theorem trailerReady : Obligations.TrailerReady := by
  intro f s gid g k t ht hback hp hgate
  obtain ⟨w, hw⟩ : ∃ w : TrailWait, w = { mask := f.wait.toNat, pubs := [], next := t.nextHead.getD (g.pc + 8) } := ⟨_, rfl⟩
  let s1 : State := (s.setThr k (t.atTrailer w f.yld)).modThr k fun x => { x with varDest := x.varDest.filter fun v => !t.waitedOn w.mask v.dc }
  have hthr : tget (s1.modThr k fun x => { x with pend := x.pend.filter fun p => p.pub }).threads k
      = some { t.atTrailer w f.yld with varDest := t.varDest.filter fun v => !t.waitedOn w.mask v.dc, pend := (t.atTrailer w f.yld).pend.filter fun p => p.pub } := by
    simp [s1, State.modThr, tmod, tget_tset]
    rfl
  have hhead : (s1.modThr k fun x => { x with pend := x.pend.filter fun p => p.pub }).headStatus k = .ready := by
    refine State.headStatus_ready ?_ ?_
    · rw [State.thr_of_some hthr]
      exact hp
    · rw [State.launchOf, State.thr_of_some hthr]
      rw [State.launchOf, State.thr_of_some ht.thread] at hgate
      exact hgate
  have hto : (s1.toHead k w.next).thr k = _ := (State.thr_setThr _ k k _).trans (if_pos rfl)
  have hnext : exec (.trail f) s = .next { s1.toHead k w.next with cur := none, gangs := tdel s.gangs gid } := by
    rw [execTrail_of_member ht (trailMember_toHead ht hback hw), advance_of_left ht.members]
    · rfl
    · rw [hto, hhead]
      exact ThreadStatus.noConfusion
  refine ⟨_, hnext, ?_, ?_, ?_, ?_, ?_, (tget_tdel gid gid ht.sorted).trans (if_pos rfl), rfl, rfl, rfl⟩
  · exact (congrArg Thread.status hto).trans hhead
  · exact (congrArg Thread.pc hto).trans (by rw [hw])
  · refine (congrArg Thread.temps hto).trans ?_
    rw [State.thr_of_some hthr]
    rfl
  · exact congrArg Thread.stamp hto
  · refine (congrArg Thread.yieldBit hto).trans ?_
    rw [State.thr_of_some hthr]
    rfl
end

section
/-! PROOFS. Loads and stores, sequentially consistent accesses, spill, fill and streams: O15 to O17. -/
namespace Sys2Proof.Machine

variable {s s1 s2 s3 : State} {k gid : Nat} {g : Gang} {h : Hdr}

/-- A part that is not held goes on from the state it leaves, whatever else stopped it. -/
theorem orElse_of_not_hold {α : Type} {m : M α} (hm : (m s).1 ≠ .error .hold) :
    orElse m (fun e => if e == .hold then holdM else pure ()) (fun _ => pure ()) s = (.ok (), (m s).2) := by
  rcases hs : m s with ⟨r | a, t⟩
  · have hr : (r == Stop.hold) = false := by
      rw [hs] at hm
      simpa using hm
    simp [orElse, hs, hr]
  · simp [orElse, hs]
theorem scopeCode_eq_scCode (sco : Scope) : scopeCode sco = scCode sco := by cases sco <;> rfl
theorem loadWord_of_loadAt {i : Instr} {f : FmtA} {o : Order} {addr : SVal → SVal → Nat}
    (he : ∀ s, exec i s = runWord varMeta f.hdr (fun k => loadAt k f o addr) s) : LoadWord i f o addr := by
  intro s gid g k s1 s2 s3 vs dst b ht hroom hops hal hload hlater
  exact (he s).trans <| ht.runWord_var (m := varMeta) hroom rfl rfl rfl <| roomFor_bind hroom <| M.bind_step hops <|
    M.bind_step (checkAlign_of_dvd hal s1) <| M.bind_step hload hlater
theorem storeWord_of_storeAt {i : Instr} {f : FmtA} {o : Order}
    (he : ∀ s, exec i s = runWord varMeta f.hdr (fun k => storeAt k f o) s) : StoreWord i f o := by
  intro s gid g k s1 s2 s3 vs x ht hroom hops hal hstore hlater
  exact (he s).trans <| ht.runWord_var (m := varMeta) hroom rfl rfl rfl <| roomFor_bind hroom <| M.bind_step hops <|
    M.bind_step (checkAlign_of_dvd hal s1) <| M.bind_step hstore hlater

/-- An SC load whose checks pass goes to the home of its address. -/
theorem ldSc_next {f : FmtA} {t2 : State} {vs : List SVal} {dst : Dest} {p : Place} (ht : s.Turn gid g k f.hdr anyRole) (hroom : s.Room k f.hdr)
    (hops : operands k (plainOps [f.a, f.b]) (some (f.d, none)) s = (.ok (vs, dst), s1)) (hal : addrAB (src vs 0) (src vs 1) % (fieldBits f.d / 8) = 0)
    (hp : locate k (addrAB (src vs 0) (src vs 1)) (fieldBits f.d / 8) 1 s1 = (.ok p, s2)) (hw : s2.mustWait k false true = false)
    (hspad : ∀ off, p = .spad off → s2.orphanBytes (s2.thr k).team off (fieldBits f.d / 8) = false)
    (hdev : ∀ pa, p = .dev pa → raceCheck k (addrAB (src vs 0) (src vs 1)) pa true false 2 s2 = (.ok (), t2)) (hno : (∀ pa, p ≠ .dev pa) → t2 = s2)
    (hh : holdSc k f.hdr dst (addrAB (src vs 0) (src vs 1)) (fieldBits f.d / 8) p .load 0 0 0 t2 = (.ok (), s3)) :
    exec (.ldSc f) s = .next (movedNext gid g 1 s3) := by
  refine (exec_ldSc f s).trans <| ht.runWord_var (m := varMeta) hroom rfl rfl rfl <| roomFor_bind hroom <| M.bind_step hops <|
    M.bind_step (checkAlign_of_dvd hal s1) <| M.bind_step hp <| M.bind_step (order_of_free hw) <| M.get_step ?_
  cases p with
  | spad off =>
    obtain rfl := hno (fun _ => nofun)
    exact M.ite_step_neg (Bool.eq_false_iff.mp (hspad off rfl)) <| M.bind_step (M.run_pure ..) hh
  | dev pa => exact M.bind_step (hdev pa rfl) hh
  | hostm pa =>
    obtain rfl := hno (fun _ => nofun)
    exact M.bind_step (M.run_pure ..) hh
theorem order_ok {rel sc : Bool} (ho : order k rel sc s = (.ok (), s1)) : s1 = s := by
  obtain ⟨_, t0, hget, ho⟩ := M.bind_eq_ok.mp ho
  cases hget
  rcases ite_eq_iff.mp ((M.run_ite ..).symm.trans ho) with ⟨-, ho⟩ | ⟨-, ho⟩ <;> cases ho
  rfl
theorem takeSerial_eq (c : Nat) (s : State) :
    takeSerial c s = (.ok (low 50 ((s.core c).clock + 1)), s.modCore c fun x => { x with clock := low 50 ((s.core c).clock + 2) }) := rfl
theorem State.core_modCore_same (s : State) (c : Nat) (f : Core → Core) : (s.modCore c f).core c = f (s.core c) := by
  simp [State.core, State.modCore, tget_tset]
/-- An SC access that is handed to its home takes the next serial of its core's clock as its stamp. -/
theorem holdSc_ok {dst : Dest} {va n b d x : Nat} {p : Place} {op : AtomOp} (hh : holdSc k h dst va n p op b d x s = (.ok (), s1)) :
    (s1.core (keyCore k)).clock = low 50 ((s.core (keyCore k)).clock + 2)
      ∧ ∃ a, s1.scHeld = s.scHeld ++ [a] ∧ a.clk = low 50 ((s.core (keyCore k)).clock + 1) ∧ a.core = keyCore k ∧ a.th = k ∧ a.op = op ∧ a.n = n := by
  rcases ite_eq_iff.mp ((M.run_ite ..).symm.trans hh) with ⟨-, hheld⟩ | ⟨-, hgo⟩
  · cases hheld
  obtain ⟨_, t1, hord, hser⟩ := M.bind_eq_ok.mp hgo
  obtain ⟨stamp, t2, hst, hids⟩ := M.bind_eq_ok.mp hser
  obtain ⟨id, t3, hid, hiss⟩ := M.bind_eq_ok.mp hids
  obtain ⟨oid, t4, hiv, hput⟩ := M.bind_eq_ok.mp hiss
  cases order_ok hord
  cases (takeSerial_eq _ _).symm.trans hst
  cases (M.run_newId _).symm.trans hid
  obtain ⟨-, rfl⟩ := issueVar_ok hiv
  cases hput
  refine ⟨?_, _, rfl, rfl, rfl, rfl, rfl, rfl⟩
  exact congrArg Core.clock (State.core_modCore_same s (keyCore k) fun x => { x with clock := low 50 ((s.core (keyCore k)).clock + 2) })

end Sys2Proof.Machine

open Sys2Proof Sys2Proof.Machine

/-- Settles O15: loadAt and storeAt read the operands, check the alignment, access, and give the result. -/
theorem loadsAndStores : Obligations.LoadsAndStores :=
  ⟨fun _ => loadWord_of_loadAt fun _ => rfl, fun _ => loadWord_of_loadAt fun _ => rfl,
    fun sco _ => scopeCode_eq_scCode sco ▸ loadWord_of_loadAt fun _ => rfl, fun _ => storeWord_of_storeAt fun _ => rfl,
    fun sco _ => scopeCode_eq_scCode sco ▸ storeWord_of_storeAt fun _ => rfl⟩

/-- Settles O16: the checks pass and the access is held at its home, with the stamp that holdSc takes. -/
theorem scWords : Obligations.ScWords := by
  refine ⟨fun f s gid g k s1 s2 t2 s3 vs dst p => ldSc_next, ?_, fun k h dst va n p op b d x s s' => holdSc_ok⟩
  intro f s gid g k s1 t1 s2 s3 vs x p0 p ht hroom hops hal hp0 hw hp hh
  exact (exec_stSc f s).trans <| ht.runWord_var (m := varMeta) hroom rfl rfl rfl <| roomFor_bind hroom <| M.bind_step hops <|
    M.bind_step (checkAlign_of_dvd hal s1) <| M.bind_step hp0 <| M.bind_step (order_of_free hw) <| M.bind_step hp hh

/-- Settles O17: spill and fill go through their range, their reads and their pieces; pf swallows every trap; sbind replaces one port. -/
theorem spillFillStream : Obligations.SpillFillStream := by
  refine ⟨?_, ?_, ?_, ?_, ?_, ?_, ?_⟩
  · intro f s gid g k s1 s2 first c a v ht hroom hops hv
    refine ⟨fun hc hl => ?_, fun t4 t5 hc hf hl => ?_⟩
    · exact (exec_spill f s).trans <| ht.runWord_var (m := varMeta) hroom rfl rfl rfl <| roomFor_bind hroom <| M.bind_step hops <| M.bind_step hv <| M.ite_step_pos hc hl
    · exact (exec_spill f s).trans <| ht.runWord_var (m := varMeta) hroom rfl rfl rfl <| roomFor_bind hroom <| M.bind_step hops <| M.bind_step hv <| M.ite_step_neg hc <|
        M.bind_step hf hl
  · intro k r n c s hbad
    refine M.bind_step (M.run_getT k s) <| M.ite_step_pos ?_ (M.run_trapC ..)
    simpa using hbad
  · intro k r n c s hc hr
    refine M.bind_step (M.run_getT k s) <| M.ite_step_neg ?_ (M.run_pure ..)
    simp [hc, hr]
  · intro k a e va b s s1 s2 s3 p lo hi hp hlo hhi
    exact M.bind_step hp <| M.bind_step hlo <| M.bind_step hhi rfl
  · intro f s gid g k s1 s2 s3 first c a b ht hroom hops hcov hload hl
    exact (exec_fill f s).trans <| ht.runWord_var (m := varMeta) hroom rfl rfl rfl <| roomFor_bind hroom <| M.bind_step hops <| M.bind_step hcov <| M.bind_step hload hl
  · intro f s gid g k s1 s2 vs x ht hroom hops hhold hl
    refine (exec_pf f s).trans <| ht.runWord_var (m := varMeta) hroom rfl rfl rfl <| roomFor_bind hroom <| M.bind_step hops <| M.bind_step (orElse_of_not_hold hhold) hl
  · intro f s gid g k s1 s2 vs x c w port ht hroom hd hops hal hdesc hdesc' hon hport hl
    cases f
    cases hd
    refine (exec_sbind _ s).trans <| ht.runWord_var (m := varMeta) hroom rfl rfl rfl <| roomFor_bind hroom <| M.bind_step hops <|
      M.bind_step (checkAlign_of_dvd hal s1) <| M.ite_step_neg ?_ <| M.bind_step (M.run_getT k s1) <| M.ite_step_neg ?_ <| M.bind_step (M.run_modT ..) ?_
    · simp [hdesc, hdesc']
    · exact Bool.eq_false_iff.mp hon
    · subst hport
      exact hl
end

section
/-! PROOFS. The memory: what is read after a write, and the canonical form: O44. -/
namespace Sys2Proof.Machine

/-- Bytes written from an address up, and every other byte as it was. -/
theorem memGet_memPutN {m : List Host.Cell} (a : Nat) (b : Bytes) (x : Nat) (hm : Memory.wf m = true) :
    memGet (memPutN m a b) x = if a ≤ x ∧ x < a + b.length then b.getD (x - a) 0 else memGet m x := by
  induction b generalizing m a with
  | nil => simp [memPutN]
  | cons y r ih =>
    rw [memPutN, ih (a + 1) (memPut_wf a y hm), memGet_memPut a x y hm]
    rcases lt_trichotomy x a with hlt | rfl | hgt
    · simp [show ¬ a + 1 ≤ x by omega, show ¬ a ≤ x by omega, hlt.ne]
    · simp
    · have hx : x - a = (x - (a + 1)) + 1 := by omega
      simp only [hgt.ne', if_false, List.length_cons, hx, List.getD_cons_succ]
      congr 1
      simp only [eq_iff_iff]
      omega
theorem memGet_memPutN_of_out {m : List Host.Cell} {a x : Nat} {b : Bytes} (hm : Memory.wf m = true) (hx : x < a ∨ a + b.length ≤ x) :
    memGet (memPutN m a b) x = memGet m x := by
  rw [memGet_memPutN a b x hm, if_neg (by omega)]
theorem memGetN_eq_map (m : List Host.Cell) (a n : Nat) : memGetN m a n = (List.range n).map fun i => memGet m (a + i) := by
  induction n generalizing a with
  | zero => rfl
  | succ n ih =>
    rw [memGetN, ih, List.range_succ_eq_map, List.map_cons, List.map_map]
    exact congrArg _ (List.map_congr_left fun i _ => by simp [Nat.add_comm, Nat.add_left_comm])
theorem length_memGetN (m : List Host.Cell) (a n : Nat) : (memGetN m a n).length = n := by simp [memGetN_eq_map]
theorem memGetN_memPutN_same {m : List Host.Cell} (a : Nat) (b : Bytes) (hm : Memory.wf m = true) : memGetN (memPutN m a b) a b.length = b := by
  refine List.ext_getElem (length_memGetN ..) fun i _ hi => ?_
  simp [memGetN_eq_map, memGet_memPutN a b _ hm, hi]

/-- A table with a default in canonical form lists no key below its first. -/
theorem dget_of_lt {α : Type} [DecidableEq α] {d : α} {t : Tbl α} {lo k : Nat} (hs : tsorted lo t = true) (hk : k < lo) : dget d t k = d := by
  rw [dget, tget_none_of_sorted hs hk]
  rfl
theorem dget_cons {α : Type} {d v : α} {k : Nat} {r : Tbl α} (hs : tsorted (k + 1) r = true) (x : Nat) : dget d ((k, v) :: r) x = if x = k then v else dget d r x := by
  rcases lt_trichotomy x k with hlt | rfl | hgt
  · simp [dget, tget, hlt, hlt.ne, tget_none_of_sorted hs (Nat.lt_succ_of_lt hlt)]
  · simp [dget, tget]
  · simp [dget, tget, hgt.ne', Nat.not_lt.mpr hgt.le]
/-- Two tables in canonical form that read alike are the same table. -/
theorem eq_of_dget_eq {α : Type} [DecidableEq α] {d : α} {t t' : Tbl α} {lo lo' : Nat} (hs : tsorted lo t = true) (hs' : tsorted lo' t' = true)
    (hd : t.all (fun e => !decide (e.2 = d)) = true) (hd' : t'.all (fun e => !decide (e.2 = d)) = true) (h : ∀ k, dget d t k = dget d t' k) : t = t' := by
  induction t generalizing t' lo lo' with
  | nil =>
    cases t' with
    | nil => rfl
    | cons e' r' =>
      simp only [tsorted, List.all_cons, Bool.and_eq_true, Bool.not_eq_true', decide_eq_false_iff_not] at hs' hd'
      have := h e'.1
      rw [dget_cons hs'.2, if_pos rfl] at this
      exact absurd this.symm hd'.1
  | cons e r ih =>
    simp only [tsorted, List.all_cons, Bool.and_eq_true, Bool.not_eq_true', decide_eq_false_iff_not] at hs hd
    cases t' with
    | nil =>
      have := h e.1
      rw [dget_cons hs.2, if_pos rfl] at this
      exact absurd this hd.1
    | cons e' r' =>
      simp only [tsorted, List.all_cons, Bool.and_eq_true, Bool.not_eq_true', decide_eq_false_iff_not] at hs' hd'
      have hcons (x : Nat) := (dget_cons hs.2 x).symm.trans ((h x).trans (dget_cons hs'.2 x))
      have hkey : e.1 = e'.1 := by
        rcases lt_trichotomy e.1 e'.1 with hlt | heq | hgt
        · have := hcons e.1
          rw [if_pos rfl, if_neg hlt.ne, dget_of_lt hs'.2 (Nat.lt_succ_of_lt hlt)] at this
          exact absurd this hd.1
        · exact heq
        · have := hcons e'.1
          rw [if_pos rfl, if_neg hgt.ne, dget_of_lt hs.2 (Nat.lt_succ_of_lt hgt)] at this
          exact absurd this.symm hd'.1
      have hval : e.2 = e'.2 := by simpa [hkey] using hcons e.1
      have hrest : r = r' := by
        refine ih hs.2 hs'.2 hd.2 hd'.2 fun x => ?_
        by_cases hx : x = e.1
        · rw [hx, dget_of_lt hs.2 (Nat.lt_succ_self _), dget_of_lt hs'.2 (hkey ▸ Nat.lt_succ_self _)]
        · simpa [hx, hkey ▸ hx] using hcons x
      rw [hrest, Prod.ext hkey hval]

end Sys2Proof.Machine

open Sys2Proof Sys2Proof.Machine

/-- Settles O44, by induction on the bytes written, and on the tables in step. -/
theorem memoryReadWrite : Obligations.MemoryReadWrite := by
  refine ⟨fun m a b x => memGet_memPutN a b x, fun m a b hm => ⟨memPutN_wf a b hm, memGetN_memPutN_same a b hm⟩, fun m m' hm hm' h => ?_⟩
  simp only [Memory.wf, dwf, Bool.and_eq_true] at hm hm'
  exact eq_of_dget_eq hm.1 hm'.1 hm.2 hm'.2 h
end

section
/-! PROOFS. Words that read operands and then act, and atomics: O18. -/
namespace Sys2Proof.Machine

variable {s s1 s2 s3 : State} {k gid : Nat} {g : Gang} {h : Hdr} {m : Meta}

/-- A variable-latency word that reads its operands and then acts. -/
theorem runWord_ops {β : Type} {ops : Nat → M β} {rest : Nat → β → M Unit} {r : β} (ht : s.Turn gid g k h m.roles) (hroom : s.Room k h)
    (hv : m.var = true) (hp : m.priv = false) (hc : m.car = false) (hops : ops k s = (.ok r, s1)) (hrest : rest k r s1 = (.ok (), s2)) :
    runWord m h (fun k => do
      roomFor k h
      let r ← ops k
      rest k r) s = .next (movedNext gid g m.words s2) :=
  ht.runWord_var hroom hv hp hc <| roomFor_bind hroom <| M.bind_step hops hrest
/-- A word that answers its value at once has the shape of a status word. -/
theorem statusWord_of {i : Instr} {roles : Role → Bool} {srcs : List (Operand × Option Nat)} {d : Operand × Option Nat} {v : State → Nat → List SVal → Option Nat}
    {body : Nat → List SVal × Dest → M Unit} (hv : m.var = true) (hp : m.priv = false) (hc : m.car = false) (hw : m.words = 1) (hr : m.roles = roles)
    (he : ∀ s, exec i s = runWord m h (fun k => do
      roomFor k h
      let r ← operands k srcs (some d)
      body k r) s)
    (hbody : ∀ k vs dst s r, v s k vs = some r → body k (vs, dst) s = later k h dst r s) : StatusWord i h roles srcs d v := by
  intro s gid g k s1 s2 vs dst r ht hroom hops hval hl
  subst hr
  rw [he, runWord_ops ht hroom hv hp hc hops ((hbody k vs dst s1 r hval).trans hl), hw]
/-- A word that waits has the shape of a wait word. -/
theorem waitWord_of {i : Instr} {roles : Role → Bool} {srcs : List (Operand × Option Nat)} {d : Operand × Option Nat} {v : State → Nat → List SVal → Option (Nat × Wait)}
    {body : Nat → List SVal × Dest → M Unit} (hv : m.var = true) (hp : m.priv = false) (hc : m.car = false) (hw : m.words = 1) (hr : m.roles = roles)
    (he : ∀ s, exec i s = runWord m h (fun k => do
      roomFor k h
      let r ← operands k srcs (some d)
      body k r) s)
    (hbody : ∀ k vs dst s r w, v s k vs = some (r, w) → body k (vs, dst) s = laterWait k h dst r w s) : WaitWord i h roles srcs d v := by
  intro s gid g k s1 s2 vs dst r w ht hroom hops hval hl
  subst hr
  rw [he, runWord_ops ht hroom hv hp hc hops ((hbody k vs dst s1 r w hval).trans hl), hw]

/-! ### Atomics -/

/-- A word that hands its operands to an atomic has the shape of an atomic word. -/
theorem atomWord_of_atomAt {i : Instr} {srcs : List (Operand × Option Nat)} {d : Option (Operand × Option Nat)} {rw' : Bool} {n acc ord : Nat} {op : AtomOp}
    {b c : List SVal → Nat} {returns : Bool}
    (he : ∀ s, exec i s = runWord { var := true } h (fun k => do
      roomFor k h
      let r ← operandsX k srcs d rw' (fun _ => pure ())
      atomAt k h (if returns then r.2 else .nowhere) (src r.1 0).zx n acc ord op (b r.1) (c r.1)) s) :
    AtomicWord i h srcs d rw' n acc ord op b c returns := by
  intro s gid g k s1 s2 s3 vs dst ht hroom hops
  have hrun (hat : atomAt k h (if returns then dst else .nowhere) (src vs 0).zx n acc ord op (b vs) (c vs) s1 = (.ok (), s3)) : exec i s = .next (movedNext gid g 1 s3) :=
    (he s).trans <| runWord_ops (m := { var := true }) ht hroom rfl rfl rfl hops hat
  refine ⟨fun pa hp hfull hord v s2' s3' oid hchk hdev hiss => hrun ?_, fun off hp hord v s2' s3' oid hchk hpad hiss => hrun ?_, fun p t2 hp hfull hchk hord hsc => hrun ?_⟩
  · exact M.bind_step hp <| M.get_step <| M.ite_step_neg (Bool.eq_false_iff.mp hfull) <| M.bind_step hchk <| M.ite_step_neg hord <|
      M.bind_step hdev <| M.bind_step hiss <| M.run_pure ..
  · exact M.bind_step hp <| M.get_step <| M.bind_step hchk <| M.ite_step_neg hord <|
      M.bind_step hpad <| M.bind_step hiss <| M.run_pure ..
  · refine M.bind_step hp <| M.get_step ?_
    cases p with
    | dev pa => exact M.ite_step_neg (Bool.eq_false_iff.mp (hfull pa rfl)) <| M.bind_step hchk <| M.ite_step_pos hord hsc
    | spad off => exact M.bind_step hchk <| M.ite_step_pos hord hsc
    | hostm pa => exact M.bind_step hchk <| M.ite_step_pos hord hsc
theorem atomicWord_of_atmWord {i : Instr} {f : FmtA} {op : AtomOp} {rd : Bool} (he : ∀ s, exec i s = atmWord op rd f s) :
    AtomicWord i f.hdr [addrOp f.a, plainOp f.b] (some (plainOp f.d)) rd (fieldBits f.d / 8) 3 (fieldCode f.a) op
      (fun vs => atomSrc op (fieldBits f.d) (src vs 1)) (fun vs => (src vs 2).zx) true := atomWord_of_atomAt he
theorem atomicWord_of_redWord {i : Instr} {f : FmtA} {op : AtomOp} {n : Nat} (hn : n = if isImm f.b then fieldBits f.d else fieldBits f.b)
    (he : ∀ s, exec i s = redWord op f s) :
    AtomicWord i f.hdr [addrOp f.a, plainOp f.b] none false (n / 8) 2 (fieldCode f.a) op (fun vs => atomSrc op n (src vs 1)) (fun _ => 0) false := by
  subst hn
  exact atomWord_of_atomAt he

/-! ### The scratchpad under an atomic -/

theorem length_leBytes (n x : Nat) : (leBytes n x).length = n := by
  induction n generalizing x with
  | zero => rfl
  | succ n ih => simp [leBytes, ih]
theorem State.padRecords_eq (s : State) (i off n tag w : Nat) (kind : RecKind) : ∃ r, s.padRecords i off n tag w kind = { s with records := r } := by
  rw [State.padRecords]
  generalize s.mappedLines i off n = l
  induction l generalizing s with
  | nil => exact ⟨s.records, rfl⟩
  | cons a l ih =>
    obtain ⟨r, hr⟩ := ih (s.recordWrite a tag w kind)
    exact ⟨r, hr⟩
theorem State.team_modTeam_same {i : Nat} (f : Team → Team) (hi : (tget s.teams i).isSome = true) : (s.modTeam i f).team i = f (s.team i) := by
  obtain ⟨t, ht⟩ := Option.isSome_iff_exists.mp hi
  simp [State.team, State.modTeam, tget_tmod_same f ht, ht]
theorem State.team_modTeam_other {i j : Nat} (f : Team → Team) (hj : j ≠ i) : (s.modTeam i f).team j = s.team j := by
  simp [State.team, State.modTeam, tget_tmod_other s.teams f hj]
/-- The operation on a scratchpad word leaves the state alone but for its bytes and the records. -/
theorem atomPad_run (k i off n : Nat) (op : AtomOp) (b d : Nat) (s : State) : ∃ r, atomPad k i off n op b d none none s
    = (.ok (atomRet op (ofLe (s.spadGet i off n)) b),
        match atomNew op (8 * n) (ofLe (s.spadGet i off n)) b d with | none => s | some x => { s.spadPut i off (leBytes n x) with records := r }) := by
  rcases hnew : atomNew op (8 * n) (ofLe (s.spadGet i off n)) b d with _ | x
  · exact ⟨[], by simp [atomPad, M.run_bind, hnew]⟩
  · obtain ⟨r, hr⟩ := (s.spadPut i off (leBytes n x)).padRecords_eq i off n (s.tagOf i) (s.core (keyCore k)).clock (.sync false 0)
    have hrun : atomPad k i off n op b d none none s = (.ok (atomRet op (ofLe (s.spadGet i off n)) b),
        (s.spadPut i off (leBytes n x)).padRecords i off n (s.tagOf i) (s.core (keyCore k)).clock (.sync false 0)) := by
      simp only [atomPad, M.run_bind, M.run_view, M.run_get, hnew]
      rfl
    exact ⟨r, hrun.trans (congrArg (Prod.mk _) hr)⟩

end Sys2Proof.Machine

open Sys2Proof Sys2Proof.Machine

/-- Settles O18: all words go through atomAt, and the last clause through what one operation leaves of the scratchpad. -/
theorem atomics : Obligations.Atomics := by
  refine ⟨?_, ?_, fun f => atomWord_of_atomAt fun _ => rfl, ?_, ?_, fun t f n hn => atomicWord_of_redWord hn fun _ => rfl, ?_⟩
  · intro f i op hi
    refine atomicWord_of_atmWord ?_
    simp only [List.mem_cons, Prod.mk.injEq, List.not_mem_nil, or_false] at hi
    rcases hi with ⟨rfl, rfl⟩ | ⟨rfl, rfl⟩ | ⟨rfl, rfl⟩ | ⟨rfl, rfl⟩ | ⟨rfl, rfl⟩ | ⟨rfl, rfl⟩ | ⟨rfl, rfl⟩ | ⟨rfl, rfl⟩ | ⟨rfl, rfl⟩ | ⟨rfl, rfl⟩ | ⟨rfl, rfl⟩ <;> exact fun _ => rfl
  · intro f i op hi
    refine atomicWord_of_atmWord ?_
    simp only [List.mem_cons, Prod.mk.injEq, List.not_mem_nil, or_false] at hi
    rcases hi with ⟨rfl, rfl⟩ | ⟨rfl, rfl⟩ <;> exact fun _ => rfl
  · intro t f i op hi
    refine atomicWord_of_atmWord ?_
    simp only [List.mem_cons, Prod.mk.injEq, List.not_mem_nil, or_false] at hi
    rcases hi with ⟨rfl, rfl⟩ | ⟨rfl, rfl⟩ | ⟨rfl, rfl⟩ <;> exact fun _ => rfl
  · intro f i op n hi hn
    refine atomicWord_of_redWord hn ?_
    simp only [List.mem_cons, Prod.mk.injEq, List.not_mem_nil, or_false] at hi
    rcases hi with ⟨rfl, rfl⟩ | ⟨rfl, rfl⟩ | ⟨rfl, rfl⟩ | ⟨rfl, rfl⟩ | ⟨rfl, rfl⟩ | ⟨rfl, rfl⟩ | ⟨rfl, rfl⟩ | ⟨rfl, rfl⟩ <;> exact fun _ => rfl
  · intro k i off n op b d s v s' _ hop hteam hwf hrun
    obtain ⟨r, hr⟩ := atomPad_run k i off n op b d s
    have hret : atomRet op (ofLe (s.spadGet i off n)) b = ofLe (s.spadGet i off n) := by
      cases op <;> first | rfl | simp at hop
    rw [hr, hret] at hrun
    rcases hnew : atomNew op (8 * n) (ofLe (s.spadGet i off n)) b d with _ | x
    · rw [hnew] at hrun
      cases hrun
      exact ⟨rfl, rfl, rfl, nofun, fun _ _ => rfl⟩
    · rw [hnew] at hrun
      cases hrun
      have hspad : ((s.spadPut i off (leBytes n x)).team i).spad = memPutN (s.team i).spad off (leBytes n x) := by
        rw [State.spadPut, State.team_modTeam_same _ hteam]
      refine ⟨rfl, rfl, rfl, fun y hy => ?_, fun a ha => ?_⟩
      · cases hy
        exact hspad
      · refine (congrArg (memGet · a) hspad).trans (memGet_memPutN_of_out hwf ?_)
        rwa [length_leBytes]
end

section
/-! PROOFS. Fences, barriers, mappings and windows: O20 to O22. -/
namespace Sys2Proof.Machine

variable {s s1 s2 s3 : State} {k gid : Nat} {g : Gang} {h : Hdr} {m : Meta}

theorem b2n_decide (c : Prop) [Decidable c] : b2n (decide c) = if c then 1 else 0 := by by_cases hc : c <;> simp [b2n, hc]
/-- A phase with nobody still to come completes at an arrival: it is emptied and counted on. -/
theorem State.barCheck_complete {i b : Nat} {x : Barrier} (hi : tget s.teams i ≠ none) (hx : x = dget Barrier.empty (s.team i).barriers b)
    (hwf : dwf Barrier.empty (s.team i).barriers = true) (ha : x.arrived ≠ []) (hn : s.barNeed i b = 0) :
    dget Barrier.empty ((s.barCheck i b).team i).barriers b = { phase := low 32 (x.phase + 1), mask := 0, arrived := [] } := by
  subst hx
  have hgo : ¬ ((dget Barrier.empty (s.team i).barriers b).arrived.isEmpty || decide (s.barNeed i b ≠ 0)) = true := by simp [ha, hn]
  rw [State.barCheck, if_neg hgo, State.team_modTeam_same _ (Option.isSome_iff_ne_none.mpr hi)]
  simp only [dget_dset b b _ hwf, if_true]
theorem State.barCheck_of_need {i b : Nat} (hn : s.barNeed i b ≠ 0) : s.barCheck i b = s := by simp [State.barCheck, hn]
/-- A later arrival with another mask is refused. -/
theorem arrive_otherMask {b m : Nat} {x : Barrier} (hx : x = dget Barrier.empty (s.team (s.thr k).team).barriers b) (ha : x.arrived ≠ [])
    (hm : s.barMask (s.thr k).team m ≠ x.mask) : arrive k b m s = (.ok (1, x.phase), s) := by
  subst hx
  have hopen : (if (dget Barrier.empty (s.team (s.thr k).team).barriers b).arrived.isEmpty then s.barMask (s.thr k).team m
      else (dget Barrier.empty (s.team (s.thr k).team).barriers b).mask) = (dget Barrier.empty (s.team (s.thr k).team).barriers b).mask := by simp [ha]
  refine M.get_step <| M.ite_step_pos ?_ (M.run_pure ..)
  rwa [hopen]
/-- A first arrival by a thread whose group is outside its own mask is refused. -/
theorem arrive_outside {b m : Nat} {x : Barrier} (hx : x = dget Barrier.empty (s.team (s.thr k).team).barriers b) (ha : x.arrived = [])
    (hg : bitAt (s.barMask (s.thr k).team m) (s.thr k).grp = false) : arrive k b m s = (.ok (2, x.phase), s) := by
  subst hx
  have hopen : (if (dget Barrier.empty (s.team (s.thr k).team).barriers b).arrived.isEmpty then s.barMask (s.thr k).team m
      else (dget Barrier.empty (s.team (s.thr k).team).barriers b).mask) = s.barMask (s.thr k).team m := by simp [ha]
  refine M.get_step <| M.ite_step_neg (not_not.mpr hopen.symm) <| M.ite_step_pos ?_ (M.run_pure ..)
  rw [hopen, hg]
  rfl
/-- What bar and barw do with their operand once it is read. -/
theorem barWord_next {i : Instr} {f : FmtA} {waits : Bool} {vs : List SVal} {dst : Dest} {st p : Nat} (he : exec i s = barWord waits f s) (ht : s.Turn gid g k f.hdr anyRole)
    (hroom : s.Room k f.hdr) (hops : operands k [plainOp f.b] (some (plainOp f.d)) s = (.ok (vs, dst), s1))
    (ha : arrive k (barOperand (src vs 0)).1 (barOperand (src vs 0)).2 s1 = (.ok (st, p), s2))
    (hr : (if waits && st = 0 then laterWait k f.hdr dst p (.barrier (barOperand (src vs 0)).1 p) else later k f.hdr dst (st * 2 ^ 60 + p) : M Unit) s2 = (.ok (), s3)) :
    exec i s = .next (movedNext gid g 1 s3) :=
  he.trans <| runWord_ops (m := varMeta) ht hroom rfl rfl rfl hops <| M.bind_step ha hr

end Sys2Proof.Machine

open Sys2Proof Sys2Proof.Machine

/-- Settles O20: each fence reads no source and waits for what the statement names. -/
theorem fences : Obligations.Fences := by
  refine ⟨fun f hb => ?_, fun f hb => ?_, ?_⟩
  · refine waitWord_of (m := varMeta) rfl rfl rfl rfl rfl (exec_fence f) fun k vs dst s r w hv => ?_
    cases hv
    exact M.get_step <| M.ite_step_pos hb rfl
  · refine waitWord_of (m := varMeta) rfl rfl rfl rfl rfl (exec_fence f) fun k vs dst s r w hv => ?_
    cases hv
    exact M.get_step <| M.ite_step_neg hb rfl
  · intro f s gid g k s1 s2 s3 vs dst st ht hroom hops hst hl
    refine ⟨(exec_sfence f s).trans <| runWord_ops (m := varMeta) ht hroom rfl rfl rfl hops <| M.bind_step hst hl, ?_⟩
    cases (takeSerial_eq _ _).symm.trans hst
    rfl

/-- Settles O21: bar and barw go through one arrival, which answers a status or counts the thread in. -/
theorem barrierWords : Obligations.BarrierWords := by
  refine ⟨?_, ?_, fun s i b x hi hx hwf => State.barCheck_complete hi hx hwf, fun s i b => State.barCheck_of_need, fun k b m s x => arrive_otherMask,
    fun k b m s x => arrive_outside⟩
  · intro f s gid g k s1 s2 s3 vs dst st p ht hroom hops ha
    refine ⟨fun h0 hl => barWord_next (exec_bar f s) ht hroom hops ha ?_, fun h0 hl => barWord_next (exec_bar f s) ht hroom hops ha ?_,
      fun hl => barWord_next (exec_barw f s) ht hroom hops ha hl⟩
    · exact M.ite_step_pos (by simp [h0]) hl
    · exact M.ite_step_neg (by simp [h0]) hl
  · intro f
    refine statusWord_of (m := varMeta) rfl rfl rfl rfl rfl (exec_twait f) fun k vs dst s r hv => ?_
    have hr := Option.some.inj hv
    rw [← b2n_decide] at hr
    exact M.get_step (congrArg (fun v => later k f.hdr dst v s) hr)

/-- Settles O22: each word looks its range up in the team's mappings and acts on what it finds. -/
theorem mappingWords : Obligations.MappingWords := by
  refine ⟨?_, ?_, ?_, ?_, ?_, ?_⟩
  · intro f s gid g k s1 s2 s3 vs dst r ht hroom hops hmap
    refine ⟨fun v hr hl => ?_, fun hr hl => ?_⟩ <;> subst hr <;>
      exact (exec_map f s).trans <| runWord_ops (m := varMeta) ht hroom rfl rfl rfl hops <| M.bind_step hmap hl
  · intro f
    refine statusWord_of (m := varMeta) rfl rfl rfl rfl rfl (exec_unmap f) fun k vs dst s r hv => ?_
    refine M.get_step ?_
    rcases ite_eq_iff.mp hv with ⟨-, hv⟩ | ⟨hno, hv⟩ <;> cases hv
    have hfind : (s.team (s.thr k).team).maps.find? (fun m => m.va == (src vs 0).zx) = none := by simpa using hno
    simp only [hfind]
  · intro f s gid g k s1 s2 vs dst m ht hroom hops hfind hw hl
    refine (exec_unmap f s).trans <| runWord_ops (m := varMeta) ht hroom rfl rfl rfl hops <| M.get_step ?_
    simp only [hfind]
    exact M.ite_step_neg (by rw [hw]; decide) <| M.bind_step (M.run_modify ..) hl
  · intro f
    refine statusWord_of (m := varMeta) rfl rfl rfl rfl rfl (exec_wopen f) fun k vs dst s r hv => ?_
    refine M.get_step ?_
    rcases ite_eq_iff.mp hv with ⟨hn, hv⟩ | ⟨hn, hv⟩
    · cases hv
      exact M.ite_step_pos ((Bool.or_eq_true _ _).mpr (.inl hn)) rfl
    rcases ite_eq_iff.mp hv with ⟨hwc, hv⟩ | ⟨hwc, hv⟩
    · cases hv
      exact M.ite_step_pos ((Bool.or_eq_true _ _).mpr (.inr hwc)) rfl
    rcases ite_eq_iff.mp hv with ⟨hls, hv⟩ | ⟨hls, hv⟩ <;> cases hv
    refine M.ite_step_neg (fun hor => ((Bool.or_eq_true _ _).mp hor).elim hn hwc) ?_
    simp only [hls]
  · intro f s gid g k s1 s2 vs dst ls t ws ht hroom hops hteam hn hc hwr hls hopen hlen hws hl
    subst hteam hws
    refine (exec_wopen f s).trans <| runWord_ops (m := varMeta) ht hroom rfl rfl rfl hops <| M.get_step <| M.ite_step_neg ?_ ?_
    · simp [hn, hc, hwr]
    simp only [hls]
    exact M.ite_step_neg (Bool.eq_false_iff.mp hopen) <| M.ite_step_neg (Nat.not_lt.mpr hlen) <| M.bind_step (M.run_modTm ..) (by rw [hwr]; exact hl)
  · intro f s gid g k s1 s2 vs dst ls ht hroom hops hls hall hl
    refine (exec_wclose f s).trans <| runWord_ops (m := varMeta) ht hroom rfl rfl rfl hops <| M.get_step ?_
    simp only [hls]
    exact M.ite_step_pos hall <| M.bind_step (M.run_modTm ..) hl
end

section
/-! PROOFS. Engine words, rings, the carabiner and the guest queues: O23 to O26. -/
namespace Sys2Proof.Machine

variable {s s1 s2 s3 : State} {k gid : Nat} {g : Gang} {h : Hdr} {m : Meta}

/-! ### Commands -/

theorem preCheck_of_car (hp : m.priv = false) (hr : m.roles (s.groupOf k).role = true) (hc : (s.team (s.thr k).team).carabiner = some (s.thr k).grp) :
    preCheck m k s = (.ok (), s) := by
  simp [preCheck, M.run_bind, hr, hp, hc]
theorem orderCommand_ok (ho : orderCommand k s = (.ok (), s1)) : s1 = s := by
  obtain ⟨_, t0, hget, ho⟩ := M.bind_eq_ok.mp ho
  cases hget
  rcases ite_eq_iff.mp ((M.run_ite ..).symm.trans ho) with ⟨-, ho⟩ | ⟨-, ho⟩ <;> cases ho
  rfl
/-- A part of a thread that a change keeps is as before in every thread. -/
theorem State.thr_modThr_part {α : Type} {f : Thread → Thread} (part : Thread → α) (hf : ∀ t, part (f t) = part t) (s : State) (k j : Nat) :
    part ((s.modThr k f).thr j) = part (s.thr j) := by
  rcases ht : tget s.threads k with _ | t
  · simp [State.modThr, tmod, ht, State.thr]
  · rw [State.thr_modThr f ht]
    split
    next hj => rw [hf, hj, State.thr_of_some ht]
    next => rfl
theorem State.issued_thr_team (s : State) (k sc : Nat) (d : Dest) (v lo : Nat) (hi : Option Nat) (w : Wait) (final : Bool) (err : Option Nat) (src : Nat) :
    ((s.issued k sc d v lo hi w final err src).thr k).team = (s.thr k).team :=
  State.thr_modThr_part (f := (·.issue (s.newOutst k sc d v lo hi w final err src))) Thread.team (fun _ => rfl) _ k k
theorem State.issued_thr_grp (s : State) (k sc : Nat) (d : Dest) (v lo : Nat) (hi : Option Nat) (w : Wait) (final : Bool) (err : Option Nat) (src : Nat) :
    ((s.issued k sc d v lo hi w final err src).thr k).grp = (s.thr k).grp :=
  State.thr_modThr_part (f := (·.issue (s.newOutst k sc d v lo hi w final err src))) Thread.grp (fun _ => rfl) _ k k
theorem State.owe_eq (s : State) (u : UnitRef) : ∃ l, s.owe u = { s with host := { s.host with mirrors := l } } := by
  rw [State.owe]
  split
  · exact ⟨s.host.mirrors, rfl⟩
  · exact ⟨_, rfl⟩
@[simp] theorem State.owe_mem (s : State) (u : UnitRef) : (s.owe u).mem = s.mem := by obtain ⟨l, hl⟩ := s.owe_eq u; rw [hl]
@[simp] theorem State.owe_hostMem (s : State) (u : UnitRef) : (s.owe u).hostMem = s.hostMem := by obtain ⟨l, hl⟩ := s.owe_eq u; rw [hl]
@[simp] theorem State.owe_teams (s : State) (u : UnitRef) : (s.owe u).teams = s.teams := by obtain ⟨l, hl⟩ := s.owe_eq u; rw [hl]
@[simp] theorem State.owe_devno (s : State) (u : UnitRef) : (s.owe u).devno = s.devno := by obtain ⟨l, hl⟩ := s.owe_eq u; rw [hl]
@[simp] theorem State.owe_threads (s : State) (u : UnitRef) : (s.owe u).threads = s.threads := by obtain ⟨l, hl⟩ := s.owe_eq u; rw [hl]
theorem State.thr_owe (s : State) (u : UnitRef) (k : Nat) : (s.owe u).thr k = s.thr k := by rw [State.thr, State.owe_threads, State.thr]
theorem State.team_owe (s : State) (u : UnitRef) (i : Nat) : (s.owe u).team i = s.team i := by rw [State.team, State.owe_teams, State.team]
/-- An accepted command joins its team's queues behind the others, not yet started. -/
theorem acceptCmd_ok {d : Dest} {kind : CmdKind} {q : EngineQueue} {quads : List Nat} {bind : Option Nat} {mode : Nat} (hi : (tget s.teams (s.thr k).team).isSome = true)
    (ha : acceptCmd k h d kind q quads bind mode s = (.ok (), s1)) :
    ∃ c : Cmd, (s1.team (s.thr k).team).queues = (s.team (s.thr k).team).queues ++ [c] ∧ c.kind = kind ∧ c.queue = q ∧ c.th = k ∧ c.quads = quads ∧ c.bind = bind
      ∧ c.started = false ∧ s1.mem = s.mem ∧ s1.hostMem = s.hostMem := by
  obtain ⟨_, t1, hord, hrest⟩ := M.bind_eq_ok.mp ha
  obtain ⟨id, t2, hid, hiss⟩ := M.bind_eq_ok.mp hrest
  obtain ⟨oid, t3, hiv, hput⟩ := M.bind_eq_ok.mp hiss
  cases orderCommand_ok hord
  cases (M.run_newId _).symm.trans hid
  obtain ⟨-, rfl⟩ := issueVar_ok hiv
  cases hput
  have hteam := State.issued_thr_team { s with nextId := s.nextId + 1 } k h.sc.toNat d 0 1 none (.command s.nextId) false none (queueBit q)
  refine ⟨{ id := s.nextId, queue := q, th := k, kind := kind, quads := quads, bind := bind, mode := mode, started := false,
            doneAt := 0, piece := 0, data := [], flags := 0, stall := none, stop := false, status := none }, ?_, rfl, rfl, rfl, rfl, rfl, rfl, ?_, ?_⟩
  · rw [State.team_owe]
    refine (congrArg (fun i => (State.team _ i).queues) hteam.symm).trans ?_
    rw [State.team_modTeam_same]
    · exact congrArg (fun i => (State.team s i).queues ++ _) hteam
    · exact (congrArg (fun i => (tget s.teams i).isSome) hteam).trans hi
  · exact State.owe_mem ..
  · exact State.owe_hostMem ..

/-- A word that hands a command to a queue has the shape of a command word. -/
theorem commandWord_of {i : Instr} {roles : Role → Bool} {srcs : List (Operand × Option Nat)} {d : Operand × Option Nat} {kind : CmdKind} {q : EngineQueue}
    {quads : List SVal → List Nat} {bind : List SVal → Option Nat} {mode : Thread → Nat} (hv : m.var = true) (hp : m.priv = false) (hc : m.car = false)
    (hw : m.words = 1) (hr : m.roles = roles)
    (he : ∀ s, exec i s = runWord m h (fun k => do
      roomFor k h
      let r ← operands k srcs (some d)
      let t ← getT k
      acceptCmd k h r.2 kind q (quads r.1) (bind r.1) (mode t)) s) : CommandWord i h roles srcs d kind q quads bind mode := by
  intro s gid g k s1 s2 vs dst ht hroom hops hacc
  subst hr
  exact hw ▸ (he s).trans (runWord_ops ht hroom hv hp hc hops (M.bind_step (M.run_getT k s1) hacc))
theorem mma_next {f : FmtA} {vs : List SVal} {dst : Dest} (ht : s.Turn gid g k f.hdr matRoles) (hroom : s.Room k f.hdr)
    (hcar : (s.team (s.thr k).team).carabiner = some (s.thr k).grp) (hops : operands k [descOp f.a 4] (some (plainOp f.d)) s = (.ok (vs, dst), s1))
    (hacc : acceptCmd k f.hdr dst .mma .matrix (digits 64 4 (src vs 0).v) none 0 s1 = (.ok (), s2)) : exec (.mma f) s = .next (movedNext gid g 1 s2) :=
  (exec_mma f s).trans <| runWord_one (m := { matrixMeta with car := true }) ht.cur ht.gang ht.issues ht.members ht.done ht.short ht.serial
    (State.not_full_of_room hroom) (preCheck_of_car rfl ht.role hcar) ht.guard <| roomFor_bind hroom <| M.bind_step hops hacc
/-- The descriptor words hand their descriptor over with a binding where they have one. -/
theorem commandWord_of_descWord {i : Instr} {f : FmtA} {kind : CmdKind} {q : EngineQueue} {n : Nat} (he : ∀ s, exec i s = runWord copyMeta f.hdr (descWord kind q n f) s) :
    (unused f.b = true → CommandWord i f.hdr copyRoles [descOp f.a n] (plainOp f.d) kind q (fun vs => digits 64 n (src vs 0).v) (fun _ => none) (·.fmode))
      ∧ (unused f.b = false → CommandWord i f.hdr copyRoles [descOp f.a n, plainOp f.b] (plainOp f.d) kind q (fun vs => digits 64 n (src vs 0).v) (fun vs => some (src vs 1).zx) (·.fmode)) := by
  refine ⟨fun hb => ?_, fun hb => ?_⟩ <;> refine commandWord_of (m := copyMeta) rfl rfl rfl rfl rfl fun s => (he s).trans ?_ <;> unfold descWord <;> rw [hb] <;> rfl
end Sys2Proof.Machine

open Sys2Proof Sys2Proof.Machine

/-- Settles O23: every command word accepts its command, and an accepted one stands last in its team's queues. -/
theorem engineCommands : Obligations.EngineCommands := by
  refine ⟨fun f s gid g k s1 s2 vs dst => mma_next, fun f => commandWord_of (m := matrixMeta) rfl rfl rfl rfl rfl (exec_macc f),
    fun f => commandWord_of (m := matrixMeta) rfl rfl rfl rfl rfl (exec_mzero f), ?_, fun k h d kind q quads bind mode s s' => acceptCmd_ok⟩
  intro f i kind q n hi
  simp only [List.mem_cons, Prod.mk.injEq, List.not_mem_nil, or_false] at hi
  rcases hi with ⟨rfl, rfl, rfl, rfl⟩ | ⟨rfl, rfl, rfl, rfl⟩ | ⟨rfl, rfl, rfl, rfl⟩ | ⟨rfl, rfl, rfl, rfl⟩ | ⟨rfl, rfl, rfl, rfl⟩ <;>
    exact commandWord_of_descWord fun _ => rfl

/-- Settles O24: mwait and qfence ask whether what they wait for is still queued. -/
theorem engineWaits : Obligations.EngineWaits := by
  refine ⟨?_, ?_, ?_, ?_⟩
  · intro f s gid g k s1 s2 vs dst slot ht hroom hops hslot hstop
    subst hslot
    have hrun {m : M Unit} (hm : m s1 = (.ok (), s2)) (he : m = (if (s1.team (s1.thr k).team).queues.any fun c => c.slot = some (low 4 (immNat f.b)) then
        laterWait k f.hdr dst ((tget (s1.team (s1.thr k).team).slotLast (low 4 (immNat f.b))).getD 0) (.slotDone (low 4 (immNat f.b)) s1.nextId)
        else later k f.hdr dst ((tget (s1.team (s1.thr k).team).slotLast (low 4 (immNat f.b))).getD 0))) : exec (.mwait f) s = .next (movedNext gid g 1 s2) :=
      (exec_mwait f s).trans <| runWord_ops (m := matrixMeta) ht hroom rfl rfl rfl hops <| M.get_step <|
        M.ite_step_neg (Bool.eq_false_iff.mp hstop) <| he ▸ hm
    exact ⟨fun hany hl => hrun hl (by rw [if_pos hany]), fun hany hl => hrun hl (by rw [if_neg (Bool.eq_false_iff.mp hany)])⟩
  · exact fun f => actWord_of_fixedWord (m := { roles := matRoles }) rfl rfl rfl (exec_mrow f)
  · intro f
    refine statusWord_of (m := varMeta) rfl rfl rfl rfl rfl (exec_qfence f) fun k vs dst s r hv => ?_
    rcases ite_eq_iff.mp hv with ⟨hd, hv⟩ | ⟨hd, hv⟩ <;> cases hv
    exact M.get_step <| M.ite_step_pos hd rfl
  · intro f
    refine waitWord_of (m := varMeta) rfl rfl rfl rfl rfl (exec_qfence f) fun k vs dst s r w hv => ?_
    rcases ite_eq_iff.mp hv with ⟨hd, hv⟩ | ⟨hd, hv⟩ <;> cases hv
    exact M.get_step <| M.ite_step_neg hd rfl
end

section
/-! PROOFS. Pitch rings, the carabiner and the guest queues: O25 and O26. -/
namespace Sys2Proof.Machine

variable {s s1 s2 s3 : State} {k gid : Nat} {g : Gang} {h : Hdr} {m : Meta}

theorem orderSignal_of_free (hw : s.mustSignal k = false) : orderSignal k s = (.ok (), s) := by simp [orderSignal, M.run_bind, hw]
/-- prel on a bad binding answers 4; else it changes its stage and answers what the stage says. -/
theorem prelWord_of {i : Instr} {f : FmtA} {mode : Nat} (he : ∀ s, exec i s = runWord varMeta f.hdr (prelWord mode f) s) :
    StatusWord i f.hdr anyRole [plainOp f.a] (plainOp f.d) (fun s k vs => if s.bindOf (s.thr k).team (src vs 0).zx = none then some 4 else none)
    ∧ (∀ s gid g k s1 s2 vs dst h n st, s.Turn gid g k f.hdr anyRole → s.Room k f.hdr → operands k [plainOp f.a] (some (plainOp f.d)) s = (.ok (vs, dst), s1) →
      s1.bindOf (s1.thr k).team (src vs 0).zx = some (h, n, st) → (mode = 0 → s1.mustSignal k = false) →
      later k f.hdr dst (st.prel mode (s1.thr k).grp).2 (s1.modStage (s1.thr k).team h n fun _ => (st.prel mode (s1.thr k).grp).1) = (.ok (), s2) →
      exec i s = .next (movedNext gid g 1 s2)) := by
  refine ⟨statusWord_of (m := varMeta) rfl rfl rfl rfl rfl he fun k vs dst s r hv => ?_, ?_⟩
  · rcases ite_eq_iff.mp hv with ⟨hno, hv⟩ | ⟨-, hv⟩ <;> cases hv
    refine M.get_step ?_
    simp only [hno]
  · intro s gid g k s1 s2 vs dst h n st ht hroom hops hb hsig hl
    refine (he s).trans <| runWord_ops (m := varMeta) ht hroom rfl rfl rfl hops <| M.get_step ?_
    simp only [hb]
    by_cases hm : mode = 0
    · exact M.ite_step_pos hm <| M.bind_step (orderSignal_of_free (hsig hm)) <| M.bind_step (M.run_modify ..) hl
    · exact M.ite_step_neg hm <| M.bind_step (M.run_modify ..) hl
/-- The ring word that pwait reads decides its answer, or that it waits. -/
theorem pwait_status (f : FmtA) : StatusWord (.pwait f) f.hdr anyRole [plainOp f.a] (plainOp f.d) fun s k vs =>
      match s.bindOf (s.thr k).team (src vs 0).zx with
      | none => some 4
      | some b => match b.2.2.waitStatus (low 1 (immNat f.b)) (bitAt (immNat f.b) 1) with
        | some v => some v
        | none => if bitAt (immNat f.b) 2 then some 1 else none := by
  refine statusWord_of (m := varMeta) rfl rfl rfl rfl rfl (exec_pwait f) fun k vs dst s r hv => M.get_step ?_
  rcases hb : s.bindOf (s.thr k).team (src vs 0).zx with _ | ⟨h, n, st⟩ <;> simp only [hb] at hv ⊢
  · cases hv
    rfl
  rcases hw : st.waitStatus (low 1 (immNat f.b)) (bitAt (immNat f.b) 1) with _ | v <;> simp only [hw] at hv ⊢
  · rcases ite_eq_iff.mp hv with ⟨hn, hv⟩ | ⟨-, hv⟩ <;> cases hv
    exact M.ite_step_pos hn rfl
  · cases hv
    rfl
theorem pwait_waits (f : FmtA) : WaitWord (.pwait f) f.hdr anyRole [plainOp f.a] (plainOp f.d) fun s k vs =>
      match s.bindOf (s.thr k).team (src vs 0).zx with
      | none => none
      | some b => match b.2.2.waitStatus (low 1 (immNat f.b)) (bitAt (immNat f.b) 1) with
        | some _ => none
        | none => if bitAt (immNat f.b) 2 then none else some (0, .stage b.1 b.2.1 (low 1 (immNat f.b)) (bitAt (immNat f.b) 1)) := by
  refine waitWord_of (m := varMeta) rfl rfl rfl rfl rfl (exec_pwait f) fun k vs dst s r w hv => M.get_step ?_
  rcases hb : s.bindOf (s.thr k).team (src vs 0).zx with _ | ⟨h, n, st⟩ <;> simp only [hb] at hv ⊢
  · cases hv
  rcases hw : st.waitStatus (low 1 (immNat f.b)) (bitAt (immNat f.b) 1) with _ | v <;> simp only [hw] at hv ⊢
  · rcases ite_eq_iff.mp hv with ⟨-, hv⟩ | ⟨hn, hv⟩ <;> cases hv
    exact M.ite_step_neg hn rfl
  · cases hv

/-! ### The carabiner -/

/-- The group that cbpass names by its immediate, or the next live one where it is negative (R213). -/
def passTarget (t : Team) (g : Nat) (o : Option Int) : Nat :=
  match o with
  | some v => if v < 0 then (t.carNext g).getD g else v.toNat
  | none => g
theorem passTarget_eq {t : Team} {g : Nat} {o : Option Int} {target : Int} (h : o = some target ∧ 0 ≤ target ∨ o = some (-1) ∧ target = ((t.carNext g).getD g : Nat)) :
    passTarget t g o = target.toNat := by
  rcases h with ⟨rfl, h0⟩ | ⟨rfl, rfl⟩
  · exact if_neg (Int.not_lt.mpr h0)
  · rfl
/-- What cbpass does once its target is known (R213). -/
def passCar (k : Nat) (h : Hdr) (dst : Dest) (s : State) (target : Nat) : M Unit := do
  let i := (s.thr k).team
  let g := (s.thr k).grp
  let t := s.team i
  if !t.pair then later k h dst 3
  else if t.carabiner ≠ some g then later k h dst 1
  else if !(t.carList.contains target && (t.groups[target]?.elim false (·.live))) then later k h dst 2
  else
    orderSignal k
    modify fun s => if target = g then s else s.giveCarabiner i (some target)
    later k h dst 0
theorem cbpass_next {f : FmtA} {vs : List SVal} {dst : Dest} (ht : s.Turn gid g k f.hdr matRoles) (hroom : s.Room k f.hdr)
    (hops : operands k [] (some (plainOp f.d)) s = (.ok (vs, dst), s1))
    (hp : passCar k f.hdr dst s1 (passTarget (s1.team (s1.thr k).team) (s1.thr k).grp (immOf f.b)) s1 = (.ok (), s2)) :
    exec (.cbpass f) s = .next (movedNext gid g 1 s2) :=
  (exec_cbpass f s).trans <| runWord_ops (m := matrixMeta) ht hroom rfl rfl rfl hops <| M.get_step hp

/-! ### Guest queues -/

/-- What gsub does once its packet is read (R370 to R372). -/
def submitPacket (k : Nat) (h : Hdr) (dst : Dest) (q : Nat) (b : Bytes) (s : State) : M Unit :=
  if s.socket.fenced then later k h dst (7 * 2 ^ 28)
  else match (if s.socket.ready then tget s.socket.queues q else none) with
    | none => later k h dst (3 * 2 ^ 28)
    | some x =>
      if x.size ≤ x.packets.length then later k h dst (2 ^ 28)
      else do
        let t ← appendGuest k q x b
        laterWait k h dst t (.inQueue 3 s.nextId)
theorem gsub_next {f : FmtA} {vs : List SVal} {dst : Dest} {b : Bytes} (ht : s.Turn gid g k f.hdr anyRole) (hroom : s.Room k f.hdr)
    (hops : operands k (plainOps [f.a, f.b]) (some (plainOp f.d)) s = (.ok (vs, dst), s1)) (hal : (src vs 0).zx % 64 = 0)
    (hf : s1.fencedOff (s1.thr k).team 3 s1.nextId = false) (hb : loadSpanPlain k (src vs 0).zx 64 s1 = (.ok b, s2))
    (hr : submitPacket k f.hdr dst (src vs 1).zx b s2 s2 = (.ok (), s3)) : exec (.gsub f) s = .next (movedNext gid g 1 s3) :=
  (exec_gsub f s).trans <| runWord_ops (m := varMeta) ht hroom rfl rfl rfl hops <| M.bind_step (checkAlign_of_dvd hal s1) <| M.get_step <|
    M.ite_step_neg (Bool.eq_false_iff.mp hf) <| M.bind_step hb <| M.get_step hr
/-- With the guest die ready, a packet for a queue of it is posted where there is room. -/
theorem submitPacket_ready {dst : Dest} {q : Nat} {b : Bytes} {x : GuestQueue} (hf : s.socket.fenced = false) (hr : s.socket.ready = true) (hq : tget s.socket.queues q = some x) :
    submitPacket k h dst q b s = if x.size ≤ x.packets.length then later k h dst (2 ^ 28) else (do
      let t ← appendGuest k q x b
      laterWait k h dst t (.inQueue 3 s.nextId)) := by
  simp only [submitPacket, hf, hr, hq, if_true, Bool.false_eq_true, if_false]

end Sys2Proof.Machine

open Sys2Proof Sys2Proof.Machine

/-- Settles O25: the words look the stage up and act on it, and the rules of a stage are the branches of prel. -/
theorem ringWords : Obligations.RingWords := by
  refine ⟨?_, ?_, pwait_status, pwait_waits, ?_, ?_, ?_, ?_, ?_, ?_, ?_, ?_⟩
  · intro f s gid g k s1 s2 vs dst ht hroom hops hbad hl
    exact (exec_pinit f s).trans <| runWord_ops (m := varMeta) ht hroom rfl rfl rfl hops <| M.get_step <| M.ite_step_pos (by rw [hbad]; rfl) hl
  · intro f s gid g k s1 s2 vs dst q0 q1 oid p ht hroom hops hq0 hq1 hok hiss hp
    subst hq0 hq1 hp
    exact (exec_pinit f s).trans <| runWord_ops (m := varMeta) ht hroom rfl rfl rfl hops <| M.get_step <| M.ite_step_neg (by rw [hok]; decide) <|
      M.bind_step (M.run_newId s1) <| M.bind_step hiss <| M.run_modTm ..
  · intro f i mode hi
    simp only [List.mem_cons, Prod.mk.injEq, List.not_mem_nil, or_false] at hi
    rcases hi with ⟨rfl, rfl⟩ | ⟨rfl, rfl⟩ | ⟨rfl, rfl⟩ <;> exact prelWord_of fun _ => rfl
  · intro f s gid g k s1 s2 s3 vs dst r ht hops hval hres
    refine actWord_of_fixedWord (m := {}) rfl rfl rfl (exec_pphase f) s gid g k s1 s2 s3 vs dst r ht hops (Eq.trans ?_ hval) hres
    rcases hb : s1.bindOf (s1.thr k).team (src vs 0).zx with _ | ⟨h, n, st⟩ <;> simp only [M.run_bind, M.run_get, M.run_pure, M.run_view, hb]
  · intro st g h2 hreg
    simp [Stage.prel, h2, hreg]
  · intro st g h2 hreg
    simp [Stage.prel, h2, hreg]
  · intro st g h2
    simp [Stage.prel, h2]
  · intro st g h3
    simp [Stage.prel, h3]
  · intro st g h4
    simp [Stage.prel, h4]
  · intro st g h3 h4
    simp [Stage.prel, h3, h4]

/-- Settles O26: each word reads who holds the carabiner, or the guest queue, and answers or waits. -/
theorem carabinerAndGuest : Obligations.CarabinerAndGuest := by
  refine ⟨?_, ?_, ?_, ?_, ?_⟩
  · intro f s gid g k s1 s2 vs dst t target ht hroom hops hteam htarget
    subst hteam
    have hrun {n : Nat} (hn : n = target.toNat) (hpass : passCar k f.hdr dst s1 n s1 = (.ok (), s2)) : exec (.cbpass f) s = .next (movedNext gid g 1 s2) := by
      refine cbpass_next ht hroom hops ?_
      rwa [passTarget_eq htarget, ← hn]
    refine ⟨fun hp hl => hrun rfl ?_, fun hp hc hl => hrun rfl ?_, fun hp hc hg hl => hrun rfl ?_, fun hp hc hg hsig hl => hrun rfl ?_⟩
    · exact M.ite_step_pos (by rw [hp]; rfl) hl
    · exact M.ite_step_neg (by rw [hp]; decide) <| M.ite_step_pos hc hl
    · exact M.ite_step_neg (by rw [hp]; decide) <| M.ite_step_neg (not_not.mpr hc) <| M.ite_step_pos (by rw [hg]; rfl) hl
    · exact M.ite_step_neg (by rw [hp]; decide) <| M.ite_step_neg (not_not.mpr hc) <| M.ite_step_neg (by rw [hg]; decide) <|
        M.bind_step (orderSignal_of_free hsig) <| M.bind_step (M.run_modify ..) hl
  · intro f
    refine statusWord_of (m := matrixMeta) rfl rfl rfl rfl rfl (exec_cbwait f) fun k vs dst s r hv => M.get_step ?_
    rcases ite_eq_iff.mp hv with ⟨hp, hv⟩ | ⟨hp, hv⟩
    · cases hv
      exact M.ite_step_pos (by rw [hp]; rfl) rfl
    refine M.ite_step_neg (by simpa using hp) ?_
    rcases ite_eq_iff.mp hv with ⟨hc, hv⟩ | ⟨hc, hv⟩
    · cases hv
      exact M.ite_step_pos hc rfl
    rcases ite_eq_iff.mp hv with ⟨hn, hv⟩ | ⟨-, hv⟩ <;> cases hv
    exact M.ite_step_neg hc <| M.ite_step_pos hn rfl
  · intro f
    refine waitWord_of (m := matrixMeta) rfl rfl rfl rfl rfl (exec_cbwait f) fun k vs dst s r w hv => M.get_step ?_
    rcases ite_eq_iff.mp hv with ⟨⟨hp, hc, hn⟩, hv⟩ | ⟨-, hv⟩ <;> cases hv
    exact M.ite_step_neg (by rw [hp]; decide) <| M.ite_step_neg hc <| M.ite_step_neg (by rw [hn]; decide) rfl
  · intro f s gid g k s1 s2 s3 vs dst b ht hroom hops hal hf hb
    refine ⟨fun hfen hl => gsub_next ht hroom hops hal hf hb ?_, fun hfen hno hl => gsub_next ht hroom hops hal hf hb ?_,
      fun x hfen hr hq hlen hl => gsub_next ht hroom hops hal hf hb ?_, fun x t s4 hfen hr hq hlen ha hl => gsub_next ht hroom hops hal hf hb ?_⟩
    · exact M.ite_step_pos hfen hl
    · have hnone : (if s2.socket.ready then tget s2.socket.queues (src vs 1).zx else none) = none := by
        rcases hno with hr | hq
        · rw [hr]
          rfl
        · rw [hq, ite_self]
      refine M.ite_step_neg (Bool.eq_false_iff.mp hfen) ?_
      simp only [hnone]
      exact hl
    · rw [submitPacket_ready hfen hr hq, if_pos hlen]
      exact hl
    · rw [submitPacket_ready hfen hr hq, if_neg (Nat.not_le.mpr hlen)]
      exact M.bind_step ha hl
  · intro f s gid g k s1 s2 vs dst ht hroom hops
    have hrun (hr : (if s1.socket.fenced then laterErr k f.hdr dst 0x7000 0x7000 3
        else if ((tget s1.socket.queues (src vs 0).zx).elim false fun x => x.packets.any (·.ticket == (src vs 1).zx)) then do
          let _ ← issueVar k f.hdr.sc.toNat dst 0 1 none (.guest (src vs 0).zx (src vs 1).zx) false none 3
          pure ()
        else later k f.hdr dst 0 : M Unit) s1 = (.ok (), s2)) : exec (.gwait f) s = .next (movedNext gid g 1 s2) :=
      (exec_gwait f s).trans <| runWord_ops (m := varMeta) ht hroom rfl rfl rfl hops <| M.get_step hr
    refine ⟨fun hf hl => hrun (M.ite_step_pos hf hl),
      fun x oid hf hq hany hiss => hrun <| M.ite_step_neg (Bool.eq_false_iff.mp hf) <| M.ite_step_pos ?_ <| M.bind_step hiss (M.run_pure ..),
      fun hf hno hl => hrun <| M.ite_step_neg (Bool.eq_false_iff.mp hf) <| M.ite_step_neg ?_ hl⟩
    · rw [hq]
      exact hany
    · rcases hq : tget s1.socket.queues (src vs 0).zx with _ | x
      · exact Bool.false_ne_true
      · exact Bool.eq_false_iff.mp (hno x hq)
end

section
/-! PROOFS. Phaser words: O27. -/
namespace Sys2Proof.Machine

variable {s s1 s2 s3 : State} {k gid u : Nat} {g : Gang} {h : Hdr} {m : Meta} {f : FmtA} {i : Instr} {vs : List SVal} {dst : Dest} {p : Phaser}
  {body : Nat → Dest → Word → Phaser → SVal → M Unit}

/-- A word of a phaser that its handle names does what the word does there. -/
theorem phaserWord_next (he : exec i s = phaserWord u f body s) (ht : s.Turn gid g k f.hdr anyRole) (hroom : s.Room k f.hdr)
    (hops : operands k (phaserOps f) (some (plainOp f.d)) s = (.ok (vs, dst), s1)) (hway : s1.regOnWay (s1.unitOf k u) (wd (src vs 0).zx) = false)
    (hp : s1.phaserFor k (src vs 0).zx u = .ok p) (hb : body k dst (wd (src vs 0).zx) p (src vs 1) s1 = (.ok (), s2)) :
    exec i s = .next (movedNext gid g 1 s2) := by
  refine he.trans <| runWord_ops (m := varMeta) ht hroom rfl rfl rfl hops <| M.get_step <| M.ite_step_neg (Bool.eq_false_iff.mp hway) ?_
  simp only [hp]
  exact hb
/-- A handle that names no phaser of the thread answers its status. -/
theorem phaserWord_status (he : ∀ s, exec i s = phaserWord u f body s) (e : Nat) :
    StatusWord i f.hdr anyRole (phaserOps f) (plainOp f.d) fun s k vs =>
      if s.regOnWay (s.unitOf k u) (wd (src vs 0).zx) then none
      else match s.phaserFor k (src vs 0).zx u with | .error x => if x = e then some (e * 2 ^ 60) else none | .ok _ => none := by
  refine statusWord_of (m := varMeta) rfl rfl rfl rfl rfl he fun k vs dst s r hv => M.get_step ?_
  rcases ite_eq_iff.mp hv with ⟨-, hv⟩ | ⟨hway, hv⟩
  · cases hv
  refine M.ite_step_neg hway ?_
  rcases hp : s.phaserFor k (src vs 0).zx u with x | p <;> simp only [hp] at hv ⊢
  · rcases ite_eq_iff.mp hv with ⟨hx, hv⟩ | ⟨-, hv⟩ <;> cases hv
    rw [hx]
  · cases hv
/-- What phwait and phtry answer, from the thread's registration and the word of the phase (R307). -/
def phaseAnswer (waits : Bool) (k : Nat) (h : Hdr) (dst : Dest) (hd : Word) (q : Nat) (reg : Option Registrant) (word : Option Nat) : M Unit :=
  match reg with
  | none => later k h dst (4 * 2 ^ 60 + q)
  | some _ =>
    match word with
    | some v => do
      acquirePhase k hd
      later k h dst v
    | none => if waits then laterWait k h dst 0 (.phase hd q) else later k h dst (2 ^ 60 + q)
theorem phaseWord_next {waits : Bool} (he : exec i s = phaseWord waits f s) (ht : s.Turn gid g k f.hdr anyRole) (hroom : s.Room k f.hdr)
    (hops : operands k (phaserOps f) (some (plainOp f.d)) s = (.ok (vs, dst), s1)) (hway : s1.regOnWay (s1.unitOf k 0) (wd (src vs 0).zx) = false)
    (hp : s1.phaserFor k (src vs 0).zx 0 = .ok p)
    (hb : phaseAnswer waits k f.hdr dst (wd (src vs 0).zx) (low 32 (src vs 1).zx) ((p.find s1.devno (s1.unitOf k 0)).filter (·.wait)) (p.result (low 32 (src vs 1).zx)) s1
      = (.ok (), s2)) : exec i s = .next (movedNext gid g 1 s2) :=
  phaserWord_next he ht hroom hops hway hp <| M.get_step hb
/-- A part of a team that a change keeps is as before in every team. -/
theorem State.team_modTeam_part {α : Type} {f : Team → Team} (part : Team → α) (hf : ∀ t, part (f t) = part t) (s : State) (i j : Nat) :
    part ((s.modTeam i f).team j) = part (s.team j) := by
  by_cases hj : j = i
  · subst hj
    rcases ht : tget s.teams j with _ | t
    · simp [State.modTeam, tmod, ht, State.team]
    · rw [State.team_modTeam_same f (by simp [ht]), hf]
  · rw [State.team_modTeam_other f hj]
theorem State.unitOf_congr {s t : State} (hteam : (t.thr k).team = (s.thr k).team) (hgrp : (t.thr k).grp = (s.thr k).grp) (hl : ∀ i, (t.team i).launch = (s.team i).launch)
    (hi : ∀ i, (t.team i).index = (s.team i).index) (hd : t.devno = s.devno) : t.unitOf k u = s.unitOf k u := by
  simp only [State.unitOf, hteam, hgrp, hl, hi, hd]
/-- A unit is known by the team and the group of its thread, which a command leaves as they are. -/
theorem acceptCmd_unitOf {d : Dest} {kind : CmdKind} {q : EngineQueue} {quads : List Nat} {bind : Option Nat} {mode : Nat}
    (ha : acceptCmd k h d kind q quads bind mode s = (.ok (), s1)) : s1.unitOf k u = s.unitOf k u := by
  obtain ⟨_, t1, hord, hrest⟩ := M.bind_eq_ok.mp ha
  obtain ⟨id, t2, hid, hiss⟩ := M.bind_eq_ok.mp hrest
  obtain ⟨oid, t3, hiv, hput⟩ := M.bind_eq_ok.mp hiss
  cases orderCommand_ok hord
  cases (M.run_newId _).symm.trans hid
  obtain ⟨-, rfl⟩ := issueVar_ok hiv
  cases hput
  refine State.unitOf_congr ?_ ?_ (fun i => ?_) (fun i => ?_) ?_
  · exact (congrArg Thread.team (State.thr_owe ..)).trans (State.issued_thr_team ..)
  · exact (congrArg Thread.grp (State.thr_owe ..)).trans (State.issued_thr_grp ..)
  · exact (congrArg Team.launch (State.team_owe ..)).trans (State.team_modTeam_part Team.launch (by intro _; rfl) ..)
  · exact (congrArg Team.index (State.team_owe ..)).trans (State.team_modTeam_part Team.index (by intro _; rfl) ..)
  · exact State.owe_devno ..

end Sys2Proof.Machine

open Sys2Proof Sys2Proof.Machine

/-- Settles O27: the handle is judged first, then the registration, and then each word does its own. -/
theorem phaserWords : Obligations.PhaserWords := by
  refine ⟨?_, ?_, ?_, ?_, ?_, ?_, ?_⟩
  · intro f i u e hi
    simp only [List.mem_cons, Prod.mk.injEq, List.not_mem_nil, or_false] at hi
    rcases hi with ⟨rfl, rfl⟩ | ⟨rfl, rfl⟩ | ⟨rfl, rfl⟩ | ⟨rfl, rfl⟩ | ⟨rfl, rfl⟩ | ⟨rfl, rfl⟩ | ⟨rfl, rfl⟩ | ⟨rfl, rfl⟩
    · have he := exec_phreg f
      simp only [execPhreg] at he
      exact phaserWord_status he e
    · have he := exec_phleave f
      simp only [execPhleave] at he
      exact phaserWord_status he e
    · have he := exec_phsig f
      simp only [execPhsig] at he
      exact phaserWord_status he e
    · have he := exec_phsigb f
      simp only [execPhsigb] at he
      exact phaserWord_status he e
    · have he := exec_phany f
      simp only [execPhany] at he
      exact phaserWord_status he e
    · have he := exec_phwait f
      simp only [execPhwait, phaseWord] at he
      exact phaserWord_status he e
    · have he := exec_phtry f
      simp only [execPhtry, phaseWord] at he
      exact phaserWord_status he e
    · have he := exec_phget f
      simp only [execPhget] at he
      exact phaserWord_status he e
  · intro f s gid g k s1 s2 vs dst h u p ht hroom hops hh hu hway hp
    subst hh hu
    have hreg := exec_phreg f s
    have hleave := exec_phleave f s
    simp only [execPhreg] at hreg
    simp only [execPhleave] at hleave
    refine ⟨fun hd hdom hl => ?_, fun hd hu hno hregs hl => ?_, fun hd hok hl => ?_, fun hl => ?_⟩
    · exact phaserWord_next hreg ht hroom hops hway hp <| M.get_step <| M.ite_step_pos (by simp [hd, hdom]) hl
    · refine phaserWord_next hreg ht hroom hops hway hp <| M.get_step <| M.ite_step_neg ?_ <| M.ite_step_pos ?_ hl
      · rcases hd with hd | hd <;> simp [hd]
      · simp [hu, hno, hregs]
    · refine phaserWord_next hreg ht hroom hops hway hp <| M.get_step <| M.ite_step_neg ?_ <| M.ite_step_neg ?_ <|
        M.bind_step (M.run_newId s1) <| M.bind_step hl <| M.run_modify ..
      · rcases hd with hd | hd <;> simp [hd]
      · rcases hok with hok | hok | hok <;> simp [hok]
    · exact phaserWord_next hleave ht hroom hops hway hp <| M.bind_step (M.run_newId s1) <| M.bind_step hl <| M.run_modify ..
  · intro f s gid g k s1 s2 vs dst h u p ht hroom hops hh hu hway hp hno hl
    subst hh hu
    have hsig := exec_phsig f s
    have hsigb := exec_phsigb f s
    simp only [execPhsig] at hsig
    simp only [execPhsigb] at hsigb
    refine ⟨phaserWord_next hsig ht hroom hops hway hp <| M.get_step ?_, phaserWord_next hsigb ht hroom hops hway hp <| M.get_step ?_⟩ <;>
      simp only [hno] <;> exact hl
  · intro f s gid g k s1 s2 s3 vs dst h u p r st ht hroom hops hh hu hway hp hreg
    subst hh hu
    have hsig := exec_phsig f s
    simp only [execPhsig] at hsig
    refine ⟨fun hu1 ha hph => phaserWord_next hsig ht hroom hops hway hp <| M.get_step ?_,
      fun t hu1 hfree hph hst hl => phaserWord_next hsig ht hroom hops hway hp <| M.get_step ?_⟩ <;> simp only [hreg]
    · exact M.ite_step_pos hu1 <| M.bind_step ha <| acceptCmd_unitOf ha ▸ hph
    · exact M.ite_step_neg hu1 <| M.bind_step (orderSignal_of_free hfree) <| M.bind_step hph <| M.bind_step hst <| M.bind_step (M.run_newId t) <|
        M.bind_step hl <| M.run_modify ..
  · intro f s gid g k s1 s2 vs dst h u p r ht hroom hops hh hu hway hp hreg hb
    subst hh hu
    have hsigb := exec_phsigb f s
    simp only [execPhsigb] at hsigb
    refine phaserWord_next hsigb ht hroom hops hway hp <| M.get_step ?_
    simp only [hreg]
    exact hb
  · intro f s gid g k s1 s2 vs dst h p ht hroom hops hh hway hp
    subst hh
    have hphany := exec_phany f s
    have hphget := exec_phget f s
    simp only [execPhany] at hphany
    simp only [execPhget] at hphget
    refine ⟨fun hbad hl => ?_, fun hany hfind hno hl => ?_, fun r hany hfind hsig hb => ?_, fun hl => phaserWord_next hphget ht hroom hops hway hp hl⟩
    · exact phaserWord_next hphany ht hroom hops hway hp <| M.get_step <| M.ite_step_pos (by simpa using hbad) hl
    · refine phaserWord_next hphany ht hroom hops hway hp <| M.get_step <| M.ite_step_neg (by simp [hany, hfind]) ?_
      simp only [hno]
      exact hl
    · refine phaserWord_next hphany ht hroom hops hway hp <| M.get_step <| M.ite_step_neg (by simp [hany, hfind]) ?_
      simp only [hsig]
      exact hb
  · intro f s gid g k s1 s2 vs dst h p q ht hroom hops hh hway hp hq
    subst hh hq
    refine ⟨fun hno hl => ⟨?_, ?_⟩, fun r v s3 hreg hres hacq hl => ⟨?_, ?_⟩, fun r hreg hres hl => ?_, fun r hreg hres hl => ?_⟩
    · refine phaseWord_next (exec_phwait f s) ht hroom hops hway hp ?_
      rw [hno]
      exact hl
    · refine phaseWord_next (exec_phtry f s) ht hroom hops hway hp ?_
      rw [hno]
      exact hl
    · refine phaseWord_next (exec_phwait f s) ht hroom hops hway hp ?_
      rw [hreg, hres]
      exact M.bind_step hacq hl
    · refine phaseWord_next (exec_phtry f s) ht hroom hops hway hp ?_
      rw [hreg, hres]
      exact M.bind_step hacq hl
    · refine phaseWord_next (exec_phwait f s) ht hroom hops hway hp ?_
      rw [hreg, hres]
      exact hl
    · refine phaseWord_next (exec_phtry f s) ht hroom hops hway hp ?_
      rw [hreg, hres]
      exact hl
end

section
/-! PROOFS. Fabric words, arrival counters and the fabric fence: O28 and O29. -/
namespace Sys2Proof.Machine

variable {s s1 s2 s3 : State} {k gid : Nat} {g : Gang} {h : Hdr} {m : Meta} {f : FmtA} {vs : List SVal} {dst : Dest}

/-- The record that acset arms: the one armed at the place, or the first free one (R313). -/
def freeRecord (s : State) (i off : Nat) : Option Nat :=
  match s.arrivalAt i off with
  | some id => some id
  | none => (List.range 4096).find? fun n => (tget s.fabric.arrivals n).isNone
theorem freeRecord_none {i off : Nat} (hno : s.arrivalAt i off = none) (hfull : ∀ n, n < 4096 → (tget s.fabric.arrivals n).isSome = true) : freeRecord s i off = none := by
  simp only [freeRecord, hno, List.find?_eq_none, List.mem_range]
  intro n hn
  simp [Option.isSome_iff_ne_none.mp (hfull n hn)]
theorem freeRecord_some {i off id : Nat} (h : s.arrivalAt i off = some id ∨ s.arrivalAt i off = none ∧ id < 4096 ∧ tget s.fabric.arrivals id = none
    ∧ ∀ n, n < id → (tget s.fabric.arrivals n).isSome = true) : freeRecord s i off = some id := by
  rcases h with ha | ⟨hno, hid, hfree, hbefore⟩
  · simp only [freeRecord, ha]
  · simp only [freeRecord, hno]
    rw [List.find?_range_eq_some]
    exact ⟨by simp [hfree], by simpa using hid, fun n hn => by simpa using hbefore n hn⟩
/-- What acset does with a good place and target (R313). -/
def armRecord (k : Nat) (h : Hdr) (dst : Dest) (s : State) (off target : Nat) (free : Option Nat) : M Unit :=
  let i := (s.thr k).team
  match free with
  | none => later k h dst (acHandle 1 s.devno 0)
  | some id => do
    modify fun s => { s with fabric := { s.fabric with arrivals := tset s.fabric.arrivals id { team := i, off := off } } }
    modify fun s => s.spadPut i off (recordBytes 0 target 1 id)
    later k h dst (acHandle 0 s.devno id)

end Sys2Proof.Machine

open Sys2Proof Sys2Proof.Machine

/-- Settles O28: each word reads its address and its data, checks them, and sends its request or enters its transfer. -/
theorem fabricWords : Obligations.FabricWords := by
  refine ⟨?_, ?_, ?_, ?_, ?_⟩
  · intro f s gid g k s1 s2 s3 vs dst n va w ht hroom hops hn hva hal hser hno hreq
    subst hn hva
    refine (exec_fld f s).trans <| runWord_ops (m := varMeta) ht hroom rfl rfl rfl hops <| M.bind_step (checkAlign_of_dvd hal s1) ?_
    by_cases ho : fieldCode f.a = 4
    · exact M.ite_step_pos ho <| M.bind_step (hser ho) hreq
    · obtain ⟨rfl, rfl⟩ := hno ho
      exact M.ite_step_neg ho <| M.bind_step (M.run_view ..) hreq
  · intro f s gid g k s1 s2 s3 s4 vs x n va w id ht hroom hops hn hva hal hfull hser hno hsend
    subst hn hva
    have hgo {r : M Unit} (hr : r s3 = (.ok (), s4)) (he : r = if s3.leavesAtOnce (fabDev (src vs 0).zx) || (s3.fabric.writes.all fun y => y.id != id) then later k f.hdr .nowhere 0
        else laterWait k f.hdr .nowhere 0 (.sent id)) : exec (.fst f) s = .next (movedNext gid g 1 s4) := by
      subst he
      refine (exec_fst f s).trans <| runWord_ops (m := varMeta) ht hroom rfl rfl rfl hops <| M.bind_step (checkAlign_of_dvd hal s1) <| M.get_step <| M.ite_step_neg ?_ ?_
      · by_cases ho : fieldCode f.a = 2 <;> simp [ho, hfull]
        exact (hser ho).1
      by_cases ho : fieldCode f.a = 2
      · exact M.ite_step_pos ho <| M.bind_step (hser ho).2 <| M.bind_step hsend <| M.get_step hr
      · obtain ⟨rfl, rfl⟩ := hno ho
        exact M.ite_step_neg ho <| M.bind_step (M.run_view ..) <| M.bind_step hsend <| M.get_step hr
    exact ⟨fun hall hl => hgo hl (by rw [if_pos hall]), fun hall hl => hgo hl (by rw [if_neg (Bool.eq_false_iff.mp hall)])⟩
  · intro f s gid g k s1 s2 s3 vs dst c n va w ht hroom hops hc hn hva hal h8 h1 h4 hb hser hno hreq
    subst hc hn hva
    refine (exec_fatm f s).trans <| runWord_ops (m := varMeta) ht hroom rfl rfl rfl hops <| M.bind_step (checkAlign_of_dvd hal s1) <| M.ite_step_neg ?_ ?_
    · simp [h8, h1, h4, hb]
    by_cases ho : 2 ≤ fieldCode f.a
    · exact M.ite_step_pos ho <| M.bind_step (hser ho) hreq
    · obtain ⟨rfl, rfl⟩ := hno (Nat.not_le.mp ho)
      exact M.ite_step_neg ho <| M.bind_step (M.run_view ..) hreq
  · intro f s gid g k s1 s2 vs dst ht hroom hops hbad hl
    exact (exec_bulk f s).trans <| runWord_ops (m := varMeta) ht hroom rfl rfl rfl hops <| M.ite_step_pos (by rw [hbad]; rfl) hl
  · intro f s gid g k s1 s2 s3 vs dst id q0 q1 q2 q3 b ht hroom hops h0 h1 h2 h3 hok hfull hent hl hb
    subst h0 h1 h2 h3 hb
    exact (exec_bulk f s).trans <| runWord_ops (m := varMeta) ht hroom rfl rfl rfl hops <| M.ite_step_neg (by rw [hok]; decide) <| M.get_step <|
      M.ite_step_neg (Bool.eq_false_iff.mp hfull) <| M.bind_step hent <| M.bind_step hl <| M.run_modify ..

/-- Settles O29: a record is judged by its place, its target and whether one is armed there. -/
theorem arrivalsAndFence : Obligations.ArrivalsAndFence := by
  refine ⟨?_, ?_, ?_⟩
  · intro f s gid g k s1 s2 s3 vs dst off i ht hroom hops hoff hi
    subst hi
    refine ⟨fun hsp hl => ?_, fun hsp hbig hl => ?_, fun hsp h0 hno hl => ?_, fun id hsp h0 hat hl => ?_, fun hsp hlt h0 hno hfull hl => ?_, fun id a hsp hlt h0 hfree ha hl => ?_⟩ <;>
      refine (exec_acset f s).trans <| runWord_ops (m := varMeta) ht hroom rfl rfl rfl hops <| M.bind_step hoff <| M.get_step ?_
    · exact M.ite_step_pos hsp hl
    · exact M.ite_step_neg (Nat.not_lt.mpr hsp) <| M.ite_step_pos hbig hl
    · refine M.ite_step_neg (Nat.not_lt.mpr hsp) <| M.ite_step_neg (by rw [h0]; decide) <| M.ite_step_pos h0 ?_
      simp only [hno]
      exact M.bind_step (M.run_modify ..) hl
    · refine M.ite_step_neg (Nat.not_lt.mpr hsp) <| M.ite_step_neg (by rw [h0]; decide) <| M.ite_step_pos h0 ?_
      simp only [hat]
      exact M.bind_step (M.run_modify ..) <| M.bind_step (M.run_modify ..) hl
    · have harm : armRecord k f.hdr dst s2 off (src vs 1).zx (freeRecord s2 (s2.thr k).team off) s2 = (.ok (), s3) := by
        rw [freeRecord_none hno hfull]
        exact hl
      exact M.ite_step_neg (Nat.not_lt.mpr hsp) <| M.ite_step_neg (Nat.not_le.mpr hlt) <| M.ite_step_neg h0 harm
    · subst ha
      have harm : armRecord k f.hdr dst s2 off (src vs 1).zx (freeRecord s2 (s2.thr k).team off) s2 = (.ok (), s3) := by
        rw [freeRecord_some hfree]
        exact M.bind_step (M.run_modify ..) <| M.bind_step (M.run_modify ..) hl
      exact M.ite_step_neg (Nat.not_lt.mpr hsp) <| M.ite_step_neg (Nat.not_le.mpr hlt) <| M.ite_step_neg h0 harm
  · intro f s gid g k s1 s2 s3 vs dst off i us v ht hroom hops hoff hi hv hus
    subst hi hus
    obtain ⟨hdr, d, a, b⟩ := f
    cases hv
    have himm : low 13 (execAcwait.immNat' (.imm v)) = v.toNat := Nat.mod_eq_of_lt v.isLt
    refine ⟨fun hno hl => ?_, fun hat hle hl => ?_, fun hat hlt hn hl => ?_, fun hat hlt hn hl => ?_⟩ <;>
      refine (exec_acwait _ s).trans <| runWord_ops (m := varMeta) ht hroom rfl rfl rfl hops <| M.bind_step hoff <| M.get_step ?_
    · simp only [hno]
      exact hl
    all_goals
      obtain ⟨id, hid⟩ := Option.ne_none_iff_exists'.mp hat
      simp only [hid]
    · exact M.ite_step_pos hle hl
    · exact M.ite_step_neg (Nat.not_le.mpr hlt) <| M.ite_step_pos (by rw [himm, hn]) hl
    · refine M.ite_step_neg (Nat.not_le.mpr hlt) <| M.ite_step_neg (by rw [himm, hn]; decide) ?_
      rw [himm]
      exact hl
  · intro f
    refine waitWord_of (m := varMeta) rfl rfl rfl rfl rfl (exec_ffence f) fun k vs dst s r w hv => ?_
    cases hv
    rfl
end

section
/-! PROOFS. Words that stop before their effect: traps, role and privilege (O32, O41); decoded words, the step and reset (O39, O40, O43). -/
namespace Sys2Proof.Machine

theorem tset_of_tget {α : Type} {l : Tbl α} {k : Nat} {v : α} (h : tget l k = some v) : tset l k v = l := by
  induction l with
  | nil => cases h
  | cons e r ih =>
    obtain ⟨k', v'⟩ := e
    unfold tget at h
    unfold tset
    split_ifs at h ⊢ with h1 h2
    · cases h
      subst h2
      rfl
    · rw [ih h]
theorem State.setThr_self {s : State} {k : Nat} {t : Thread} (h : tget s.threads k = some t) : s.setThr k t = s := by
  simp only [State.setThr, tset_of_tget h]
theorem State.modThr_self {s : State} {k : Nat} {f : Thread → Thread} (h : ∀ t, tget s.threads k = some t → f t = t) : s.modThr k f = s := by
  cases ht : tget s.threads k with
  | none => simp only [State.modThr, tmod, ht]
  | some t => simp only [State.modThr, tmod, ht, h t ht, tset_of_tget ht]
theorem runPart_stop {α : Type} {k : Nat} {m : M α} {s : State} {e : Stop} (h : m s = (.error e, s)) : runPart k m s = (.error e, s) := by
  simp only [runPart, h]
  split
  · next t ht => rw [State.setThr_self ht]
  · rfl

variable {s s2 : State} {gid k : Nat} {g : Gang} {h : Hdr} {m : Meta} {e : Stop} {x : TrapInfo}

/-- What follows the checks and operands of a gang of one thread: its effect, the traps, the gang's advance. -/
def Run.finish {α : Type} (m : Meta) (h : Hdr) (gid : Nat) (g : Gang) (k : Nat) (body : List (Nat × α) → Nat → α → M Unit) (s0 : State) (r : Run α) : State :=
  let r2 := if m.var then r.off.foldl (fun r k => r.act k (stepCounter k h.sc.toNat)) r else r
  let r3 := (r2.actAll m s0 [k] body).giveBack s0
  afterWord gid g ((r3.stops.filter fun e => e.2 == .hold).map (·.1)) m.words (if m.var then 1 else h.sc.toNat + 1) s0 (forM' r3.stops (fun e => trapMember g e.1 e.2) r3.s).2
theorem runWordX_eq_finish {α : Type} {f : Nat → M α} {body : List (Nat × α) → Nat → α → M Unit} {r : Run α} (ha : s.At gid g k) (hv : (m.var && s.full k h.sc.toNat) = false)
    (hr : Run.gather m h f { s := s, on := [], off := [], stops := [] } k = r) (hheld : r.anyHeld = false) :
    runWordX m h f body s = .next (r.finish m h gid g k body s) := by
  have hn : ¬ 24 ≤ g.count := Nat.not_le.mpr ha.short
  have hms : g.members.filter (fun k => !g.done.contains k) = [k] := by simp [ha.members, ha.done]
  have hl : (m.lane || g.tries) = m.lane := by simp [ha.issues]
  simp only [runWordX, ha.cur, ha.gang, hms, hl, List.any_cons, List.any_nil, ha.serial, hv, Bool.or_false, Bool.false_eq_true, if_false, hn, List.foldl_cons, List.foldl_nil, hr,
    Run.share, hheld, Bool.and_false, Run.finish]
theorem gather_eq {α : Type} {f : Nat → M α} {r : Except Stop (Option α)} {s1 : State}
    (hp : (do
      preCheck m k
      let x ← guardOf k h.guard
      if x then
        let a ← f k
        return some a
      else return none : M (Option α)) s = (r, s1)) (hs : r.isOk = false → s1 = s) :
    Run.gather m h f { s := s, on := [], off := [], stops := [] } k = match r with
      | .ok (some a) => { s := s1, on := [(k, a)], off := [], stops := [] }
      | .ok none => { s := s1, on := [], off := [k], stops := [] }
      | .error e => { s := s1, on := [], off := [], stops := [(k, e)] } := by
  match r, hp, hs with
  | .ok (some a), hp, _ => simp only [Run.gather, runPart_ok hp, List.nil_append]
  | .ok none, hp, _ => simp only [Run.gather, runPart_ok hp, List.nil_append]
  | .error e, hp, hs =>
    obtain rfl := hs rfl
    simp only [Run.gather, runPart_stop hp, List.nil_append]
theorem forM'_one {α : Type} (a : α) (f : α → M Unit) (s : State) : (forM' [a] f s).2 = (f a s).2 := by
  rw [M.forM'_cons, M.run_bind]
  cases f a s with
  | mk r t => cases r <;> rfl
/-- The stops of a run that ended with one trap, its state untouched: the trap is taken. -/
theorem finish_of_trap {α : Type} {body : List (Nat × α) → Nat → α → M Unit} {r : Run α} (ha : s.At gid g k) (he : e ≠ .hold)
    (hr : (if m.var then r.off.foldl (fun r k => r.act k (stepCounter k h.sc.toNat)) r else r).actAll m s [k] body = { s := s, on := r.on, off := r.off, stops := [(k, e)] }) :
    r.finish m h gid g k body s = advance gid g [] m.words (if m.var then 1 else h.sc.toNat + 1) (trapMember g k e s).2 := by
  have hb : (e == Stop.hold) = false := by simpa using he
  have hback : (s.modThr k fun t => { t with streams := (s.thr k).streams }) = s := State.modThr_self fun t ht => by simp [State.thr, ht]
  simp only [Run.finish, hr, Run.giveBack, List.foldl_cons, List.foldl_nil, hback, List.filter_cons, List.filter_nil, hb, Bool.false_eq_true, if_false, List.map_nil, afterWord, ha.issues,
    Bool.false_and, forM'_one]

/-- A word whose checks before the guard raise a trap: it is taken, and the gang goes on without the thread (R40, R407). -/
theorem runWordX_of_preCheck {α : Type} {f : Nat → M α} {body : List (Nat × α) → Nat → α → M Unit} (ha : s.At gid g k) (hv : (m.var && s.full k h.sc.toNat) = false) (he : e ≠ .hold)
    (hp : preCheck m k s = (.error e, s)) :
    runWordX m h f body s = .next (advance gid g [] m.words (if m.var then 1 else h.sc.toNat + 1) (trapMember g k e s).2) := by
  have hb : (e == Stop.hold) = false := by simpa using he
  rw [runWordX_eq_finish ha hv (gather_eq (r := .error e) (by rw [M.run_bind, hp]) fun _ => rfl) (by simp [Run.anyHeld, hb])]
  rw [finish_of_trap ha he]
  simp [Run.actAll, Run.anyHeld, hb]
/-- A word whose effect is a trap. -/
theorem runWord_of_trap {body : Nat → M Unit} (ht : s.Turn gid g k h m.roles) (hv : m.var = false) (hp : m.priv = false) (hc : m.car = false) (he : e ≠ .hold) (hb : body k s = (.error e, s)) :
    runWord m h body s = .next (advance gid g [] m.words (h.sc.toNat + 1) (trapMember g k e s).2) := by
  have ha : s.At gid g k := ⟨ht.cur, ht.gang, ht.issues, ht.members, ht.done, ht.short, ht.serial⟩
  have hh : (e == Stop.hold) = false := by simpa using he
  rw [runWord, runWordX_eq_finish ha (by simp [hv]) (gather_eq (r := .ok (some ()))
    (by rw [M.bind_ok (preCheck_of_role hp hc ht.role), M.bind_ok ht.guard]; rfl) fun hk => by cases hk) rfl]
  rw [finish_of_trap ha he]
  · simp [hv]
  · simp [hv, Run.actAll, Run.act, runPart_stop hb, Run.anyHeld, hh]
/-- A fixed-latency word whose guard is false has no effect (R13, R27). -/
theorem runWord_of_off {body : Nat → M Unit} (ha : s.At gid g k) (hv : m.var = false) (hp : preCheck m k s = (.ok (), s)) (hg : guardOf k h.guard s = (.ok false, s)) :
    runWord m h body s = .next (movedOn gid g m.words h s) := by
  rw [runWord, runWordX_eq_finish ha (by simp [hv]) (gather_eq (r := .ok none) (s1 := s) (by rw [M.bind_ok hp, M.bind_ok hg]; rfl) fun hk => by cases hk) rfl]
  simp [Run.finish, hv, Run.actAll, Run.anyHeld, Run.giveBack, afterWord, ha.issues, M.forM'_nil, movedOn]

/-! ### O32: trap and brk -/

theorem trapMember_ok {cls code : Nat} {addr d1 d2 d3 : Word} (hx : x = ⟨cls, code, addr, d1, d2, d3, if cls = 18 then g.pc + 8 else g.pc, if cls = 18 then true else !(g.fromHead && g.count == 0)⟩)
    (ht : takeTrap k x s = (.ok (), s2)) : trapMember g k (.trap cls code addr d1 d2 d3) s = (.ok (), s2) := by
  subst hx
  exact ht

/-! ### O41: role, privilege, carabiner -/

/-- An instruction that is a word of some meta-data. -/
def IsWord (i : Instr) (m : Meta) (h : Hdr) : Prop := ∃ body, ∀ s, exec i s = runWord m h body s
/-- A word that its checks refuse takes their trap. -/
theorem IsWord.trapped {i : Instr} {cls : Nat} (hw : IsWord i m h) (ha : s.At gid g k) (hfull : ∀ sc, s.full k sc = false) (hcls : cls ≠ 18)
    (hp : preCheck m k s = (trapC cls : M Unit) s) (hx : x = ⟨cls, 0, 0, 0, 0, 0, g.pc, !(g.fromHead && g.count == 0)⟩) (ht : takeTrap k x s = (.ok (), s2)) :
    ∃ w d, exec i s = .next (advance gid g [] w d s2) := by
  obtain ⟨body, hb⟩ := hw
  have hmem := trapMember_ok (g := g) (k := k) (s := s) (s2 := s2) (x := x) (cls := cls) (code := 0) (addr := 0) (d1 := 0) (d2 := 0) (d3 := 0) (by simp only [hcls, if_false]; exact hx) ht
  have hrun := runWordX_of_preCheck (m := m) (h := h) (f := fun _ => pure ()) (body := fun _ k _ => body k) ha (by simp [hfull]) (e := .trap cls 0 0 0 0 0) (by simp) hp
  rw [hmem] at hrun
  exact ⟨_, _, (hb s).trans hrun⟩
theorem preCheck_of_badRole (hr : m.roles (s.groupOf k).role = false) : preCheck m k s = (trapC 3 : M Unit) s := by
  simp [preCheck, M.run_bind, hr]
theorem preCheck_of_unprivileged (hr : m.roles (s.groupOf k).role = true) (hp : m.priv = true) (hk : s.privOf k = false) : preCheck m k s = (trapC 4 : M Unit) s := by
  simp [preCheck, M.run_bind, hr, hp, hk]
theorem preCheck_of_noCarabiner (hr : m.roles (s.groupOf k).role = true) (hp : m.priv = false) (hc : m.car = true) (hk : (s.team (s.thr k).team).carabiner ≠ some (s.thr k).grp) :
    preCheck m k s = (trapC 5 : M Unit) s := by
  simp [preCheck, M.run_bind, hr, hp, hc, hk]

theorem vecWords_isWord {i : Instr} {t : FType} {f : FmtA} {fm : FmtM} (hi : i ∈ [Instr.fadd t fm, .fma t fm, .fmin t fm, .topk f]) : ∃ m h, IsWord i m h ∧ m.roles = vecRoles := by
  simp only [List.mem_cons, List.not_mem_nil, or_false] at hi
  rcases hi with rfl | rfl | rfl | rfl
  · exact ⟨_, _, ⟨_, fun s => exec_fadd t fm s⟩, rfl⟩
  · exact ⟨_, _, ⟨_, fun s => exec_fma t fm s⟩, rfl⟩
  · exact ⟨_, _, ⟨_, fun s => exec_fmin t fm s⟩, rfl⟩
  · exact ⟨_, _, ⟨_, fun s => exec_topk f s⟩, rfl⟩
theorem matWords_isWord {i : Instr} {f : FmtA} (hi : i ∈ [Instr.mma f, .macc f, .mzero f, .mwait f, .mrow f, .cbpass f, .cbwait f]) : ∃ m h, IsWord i m h ∧ m.roles = matRoles := by
  simp only [List.mem_cons, List.not_mem_nil, or_false] at hi
  rcases hi with rfl | rfl | rfl | rfl | rfl | rfl | rfl
  · exact ⟨_, _, ⟨_, fun s => exec_mma f s⟩, rfl⟩
  · exact ⟨_, _, ⟨_, fun s => exec_macc f s⟩, rfl⟩
  · exact ⟨_, _, ⟨_, fun s => exec_mzero f s⟩, rfl⟩
  · exact ⟨_, _, ⟨_, fun s => exec_mwait f s⟩, rfl⟩
  · exact ⟨_, _, ⟨_, fun s => exec_mrow f s⟩, rfl⟩
  · exact ⟨_, _, ⟨_, fun s => exec_cbpass f s⟩, rfl⟩
  · exact ⟨_, _, ⟨_, fun s => exec_cbwait f s⟩, rfl⟩
theorem copyWords_isWord {i : Instr} {f : FmtA} (hi : i ∈ [Instr.cpy f, .cpy2d f, .cpyg f, .cvq f, .cvd f]) : ∃ m h, IsWord i m h ∧ m.roles = copyRoles := by
  simp only [List.mem_cons, List.not_mem_nil, or_false] at hi
  rcases hi with rfl | rfl | rfl | rfl | rfl
  · exact ⟨_, _, ⟨_, fun s => exec_cpy f s⟩, rfl⟩
  · exact ⟨_, _, ⟨_, fun s => exec_cpy2d f s⟩, rfl⟩
  · exact ⟨_, _, ⟨_, fun s => exec_cpyg f s⟩, rfl⟩
  · exact ⟨_, _, ⟨_, fun s => exec_cvq f s⟩, rfl⟩
  · exact ⟨_, _, ⟨_, fun s => exec_cvd f s⟩, rfl⟩
theorem privWords_isWord {i : Instr} {f : FmtA} (hi : i ∈ [Instr.syswr f, .tlbinv f, .rfx f, .cacheopL1all f, .cacheopL2all f]) :
    ∃ m h, IsWord i m h ∧ (∀ r, m.roles r = true) ∧ m.priv = true := by
  simp only [List.mem_cons, List.not_mem_nil, or_false] at hi
  rcases hi with rfl | rfl | rfl | rfl | rfl
  · exact ⟨_, _, ⟨_, fun s => exec_syswr f s⟩, fun _ => rfl, rfl⟩
  · exact ⟨_, _, ⟨_, fun s => exec_tlbinv f s⟩, fun _ => rfl, rfl⟩
  · exact ⟨_, _, ⟨_, fun s => exec_rfx f s⟩, fun _ => rfl, rfl⟩
  · exact ⟨_, _, ⟨_, fun s => exec_cacheopL1all f s⟩, fun _ => rfl, rfl⟩
  · exact ⟨_, _, ⟨_, fun s => exec_cacheopL2all f s⟩, fun _ => rfl, rfl⟩

/-! ### O40: a gang that only tries a word that does not decode -/

theorem eq_of_fst {α β : Type} {p : α × β} {a : α} (h : p.1 = a) : p = (a, p.2) := by rw [← h]
/-- The gang of a placed word, held there before and with no port given to it: it only tries its word (R141). -/
def tryingGang : Gang := { placedGang 2 0 with held := true, port := none }
/-- An opcode that the map leaves out, placed where that gang is to try it. -/
def tryingState : State := { State.reset.withFetchWord 64 0xFBC0000000000000 with gangs := [(1, tryingGang)] }
def tryingFetch : Except Stop (Word × Word) × State := fetchPair 0 tryingGang.pc { tryingState with issueQ := [] }
theorem tryingFetch_word : tryingFetch.1 = .ok (0xFBC0000000000000#64, plainTrailer) := by decide +kernel
def tryingInfo : TrapInfo := ⟨1, 0, 0, 0, 0, 0, tryingGang.pc, false⟩
def tryingTrap : Except Stop Unit × State := takeTrap 0 tryingInfo tryingFetch.2
theorem tryingTrap_eq : takeTrap 0 tryingInfo tryingFetch.2 = tryingTrap := by rw [tryingTrap]
theorem tryingTrap_taken : tryingTrap.1 = .ok () := by decide +kernel
/-- Whether a gang is still there after a step. -/
def gangLeft (gid : Nat) : Host.Outcome State Fault Refusal → Bool
  | .next t => (tget t.gangs gid).isSome
  | _ => false
/-- The machine keeps the gang, ranked anew; the statement's next state has none, its only thread gone. -/
theorem tryingStep_differs :
    gangLeft 1 (step tryingState) ≠ gangLeft 1 (.next (advance 1 tryingGang [] 1 1 tryingTrap.2)) := by decide +kernel

end Sys2Proof.Machine
open Sys2Proof Sys2Proof.Machine

/-- Settles O32: both words stop with their trap, which the gang then takes for the thread. -/
theorem trapWords : Obligations.TrapWords := by
  constructor
  · intro f s gid g k s2 i ht hi htake
    refine (exec_trap f s).trans ((runWord_of_trap (m := {}) (e := .trap 18 (immNat f.b) 0 0 0 0) ht rfl rfl rfl (by simp) rfl).trans ?_)
    rw [trapMember_ok hi htake]
    rfl
  · intro f s gid g k s2 i ht hi htake
    refine (exec_brk f s).trans ((runWord_of_trap (m := {}) (e := .trap 19 (immNat f.b) 0 0 0 0) ht rfl rfl rfl (by simp) rfl).trans ?_)
    rw [trapMember_ok hi htake]
    rfl

/-- Settles O41: the checks before the guard stop the word with their trap; a false guard leaves it without effect. -/
theorem roleAndPrivilege : Obligations.RoleAndPrivilege := by
  refine ⟨fun i s gid g k s2 x t f fm ha hfull hx ht => ⟨fun hrole hi => ?_, fun hrole hi => ?_, fun hrole hi => ?_⟩, fun i s gid g k s2 x f ha hfull hk hx ht hi => ?_,
    fun s gid g k s2 x f ha hfull hrole hcar hx ht => ?_, fun t f s gid g k ha hg => ?_⟩
  · obtain ⟨m, h, hw, hm⟩ := vecWords_isWord hi
    exact hw.trapped ha hfull (by decide) (preCheck_of_badRole (by rcases hrole with hr | hr <;> rw [hm, hr] <;> rfl)) hx ht
  · obtain ⟨m, h, hw, hm⟩ := matWords_isWord hi
    exact hw.trapped ha hfull (by decide) (preCheck_of_badRole (by rcases hrole with hr | hr <;> rw [hm, hr] <;> rfl)) hx ht
  · obtain ⟨m, h, hw, hm⟩ := copyWords_isWord hi
    exact hw.trapped ha hfull (by decide) (preCheck_of_badRole (by rcases hrole with hr | hr <;> rw [hm, hr] <;> rfl)) hx ht
  · obtain ⟨m, h, hw, hr, hp⟩ := privWords_isWord hi
    exact hw.trapped ha hfull (by decide) (preCheck_of_unprivileged (hr _) hp hk) hx ht
  · exact IsWord.trapped (m := { matrixMeta with car := true }) ⟨_, fun s => exec_mma f s⟩ ha hfull (by decide) (preCheck_of_noCarabiner hrole rfl rfl hcar) hx ht
  · exact ⟨(exec_iadd t f s).trans (runWord_of_off (m := { words := wordsOf f.mod }) ha rfl (preCheck_of_role rfl rfl rfl) hg),
      (exec_isub t f s).trans (runWord_of_off (m := { words := wordsOf f.mod }) ha rfl (preCheck_of_role rfl rfl rfl) hg)⟩

/-- Settles O39, by running the decoder on each word. -/
theorem decodedWords : Obligations.DecodedWords := by
  unfold Obligations.DecodedWords
  decide

/-- Refutes O40: its last part says nothing of whether the gang has a port. A gang that was held at its word and only tries it (R141) is ranked again and tries the word anew, with no trap taken, where the statement has the trap taken and the gang gone. -/
theorem not_stepRunsDecoded : ¬ Obligations.StepRunsDecoded := by
  rintro ⟨-, -, -, hbad⟩
  have hfetch : tryingFetch = (.ok (0xFBC0000000000000#64, plainTrailer), tryingFetch.2) := eq_of_fst tryingFetch_word
  have htrap : takeTrap 0 tryingInfo tryingFetch.2 = (.ok (), tryingTrap.2) := tryingTrap_eq.trans (eq_of_fst tryingTrap_taken)
  have hstep := hbad tryingState tryingFetch.2 tryingTrap.2 1 [] tryingGang 0 0xFBC0000000000000#64 plainTrailer 1
    tryingInfo rfl rfl rfl rfl rfl hfetch (.inl ⟨by decide, rfl⟩) (by simp [tryingInfo, tryingGang, placedGang]) htrap
  exact tryingStep_differs (congrArg (gangLeft 1) hstep)

/-- Settles O43: the fields of the reset state; the first step has neither event nor gang, so it is a cycle. -/
theorem resetValues : Obligations.ResetValues := by
  refine ⟨⟨rfl, rfl⟩, rfl, rfl, rfl, rfl, rfl, rfl, rfl, rfl, fun d => rfl, fun n => ?_, rfl⟩
  have hempty : dget WinRec.empty State.reset.records n = WinRec.empty := rfl
  simp only [State.winRec, hempty, ite_self]
end

section
/-! PROOFS. Distance and search words: O35 and O36. -/
namespace Sys2Proof.Machine

variable {s s1 s2 s3 : State} {k gid : Nat} {g : Gang} {h : Hdr} {f : FmtA} {vs : List SVal} {dst : Dest}

/-- A distance word writes what its formula gives of the accumulator and the elements (R390). -/
theorem distWord_next {v : DistType} {r : Nat → List FVal → List FVal → Nat} (ht : s.Turn gid g k f.hdr vecRoles)
    (hops : operandsRw k (plainOps [f.a, f.b]) (plainOp f.d) s = (.ok (vs, dst), s1))
    (hr : result k dst (r (src vs 2).v (distElems v (fieldBits f.a) (src vs 0)) (distElems v (fieldBits f.a) (src vs 1))) 5 s1 = (.ok (), s2)) :
    distWord v f r s = .next (movedOn gid g 1 f.hdr s2) :=
  ht.runWord_fixed (m := { roles := vecRoles }) rfl rfl rfl <| M.bind_step hops hr

/-! ### Insertion into a candidate list (R391) -/

theorem length_insertBy {α : Type} (lt : α → α → Bool) (a : α) (l : List α) : (insertBy lt a l).length = l.length + 1 := by
  induction l with
  | nil => rfl
  | cons b r ih =>
    unfold insertBy
    split
    · rfl
    · simp [ih]
theorem length_takeFirst {α : Type} {p : α → Bool} {l r : List α} {a : α} (h : takeFirst p l = some (a, r)) : l.length = r.length + 1 := by
  induction l generalizing r with
  | nil => cases h
  | cons b l ih =>
    unfold takeFirst at h
    split at h
    · cases h
      rfl
    · obtain ⟨⟨c, q⟩, hq, hr⟩ := Option.map_eq_some_iff.mp h
      cases hr
      simp [ih hq]
/-- What an insertion can do: it leaves the list, or puts the candidate before the last entry of a list of the same length. -/
theorem topkInsert_cases (n c : Nat) (l : List Nat) :
    (∃ b, topkInsert n c l = (l, 1, n, b))
    ∨ candId c ≠ 2 ^ 32 - 1 ∧ candLt c (l.getD (n - 1) sentinel) = true ∧ ∃ q r, q.length = l.length ∧ topkInsert n c l = ((insertBy candLt c q).take n, 0, r, true) := by
  unfold topkInsert
  split
  · exact .inl ⟨_, rfl⟩
  · next hin =>
    have hbefore : candId c ≠ 2 ^ 32 - 1 ∧ candLt c (l.getD (n - 1) sentinel) = true := by simpa using hin
    split
    · next e r htake =>
      split
      · exact .inr ⟨hbefore.1, hbefore.2, r ++ [sentinel], _, by simp [length_takeFirst htake], rfl⟩
      · exact .inl ⟨_, rfl⟩
    · exact .inr ⟨hbefore.1, hbefore.2, l, _, rfl, rfl⟩
theorem topkInsert_spec (n c : Nat) (l : List Nat) (hl : l.length = n) :
    (topkInsert n c l).1.length = n ∧ (topkInsert n c l).2.1 ≤ 1 ∧ ((topkInsert n c l).2.1 = 1 → (topkInsert n c l).1 = l ∧ (topkInsert n c l).2.2.1 = n)
      ∧ ((topkInsert n c l).2.1 = 0 → candId c ≠ 2 ^ 32 - 1 ∧ candLt c (l.getD (n - 1) sentinel) = true) := by
  rcases topkInsert_cases n c l with ⟨b, h⟩ | ⟨hid, hlt, q, r, hq, h⟩ <;> rw [h]
  · exact ⟨hl, Nat.le_refl 1, fun _ => ⟨rfl, rfl⟩, fun h0 => absurd h0 one_ne_zero⟩
  · exact ⟨by simp [length_insertBy, hq, hl], Nat.zero_le 1, fun h1 => absurd h1 zero_ne_one, fun _ => ⟨hid, hlt⟩⟩

/-! ### The words -/

/-- What topk answers of a scratchpad list that it has read (R392). -/
def topkAnswer (k : Nat) (h : Hdr) (dst : Dest) (va c : Nat) : Option (List Nat) → M Unit
  | none => later k h dst (2 * 2 ^ 60)
  | some l => do
    let r := topkInsert l.length c l
    if r.2.2.2 then writeList k va r.1 (liveEntries r.1) else pure ()
    later k h dst (r.2.1 * 2 ^ 60 + r.2.2.1)
theorem topkList_next {l : Option (List Nat)} (ht : s.Turn gid g k f.hdr vecRoles) (hroom : s.Room k f.hdr) (hi : isImm f.b = false)
    (hops : operands k (plainOps [f.a, f.b]) (some (plainOp f.d)) s = (.ok (vs, dst), s1)) (hlist : readList k (src vs 1).zx s1 = (.ok l, s2))
    (hrest : topkAnswer k f.hdr dst (src vs 1).zx (src vs 0).zx l s2 = (.ok (), s3)) :
    exec (.topk f) s = .next (movedNext gid g 1 s3) :=
  (exec_topk f s).trans <| ht.runWord_var (m := searchMeta) hroom rfl rfl rfl <| roomFor_bind hroom <| M.ite_step_neg (by simp [hi]) <| M.bind_step hops <| M.bind_step hlist hrest

/-- Where skim finds the count of its list, at the home and after its checks (R394). -/
theorem skim_next {va pa : Nat} {hb : Bytes} {s4 s5 s6 t : State} (ht : s.Turn gid g k f.hdr vecRoles) (hroom : s.Room k f.hdr)
    (hops : operands k [plainOp f.a, descOp f.b 2] (some (plainOp f.d)) s = (.ok (vs, dst), s1)) (hva : va = (src vs 0).zx) (hal : va % 128 = 0)
    (hp : skimPlace k va 16 s1 = (.ok pa, s2)) (hfull : s2.atomFull k 3 pa 16 false = false) (hrace : raceCheck k va pa true false 3 s2 = (.ok (), s3))
    (hsn : snoopSectors pa 16 true s3 = (.ok (), s4)) (hown : homeOwn (lineOf pa) s4 = (.ok (), s5)) (hread : homeRead pa 16 s5 = (.ok hb, s6))
    (hrest : (if low 32 (ofLe hb) ≤ bits (ofLe hb) 64 32 then returned k f.hdr dst (2 ^ 60)
      else if bits (quadOf (src vs 1) 0) 32 31 ≠ 0 || (!bitAt (quadOf (src vs 1) 0) 63 && quadOf (src vs 1) 1 = 0) then returned k f.hdr dst (2 * 2 ^ 60)
      else do
        let ea := low 64 (va + 128 + 16 * bits (ofLe hb) 64 32)
        let ep ← skimPlace k ea 16
        raceCheck k ea ep true false 3
        let w ← view fun s => (s.core (keyCore k)).clock
        homeWrite ep (leBytes 8 (quadOf (src vs 1) 0) ++ leBytes 8 (quadOf (src vs 1) 1))
        let s ← get
        let tag := s.tagOf (s.thr k).team
        modify fun s => s.recordWrite (lineOf ep) tag w .plain
        let r ← takeSerial (keyCore k)
        homeWrite (pa + 8) (leBytes 4 (bits (ofLe hb) 64 32 + 1))
        modify fun s => s.recordWrite (lineOf pa) tag r (.sync true 5)
        returned k f.hdr dst (bits (ofLe hb) 64 32) : M Unit) s6 = (.ok (), t)) :
    exec (.skim f) s = .next (movedNext gid g 1 t) := by
  subst hva
  exact (exec_skim f s).trans <| runWord_ops (m := searchMeta) ht hroom rfl rfl rfl hops <| M.bind_step (checkAlign_of_dvd hal _) <| M.bind_step hp <| M.get_step <|
    M.ite_step_neg (by simp [hfull]) <| M.bind_step hrace <| M.bind_step hsn <| M.bind_step hown <| M.bind_step hread hrest

/-- What kfilt does with its list after its reads (R396). -/
def kfiltAnswer (k : Nat) (h : Hdr) (d : Dest) (va : Nat) (out : List Nat) : Option (List Nat) → M Unit
  | none => later k h d 1
  | some l => do
    writeList k va (out ++ List.replicate (l.length - out.length) sentinel) out.length
    later k h d (b2n (out.length < l.length))
theorem kfilt_next {f : FmtP} {x : Dest} {l : Option (List Nat)} {out : List Nat} {t : State} (ht : s.Turn gid g k f.hdr vecRoles) (hroom : s.Room k f.hdr)
    (hops : operands k [plainOp f.a, descOp f.b 3] none s = (.ok (vs, x), s1)) (hcov : coverPreds k f.d s1 = (.ok (), s1)) (hlist : readList k (src vs 0).zx s1 = (.ok l, s2))
    (hreads : kfiltReads k (quadOf (src vs 1) 0) (quadOf (src vs 1) 1) (quadOf (src vs 1) 2) ((l.getD []).filter (· != sentinel)) s2 = (.ok out, s3))
    (hrest : kfiltAnswer k f.hdr (.preds f.d.pa.toNat f.d.pb.toNat) (src vs 0).zx out l s3 = (.ok (), t)) :
    exec (.kfilt f) s = .next (movedNext gid g 1 t) :=
  (exec_kfilt f s).trans <| runWord_ops (m := searchMeta) ht hroom rfl rfl rfl hops <| M.bind_step hcov <| M.bind_step hlist <| M.bind_step hreads hrest

theorem undoAcquires_ok {α : Type} {m : M α} {a : α} (hm : m s = (.ok a, s1)) : undoAcquires k m s = (.ok a, s1) := by
  simp only [undoAcquires, hm]

end Sys2Proof.Machine
open Sys2Proof Sys2Proof.Machine

/-- Settles O35: the three words share their operands and differ in the formula of their terms. -/
theorem distanceWords : Obligations.DistanceWords := by
  intro v f s gid g k s1 s2 vs dst a b ht hops ha hb
  subst ha hb
  exact ⟨fun hr => (exec_distL2 v f s).trans (distWord_next ht hops hr), fun hr => (exec_distIp v f s).trans (distWord_next ht hops hr),
    fun hr => (exec_distCos v f s).trans (distWord_next ht hops hr)⟩

/-- Settles O36: each word's own reads and writes in their order, and the insertion's two outcomes. -/
theorem searchWords : Obligations.SearchWords := by
  refine ⟨?_, ?_, ?_, ?_, ?_, ?_, fun n c l _ hl => topkInsert_spec n c l hl⟩
  · intro f s gid g k s1 s2 vs dst n ht hroom hi hn hops hl
    subst hn
    exact (exec_topk f s).trans <| ht.runWord_var (m := searchMeta) hroom rfl rfl rfl <| roomFor_bind hroom <| M.ite_step_pos hi <| M.bind_step hops hl
  · intro f s gid g k s1 s2 s3 s4 vs dst l r ht hroom hi hops hlist
    refine ⟨fun hn hl => topkList_next ht hroom hi hops hlist ?_, fun es hes hr hw hwrite hl => topkList_next ht hroom hi hops hlist ?_,
      fun es hes hr hw hl => topkList_next ht hroom hi hops hlist ?_⟩
    · subst hn
      exact hl
    · subst hes hr
      exact M.ite_step_pos hw <| M.bind_step hwrite hl
    · subst hes hr
      exact M.ite_step_neg (by simp [hw]) hl
  · intro f s gid g k s1 s2 s3 s4 vs dst q0 q1 q2 q3 n1 n2 kout m bad ht hroom hops h0 h1 h2 h3 hn1 hn2 hk hbad
    subst h0 h1 h2 h3 hn1 hn2 hk hbad
    exact ⟨fun hb hl => (exec_kmerge f s).trans <| runWord_ops (m := searchMeta) ht hroom rfl rfl rfl hops <| M.ite_step_pos hb hl,
      fun hb hm hf hl => (exec_kmerge f s).trans <| runWord_ops (m := searchMeta) ht hroom rfl rfl rfl hops <| M.ite_step_neg (Bool.eq_false_iff.mp hb) <| M.bind_step hm <| M.bind_step hf hl⟩
  · intro f s gid g k s1 s2 s3 s4 s5 s6 vs dst va pa h cap n ht hroom hops hva hal hp hfull hrace hsn hown hread hcap hn
    subst hcap hn
    refine ⟨fun t hle hr => skim_next ht hroom hops hva hal hp hfull hrace hsn hown hread (M.ite_step_pos hle hr),
      fun t hlt hbad hr => skim_next ht hroom hops hva hal hp hfull hrace hsn hown hread (M.ite_step_neg (Nat.not_le.mpr hlt) <| M.ite_step_pos (by simpa using hbad) hr),
      fun ea ep t1 t2 t3 t4 t5 t6 r hlt h31 hlive hea hplace hrace2 hw1 hser hw2 hr =>
        skim_next ht hroom hops hva hal hp hfull hrace hsn hown hread (M.ite_step_neg (Nat.not_le.mpr hlt) <| M.ite_step_neg ?_ ?_)⟩
    · rcases hlive with hl | hl <;> simp [h31, hl]
    · subst hea
      exact M.bind_step hplace <| M.bind_step hrace2 <| M.bind_step rfl <| M.bind_step hw1 <| M.get_step <| M.bind_step (M.run_modify ..) <| M.bind_step hser <|
        M.bind_step hw2 <| M.bind_step (M.run_modify ..) hr
  · intro f s gid g k s1 s2 s3 vs x l out ht hroom hops hcov hlist hreads
    refine ⟨fun t hn hl => kfilt_next ht hroom hops hcov hlist hreads ?_, fun es t2 t3 hes hw hl => kfilt_next ht hroom hops hcov hlist hreads ?_⟩
    · subst hn
      exact hl
    · subst hes
      exact M.bind_step hw hl
  · intro k q0 q1 q2 fs s s3 s4 t b n tombs has hnone hsome htombs hhas
    refine undoAcquires_ok ?_
    by_cases hq : q2 = 0
    · obtain ⟨rfl, rfl⟩ := hnone hq
      exact M.ite_step_pos hq <| M.bind_step (M.run_pure ..) <| M.bind_step htombs <| M.bind_step hhas (M.run_pure ..)
    · obtain ⟨hal, hload, rfl⟩ := hsome hq
      exact M.ite_step_neg hq <| M.bind_step (checkAlign_of_dvd hal _) <| M.bind_step hload <| M.bind_step (M.run_pure ..) <| M.bind_step htombs <| M.bind_step hhas (M.run_pure ..)
end

section
/-! PROOFS. Events of time, and of the fault service: O49 and O50. -/
namespace Sys2Proof.Machine

variable {s s1 : State} {k : Nat} {t : Thread}

theorem runEvent_of {m : M Unit} {r : Except Stop Unit} (h : m s = (r, s1)) : runEvent m s = .next s1 := by rw [runEvent_next, h]
theorem M.snd_bind_pure {α β : Type} (m : M α) (b : β) (s : State) : ((m >>= fun _ => pure b) s).2 = (m s).2 := by
  rw [M.run_bind]
  cases m s with
  | mk r t => cases r <;> rfl
theorem State.modThr_congr {f f' : Thread → Thread} (ht : tget s.threads k = some t) (h : f t = f' t) : s.modThr k f = s.modThr k f' := by
  rw [State.modThr_of_some f ht, State.modThr_of_some f' ht, h]
theorem State.modThr_modThr (s : State) (k : Nat) (f f' : Thread → Thread) : (s.modThr k f).modThr k f' = s.modThr k fun t => f' (f t) := by
  cases ht : tget s.threads k with
  | none => simp only [State.modThr, tmod, ht]
  | some t => simp only [State.modThr, tmod, ht, tget_tset_same, tset_tset]

/-! ### O49 -/

/-- A thread held at a trailer whose conditions are not met stays there (R140). -/
theorem releaseHeld_unmet {w : TrailWait} (hst : (s.thr k).status = .held .trailer) (hw : (s.thr k).twait = some w) (hm : (s.thr k).trailerMet w = false) : releaseHeld k s = (.ok (), s) := by
  simp [releaseHeld, M.run_bind, hst, hw, hm]
theorem heldRelease_ungated (hst : (s.thr k).status = .held .trailer) : exec (.heldRelease k) s = .next (releaseHeld k s).2 := by
  rw [exec_heldRelease]
  unfold execHeldRelease
  simp only [runEvent_next, M.run_bind, M.run_get, hst]
theorem openGate_mid (ht : tget s.threads k = some t) (hm : t.mid = true) : s.openGate k = s.modThr k fun t => { t with status := .ready, stamp := s.now, resume := some s.now } :=
  State.modThr_congr ht (by simp only [hm, if_true])
theorem openGate_head {st : ThreadStatus} (ht : tget s.threads k = some t) (hm : t.mid = false) (hst : s.headStatus k = st) :
    s.openGate k = s.modThr k fun t => { t with status := st, stamp := s.now } :=
  State.modThr_congr ht (by simp only [hm, hst, Bool.false_eq_true, if_false])
theorem headStatus_ready_of (ht : tget s.threads k = some t) (hg : s.gateClosed (s.launchOf k).tenant = false) (hp : (s.team t.team).preempt = none) : s.headStatus k = .ready := by
  simp [State.headStatus, State.thr_of_some ht, hg, hp]
theorem headStatus_preempt (ht : tget s.threads k = some t) (hp : (s.team t.team).preempt ≠ none) (hh : t.handler = false) (ho : (t.outst.all fun o => 8 ≤ o.dc) = true) :
    s.headStatus k = .held .preempt := by
  simp only [State.headStatus, State.thr_of_some ht, Option.isSome_iff_ne_none.mpr hp, hh, ho, Bool.not_false, Bool.and_self, if_true]

/-! ### O50 -/

theorem missRoom_ok {a : Asker} {ctx va : Nat} (h : ((s.die a.die).missOf ctx va).isSome = true ∨ (s.die a.die).misses.length < Config.missEntries) :
    missRoom a ctx va s = (.ok (), s) := by
  refine M.get_step <| M.ite_step_neg ?_ rfl
  rcases h with h | h
  · simp [Option.isSome_iff_ne_none.mp h]
  · simp [Nat.not_le.mpr h]
theorem missRoom_full {a : Asker} {ctx va : Nat} (hno : (s.die a.die).missOf ctx va = none) (h : Config.missEntries ≤ (s.die a.die).misses.length) :
    missRoom a ctx va s = (.error .hold, s) :=
  M.get_step <| M.ite_step_pos (by simp [hno, h]) rfl
/-- What a page walk does with the end of its walk (R421). -/
def walkEnd (a : Asker) (ctx va acc srcs : Nat) : Walk → M Unit
  | .leaf e => do
    let f ← freeM
    modify fun s => (s.fillTlb a f 3 e).serveMisses a.die e
  | .fault l => do
    let _ ← missPage a ctx va acc srcs l
    pure ()
  | .bad _ => pure ()
theorem pageWalk_eq {a : Asker} {ctx va acc srcs : Nat} {w : Walk} (h : ((s.die a.die).missOf ctx va).isSome = true ∨ (s.die a.die).misses.length < Config.missEntries)
    (hw : walk ctx va s = (.ok w, s1)) : pageWalk a ctx va acc srcs s = walkEnd a ctx va acc srcs w s1 :=
  M.bind_step (missRoom_ok h) <| M.bind_step hw (by cases w <;> rfl)
theorem answer_none {β : Type} {x : Option Miss} {a b : Nat} {retry fatal : Miss → β} {ignore : β} : (x = none ∨ a = 0 ∨ a = 3 ∨ b ≠ 0) →
    (match x, a, b with
      | some m, 1, 0 => retry m
      | some m, 2, 0 => fatal m
      | _, _, _ => ignore) = ignore := by
  intro h
  split
  · simp at h
  · simp at h
  · rfl
theorem faultAnswer_ignored {ans : Word}
    (h : (s.die (bits ans.toNat 62 2)).misses.find? (fun m => m.ticket == low 32 ans.toNat && m.fatal.isNone) = none ∨ bits ans.toNat 60 2 = 0 ∨ bits ans.toNat 60 2 = 3 ∨ bits ans.toNat 32 24 ≠ 0) :
    exec (.faultAnswer ans) s = .next { s with host := { s.host with fansMiss := s.host.fansMiss + 1 } } := by
  rw [exec_faultAnswer]
  unfold execFaultAnswer
  exact runEvent_of (r := .ok ()) <| M.get_step <| congrFun (answer_none h) s
/-- A trap after a fatal answer names no ticket, and its reason (R424). -/
theorem TrapInfo.fatal_spec (i : TrapInfo) (r : Nat) (hc : i.cls = 11) :
    (TrapInfo.fatal i r).cls = (if bits i.det1.toNat 56 8 = 4 then 14 else 11) ∧ low 32 (TrapInfo.fatal i r).det1.toNat = 0 ∧ bits (TrapInfo.fatal i r).det1.toNat 48 8 = low 8 r := by
  have hlt : i.det1.toNat < 2 ^ 64 := i.det1.isLt
  refine ⟨?_, ?_, ?_⟩
  · simp [TrapInfo.fatal, hc]
  · simp only [TrapInfo.fatal, setBits, bits, low, wd, BitVec.toNat_ofNat]
    omega
  · simp only [TrapInfo.fatal, setBits, bits, low, wd, BitVec.toNat_ofNat]
    omega
/-- What a fault replay does for a thread held at a word whose ticket is answered (R424). -/
def replayed (k : Nat) (w : FaultWait) (closed : Bool) : M Unit :=
  match w.answer with
  | some r => takeTrap k (TrapInfo.fatal w.info r)
  | none => if closed then modT k fun t => { t with status := .held .gate } else modify fun s => s.openGate k
theorem faultReplay_answered {w : FaultWait} (ht : tget s.threads k = some t) (hst : t.status = .held .word) (hw : t.faultWait = some w) (he : w.entry = false)
    (ho : s.ticketOpen w.stack w.ticket = false) :
    exec (.faultReplay k) s = .next (replayed k w (s.gateClosed (s.launchOf k).tenant) (s.modThr k fun t => { t with faultWait := none })).2 := by
  rw [exec_faultReplay]
  unfold execFaultReplay replayed
  simp only [runEvent_next, M.run_bind, M.run_get, State.thr_of_some ht, hst, hw, he, ho, Bool.or_self, Bool.false_eq_true, if_false, M.run_modT] <;>
    cases w.answer <;> rfl
theorem atWord_eq {β : Type} (st : ThreadStatus) (x : Option FaultWait) (f : FaultWait → β) (b : β) :
    (match st, x with
      | .held .word, some w => f w
      | _, _ => b) = if st = .held .word then x.elim b f else b := by
  split
  · rfl
  · next hno =>
    split_ifs with hst
    · cases x with
      | none => rfl
      | some w => exact absurd rfl (hno w hst)
    · rfl
theorem faultReplay_open {w : FaultWait} (ht : tget s.threads k = some t) (hw : t.faultWait = some w) (ho : s.ticketOpen w.stack w.ticket = true) : exec (.faultReplay k) s = .next s := by
  rw [exec_faultReplay]
  unfold execFaultReplay
  refine runEvent_of (r := .ok ()) <| M.get_step ?_
  refine (congrFun (atWord_eq _ _ _ _) s).trans ?_
  simp only [State.thr_of_some ht, hw, Option.elim_some, ho, Bool.or_true, if_true, ite_self, M.run_pure]

end Sys2Proof.Machine
open Sys2Proof Sys2Proof.Machine

/-- Settles O49: each release, expiry and timeout looks at its thread and changes what the statement names. -/
theorem timeoutEvents : Obligations.TimeoutEvents := by
  refine ⟨?_, ?_, ?_, ?_, ?_, ?_, ?_⟩
  · intro s k t w ht hst hw hm hgood hback
    have hthr := State.thr_of_some ht
    rw [heldRelease_ungated (hthr ▸ hst), releaseHeld_toHead hthr hst hw hm hgood hback]
    rfl
  · intro s k t w ht hst hw hm
    have hthr := State.thr_of_some ht
    rw [heldRelease_ungated (hthr ▸ hst), releaseHeld_unmet (hthr ▸ hst) (hthr ▸ hw) (hthr ▸ hm)]
  · intro s k hst
    rw [exec_heldRelease]
    unfold execHeldRelease
    simp only [runEvent_next, M.run_bind, M.run_get, hst, M.run_ite]
    split <;> rfl
  · intro s k t ht
    exact ⟨openGate_mid ht, fun hm hg hp => openGate_head ht hm (headStatus_ready_of ht hg hp), fun hm hp hh ho => openGate_head ht hm (headStatus_preempt ht hp hh ho)⟩
  · intro s k t y ht hy
    refine (exec_yieldExpiry k s).trans (runEvent_of (r := .ok ()) ((M.run_modT ..).trans (congrArg (Prod.mk _) ?_)))
    split
    · next hdue => exact State.modThr_congr ht (by simp only [hy, hdue, if_true])
    · next hdue => exact State.modThr_self fun u hu => by cases ht.symm.trans hu; simp only [hy, hdue, if_false]
  · intro s k oid t o off d ht ho hid hw hd hdue
    refine (exec_acwaitTimeout k oid s).trans (runEvent_of (r := .ok ()) ((M.run_modify ..).trans (congrArg (Prod.mk _) (State.modThr_congr ht ?_))))
    simp [ho, hid, hw, hd, hdue, State.thr_of_some ht]
  · intro s k oid o d upto ho hw
    refine (exec_ffenceTimeout k oid s).trans (runEvent_of (r := .ok ()) ((M.run_modify ..).trans (congrArg (Prod.mk _) ?_)))
    simp only [ho, hw]

/-- Settles O50: walks by the way they end, answers by the ticket they name, replays and entries by the thread's wait. -/
theorem faultEvents : Obligations.FaultEvents := by
  refine ⟨?_, ?_, ?_, fun s ans h => faultAnswer_ignored h, ?_, ?_, ?_, ?_, ?_, fun i r hc => TrapInfo.fatal_spec i r hc, ?_, ?_, ?_, fun s u => exec_hostCancel u s⟩
  · intro s req a ha
    subst ha
    refine ⟨exec_pageWalk req s, fun hroom => ⟨fun e s1 hw => ?_, fun r s1 hw => ?_, fun l s1 hw => ?_⟩, fun hno hfull => ?_⟩
    · exact (exec_pageWalk req s).trans (runEvent_of (r := .ok ()) (pageWalk_eq hroom hw))
    · exact (exec_pageWalk req s).trans (runEvent_of (r := .ok ()) (pageWalk_eq hroom hw))
    · rw [exec_pageWalk, execPageWalk, runEvent_next, pageWalk_eq hroom hw]
      exact congrArg Host.Outcome.next (M.snd_bind_pure ..)
    · exact (exec_pageWalk req s).trans (runEvent_of (M.bind_error (missRoom_full hno hfull)))
  · intro s ans d m hd hm hk hz
    subst hd
    rw [exec_faultAnswer]
    unfold execFaultAnswer
    simp only [runEvent_next, M.run_bind, M.run_get, hm, hk, hz, M.run_modify]
  · intro s ans d m hd hm hk hz
    subst hd
    rw [exec_faultAnswer]
    unfold execFaultAnswer
    simp only [runEvent_next, M.run_bind, M.run_get, hm, hk, hz, M.run_modify]
  · intro s d n m hm
    refine (exec_faultTimeout d n s).trans (runEvent_of (r := .ok ()) ((M.run_modify ..).trans (congrArg (Prod.mk _) ?_)))
    simp only [hm]
  · intro s k t w ht hst hw he ho ha hg
    rw [faultReplay_answered ht hst hw he ho, replayed, ha, hg]
    rfl
  · intro s k t w ht hst hw he ho ha hg
    rw [faultReplay_answered ht hst hw he ho, replayed, ha, hg]
    exact congrArg Host.Outcome.next (State.modThr_modThr ..)
  · intro s k t w ht hw ho
    exact faultReplay_open ht hw ho
  · intro s k t w r ht hst hw he ho ha
    rw [faultReplay_answered ht hst hw he ho, replayed, ha]
  · intro s k t i ht hno
    rw [exec_trapEntry]
    unfold execTrapEntry
    simp only [runEvent_next, M.run_bind, M.run_get, ht, Option.isNone_some, Bool.false_eq_true, if_false, State.thr_of_some ht, hno, M.run_modT]
  · intro s k t i w ht hw he ha
    rw [exec_trapEntry]
    unfold execTrapEntry
    have hans : (t.faultWait.elim false fun w => w.entry && w.answer.isSome) = true := by simp [hw, he, Option.isSome_iff_ne_none.mpr ha]
    simp only [runEvent_next, M.run_bind, M.run_get, ht, Option.isNone_some, Bool.false_eq_true, if_false, State.thr_of_some ht, hans, if_true, M.run_modify]
  · intro s k i ht
    rw [exec_trapEntry]
    unfold execTrapEntry
    simp only [runEvent_next, M.run_bind, M.run_get, ht, Option.isNone_none, if_true, M.run_pure]
end

section
/-! PROOFS. The cycle and the picker: O48. -/
namespace Sys2Proof.Machine

theorem mem_insertBy {α : Type} {lt : α → α → Bool} {a b : α} {l : List α} : b ∈ insertBy lt a l ↔ b = a ∨ b ∈ l := by
  induction l with
  | nil => simp [insertBy]
  | cons x r ih =>
    unfold insertBy
    split
    · simp
    · simp only [List.mem_cons, ih]
      exact or_left_comm
theorem mem_sortBy {α : Type} {lt : α → α → Bool} {b : α} {l : List α} : b ∈ sortBy lt l ↔ b ∈ l := by
  induction l with
  | nil => simp [sortBy]
  | cons x r ih => simp only [sortBy, mem_insertBy, ih, List.mem_cons]

/-! ### One thread of each home lane -/

theorem perLane_pairwise (l : List (Nat × Nat)) (acc : List Nat) (h : acc.Pairwise fun a b => keyLane a ≠ keyLane b) : (perLane l acc).Pairwise fun a b => keyLane a ≠ keyLane b := by
  induction l generalizing acc with
  | nil => exact h
  | cons e r ih =>
    unfold perLane
    split
    · exact ih acc h
    · next hnew =>
      refine ih _ (List.pairwise_append.mpr ⟨h, List.pairwise_singleton .., fun a ha b hb => ?_⟩)
      obtain rfl := List.mem_singleton.mp hb
      exact fun he => hnew (List.any_eq_true.mpr ⟨a, ha, beq_iff_eq.mpr he⟩)
theorem mem_perLane {k : Nat} (l : List (Nat × Nat)) (acc : List Nat) (h : k ∈ perLane l acc) : k ∈ acc ∨ k ∈ l.map (·.2) := by
  induction l generalizing acc with
  | nil => exact .inl h
  | cons e r ih =>
    unfold perLane at h
    split at h
    · exact (ih acc h).imp_right (List.mem_cons_of_mem _)
    · rcases ih _ h with ha | hr
      · rcases List.mem_append.mp ha with ha | ha
        · exact .inl ha
        · exact .inr (List.mem_cons.mpr (.inl (List.mem_singleton.mp ha)))
      · exact .inr (List.mem_cons_of_mem _ hr)

/-! ### What stands for issue -/

theorem mem_admitted {s : State} {l : List Nat} {k : Nat} (h : k ∈ s.admitted l) : k ∈ l := by
  have hfold : ∀ (gs : List (Nat × Gang)) (f : Used → Nat × Gang → Option Used) (r : Used × List Nat),
      k ∈ (gs.foldl (fun r e => match f r.1 e with | some u => (u, r.2 ++ [e.1]) | none => r) r).2 → k ∈ r.2 ∨ k ∈ gs.map (·.1) := by
    intro gs f
    induction gs with
    | nil => exact fun r hk => .inl hk
    | cons e gs ih =>
      intro r hk
      rcases ih _ hk with hr | hg
      · dsimp only at hr
        split at hr
        · rcases List.mem_append.mp hr with hr | hr
          · exact .inl hr
          · exact .inr (List.mem_cons.mpr (.inl (List.mem_singleton.mp hr)))
        · exact .inl hr
      · exact .inr (List.mem_cons_of_mem _ hg)
  rcases hfold _ (fun u e => u.takes ((e.2.members.filter fun k => !e.2.done.contains k).map keyLane) (s.peek e.2)) _ h with hn | hm
  · cases hn
  · obtain ⟨e, he, rfl⟩ := List.mem_map.mp hm
    obtain ⟨id, hid, hg⟩ := List.mem_filterMap.mp (mem_sortBy.mp he)
    obtain ⟨g, -, rfl⟩ := Option.map_eq_some_iff.mp hg
    exact hid
theorem length_formHeads (c n : Nat) (hs : List Head) (s : State) (l : List Nat) (hl : l.length ≤ 4) : (formHeads c n hs s l).2.length ≤ 4 := by
  induction n generalizing hs s l with
  | zero => exact hl
  | succ n ih =>
    unfold formHeads
    split
    · exact hl
    · next hfew =>
      split
      · exact hl
      · refine ih _ _ _ ?_
        simp only [Bool.or_eq_true, decide_eq_true_eq, not_or, not_le] at hfew
        simp only [List.length_append, List.length_singleton]
        omega

/-- A gang of core c stands under an id: chosen by the picker, or held at its word. -/
def StandsAt (c : Nat) (gangs : Tbl Gang) (chosen : List Nat) (id : Nat) : Prop := ∃ e, e ∈ gangs ∧ e.1 = id ∧ e.2.core = c ∧ (e.2.held = true ∨ id ∈ chosen)
theorem mem_tset_self {α : Type} (l : Tbl α) (k : Nat) (v : α) : (k, v) ∈ tset l k v := by
  induction l with
  | nil => exact List.mem_singleton.mpr rfl
  | cons e r ih =>
    unfold tset
    split_ifs
    · exact List.mem_cons_self
    · exact List.mem_cons_self
    · exact List.mem_cons_of_mem _ ih
theorem mem_tset_of_mem {α : Type} {l : Tbl α} {k : Nat} {v : α} {e : Nat × α} (h : e ∈ l) : e ∈ tset l k v ∨ e.1 = k := by
  induction l with
  | nil => cases h
  | cons x r ih =>
    unfold tset
    split_ifs with h1 h2
    · exact .inl (List.mem_cons_of_mem _ h)
    · rcases List.mem_cons.mp h with rfl | hr
      · exact .inr h2.symm
      · exact .inl (List.mem_cons_of_mem _ hr)
    · rcases List.mem_cons.mp h with rfl | hr
      · exact .inl List.mem_cons_self
      · exact (ih hr).imp_left (List.mem_cons_of_mem _)
/-- A gang that is formed leaves every other one standing, and stands itself. -/
theorem StandsAt.form {c id n : Nat} {gangs : Tbl Gang} {chosen : List Nat} {g : Gang} (hg : g.core = c) (h : StandsAt c gangs chosen id) :
    StandsAt c (tset gangs n g) (chosen ++ [n]) id := by
  obtain ⟨e, he, hid, hc, hst⟩ := h
  rcases mem_tset_of_mem (k := n) (v := g) he with hm | hn
  · exact ⟨e, hm, hid, hc, hst.imp_right (List.mem_append_left _)⟩
  · exact ⟨(n, g), mem_tset_self .., hn.symm.trans hid, hg, .inr (by simp [← hid, hn])⟩
theorem foldl_modThr {P : State → Prop} (f : Nat → Thread → Thread) (hP : ∀ (s : State) k g, P s → P (s.modThr k g)) {β : Type} (l : List β) (key : β → Nat) (s : State) (h : P s) :
    P (l.foldl (fun s e => s.modThr (key e) (f (key e))) s) := by
  induction l generalizing s with
  | nil => exact h
  | cons e r ih => exact ih _ (hP _ _ _ h)
/-- The parts of the state that the picker's gathering and spending leave alone. -/
theorem State.gathered_keeps (s : State) (ks : List Nat) : (s.gathered ks).gangs = s.gangs ∧ (s.gathered ks).nextId = s.nextId ∧ (s.gathered ks).issueQ = s.issueQ :=
  foldl_modThr (P := fun t => t.gangs = s.gangs ∧ t.nextId = s.nextId ∧ t.issueQ = s.issueQ) (fun _ t => { t with status := .gathered, resume := none, yielded := none })
    (fun _ _ _ h => h) ks id s ⟨rfl, rfl, rfl⟩
theorem State.spendBits_keeps (s : State) (hs : List Head) : (s.spendBits hs).gangs = s.gangs ∧ (s.spendBits hs).issueQ = s.issueQ :=
  foldl_modThr (β := Nat × Nat) (P := fun t => t.gangs = s.gangs ∧ t.issueQ = s.issueQ) (fun _ t => { t with yieldBit := false }) (fun _ _ _ h => h)
    (List.flatMap Head.threads hs) (fun e => e.2) s ⟨rfl, rfl⟩
theorem State.form_gangs (s : State) (g : Gang) : (s.form g).gangs = tset s.gangs s.nextId g := by
  obtain ⟨hg, hn, -⟩ := s.gathered_keeps g.members
  simp only [State.form, hg, hn]
theorem State.form_issueQ (s : State) (g : Gang) : (s.form g).issueQ = s.issueQ := (s.gathered_keeps g.members).2.2
theorem State.formSolos_issueQ (s : State) (c : Nat) : (s.formSolos c).issueQ = s.issueQ := by
  unfold State.formSolos
  simp only
  generalize sortBy olderThread _ = ws
  induction ws generalizing s with
  | nil => rfl
  | cons w r ih =>
    simp only [List.foldl_cons]
    split
    · exact ih s
    · exact (ih _).trans (s.form_issueQ _)
theorem formHeads_issueQ (c n : Nat) (hs : List Head) (s : State) (l : List Nat) : (formHeads c n hs s l).1.issueQ = s.issueQ := by
  induction n generalizing hs s l with
  | zero => rfl
  | succ n ih =>
    unfold formHeads
    split
    · rfl
    · split
      · rfl
      · exact (ih _ _ _).trans (s.form_issueQ _)
/-- The gang that the picker of core c forms at a head (R141). -/
def Head.gang (c : Nat) (s : State) (h : Head) : Gang :=
  { core := c, launch := s.launchAt h, code := h.code,
    members := sortBy (fun a b => decide (a < b)) (perLane (h.threads.filter fun e => (s.team (s.thr e.2).team).launch == s.launchAt h) []),
    runStart := s.now, pc := h.pc, nextIssue := s.now, count := 0, fromHead := true, solo := false, port := none, done := [], held := false }
/-- What stands before the heads are formed stands after it, and so does every gang chosen. -/
theorem formHeads_stands {c : Nat} (n : Nat) (hs : List Head) (s : State) (l : List Nat) (hl : ∀ id, id ∈ l → StandsAt c s.gangs l id) :
    (∀ id, StandsAt c s.gangs l id → StandsAt c (formHeads c n hs s l).1.gangs (formHeads c n hs s l).2 id)
    ∧ ∀ id, id ∈ (formHeads c n hs s l).2 → StandsAt c (formHeads c n hs s l).1.gangs (formHeads c n hs s l).2 id := by
  induction n generalizing hs s l with
  | zero => exact ⟨fun _ h => h, hl⟩
  | succ n ih =>
    unfold formHeads
    split
    · exact ⟨fun _ h => h, hl⟩
    · split
      · exact ⟨fun _ h => h, hl⟩
      · next h hbest =>
        have hform : ∀ g : Gang, g.core = c → ∀ id, StandsAt c s.gangs l id → StandsAt c (s.form g).gangs (l ++ [s.nextId]) id := fun g hg id hid => by
          rw [s.form_gangs]
          exact hid.form hg
        have hnew : ∀ g : Gang, g.core = c → ∀ id, id ∈ l ++ [s.nextId] → StandsAt c (s.form g).gangs (l ++ [s.nextId]) id := fun g hg id hid => by
          rcases List.mem_append.mp hid with hid | hid
          · exact hform g hg id (hl id hid)
          · obtain rfl := List.mem_singleton.mp hid
            rw [s.form_gangs]
            exact ⟨_, mem_tset_self .., rfl, hg, .inr (List.mem_append_right _ (List.mem_singleton.mpr rfl))⟩
        exact ⟨fun id hid => (ih _ _ _ (hnew (h.gang c s) rfl)).1 id (hform _ rfl id hid), (ih _ _ _ (hnew (h.gang c s) rfl)).2⟩
theorem mem_pickCore_issueQ {s : State} {c gid : Nat} (h : gid ∈ (s.pickCore c).issueQ) :
    gid ∈ s.issueQ ∨ ∃ e, e ∈ (s.pickCore c).gangs ∧ e.1 = gid ∧ e.2.core = c ∧ (e.2.port.isSome = true ∨ e.2.held = true) := by
  unfold State.pickCore at h ⊢
  simp only at h ⊢
  generalize hs1 : s.formSolos c = s1 at h ⊢
  have hq : s1.issueQ = s.issueQ := hs1 ▸ s.formSolos_issueQ c
  generalize hdue : sortBy (fun a b => a.2.before b.2) ((s1.gangsOf c).filter fun e => e.2.nextIssue ≤ s1.now) = due at h ⊢
  have hmem : ∀ e, e ∈ due → e ∈ s1.gangs ∧ e.2.core = c := fun e he => by
    rw [← hdue, mem_sortBy] at he
    simpa [State.gangsOf] using (List.mem_filter.mp he).1
  generalize hr : formHeads c 4 ((s1.heads c).take 64) s1 (((due.filter fun e => !e.2.held).take 4).map (·.1)) = r at h ⊢
  obtain ⟨hkeep, hall⟩ := formHeads_stands (c := c) 4 ((s1.heads c).take 64) s1 (((due.filter fun e => !e.2.held).take 4).map (·.1)) fun id hid => by
    obtain ⟨e, he, rfl⟩ := List.mem_map.mp hid
    obtain ⟨hin, hc⟩ := hmem e (List.mem_filter.mp (List.mem_of_mem_take he)).1
    exact ⟨e, hin, rfl, hc, .inr hid⟩
  have hri := formHeads_issueQ c 4 ((s1.heads c).take 64) s1 (((due.filter fun e => !e.2.held).take 4).map (·.1))
  rw [hr] at hkeep hall hri
  obtain ⟨hsg, hsi⟩ := r.1.spendBits_keeps (s1.heads c)
  rw [hsi, hri, hq] at h
  have hported : StandsAt c r.1.gangs r.2 gid → ∃ e, e ∈ (r.1.spendBits (s1.heads c)).gangs.map (fun e => if e.2.core == c then (e.1, { e.2 with port := if r.2.contains e.1 then some (r.2.idxOf e.1) else none }) else e)
      ∧ e.1 = gid ∧ e.2.core = c ∧ (e.2.port.isSome = true ∨ e.2.held = true) := by
    rintro ⟨e, he, rfl, hc, hst⟩
    refine ⟨_, List.mem_map.mpr ⟨e, hsg ▸ he, rfl⟩, ?_⟩
    simp only [hc, beq_self_eq_true, if_true, true_and]
    rcases hst with hheld | hin
    · exact .inr hheld
    · simp [hin]
  rcases List.mem_append.mp h with h | h
  · rcases List.mem_append.mp h with h | h
    · exact .inl h
    · exact .inr (hported (hall gid (mem_admitted h)))
  · obtain ⟨e, he, rfl⟩ := List.mem_map.mp h
    obtain ⟨hdue', hheld⟩ := List.mem_filter.mp he
    obtain ⟨hin, hc⟩ := hmem e hdue'
    exact .inr (hported (hkeep e.1 ⟨e, hin, rfl, hc, .inl hheld⟩))

end Sys2Proof.Machine
open Sys2Proof Sys2Proof.Machine

/-- Settles O48: the cycle in its order, the arithmetic of a tick, and inductions over the picker's lists. -/
theorem pickerCycle : Obligations.PickerCycle := by
  refine ⟨fun s t ht => ?_, fun s => ⟨rfl, ?_, rfl, rfl⟩, fun l => perLane_pairwise l [] List.Pairwise.nil, fun l k hk => ?_, fun c n hs s l hl => length_formHeads c n hs s l hl,
    fun s l k => mem_admitted, fun s c gid => mem_pickCore_issueQ⟩
  · exact (exec_pickerCycle s).trans (runEvent_of (r := .ok ()) <| M.bind_step (M.run_modify ..) <| M.bind_step ht (M.run_modify ..))
  · have hdiv := Nat.div_add_mod (s.podTick + Config.ticksPerCycle) Config.ticksPerNs
    simp only [State.tick, Nat.add_mul, Nat.mul_comm ((s.podTick + Config.ticksPerCycle) / Config.ticksPerNs)]
    omega
  · exact (mem_perLane l [] hk).resolve_left List.not_mem_nil
end

section
/-! PROOFS. Errors and their counters: O60. -/
namespace Sys2Proof.Machine

/-! ### What a packet sent on its way changes -/

/-- A state that differs from another in its fabric, its agenda and the sequence numbers of its domains at most. -/
def OnWire (s t : State) : Prop := ∃ f a d, t = { s with fabric := f, agenda := a, trust := { s.trust with domains := d } }
theorem OnWire.refl (s : State) : OnWire s s := ⟨_, _, _, rfl⟩
theorem OnWire.trans {s t u : State} (h : OnWire s t) (h' : OnWire t u) : OnWire s u := by
  obtain ⟨f, a, d, rfl⟩ := h
  obtain ⟨f', a', d', rfl⟩ := h'
  exact ⟨f', a', d', rfl⟩
theorem State.enqueue_onWire (s : State) (p : Packet) : OnWire s (s.enqueue p) := by
  unfold State.enqueue
  split
  · exact ⟨_, _, _, rfl⟩
  · exact ⟨_, _, _, rfl⟩
theorem State.route_onWire (s : State) (p : Packet) : OnWire s (s.route p) := by
  unfold State.route
  split
  · exact ⟨_, _, _, rfl⟩
  · split
    · split
      · exact ⟨_, _, _, rfl⟩
      · exact OnWire.refl s
    · exact s.enqueue_onWire p
theorem State.sealed_onWire (s : State) (d : Nat) (p : Packet) : OnWire s (s.sealed d p).2 := by
  unfold State.sealed
  split
  · exact OnWire.refl s
  · exact ⟨_, _, _, rfl⟩
/-- A packet of class 1, which no request of this device waits for, is dropped or sent. -/
theorem State.dropAs_onWire {s : State} {p : Packet} (hk : 4 ≤ p.kind) (st : Nat) : OnWire s (s.dropAs p st) := by
  unfold State.dropAs
  dsimp only
  split
  · omega
  · omega
  · omega
  · omega
  · split
    · exact ⟨_, _, _, rfl⟩
    · exact OnWire.refl s
theorem State.send_onWire {s : State} {p : Packet} (hk : 4 ≤ p.kind) (d : Nat) : OnWire s (s.send d p) := by
  unfold State.send
  split
  · exact State.dropAs_onWire hk 1
  · split
    · exact State.dropAs_onWire hk 6
    · exact (s.sealed_onWire d p).trans (State.route_onWire _ _)
theorem State.respond_onWire (s : State) (p : Packet) {kind : Nat} (hk : 4 ≤ kind) (st : Nat) (b : Bytes) (r : WinRec) (c : Option Nat) : OnWire s (s.respond p kind st b r c) :=
  State.send_onWire hk _

/-! ### Faults of words -/

/-- What a service group's fault leaves alone when its atomics end with an error. -/
theorem State.failAtomics_keeps (s : State) (c : Nat) :
    (s.failAtomics c).mem = s.mem ∧ (s.failAtomics c).clusters = s.clusters ∧ (s.failAtomics c).now = s.now ∧ ∃ d, (s.failAtomics c).trust = { s.trust with domains := d } := by
  refine List.foldlRecOn (motive := fun t : State => t.mem = s.mem ∧ t.clusters = s.clusters ∧ t.now = s.now ∧ ∃ d, t.trust = { s.trust with domains := d }) _ _ ⟨rfl, rfl, rfl, _, rfl⟩
    fun t ht a _ => ?_
  dsimp only
  split
  · exact ht
  · next p hp =>
    obtain ⟨f, ag, d, he⟩ := t.nextFree.2.respond_onWire p (by decide : 4 ≤ 8) (1 + t.nextFree.1 % 9) [] WinRec.empty none
    obtain ⟨hm, hc, hn, d', hd⟩ := ht
    rw [he]
    exact ⟨hm, hc, hn, d, by simp [State.nextFree, hd]⟩
theorem State.askReplace_eq (s : State) (n : Nat) : ∃ l, s.askReplace n = { s with trust := { s.trust with replaceReq := l } } ∧ n ∈ l := by
  unfold State.askReplace
  split
  · next h => exact ⟨s.trust.replaceReq, rfl, List.contains_iff_mem.mp h⟩
  · exact ⟨_, rfl, List.mem_append_right _ (List.mem_singleton.mpr rfl)⟩
/-- What counting an uncorrectable SRAM word changes. -/
theorem State.countSramu_eq (s : State) : ∃ l l', s.countSramu = { s with trust := { s.trust with sramu := s.trust.sramu + 1, sramuTimes := l, replaceReq := l' } } := by
  unfold State.countSramu
  dsimp only
  split
  · obtain ⟨l, he, -⟩ := (s.setTrust fun t => { t with sramu := t.sramu + 1, sramuTimes := lastHour s.now s.trust.sramuTimes }).askReplace_eq 1
    exact ⟨_, l, he⟩
  · exact ⟨_, _, rfl⟩
theorem State.countHbmu_eq (s : State) : ∃ l l', s.countHbmu = { s with trust := { s.trust with hbmu := s.trust.hbmu + 1, hbmuTimes := l, replaceReq := l' } } := by
  unfold State.countHbmu
  dsimp only
  split
  · obtain ⟨l, he, -⟩ := (s.setTrust fun t => { t with hbmu := t.hbmu + 1, hbmuTimes := lastHour s.now s.trust.hbmuTimes }).askReplace_eq 3
    exact ⟨_, l, he⟩
  · exact ⟨_, _, rfl⟩
theorem exec_sramError_unc (s : State) (p : SramPlace) : exec (.sramError ⟨p, true⟩) s = .next (s.zeroPlace p).countSramu := exec_sramError _ s
/-- Every place that a word is read from keeps the count of the words that could not be corrected. -/
theorem State.zeroPlace_sramu (s : State) (p : SramPlace) : (s.zeroPlace p).trust.sramu = s.trust.sramu := by
  cases p with
  | serviceGroup c =>
    obtain ⟨-, -, -, d, hd⟩ := (s.modCluster c fun x => { x with faulted := true }).failAtomics_keeps c
    exact (congrArg Trust.sramu hd).trans rfl
  | _ => rfl
theorem memGet_zeros {m : List Host.Cell} (hm : Memory.wf m = true) (a n x : Nat) : memGet (memPutN m a (List.replicate n 0)) x = if a ≤ x ∧ x < a + n then 0 else memGet m x := by
  rw [memGet_memPutN _ _ _ hm]
  simp only [List.length_replicate]
  split_ifs
  · simp [List.getD_eq_getElem?_getD, List.getElem?_replicate]
    split <;> rfl
  · rfl

/-! ### Slices written -/

theorem Thread.base_slice_put_slice {t : Thread} (hw : dwf 0 t.slices = true) (n v j : Nat) :
    (t.put (.slice n) v).base (.slice j) = (if j = n then v % 16 else t.base (.slice j)) ∧ dwf 0 (t.put (.slice n) v).slices = true := by
  refine ⟨?_, dwf_dset n _ hw⟩
  simp only [Thread.base, Thread.put, dget_dset n j _ hw]
  split_ifs <;> simp
/-- Slices of a thread after writes to slices: the last write to a slice stays. -/
theorem Thread.base_slice_putAll {ws : List (Nat × Nat)} {t : Thread} (hw : dwf 0 t.slices = true) (j : Nat) (f : Nat → Nat) (hf : ∀ w, w ∈ ws → w.2 = f w.1) :
    (t.putAll (ws.map fun w => (Loc.slice w.1, w.2))).base (.slice j) = if j ∈ ws.map (·.1) then f j % 16 else t.base (.slice j) := by
  induction ws generalizing t with
  | nil => rfl
  | cons w r ih =>
    obtain ⟨hbase, hwf⟩ := Thread.base_slice_put_slice hw w.1 w.2 j
    have hr := ih hwf fun w hw => hf w (List.mem_cons_of_mem _ hw)
    refine hr.trans ?_
    rw [hbase, hf w List.mem_cons_self]
    simp only [List.map_cons, List.mem_cons]
    by_cases h1 : j ∈ r.map (·.1)
    · simp [h1]
    · by_cases h2 : j = w.1 <;> simp [h1, h2]

end Sys2Proof.Machine
open Sys2Proof Sys2Proof.Machine

/-- Settles O60: each error by its place, and the counters that it raises. -/
theorem errorEvents : Obligations.ErrorEvents := by
  refine ⟨fun s p => exec_sramError _ s, fun s p => ?_, fun s i n hi hwf => ?_, fun s k t n j ht hwf => ?_, fun s c => ?_, fun s c => ?_, fun s l w => exec_hbm4eError l w false s,
    fun s l w hwf => ?_, fun s hl => ?_, fun s hl => ?_⟩
  · obtain ⟨l, l', he⟩ := (s.zeroPlace p).countSramu_eq
    exact ⟨_, exec_sramError_unc s p, by rw [he, ← s.zeroPlace_sramu p]⟩
  · obtain ⟨l, l', he⟩ := (s.zeroPlace (.scratchpad i n)).countSramu_eq
    refine ⟨_, exec_sramError_unc s _, by rw [he]; rfl, fun a => ?_⟩
    have hteam : (s.zeroPlace (.scratchpad i n)).team i = { s.team i with spad := memPutN (s.team i).spad (n / 8 * 8) (List.replicate 8 0) } := State.team_modTeam_same _ hi
    rw [he]
    change memGet ((s.zeroPlace (.scratchpad i n)).team i).spad a = _
    rw [hteam, memGet_zeros hwf]
    congr 1
    exact propext ⟨fun ⟨h1, h2⟩ => by omega, fun h => by omega⟩
  · obtain ⟨l, l', he⟩ := (s.zeroPlace (.slices k n)).countSramu_eq
    refine ⟨_, exec_sramError_unc s _, by rw [he]; rfl, ?_⟩
    rw [he]
    change ((s.zeroPlace (.slices k n)).thr k).base (.slice j) = _
    have hthr : (s.zeroPlace (.slices k n)).thr k = t.putAll (((List.range 16).map fun i => (n / 16 * 16 + i, 0)).map fun w => (Loc.slice w.1, w.2)) := by
      simp [State.zeroPlace, State.thr_modThr _ ht, List.map_map, Function.comp_def]
    rw [hthr, Thread.base_slice_putAll hwf j (fun _ => 0) (by simp)]
    congr 1
    simp only [List.map_map, List.mem_map, List.mem_range, Function.comp_apply, eq_iff_iff]
    exact ⟨fun ⟨i, hi, hj⟩ => by omega, fun h => ⟨j % 16, by omega, by omega⟩⟩
  · obtain ⟨l, l', he⟩ := (s.zeroPlace (.serviceGroup c)).countSramu_eq
    obtain ⟨hm, hc, -, -⟩ := (s.modCluster c fun x => { x with faulted := true }).failAtomics_keeps c
    refine ⟨_, exec_sramError_unc s _, ?_, by rw [he]; exact hm⟩
    rw [he]
    change (((s.modCluster c fun x => { x with faulted := true }).failAtomics c).cluster c).faulted = true
    rw [State.cluster, hc]
    simp [State.modCluster, tget_tset_same]
  · exact ⟨_, exec_serviceGroupRestart c s, by simp [State.cluster, State.modCluster, tget_tset_same], rfl, rfl⟩
  · obtain ⟨l1, l2, he⟩ := ({ s with mem := memPutN s.mem (128 * l + 8 * (w % 16)) (List.replicate 8 0) } : State).countHbmu_eq
    refine ⟨_, exec_hbm4eError l w true s, ?_⟩
    change (State.countHbmu _).trust.hbmu = _ ∧ (State.countHbmu _).hostMem = _ ∧ ∀ a, memGet (State.countHbmu _).mem a = _
    rw [he]
    exact ⟨rfl, rfl, fun a => memGet_zeros hwf _ _ a⟩
  · obtain ⟨l, he, hl'⟩ := (s.setTrust fun t => { t with sramu := t.sramu + 1, sramuTimes := lastHour s.now s.trust.sramuTimes }).askReplace_eq 1
    simp only [State.countSramu, hl, if_true, he]
    exact hl'
  · simp only [State.countSramu, Nat.not_le.mpr hl, if_false, State.setTrust]
end

section
/-! PROOFS. What actions leave as it was, and the frame of words on registers: O45 and O46. -/
namespace Sys2Proof.Machine

/-! ### Frames of actions -/

/-- A relation between the state before and after that every action of a sequence keeps, so the sequence does. -/
structure IsFrame (R : State → State → Prop) : Prop where
  refl : ∀ s, R s s
  trans : ∀ {s t u}, R s t → R t u → R s u
/-- From whatever state an action starts, an answer that it gives has a property, and the state after it stands in a relation to the one before. -/
def M.Ensures {α : Type} (R : State → State → Prop) (P : α → Prop) (m : M α) : Prop := ∀ s a s', m s = (.ok a, s') → P a ∧ R s s'

section
variable {α β : Type} {R : State → State → Prop} {P : α → Prop} {Q : β → Prop} {m : M α} {f : α → M β}

theorem M.Ensures.pure (hR : IsFrame R) {a : α} (h : P a) : M.Ensures R P (Pure.pure a) := by
  intro s b s' hm
  cases hm
  exact ⟨h, hR.refl s⟩
theorem M.Ensures.bind (hR : IsFrame R) (hm : M.Ensures R P m) (hf : ∀ a, P a → M.Ensures R Q (f a)) : M.Ensures R Q (m >>= f) := by
  intro s b s' h
  obtain ⟨a, t, ha, hb⟩ := M.bind_eq_ok.mp h
  obtain ⟨hp, hst⟩ := hm s a t ha
  obtain ⟨hq, hts⟩ := hf a hp t b s' hb
  exact ⟨hq, hR.trans hst hts⟩
theorem M.Ensures.get_bind {f : State → M β} (hf : ∀ s, M.Ensures R Q (f s)) : M.Ensures R Q ((get : M State) >>= f) := fun s => hf s s
theorem M.Ensures.getT_bind {k : Nat} {f : Thread → M β} (hf : ∀ t, M.Ensures R Q (f t)) : M.Ensures R Q (getT k >>= f) := fun s => hf (s.thr k) s
theorem M.Ensures.modify {f : State → State} {P : Unit → Prop} (h : ∀ s, R s (f s)) (hp : P ()) : M.Ensures R P (modify f) := by
  intro s a s' hm
  cases hm
  exact ⟨hp, h s⟩
theorem M.Ensures.error {e : Stop} : M.Ensures R P (throw e : M α) := by
  intro s a s' hm
  cases hm
theorem M.Ensures.ite {c : Prop} [Decidable c] {m n : M α} (hm : c → M.Ensures R P m) (hn : ¬ c → M.Ensures R P n) : M.Ensures R P (if c then m else n) := by
  split
  · next h => exact hm h
  · next h => exact hn h
theorem M.Ensures.imp {P' : α → Prop} (h : M.Ensures R P m) (hp : ∀ a, P a → P' a) : M.Ensures R P' m := fun s a s' hm => ⟨hp a (h s a s' hm).1, (h s a s' hm).2⟩
theorem M.Ensures.forM' (hR : IsFrame R) {l : List α} {f : α → M Unit} (h : ∀ a, a ∈ l → M.Ensures R (fun _ => True) (f a)) : M.Ensures R (fun _ => True) (forM' l f) := by
  induction l with
  | nil => exact M.Ensures.pure hR trivial
  | cons a r ih => exact (h a List.mem_cons_self).bind hR fun _ _ => ih fun b hb => h b (List.mem_cons_of_mem _ hb)
theorem M.Ensures.mapM' (hR : IsFrame R) {l : List α} {f : α → M β} (h : ∀ a, a ∈ l → M.Ensures R Q (f a)) : M.Ensures R (fun bs : List β => ∀ b, b ∈ bs → Q b) (mapM' f l) := by
  induction l with
  | nil => exact M.Ensures.pure hR fun b hb => absurd hb List.not_mem_nil
  | cons a r ih =>
    refine (h a List.mem_cons_self).bind hR fun b hb => (ih fun c hc => h c (List.mem_cons_of_mem _ hc)).bind hR fun bs hbs => M.Ensures.pure hR fun x hx => ?_
    rcases List.mem_cons.mp hx with rfl | hx
    · exact hb
    · exact hbs x hx
end

/-! ### Operands that are no stream ports -/

/-- Nothing but the number of free values taken differs. -/
def OnlyFree (s t : State) : Prop := ∃ n, t = { s with free := n }
theorem onlyFree_isFrame : IsFrame OnlyFree where
  refl s := ⟨s.free, rfl⟩
  trans := by
    rintro s _ _ ⟨n, rfl⟩ ⟨n', rfl⟩
    exact ⟨n', rfl⟩
/-- No stream port. -/
def Res.noPort : Res → Bool
  | .port _ _ => false
  | _ => true
theorem freeM_onlyFree : M.Ensures OnlyFree (fun _ => True) freeM := by
  intro s a s' h
  cases h
  exact ⟨trivial, _, rfl⟩
theorem readLoc_onlyFree (k : Nat) (l : Loc) : M.Ensures OnlyFree (fun _ => True) (readLoc k l) :=
  .getT_bind fun _ => .ite (fun _ => .error) fun _ => .ite
    (fun _ => .ite (fun _ => .error) fun _ => freeM_onlyFree.bind onlyFree_isFrame fun _ _ => .pure onlyFree_isFrame trivial) fun _ => .pure onlyFree_isFrame trivial
theorem readSlices_onlyFree (k f n : Nat) : M.Ensures OnlyFree (fun _ => True) (readSlices k f n) := by
  induction n generalizing f with
  | zero => exact .pure onlyFree_isFrame trivial
  | succ n ih => exact (readLoc_onlyFree k _).bind onlyFree_isFrame fun _ _ => (ih _).bind onlyFree_isFrame fun _ _ => .pure onlyFree_isFrame trivial
theorem resolveOp_noPort {k : Nat} {op : Operand} (cnt : Option Nat) (h : plainOperand op = true) : M.Ensures OnlyFree (fun r => r.noPort = true) (resolveOp k op cnt) := by
  refine .getT_bind fun t => ?_
  cases op with
  | slice st w => exact .pure onlyFree_isFrame rfl
  | special c w =>
    have hp : ¬ (16 ≤ c.toNat ∧ c.toNat < 24) := by
      simp only [plainOperand, Bool.not_eq_true', Bool.and_eq_false_iff, decide_eq_false_iff_not] at h
      omega
    exact .ite (fun _ => .pure onlyFree_isFrame rfl) fun h16 => .ite (fun h24 => absurd ⟨Nat.not_lt.mp h16, h24⟩ hp) fun _ => .ite (fun _ => .pure onlyFree_isFrame rfl) fun _ =>
      .ite (fun _ => .pure onlyFree_isFrame rfl) fun _ => .ite (fun _ => .pure onlyFree_isFrame rfl) fun _ => .pure onlyFree_isFrame rfl
  | indexed x off w => exact (readLoc_onlyFree k _).bind onlyFree_isFrame fun _ _ => .ite (fun _ => .error) fun _ => .pure onlyFree_isFrame rfl
  | imm v => exact .pure onlyFree_isFrame rfl
theorem boundRes_onlyFree (k : Nat) (r : Res) : M.Ensures OnlyFree (fun _ => True) (boundRes k r) := by
  refine .getT_bind fun t => ?_
  cases r with
  | slices f n => exact .ite (fun _ => .error) fun _ => .pure onlyFree_isFrame trivial
  | _ => exact .pure onlyFree_isFrame trivial
theorem streamUses_none (k : Nat) (prior : List Nat) (l : List (Res × Bool)) (h : ∀ x, x ∈ l → x.1.noPort = true) : M.Ensures OnlyFree (fun us => ∀ u, u ∈ us → u = none) (streamUses k prior l) := by
  induction l with
  | nil => exact .pure onlyFree_isFrame fun u hu => absurd hu List.not_mem_nil
  | cons x r ih =>
    obtain ⟨res, st⟩ := x
    have hx := h _ List.mem_cons_self
    have hr := ih fun y hy => h y (List.mem_cons_of_mem _ hy)
    cases res with
    | port p w => cases hx
    | _ => exact hr.bind onlyFree_isFrame fun us hus => .pure onlyFree_isFrame fun u hu => (List.mem_cons.mp hu).elim id (hus u)
theorem streamElems_none (k : Nat) (l : List (Option Nat × Bool)) (h : ∀ x, x ∈ l → x.1 = none) : M.Ensures OnlyFree (fun _ => True) (streamElems k l) := by
  induction l with
  | nil => exact .pure onlyFree_isFrame trivial
  | cons x r ih =>
    obtain ⟨u, st⟩ := x
    obtain rfl : u = none := h _ List.mem_cons_self
    exact (ih fun y hy => h y (List.mem_cons_of_mem _ hy)).bind onlyFree_isFrame fun _ _ => .pure onlyFree_isFrame trivial
theorem readRes_onlyFree (k : Nat) (r : Res) (e : Nat) : M.Ensures OnlyFree (fun _ => True) (readRes k r e) := by
  cases r with
  | slices f n => exact (readSlices_onlyFree k f n).bind onlyFree_isFrame fun _ _ => .pure onlyFree_isFrame trivial
  | temp i w => exact (readLoc_onlyFree k _).bind onlyFree_isFrame fun _ _ => .pure onlyFree_isFrame trivial
  | _ => exact .pure onlyFree_isFrame trivial
theorem coverDest_onlyFree (k : Nat) (d : Dest) : M.Ensures OnlyFree (fun _ => True) (coverDest k d) :=
  .getT_bind fun _ => .ite (fun _ => .error) fun _ => .ite (fun _ => .error) fun _ => .pure onlyFree_isFrame trivial
theorem takeElems_none (k : Nat) (rs : List Res) (h : ∀ r, r ∈ rs → r.noPort = true) : M.Ensures OnlyFree (fun _ => True) (takeElems k rs) := by
  refine .forM' onlyFree_isFrame fun r hr => ?_
  cases r with
  | port p w => cases h _ hr
  | _ => exact .pure onlyFree_isFrame trivial
/-- A destination that is no element of a store stream. -/
def Dest.plain (d : Dest) : Prop := ∀ p va w, d ≠ .element p va w
theorem destRes_plain {r : Res} (h : r.noPort = true) (p : Place) : (destRes r p).plain := by
  cases r with
  | port q w => cases h
  | _ => exact fun _ _ _ => by simp [destRes]
/-- Reading operands that are no stream ports takes free values and nothing else. -/
theorem operands_onlyFree {k : Nat} {srcs : List (Operand × Option Nat)} {d : Option (Operand × Option Nat)} (hs : ∀ o, o ∈ srcs → plainOperand o.1 = true)
    (hd : ∀ o, d = some o → plainOperand o.1 = true) : M.Ensures OnlyFree (fun r => r.2.plain) (operands k srcs d) := by
  have hF := onlyFree_isFrame
  refine (M.Ensures.mapM' hF fun o ho => resolveOp_noPort o.2 (hs o ho)).bind hF fun rs0 h0 =>
    (M.Ensures.mapM' hF fun o ho => resolveOp_noPort o.2 (hd o (Option.mem_toList.mp ho))).bind hF fun rd h1 => ?_
  have hall : ∀ r, r ∈ rs0 ++ rd → r.noPort = true := fun r hr => (List.mem_append.mp hr).elim (h0 r) (h1 r)
  refine (M.Ensures.forM' hF fun r _ => boundRes_onlyFree k r).bind hF fun _ _ => (M.Ensures.pure (P := fun _ => True) hF trivial).bind hF fun _ _ =>
    (streamUses_none k [] _ fun x hx => ?_).bind hF fun us hus => (streamElems_none k _ fun x hx => ?_).bind hF fun es _ =>
    (M.Ensures.mapM' hF fun x _ => readRes_onlyFree k x.1 x.2.v).bind hF fun vs _ => ?_
  · rcases List.mem_append.mp hx with hx | hx <;> obtain ⟨r, hr, rfl⟩ := List.mem_map.mp hx
    · exact h0 r hr
    · exact h1 r hr
  · exact hus _ (List.of_mem_zip hx).1
  · refine (coverDest_onlyFree k _).bind hF fun _ _ => (takeElems_none k _ hall).bind hF fun _ _ => .pure hF ?_
    cases rd with
    | nil => exact fun _ _ _ => Dest.noConfusion
    | cons r rest => exact destRes_plain (h1 r List.mem_cons_self) _


/-! ### What a result still to be written changes -/

theorem SameMachine.refl (s : State) : SameMachine s s := ⟨rfl, rfl, rfl, rfl, rfl, rfl, rfl, rfl, rfl, rfl, rfl, rfl, rfl, rfl, rfl, rfl, ⟨rfl, rfl⟩, rfl⟩
theorem SameMachine.of_eq {s t u : State} (h : SameMachine s t) (he : ∃ gs ts c n i, u = { t with gangs := gs, threads := ts, cur := c, free := n, nextId := i }) : SameMachine s u := by
  obtain ⟨gs, ts, c, n, i, rfl⟩ := he
  exact ⟨h.mem, h.hostMem, h.teams, h.cores, h.clusters, h.dies, h.dir, h.records, h.sectors, h.peers, h.scHeld, h.host, h.belay, h.fabric, h.socket, h.trust, h.time, h.out⟩
/-- A thread whose registers as written are those of another; only results still to be written may differ. -/
structure Thread.SameWritten (t u : Thread) : Prop where
  slices : u.slices = t.slices
  temps : u.temps = t.temps
  preds : u.preds = t.preds
  wbase : u.wbase = t.wbase
  streams : u.streams = t.streams
  cstk : u.cstk = t.cstk
  cairn : u.cairn = t.cairn
  fmode : u.fmode = t.fmode
  sgen : u.sgen = t.sgen
  status : u.status = t.status
  handler : u.handler = t.handler
theorem sameRegs_of_thr {s s' : State} {k : Nat} (h : (s.thr k).SameWritten (s'.thr k)) : SameRegs s s' k :=
  ⟨h.slices, h.temps, h.preds, h.wbase, h.streams, h.cstk, h.cairn, h.fmode, h.sgen, h.status, h.handler⟩
theorem Thread.SameWritten.refl (t : Thread) : t.SameWritten t := ⟨rfl, rfl, rfl, rfl, rfl, rfl, rfl, rfl, rfl, rfl, rfl⟩
/-- A state that differs from another in one thread's results still to be written, its gangs and the model's own counters at most. -/
structure OnlyPending (s s' : State) (k : Nat) : Prop where
  machine : SameMachine s s'
  others : SameOthers s s' k
  regs : SameRegs s s' k
theorem OnlyPending.of_threads {s s' : State} {k : Nat} {t u : Thread} (ht : tget s.threads k = some t) (hu : t.SameWritten u)
    (he : ∃ gs c n i, s' = { s with gangs := gs, threads := tset s.threads k u, cur := c, free := n, nextId := i }) : OnlyPending s s' k ∧ s'.thr k = u := by
  obtain ⟨gs, c, n, i, rfl⟩ := he
  have hthr : State.thr { s with gangs := gs, threads := tset s.threads k u, cur := c, free := n, nextId := i } k = u := State.thr_of_some (tget_tset_same ..)
  refine ⟨⟨(SameMachine.refl s).of_eq ⟨_, _, _, _, _, rfl⟩, fun j hj => tget_tset_other _ _ hj, sameRegs_of_thr ?_⟩, hthr⟩
  rw [State.thr_of_some ht, hthr]
  exact hu
/-- The thread of a fixed-latency result that is still to be written (R27). -/
def Thread.awaiting (t : Thread) (land : Nat) (ws : List (Loc × Nat)) : Thread :=
  if ws.isEmpty then t else { t.contest (ws.map (·.1)) with pend := t.pend ++ [{ land := land, writes := ws, pub := false }] }
theorem Thread.awaiting_same (t : Thread) (land : Nat) (ws : List (Loc × Nat)) : t.SameWritten (t.awaiting land ws) := by
  unfold Thread.awaiting
  split
  · exact .refl t
  · exact ⟨rfl, rfl, rfl, rfl, rfl, rfl, rfl, rfl, rfl, rfl, rfl⟩
theorem Thread.awaiting_varDest (t : Thread) (land : Nat) (ws : List (Loc × Nat)) : (t.awaiting land ws).varDest = t.varDest := by
  unfold Thread.awaiting
  split <;> rfl
theorem Thread.awaiting_pend (t : Thread) (land : Nat) (ws : List (Loc × Nat)) :
    ∃ n, (t.awaiting land ws).pend = t.pend ++ n ∧ ∀ p, p ∈ n → p.writes = ws := by
  unfold Thread.awaiting
  split
  · exact ⟨[], (List.append_nil _).symm, fun p hp => absurd hp List.not_mem_nil⟩
  · exact ⟨_, rfl, fun p hp => List.mem_singleton.mp hp ▸ rfl⟩
theorem result_eq {k v lat : Nat} {d : Dest} {s s' : State} {t : Thread} (ht : tget s.threads k = some t) (hd : d.plain) (hr : result k d v lat s = (.ok (), s')) :
    s' = s.setThr k (t.awaiting (s.now + lat * Config.ticksPerCycle) (d.writes v)) := by
  have hw : result k d v lat s = writeFixed k d v lat s := by
    cases d with
    | element p va w => exact absurd rfl (hd p va w)
    | _ => rfl
  rw [hw] at hr
  simp only [writeFixed, M.run_bind, M.run_get, M.run_ite, M.run_pure, M.run_modT] at hr
  unfold Thread.awaiting
  split at hr
  · next h =>
    cases hr
    rw [if_pos h, State.setThr_self ht]
  · next h =>
    cases hr
    rw [if_neg h, State.modThr_of_some _ ht]
theorem Dest.mem_locs_of_writes {d : Dest} {v : Nat} {w : Loc × Nat} (hw : w ∈ d.writes v) : w.1 ∈ d.locs := by
  cases d with
  | slices f n =>
    obtain ⟨i, hi, rfl⟩ := List.mem_map.mp hw
    exact List.mem_map.mpr ⟨_, List.mem_map.mpr ⟨i, hi, rfl⟩, rfl⟩
  | temp i w => exact List.mem_singleton.mp hw ▸ List.mem_singleton.mpr rfl
  | preds pa pb =>
    simp only [Dest.locs, Dest.writes, List.map_append, List.mem_append] at hw ⊢
    refine hw.imp (fun h => ?_) fun h => ?_ <;> split_ifs at h ⊢ with hp
    · exact List.mem_singleton.mp h ▸ List.mem_singleton.mpr rfl
    · cases h
    · exact List.mem_singleton.mp h ▸ List.mem_singleton.mpr rfl
    · cases h
  | _ => cases hw
theorem Thread.issue_same (t : Thread) (o : Outst) : t.SameWritten (t.issue o) := ⟨rfl, rfl, rfl, rfl, rfl, rfl, rfl, rfl, rfl, rfl, rfl⟩
/-- The gang's advance changes gangs, and nothing of a thread. -/
theorem advance_eq (gid : Nat) (g : Gang) (stay : List Nat) (w d : Nat) (s : State) : ∃ gs, advance gid g stay w d s = { s with gangs := gs, cur := none } := by
  unfold advance
  dsimp only
  split
  · exact ⟨_, rfl⟩
  · exact ⟨_, rfl⟩

/-! ### O45: a result that lands on a register with an earlier writer -/

/-- A fixed-latency result of 1 for slice 64, due at time 0. -/
def landingPend : Pend := { land := 0, writes := [(.slice 64, 1)], pub := false }
/-- A thread for which it is pending, while a writer of that slice is not covered whose old value is 5. -/
def landingThread : Thread := { Thread.blank with pend := [landingPend], varDest := [{ oid := 0, dc := 0, loc := .slice 64, old := 5 }] }
def landingState : State := { State.reset with threads := [(0, landingThread)] }
/-- The old values that the writers of thread 0 carry after a step. -/
def oldValues : Host.Outcome State Fault Refusal → List Nat
  | .next t => (t.thr 0).varDest.map (·.old)
  | _ => []

end Sys2Proof.Machine
open Sys2Proof Sys2Proof.Machine

/-- Settles O46: operands take free values alone, and what a result or a status changes of its thread is still to be written. -/
theorem registerFrame : Obligations.RegisterFrame := by
  refine ⟨fun k srcs d s s1 r hs hd hops => (operands_onlyFree hs hd s r s1 hops).2, ?_, ?_⟩
  · intro i h roles words srcs d lat v s gid g k t s1 s2 vs dst hword hturn ht hs hd hops hr
    obtain ⟨hplain, n, rfl⟩ := operands_onlyFree (by simpa [plainOps] using hs) (by simpa using hd) s _ _ hops
    obtain rfl := result_eq (s := { s with free := n }) ht hplain hr
    obtain ⟨gs, hadv⟩ := advance_eq gid g [] words (h.sc.toNat + 1) (({ s with free := n } : State).setThr k (t.awaiting (s.now + lat * Config.ticksPerCycle) (dst.writes (low (fieldBits d) (v vs)))))
    refine ⟨_, hword s gid g k _ _ _ _ hturn hops hr, ?_⟩
    unfold movedOn
    rw [hadv]
    obtain ⟨⟨hm, ho, hreg⟩, hthr⟩ := OnlyPending.of_threads ht (t.awaiting_same (s.now + lat * Config.ticksPerCycle) (dst.writes (low (fieldBits d) (v vs)))) ⟨gs, none, n, s.nextId, rfl⟩
    obtain ⟨l, hl, hall⟩ := t.awaiting_pend (s.now + lat * Config.ticksPerCycle) (dst.writes (low (fieldBits d) (v vs)))
    exact ⟨hm, ho, hreg, (congrArg Thread.varDest hthr).trans (Thread.awaiting_varDest ..), l, (congrArg Thread.pend hthr).trans hl,
      fun p hp w hw => Dest.mem_locs_of_writes (hall p hp ▸ hw)⟩
  · intro i h roles srcs d v s gid g k t s1 s2 vs dst r hword hturn hroom ht hs hd hops hv hl
    obtain ⟨-, n, rfl⟩ := operands_onlyFree hs (by simpa using hd) s _ _ hops
    obtain ⟨id, u, hu, hend⟩ := M.bind_eq_ok.mp hl
    cases hend
    obtain ⟨-, rfl⟩ := issueVar_ok hu
    have hthreads : (State.issued { s with free := n } k h.sc.toNat dst r 1 none .time true none 0)
        = { s with free := n + 1, nextId := s.nextId + 1, threads := tset s.threads k (t.issue (State.newOutst { s with free := n } k h.sc.toNat dst r 1 none .time true none 0)) } :=
      State.modThr_of_some (s := { s with free := n + 1, nextId := s.nextId + 1 }) _ ht
    obtain ⟨gs, hadv⟩ := advance_eq gid g [] 1 1 (State.issued { s with free := n } k h.sc.toNat dst r 1 none .time true none 0)
    refine ⟨_, hword s gid g k _ _ _ _ _ hturn hroom hops hv hl, ?_⟩
    unfold movedNext
    rw [hadv, hthreads]
    obtain ⟨⟨hm, ho, hreg⟩, hthr⟩ := OnlyPending.of_threads ht (t.issue_same _) ⟨gs, none, n + 1, s.nextId + 1, rfl⟩
    refine ⟨hm, ho, hreg, (congrArg Thread.pend hthr).trans rfl, _, (congrArg Thread.varDest hthr).trans rfl, fun x hx => ?_⟩
    obtain ⟨l, hl, rfl⟩ := List.mem_map.mp hx
    exact hl

/-- Refutes O45: a write that lands also settles the old values that earlier writers of its registers still carry (R31), which the statement leaves as they were. A thread with such a writer of slice 64, and a fixed-latency result for it that is due, shows it. -/
theorem not_resultWrites : ¬ Obligations.ResultWrites := by
  rintro ⟨-, hland, -⟩
  have hstep := hland landingState 0 landingThread landingPend rfl rfl (by decide)
  exact absurd (congrArg oldValues hstep) (by decide)
end

section
/-! PROOFS. What coherence and address translation leave as it was: the threads, the teams, host memory and the anchor socket. -/
namespace Sys2Proof.Machine

/-! ### What an action keeps, however it ends -/

/-- From whatever state an action starts, and whether it ends well or not, the state after it stands in a relation to the one before. -/
def M.Keeps {α : Type} (R : State → State → Prop) (m : M α) : Prop := ∀ s, R s (m s).2

section
variable {α β : Type} {R : State → State → Prop} {m : M α} {f : α → M β}

theorem M.Keeps.ensures (h : M.Keeps R m) : M.Ensures R (fun _ => True) m := fun s a s' hm => ⟨trivial, by simpa only [hm] using h s⟩
theorem M.Keeps.pure (hR : IsFrame R) (a : α) : M.Keeps R (Pure.pure a : M α) := hR.refl
theorem M.Keeps.bind (hR : IsFrame R) (hm : M.Keeps R m) (hf : ∀ a, M.Keeps R (f a)) : M.Keeps R (m >>= f) := by
  intro s
  have hs := hm s
  rw [M.run_bind]
  cases h : m s with
  | mk r t =>
    rw [h] at hs
    cases r with
    | ok a => exact hR.trans hs (hf a t)
    | error e => exact hs
theorem M.Keeps.get_bind {f : State → M β} (hf : ∀ s, M.Keeps R (f s)) : M.Keeps R ((get : M State) >>= f) := fun s => hf s s
theorem M.Keeps.modify {f : State → State} (h : ∀ s, R s (f s)) : M.Keeps R (modify f) := h
theorem M.Keeps.error (hR : IsFrame R) (e : Stop) : M.Keeps R (throw e : M α) := hR.refl
theorem M.Keeps.ite {c : Prop} [Decidable c] {m n : M α} (hm : c → M.Keeps R m) (hn : ¬ c → M.Keeps R n) : M.Keeps R (if c then m else n) := by
  split
  · next h => exact hm h
  · next h => exact hn h
theorem M.Keeps.forM' (hR : IsFrame R) {l : List α} {f : α → M Unit} (h : ∀ a, M.Keeps R (f a)) : M.Keeps R (forM' l f) := by
  induction l with
  | nil => exact M.Keeps.pure hR ()
  | cons a r ih => exact (h a).bind hR fun _ => ih
end

/-! ### The parties of a state -/

/-- The threads, the teams, host memory and the anchor socket of a state: what no transaction of a line of device memory, and no translation, changes. -/
def State.parties (s : State) : Tbl Thread × Tbl Team × List Host.Cell × Socket := (s.threads, s.teams, s.hostMem, s.socket)
/-- The threads, the teams, host memory and the anchor socket are as before. -/
def SameParties (s t : State) : Prop := t.parties = s.parties
theorem sameParties_isFrame : IsFrame SameParties where
  refl _ := rfl
  trans h h' := Eq.trans h' h
theorem SameParties.threads {s t : State} (h : SameParties s t) : t.threads = s.threads := congrArg (·.1) h
theorem SameParties.teams {s t : State} (h : SameParties s t) : t.teams = s.teams := congrArg (·.2.1) h
theorem SameParties.hostMem {s t : State} (h : SameParties s t) : t.hostMem = s.hostMem := congrArg (·.2.2.1) h
theorem SameParties.socket {s t : State} (h : SameParties s t) : t.socket = s.socket := congrArg (·.2.2.2) h

/-! ### Lines at their homes and in the caches -/

variable (s : State)

@[simp] theorem State.parties_setDir (l : Nat) (d : LineState) : (s.setDir l d).parties = s.parties := rfl
@[simp] theorem State.parties_setL1 (c l : Nat) (x : Option L1Line) : (s.setL1 c l x).parties = s.parties := rfl
@[simp] theorem State.parties_dropVictim (c l : Nat) : (s.dropVictim c l).parties = s.parties := rfl
@[simp] theorem State.parties_putLine (l : Nat) (b : Bytes) : (s.putLine l b).parties = s.parties := rfl
@[simp] theorem State.parties_modCore (c : Nat) (f : Core → Core) : (s.modCore c f).parties = s.parties := rfl
@[simp] theorem State.parties_modCluster (c : Nat) (f : Cluster → Cluster) : (s.modCluster c f).parties = s.parties := rfl
@[simp] theorem State.parties_modDie (c : Nat) (f : Stack → Stack) : (s.modDie c f).parties = s.parties := rfl
@[simp] theorem State.parties_setSector (n : Nat) (x : Sector) : (s.setSector n x).parties = s.parties := rfl
@[simp] theorem State.parties_emit (m : OutMsg) : (s.emit m).parties = s.parties := rfl
@[simp] theorem State.parties_nextFree : s.nextFree.2.parties = s.parties := rfl
theorem State.parties_foldl {β : Type} {f : State → β → State} (h : ∀ s b, (f s b).parties = s.parties) (l : List β) : (l.foldl f s).parties = s.parties :=
  List.foldlRecOn (motive := fun t : State => t.parties = s.parties) l f rfl fun t ht b _ => (h t b).trans ht
@[simp] theorem State.parties_cleanAgent (l st : Nat) : (s.cleanAgent l st).parties = s.parties := by
  unfold State.cleanAgent
  split <;> rfl
@[simp] theorem State.parties_cleanAgents (l : Nat) : (s.cleanAgents l).parties = s.parties := s.parties_foldl (fun t st => t.parties_cleanAgent l st) _
@[simp] theorem State.parties_recallShared (c l : Nat) : (s.recallShared c l).parties = s.parties := by
  unfold State.recallShared
  dsimp only
  split <;> split <;> simp
@[simp] theorem State.parties_invalidateAt (c l : Nat) : (s.invalidateAt c l).parties = s.parties := by
  unfold State.invalidateAt
  dsimp only
  split <;> split <;> simp
@[simp] theorem State.parties_invalidateOthers (k : Option Nat) (l : Nat) : (s.invalidateOthers k l).parties = s.parties :=
  s.parties_foldl (fun t c => by split <;> simp) _
@[simp] theorem State.parties_dropParked (c l : Nat) : (s.dropParked c l).parties = s.parties := rfl
@[simp] theorem State.parties_dropPartial (c l : Nat) : (s.dropPartial c l).parties = s.parties := by
  unfold State.dropPartial
  dsimp only
  split <;> split <;> simp
@[simp] theorem State.parties_mergeLine (l : Nat) (leave : Bool) : (s.mergeLine l leave).parties = s.parties := by
  unfold State.mergeLine
  split
  · next g sg v hd =>
    dsimp only
    rw [State.parties_setDir]
    change State.parties (List.foldl _ _ _) = _
    rw [State.parties_foldl _ fun t c => t.parties_dropPartial c l]
    split <;> simp
  · rfl
/-- The data phase of a write-back: what the victim entry holds goes to the home, to the line's agent on the core's stack, or to the cluster slice (R285). -/
def State.landVictim (s : State) (c l : Nat) : State :=
  match tget (s.core c).victim l with
  | some (.m d) => match foreignStack c l with
    | none => s.putLine l d
    | some st => { s with agents := tset s.agents (agentKey st l) (.dirty d) }
  | some (.c g sg d) => s.modCluster (coreCluster c) fun x =>
      { x with parked := x.parked.filter (fun p => !(p.1 == l && p.2.1 == c)) ++ [(l, c, .c g sg d)] }
  | _ => s
/-- The state of a line after a write-back of core c has ended in it. -/
def State.dirBack (s : State) (c l : Nat) (d : LineState) : State :=
  s.setDir l (if d = .owned c && (s.l1Of c l).isNone && (foreignStack c l).isNone then .uncached else d)
theorem State.writeBack_eq (c l : Nat) : s.writeBack c l = match ((s.landVictim c l).dropVictim c l).dirOf l with
    | .busy b d => if b = c then ((s.landVictim c l).dropVictim c l).dirBack c l d else (s.landVictim c l).dropVictim c l
    | d => ((s.landVictim c l).dropVictim c l).dirBack c l d := rfl
@[simp] theorem State.parties_landVictim (c l : Nat) : (s.landVictim c l).parties = s.parties := by
  unfold State.landVictim
  split
  · split <;> rfl
  · rfl
  · rfl
@[simp] theorem State.parties_dirBack (c l : Nat) (d : LineState) : (s.dirBack c l d).parties = s.parties := rfl
@[simp] theorem State.parties_writeBack (c l : Nat) : (s.writeBack c l).parties = s.parties := by
  rw [State.writeBack_eq]
  split
  · split <;> simp
  · simp
@[simp] theorem State.parties_unbusy (l : Nat) : (s.unbusy l).parties = s.parties := by
  unfold State.unbusy
  split <;> simp
@[simp] theorem State.parties_settle (c l : Nat) : (s.settle c l).parties = s.parties := by
  unfold State.settle
  split <;> simp
@[simp] theorem State.parties_gather (l : Nat) : (s.gather l).parties = s.parties := by
  unfold State.gather
  dsimp only
  split <;> simp
theorem OnWire.parties {s t : State} (h : OnWire s t) : t.parties = s.parties := by
  obtain ⟨f, a, d, rfl⟩ := h
  rfl
@[simp] theorem State.parties_enqueue (p : Packet) : (s.enqueue p).parties = s.parties := (s.enqueue_onWire p).parties
@[simp] theorem State.parties_askPeers (ls ds : List Nat) : (s.askPeers ls ds).parties = s.parties :=
by
  unfold State.askPeers
  refine s.parties_foldl (fun t l => ?_) _
  exact (State.parties_foldl _ (fun u d => u.parties_enqueue _) ds).trans rfl

/-! ### Transactions of a line -/

theorem sameParties_modify {f : State → State} (h : ∀ s, (f s).parties = s.parties := by intro; rfl) : M.Keeps SameParties (modify f) := .modify h
theorem sameParties_pure {α : Type} (a : α) : M.Keeps SameParties (Pure.pure a : M α) := .pure sameParties_isFrame a
theorem M.Keeps.andThen {α β : Type} {m : M α} {f : α → M β} (hm : M.Keeps SameParties m) (hf : ∀ a, M.Keeps SameParties (f a)) :
    M.Keeps SameParties (m >>= f) := hm.bind sameParties_isFrame hf

theorem sameParties_error {α : Type} {e : Stop} : M.Keeps SameParties (throw e : M α) := .error sameParties_isFrame e
theorem freeM_sameParties : M.Keeps SameParties freeM := fun _ => rfl
theorem waitLine_sameParties {α : Type} (l : Nat) : M.Keeps SameParties (waitLine l : M α) :=
  (sameParties_modify fun s => by split <;> rfl).andThen fun _ => sameParties_error
theorem lineFree_sameParties (l : Nat) : M.Keeps SameParties (lineFree l) :=
  .get_bind fun s => .ite (fun _ => sameParties_error) fun _ => .ite (fun _ => waitLine_sameParties l) fun _ => sameParties_modify
theorem clearPeers_sameParties (l : Nat) : M.Keeps SameParties (clearPeers l) :=
  (lineFree_sameParties l).andThen fun _ => .get_bind fun s => .ite (fun _ => sameParties_pure _) fun _ =>
    (sameParties_modify fun t => t.parties_askPeers _ _).andThen fun _ => waitLine_sameParties l
theorem mergeRead_sameParties (l : Nat) : M.Keeps SameParties (mergeRead l) :=
  (clearPeers_sameParties l).andThen fun _ => sameParties_modify fun t => t.parties_mergeLine l false
theorem snoopSector_sameParties (w : Bool) (n : Nat) : M.Keeps SameParties (snoopSector w n) := by
  refine .get_bind fun s => .ite (fun _ => ?_) fun _ => sameParties_pure _
  refine .ite (fun _ => (sameParties_modify fun t => by simp).andThen fun _ => ?_) fun _ => ?_ <;>
    exact .ite (fun _ => (sameParties_modify fun t => by simp).andThen fun _ => waitLine_sameParties _) fun _ => waitLine_sameParties _
theorem snoopSectors_sameParties (pa n : Nat) (w : Bool) : M.Keeps SameParties (snoopSectors pa n w) :=
  .forM' sameParties_isFrame fun n => snoopSector_sameParties w n
theorem l1Room_sameParties (c l : Nat) : M.Keeps SameParties (l1Room c l) := by
  refine .get_bind fun s => .ite (fun _ => sameParties_pure _) fun _ => freeM_sameParties.andThen fun f => ?_
  split
  · exact sameParties_pure _
  · split
    · exact sameParties_modify
    · exact sameParties_modify
    · exact .ite (fun _ => sameParties_error) fun _ => sameParties_modify
theorem fillL1_sameParties (c l : Nat) (x : L1Line) : M.Keeps SameParties (fillL1 c l x) :=
  (l1Room_sameParties c l).andThen fun _ => sameParties_modify
theorem evictHome_sameParties (l : Nat) : M.Keeps SameParties (evictHome l) := by
  refine (sameParties_modify fun t => t.parties_unbusy l).andThen fun _ => .get_bind fun s => ?_
  split
  · exact (clearPeers_sameParties l).andThen fun _ => sameParties_modify fun t => t.parties_mergeLine l true
  · exact sameParties_pure _
  · exact sameParties_modify fun t => by simp
theorem evictAgent_sameParties (st l : Nat) : M.Keeps SameParties (evictAgent st l) := by
  refine (sameParties_modify fun t => t.parties_unbusy l).andThen fun _ => .get_bind fun s => ?_
  split
  · exact (clearPeers_sameParties l).andThen fun _ => sameParties_modify fun t => t.parties_mergeLine l false
  · exact sameParties_modify fun t => (State.parties_setDir ..).trans (t.parties_foldl (fun u c => u.parties_invalidateAt c l) _)
theorem sliceRoom_sameParties (sl : Nat) : M.Keeps SameParties (sliceRoom sl) := by
  refine .get_bind fun s => .ite (fun _ => sameParties_pure _) fun _ => freeM_sameParties.andThen fun f => ?_
  split
  · exact sameParties_error
  · exact evictHome_sameParties _
  · exact evictAgent_sameParties _ _
  · exact sameParties_modify
theorem homeRoom_sameParties (l : Nat) : M.Keeps SameParties (homeRoom l) :=
  .get_bind fun _ => .ite (fun _ => sameParties_pure _) fun _ => sliceRoom_sameParties _
theorem copyRoom_sameParties (c l : Nat) : M.Keeps SameParties (copyRoom c l) := by
  refine (homeRoom_sameParties l).andThen fun _ => .get_bind fun s => ?_
  split
  · exact sameParties_pure _
  · exact .ite (fun _ => sameParties_pure _) fun _ => sliceRoom_sameParties _
theorem readShared_sameParties (c l : Nat) : M.Keeps SameParties (readShared c l) := by
  refine (sameParties_modify fun t => t.parties_settle c l).andThen fun _ => .get_bind fun s => ?_
  split
  · exact (mergeRead_sameParties l).andThen fun _ => sameParties_pure _
  · exact sameParties_pure _
  · refine (lineFree_sameParties l).andThen fun _ => ?_
    split
    · exact sameParties_pure _
    · exact (mergeRead_sameParties l).andThen fun _ => sameParties_pure _
    · refine .ite (fun _ => sameParties_pure _) fun _ => (copyRoom_sameParties c l).andThen fun _ => (l1Room_sameParties c l).andThen fun _ =>
        (sameParties_modify fun t => t.parties_foldl (fun u o => u.parties_recallShared o l) _).andThen fun _ => .ite (fun _ => ?_) fun _ => ?_ <;>
        exact (fillL1_sameParties c l _).andThen fun _ => (sameParties_modify).andThen fun _ => sameParties_pure _
theorem readOwn_sameParties (c l : Nat) : M.Keeps SameParties (readOwn c l) := by
  refine (sameParties_modify fun t => t.parties_settle c l).andThen fun _ => (clearPeers_sameParties l).andThen fun _ => .get_bind fun s => ?_
  split
  · exact sameParties_pure _
  · exact (sameParties_modify fun t => t.parties_mergeLine l true).andThen fun _ => sameParties_pure _
  · exact .ite (fun _ => (sameParties_modify fun t => by simp).andThen fun _ => sameParties_pure _) fun _ => (copyRoom_sameParties c l).andThen fun _ =>
      (l1Room_sameParties c l).andThen fun _ => (sameParties_modify fun t => t.parties_invalidateOthers _ l).andThen fun _ => .get_bind fun _ =>
      (fillL1_sameParties c l _).andThen fun _ => (sameParties_modify).andThen fun _ => sameParties_pure _
theorem coreLoad_sameParties (c pa n : Nat) : M.Keeps SameParties (coreLoad c pa n) :=
  (snoopSectors_sameParties pa n false).andThen fun _ => (readShared_sameParties c _).andThen fun _ => .get_bind fun _ => sameParties_pure _
theorem homeReady_sameParties (l : Nat) : M.Keeps SameParties (homeReady l) := by
  refine (lineFree_sameParties l).andThen fun _ => (sameParties_modify fun t => t.parties_gather l).andThen fun _ => .get_bind fun s => ?_
  split
  · exact mergeRead_sameParties l
  · exact sameParties_pure _
theorem homeRead_sameParties (pa n : Nat) : M.Keeps SameParties (homeRead pa n) :=
  (snoopSectors_sameParties pa n false).andThen fun _ => (homeReady_sameParties _).andThen fun _ => .get_bind fun _ => sameParties_pure _

/-! ### Address translation -/

@[simp] theorem State.parties_postEvent (k a : Nat) (d : Word) : (s.postEvent k a d).parties = s.parties := by
  unfold State.postEvent
  split
  · rfl
  · dsimp only
    split <;> rfl
/-- A fault record written to the next place of a stack's ring. -/
def State.ringFault (s : State) (st : Nat) (b : Bytes) : State :=
  ({ s with mem := memPutN s.mem ((s.die st).ringBase + 32 * ((s.die st).ringIdx % 4096)) b } : State).modDie st fun d => { d with ringIdx := d.ringIdx + 1 }
theorem State.postFault_eq (st : Nat) (m : Miss) : ∃ b, s.postFault st m = (s.ringFault st b).postEvent 2 st (wd m.ticket) := ⟨_, rfl⟩
@[simp] theorem State.parties_postFault (st : Nat) (m : Miss) : (s.postFault st m).parties = s.parties := by
  obtain ⟨b, hb⟩ := s.postFault_eq st m
  rw [hb, State.parties_postEvent]
  rfl
@[simp] theorem State.parties_fillTlb (a : Asker) (f n : Nat) (e : TlbEntry) : (s.fillTlb a f n e).parties = s.parties := by
  unfold State.fillTlb
  dsimp only
  split
  · split <;> simp
  · split <;> split <;> split <;> simp
theorem readPhys8_sameParties (h : Bool) (pa : Nat) : M.Keeps SameParties (readPhys8 h pa) :=
  .ite (fun _ => .get_bind fun _ => sameParties_pure _) fun _ => (homeRead_sameParties pa 8).andThen fun _ => sameParties_pure _
/-- One level of a walk, with what follows when its entry names a table of the next level. -/
def walkLevel (ctx va l : Nat) (host : Bool) (table : Nat) (next : Nat → M Walk) : M Walk := do
  let idx := if l = 3 then bits va 39 11 else bits va (12 + 9 * l) 9
  if beyondMemory host (table + 8 * idx) then return .bad l
  let e ← readPhys8 host (table + 8 * idx)
  if !bitAt e 0 then return .fault l
  else if pteBad e l then return .bad l
  else if bitAt e 1 then
    let sz := if bitAt e 5 then 16 else levelSize l
    return .leaf { ctx := ctx, va := va / 2 ^ sz, size := sz, pa := bits e 12 40 * 2 ^ 12, host := bits e 56 2 == 1, r := bitAt e 2, w := bitAt e 3, x := bitAt e 4 }
  else next e
theorem walkFrom_zero (ctx va : Nat) (host : Bool) (table : Nat) : walkFrom ctx va 0 host table = walkLevel ctx va 0 host table fun _ => pure (.bad 0) := rfl
theorem walkFrom_succ (ctx va l : Nat) (host : Bool) (table : Nat) :
    walkFrom ctx va (l + 1) host table = walkLevel ctx va (l + 1) host table fun e => walkFrom ctx va l (bits e 56 2 == 1) (bits e 12 40 * 2 ^ 12) := rfl
theorem walkLevel_sameParties (ctx va l : Nat) (h : Bool) (table : Nat) {next : Nat → M Walk} (hn : ∀ e, M.Keeps SameParties (next e)) :
    M.Keeps SameParties (walkLevel ctx va l h table next) :=
  .ite (fun _ => sameParties_pure _) fun _ => (readPhys8_sameParties h _).andThen fun e => .ite (fun _ => sameParties_pure _) fun _ => .ite (fun _ => sameParties_pure _) fun _ =>
    .ite (fun _ => sameParties_pure _) fun _ => hn e
theorem walkFrom_sameParties (ctx va l : Nat) (h : Bool) (table : Nat) : M.Keeps SameParties (walkFrom ctx va l h table) := by
  induction l generalizing h table with
  | zero => exact walkFrom_zero ctx va h table ▸ walkLevel_sameParties ctx va 0 h table fun _ => sameParties_pure _
  | succ l ih => exact walkFrom_succ ctx va l h table ▸ walkLevel_sameParties ctx va (l + 1) h table fun e => ih _ _
theorem walk_sameParties (ctx va : Nat) : M.Keeps SameParties (walk ctx va) := by
  refine .get_bind fun s => ?_
  split
  · exact sameParties_pure _
  · exact walkFrom_sameParties _ _ _ _ _
theorem missRoom_sameParties (a : Asker) (ctx va : Nat) : M.Keeps SameParties (missRoom a ctx va) :=
  .get_bind fun _ => .ite (fun _ => sameParties_error) fun _ => sameParties_pure _
theorem missPage_sameParties (a : Asker) (ctx va acc srcs l : Nat) : M.Keeps SameParties (missPage a ctx va acc srcs l) := by
  refine .get_bind fun s => ?_
  dsimp only
  split
  · exact (sameParties_modify).andThen fun _ => sameParties_pure _
  · exact (sameParties_modify fun t => (State.parties_postFault _ _ _).trans (t.parties_modDie _ _)).andThen fun _ => sameParties_pure _
theorem translate_sameParties (a : Asker) (ctx va acc : Nat) : M.Keeps SameParties (translate a ctx va acc) := by
  have hdone : ∀ (c : Prop) [Decidable c] (x y : Except XFail (Bool × Nat)), M.Keeps SameParties (if c then Pure.pure x else Pure.pure y : M _) :=
    fun c _ x y => .ite (fun _ => sameParties_pure _) fun _ => sameParties_pure _
  refine .get_bind fun s => .ite (fun _ => sameParties_pure _) fun _ => ?_
  dsimp only
  split
  · exact freeM_sameParties.andThen fun f => (sameParties_modify fun t => t.parties_fillTlb ..).andThen fun _ => hdone _ _ _
  · split
    · split
      · exact sameParties_pure _
      · exact M.Keeps.andThen (missPage_sameParties _ _ _ _ _ _) fun _ => sameParties_pure _
    · refine M.Keeps.andThen (missRoom_sameParties _ _ _) fun _ => M.Keeps.andThen (walk_sameParties _ _) fun w => ?_
      split
      · exact freeM_sameParties.andThen fun f => (sameParties_modify fun t => (State.parties_modDie ..).trans (t.parties_fillTlb ..)).andThen fun _ => hdone _ _ _
      · exact M.Keeps.andThen (missPage_sameParties _ _ _ _ _ _) fun _ => sameParties_pure _
      · exact sameParties_pure _
theorem threadXlate_sameParties (k va acc : Nat) : M.Keeps SameParties (threadXlate k va acc) := by
  refine .get_bind fun s => M.Keeps.andThen (translate_sameParties _ _ _ _) fun r => ?_
  split
  · exact sameParties_pure _
  all_goals exact sameParties_error
theorem locateX_sameParties (p : Bool) (k va n acc : Nat) : M.Keeps SameParties (locateX p k va n acc) :=
  .get_bind fun _ => .ite (fun _ => .ite (fun _ => sameParties_error) fun _ => sameParties_pure _) fun _ => .ite (fun _ => sameParties_error) fun _ =>
    M.Keeps.andThen (threadXlate_sameParties _ _ _) fun _ => sameParties_pure _

end Sys2Proof.Machine
end

section
/-! PROOFS. The entry of a trap (R405 to R410). -/
namespace Sys2Proof.Machine

theorem orElse_ok {α : Type} {m : M α} {f : Stop → M Unit} {g : α → M Unit} {s s' : State} {a : α} (h : m s = (.ok a, s')) : orElse m f g s = g a s' := by
  unfold orElse
  rw [h]
theorem quietly_ok {α : Type} {m : M α} {s s' : State} {a : α} (h : m s = (.ok a, s')) : quietly m s = (.ok a, s') := by
  unfold quietly
  rw [h]
theorem Thread.land_of_none {t : Thread} (h : t.pend = []) (n : Nat) : t.land n = t := calc
  t.land n = { t with pend := [] } := by
    unfold Thread.land
    rw [h]
    rfl
  _ = t := by rw [← h]

variable {s : State} {k : Nat} {t : Thread}

/-- The state in which a trap is taken: in the thread's name, the thread held at its word. -/
def State.trapping (s : State) (k : Nat) : State := (s.inName k).modThr k fun t => { t with status := .held .word }
theorem State.trapping_thr (ht : tget s.threads k = some t) : tget (s.trapping k).threads k = some { t with status := .held .word } :=
  tget_tmod_same _ ht
theorem State.trapping_land (ht : tget s.threads k = some t) (hp : t.pend = []) (f : Thread → Nat) : (s.trapping k).modThr k (fun t => t.land (f t)) = s.trapping k :=
  State.modThr_self fun u hu => Thread.land_of_none (by
    cases (State.trapping_thr ht).symm.trans hu
    exact hp) _
theorem State.trapping_thr_of (ht : tget s.threads k = some t) : (s.trapping k).thr k = { t with status := .held .word } := State.thr_of_some (State.trapping_thr ht)

theorem State.trapping_launchOf (ht : tget s.threads k = some t) : (s.trapping k).launchOf k = s.launchOf k := by
  unfold State.launchOf
  rw [State.trapping_thr_of ht, State.thr_of_some ht]
  rfl

/-- The state in which the handler of a trap stands at its vector. -/
def State.entered (s : State) (k : Nat) (i : TrapInfo) (v : Word) : State := (s.modThr k fun t => t.enter i (coreStack (keyCore k))).atHead k v

/-- A trap outside handler state whose reads and store succeed stands the thread at its vector. -/
theorem takeTrap_enters {i : TrapInfo} {s1 s2 s3 : State} {b : Bytes} {pa : Bool × Nat} (ht : tget s.threads k = some t) (hp : t.pend = []) (hh : t.handler = false)
    (hi : trapTicket i = 0) (hc : i.cls ≠ 20) (hb : loadPlain k ((s.launchOf k).traps.toNat + 8 * i.cls) 8 (s.trapping k) = (.ok b, s1)) (hv : ofLe b ≠ 0) (hl : low 3 (ofLe b) = 0)
    (hx : threadXlate k (ofLe b) 4 s1 = (.ok pa, s2)) (ha : low 8 t.cairn.toNat = 0)
    (hs : storeSpan k t.cairn.toNat (cairnBytes { t with status := .held .word } i) false s2 = (.ok (), s3)) :
    takeTrap k i s = (.ok (), s3.entered k i (wd (ofLe b))) := by
  have hthr := State.trapping_thr_of (k := k) ht
  unfold takeTrap asParty
  refine M.bind_step (M.run_modify ..) <| M.bind_step (M.run_modT ..) <| M.bind_step ((M.run_modT ..).trans (congrArg (Prod.mk _) (State.trapping_land ht hp _))) <|
    M.get_step ?_
  dsimp only
  rw [hthr, State.trapping_launchOf ht]
  refine M.ite_step_neg (by simp [hi]) <| M.ite_step_neg (by simp [hh]) <| (orElse_ok hb).trans <| M.ite_step_neg hv <| M.ite_step_neg (not_not.mpr hl) <|
    (orElse_ok (quietly_ok hx)).trans <| M.ite_step_neg (not_not.mpr ha) <| (orElse_ok hs).trans <| M.ite_step_neg hc ?_
  rfl

/-- A trap in handler state that is no page fault with a ticket is fatal. -/
theorem takeTrap_of_handler {i : TrapInfo} (ht : tget s.threads k = some t) (hp : t.pend = []) (hh : t.handler = true) (hi : trapTicket i = 0) :
    takeTrap k i s = (.ok (), (s.trapping k).fatalTeam t.team) := by
  have hthr := State.trapping_thr_of (k := k) ht
  unfold takeTrap asParty
  refine M.bind_step (M.run_modify ..) <| M.bind_step (M.run_modT ..) <| M.bind_step ((M.run_modT ..).trans (congrArg (Prod.mk _) (State.trapping_land ht hp _))) <|
    M.get_step ?_
  dsimp only
  rw [hthr]
  exact M.ite_step_neg (by simp [hi]) <| M.ite_step_pos hh rfl

/-! ### A thread that stands at its vector -/

variable {i : TrapInfo} {v : Word}

/-- A thread that stands at a run head in a state of its own. -/
def Thread.standing (t : Thread) (st : ThreadStatus) (now : Nat) (pc : Word) (check : Bool) : Thread :=
  { t with status := st, stamp := now, pc := pc, mid := false, resume := none, twait := none, nextHead := none, back := none,
           temps := t.temps.filter fun e => e.1 / 16 != t.tempBase / 16, outst := t.outst.map (Outst.dropTemp t.tempBase),
           varDest := t.varDest.filter fun v => v.loc.otherThan t.tempBase, checkOn := check }
theorem State.entered_thr (ht : tget s.threads k = some t) : (s.entered k i v).thr k =
    (t.enter i (coreStack (keyCore k))).standing ((s.modThr k fun t => t.enter i (coreStack (keyCore k))).headStatus k) s.now v (bitAt (s.team t.team).tstat.toNat 3) := by
  have hthr : (s.modThr k fun t => t.enter i (coreStack (keyCore k))).thr k = t.enter i (coreStack (keyCore k)) := State.thr_of_some (tget_tmod_same _ ht)
  unfold State.entered State.atHead
  rw [State.thr_setThr, if_pos rfl, hthr]
  rfl
theorem Thread.enter_tempBase (i : TrapInfo) (die : Nat) : (t.enter i die).tempBase = 16 := rfl
theorem filter_temps_of_thread (l : Tbl Word) : (l.filter fun e => e.1 < 16).filter (fun e => e.1 / 16 != 1) = l.filter fun e => e.1 < 16 := by
  rw [List.filter_eq_self]
  intro e he
  have : e.1 < 16 := of_decide_eq_true (List.mem_filter.mp he).2
  simp
  omega
theorem State.entered_privOf (ht : tget s.threads k = some t) : (s.entered k i v).privOf k = true := by
  unfold State.privOf
  rw [State.entered_thr ht]
  rfl
theorem State.entered_headStatus (ht : tget s.threads k = some t) : (s.modThr k fun t => t.enter i (coreStack (keyCore k))).headStatus k =
    if s.gateClosed (s.launchOf k).tenant then .held .gate else .ready := by
  have hthr : (s.modThr k fun t => t.enter i (coreStack (keyCore k))).thr k = t.enter i (coreStack (keyCore k)) := State.thr_of_some (tget_tmod_same _ ht)
  have hl : (s.modThr k fun t => t.enter i (coreStack (keyCore k))).launchOf k = s.launchOf k := by
    unfold State.launchOf
    rw [hthr, State.thr_of_some ht]
    rfl
  unfold State.headStatus
  rw [hthr, hl]
  exact if_neg (by simp [Thread.enter])

end Sys2Proof.Machine

open Sys2Proof Sys2Proof.Machine

/-- Settles O33: the trap's reads and its store are the hypotheses' own, and the thread's state at its vector is read off. -/
theorem trapEntry : Obligations.TrapEntry := by
  unfold Obligations.TrapEntry
  refine ⟨?_, fun k i s t ht hp hh hi => takeTrap_of_handler ht hp hh hi⟩
  rintro k i s t s1 s2 s3 u b v pa ht hp hh hi hc hb rfl hv hl hx ha hs hsome rfl
  obtain ⟨t3, ht3⟩ := Option.isSome_iff_exists.mp hsome
  have hthr := State.entered_thr (i := i) (v := wd (ofLe b)) ht3
  have hst := (congrArg Thread.status hthr).trans (State.entered_headStatus ht3)
  refine ⟨takeTrap_enters ht hp hh hi hc hb hv hl hx ha hs, congrArg Thread.pc hthr, congrArg Thread.handler hthr, State.entered_privOf ht3, congrArg Thread.wbase hthr, ?_, ?_, ?_⟩
  · change Thread.temps ((s3.entered k i (wd (ofLe b))).thr k) = _
    rw [State.thr_of_some ht3, hthr, Thread.standing, Thread.enter_tempBase]
    exact filter_temps_of_thread _
  · intro hg
    exact hst.trans (if_neg (by simp [hg]))
  · intro hg
    exact hst.trans (if_pos hg)

end

section
/-! PROOFS. System registers, tlbinv, cancel and cacheop: O30 and O31. -/
namespace Sys2Proof.Machine

variable {s s1 s2 s3 s4 : State} {k gid : Nat} {g : Gang} {m : Meta} {vs : List SVal} {dst : Dest}

/-! ### Privileged words -/

theorem preCheck_of_may (hc : m.car = false) (hr : m.roles (s.groupOf k).role = true) (hp : m.priv = true → s.privOf k = true) : preCheck m k s = (.ok (), s) := by
  cases hm : m.priv with
  | false => simp [preCheck, M.run_bind, hr, hc, hm]
  | true => simp [preCheck, M.run_bind, hr, hc, hp hm]
/-- A variable-latency word that its thread may run, reads its operands and then acts. -/
theorem runWord_opsPriv {h : Hdr} {β : Type} {ops : Nat → M β} {rest : Nat → β → M Unit} {r : β} (ht : s.Turn gid g k h m.roles) (hroom : s.Room k h)
    (hv : m.var = true) (hp : m.priv = true → s.privOf k = true) (hc : m.car = false) (hops : ops k s = (.ok r, s1)) (hrest : rest k r s1 = (.ok (), s2)) :
    runWord m h (fun k => do
      roomFor k h
      let r ← ops k
      rest k r) s = .next (movedNext gid g m.words s2) :=
  (runWord_one ht.cur ht.gang ht.issues ht.members ht.done ht.short ht.serial (by rw [State.not_full_of_room hroom, Bool.and_false]) (preCheck_of_may hc ht.role hp) ht.guard
    (roomFor_bind hroom (M.bind_step hops hrest))).trans (by rw [hv]; rfl)

/-! ### The rank of a thread while operands are read -/

/-- Whether each thread is privileged is as before. -/
def SameRank (s t : State) : Prop := ∀ k, t.privOf k = s.privOf k
theorem sameRank_isFrame : IsFrame SameRank where
  refl _ _ := rfl
  trans h h' k := (h' k).trans (h k)
theorem SameParties.sameRank {s t : State} (h : SameParties s t) : SameRank s t := fun k => by
  simp only [State.privOf, State.groupOf, State.thr, State.team, h.threads, h.teams]
theorem OnlyFree.sameRank {s t : State} (h : OnlyFree s t) : SameRank s t := by
  obtain ⟨n, rfl⟩ := h
  exact fun _ => rfl
theorem M.Ensures.widen {α : Type} {R R' : State → State → Prop} {P : α → Prop} {x : M α} (h : M.Ensures R P x) (hR : ∀ s t, R s t → R' s t) : M.Ensures R' P x :=
  fun s a s' hx => ⟨(h s a s' hx).1, hR s s' (h s a s' hx).2⟩
theorem resolveOp_onlyFree (k : Nat) (op : Operand) (cnt : Option Nat) : M.Ensures OnlyFree (fun _ => True) (resolveOp k op cnt) := by
  have hp : ∀ r : Res, M.Ensures OnlyFree (fun _ => True) (pure r) := fun _ => .pure onlyFree_isFrame trivial
  refine .getT_bind fun t => ?_
  cases op with
  | slice st w => exact hp _
  | special c w => exact .ite (fun _ => hp _) fun _ => .ite (fun _ => hp _) fun _ => .ite (fun _ => hp _) fun _ => .ite (fun _ => hp _) fun _ => .ite (fun _ => hp _) fun _ => hp _
  | indexed x off w => exact (readLoc_onlyFree k _).bind onlyFree_isFrame fun _ _ => .ite (fun _ => .error) fun _ => hp _
  | imm v => exact hp _
theorem streamUses_onlyFree (k : Nat) (prior : List Nat) (l : List (Res × Bool)) : M.Ensures OnlyFree (fun _ => True) (streamUses k prior l) := by
  induction l generalizing prior with
  | nil => exact .pure onlyFree_isFrame trivial
  | cons x r ih =>
    obtain ⟨res, st⟩ := x
    cases res with
    | port p w =>
      exact .getT_bind fun t => .ite (fun _ => .error) fun _ => .ite (fun _ => .error) fun _ => .ite (fun _ => .error) fun _ =>
        (ih _).bind onlyFree_isFrame fun _ _ => .pure onlyFree_isFrame trivial
    | _ => exact (ih _).bind onlyFree_isFrame fun _ _ => .pure onlyFree_isFrame trivial
theorem storeCheck_sameParties (k va n : Nat) (o : Order) : M.Keeps SameParties (storeCheck k va n false o) := by
  refine (locateX_sameParties false k va n 2).andThen fun p => .get_bind fun s => ?_
  cases p with
  | spad off => exact .ite (fun _ => sameParties_error) fun _ => sameParties_pure _
  | hostm pa => exact sameParties_pure _
  | dev pa => exact .ite (fun _ => sameParties_error) fun _ => .ite nofun fun _ => sameParties_pure _
/-- The element stage of store streams alone. -/
theorem streamElems_sameParties (k : Nat) (l : List (Option Nat × Bool)) (h : ∀ x, x ∈ l → x.2 = true) : M.Keeps SameParties (streamElems k l) := by
  induction l with
  | nil => exact sameParties_pure _
  | cons x r ih =>
    obtain ⟨u, st⟩ := x
    obtain rfl : st = true := h _ List.mem_cons_self
    have hr := ih fun y hy => h y (List.mem_cons_of_mem _ hy)
    cases u with
    | none => exact M.Keeps.andThen hr fun _ => sameParties_pure _
    | some va => exact (storeCheck_sameParties k va 8 .rlx).andThen fun _ => M.Keeps.andThen hr fun _ => sameParties_pure _
theorem takeElems_sameRank (k : Nat) (rs : List Res) : M.Ensures SameRank (fun _ => True) (takeElems k rs) := by
  refine .forM' sameRank_isFrame fun r _ => ?_
  cases r with
  | port p w =>
    refine .modify (fun s j => ?_) trivial
    have hpart := State.thr_modThr_part (fun t : Thread => (t.handler, t.team, t.grp)) (fun _ => rfl) s k j
      (f := fun t => { t with streams := dset StreamPort.unbound t.streams p { t.port p with pos := (t.port p).pos + 1 } })
    simp only [Prod.mk.injEq] at hpart
    obtain ⟨hh, htm, hg⟩ := hpart
    simp only [State.privOf, State.groupOf, hh, htm, hg]
    rfl
  | _ => exact .pure sameRank_isFrame trivial
/-- A destination that is resolved and covered, whichever it is, leaves every thread its rank. -/
theorem operands_sameRank (k : Nat) (d : Operand × Option Nat) : M.Ensures SameRank (fun _ => True) (operands k [] (some d)) := by
  have hF := sameRank_isFrame
  refine (M.Ensures.pure (P := (· = [])) hF rfl).bind hF fun rs0 h0 => ?_
  subst h0
  refine ((M.Ensures.mapM' onlyFree_isFrame fun o _ => resolveOp_onlyFree k o.1 o.2).widen fun _ _ h => h.sameRank).bind hF fun rd _ =>
    ((M.Ensures.forM' onlyFree_isFrame fun r _ => boundRes_onlyFree k r).widen fun _ _ h => h.sameRank).bind hF fun _ _ =>
    (M.Ensures.pure (P := fun _ => True) hF trivial).bind hF fun _ _ => ((streamUses_onlyFree k _ _).widen fun _ _ h => h.sameRank).bind hF fun us _ =>
    ((streamElems_sameParties k _ fun x hx => ?_).ensures.widen fun _ _ h => h.sameRank).bind hF fun es _ =>
    (M.Ensures.pure (P := fun _ => True) hF trivial).bind hF fun vs _ => ((coverDest_onlyFree k _).widen fun _ _ h => h.sameRank).bind hF fun _ _ =>
    (takeElems_sameRank k _).bind hF fun _ _ => .pure hF trivial
  obtain ⟨_, _, hx⟩ := List.mem_map.mp (List.of_mem_zip hx).2
  exact hx.symm

/-! ### Cache operations -/

section
variable {f : FmtA} {host : Nat → Nat → State → State} {body : Nat → Nat → M Unit}

theorem lineOp_spad {off : Nat} (ht : s.Turn gid g k f.hdr anyRole) (hroom : s.Room k f.hdr) (hops : operands k [plainOp f.a] (some (plainOp f.d)) s = (.ok (vs, dst), s1))
    (hl : lineAt k (src vs 0).zx s1 = (.ok (.spad off), s2)) (ho : ownOrder k (.spad off) 128 s2 = (.ok (), s2)) (hw : later k f.hdr dst 0 s2 = (.ok (), s3)) :
    lineOp f host body s = .next (movedNext gid g 1 s3) :=
  runWord_ops (m := varMeta) ht hroom rfl rfl rfl hops <| M.bind_step hl <| M.bind_step ho <| M.get_step hw
theorem lineOp_hostm {pa : Nat} (ht : s.Turn gid g k f.hdr anyRole) (hroom : s.Room k f.hdr) (hops : operands k [plainOp f.a] (some (plainOp f.d)) s = (.ok (vs, dst), s1))
    (hl : lineAt k (src vs 0).zx s1 = (.ok (.hostm pa), s2)) (ho : ownOrder k (.hostm pa) 128 s2 = (.ok (), s2)) (hw : later k f.hdr dst 0 (host k (hostLine pa) s2) = (.ok (), s3)) :
    lineOp f host body s = .next (movedNext gid g 1 s3) :=
  runWord_ops (m := varMeta) ht hroom rfl rfl rfl hops <| M.bind_step hl <| M.bind_step ho <| M.get_step <| M.bind_step (M.run_modify ..) hw
theorem lineOp_mapped {pa : Nat} (ht : s.Turn gid g k f.hdr anyRole) (hroom : s.Room k f.hdr) (hops : operands k [plainOp f.a] (some (plainOp f.d)) s = (.ok (vs, dst), s1))
    (hl : lineAt k (src vs 0).zx s1 = (.ok (.dev pa), s2)) (ho : ownOrder k (.dev pa) 128 s2 = (.ok (), s2)) (hm : s2.mapOf (lineOf pa) ≠ none)
    (hw : later k f.hdr dst 1 s2 = (.ok (), s3)) : lineOp f host body s = .next (movedNext gid g 1 s3) :=
  runWord_ops (m := varMeta) ht hroom rfl rfl rfl hops <| M.bind_step hl <| M.bind_step ho <| M.get_step <| M.ite_step_pos (Option.isSome_iff_ne_none.mpr hm) hw
theorem lineOp_dev {pa : Nat} (ht : s.Turn gid g k f.hdr anyRole) (hroom : s.Room k f.hdr) (hops : operands k [plainOp f.a] (some (plainOp f.d)) s = (.ok (vs, dst), s1))
    (hl : lineAt k (src vs 0).zx s1 = (.ok (.dev pa), s2)) (ho : ownOrder k (.dev pa) 128 s2 = (.ok (), s2)) (hm : s2.mapOf (lineOf pa) = none)
    (hb : body k (lineOf pa) s2 = (.ok (), s3)) (hw : later k f.hdr dst 0 s3 = (.ok (), s4)) : lineOp f host body s = .next (movedNext gid g 1 s4) :=
  runWord_ops (m := varMeta) ht hroom rfl rfl rfl hops <| M.bind_step hl <| M.bind_step ho <| M.get_step <| M.ite_step_neg (by simp [hm]) <| M.bind_step hb hw
end

/-- What clean does to a line: Modified copies and dirty agents are written back. -/
def State.cleaned (s : State) (line : Nat) : State := match s.dirOf line with
  | .owned c =>
    let dirty : Bool := match s.l1Of c line with
      | some (.m _) => true
      | _ => (tget (s.core c).victim line).isSome
    if dirty then (s.recallShared c line).setDir line (.shared [c]) else s.cleanAgents line
  | .busy _ _ => s.unbusy line
  | _ => s
theorem exec_cacheopClean_eq (f : FmtA) (s : State) : exec (.cacheopClean f) s =
    lineOp f (fun _ _ s => s) (fun _ line => do snoopSectors (128 * line) 128 false; modify fun s => s.cleaned line) s := rfl
theorem State.cleaned_of_uncached {l : Nat} (h : s.dirOf l = .uncached) : s.cleaned l = s := by
  unfold State.cleaned
  rw [h]
theorem State.cleaned_of_modified {l c : Nat} {d : Bytes} (h : s.dirOf l = .owned c) (hm : s.l1Of c l = some (.m d)) : s.cleaned l = (s.recallShared c l).setDir l (.shared [c]) := by
  unfold State.cleaned
  rw [h]
  dsimp only
  rw [hm]
  rfl
/-- Operations 0, 1 and 2 are line operations. -/
theorem exec_lineOp {f : FmtA} {i : Instr} (hi : i ∈ [Instr.cacheopClean f, .cacheopFlush f, .cacheopDrop f]) : ∃ host body, ∀ s, exec i s = lineOp f host body s := by
  simp only [List.mem_cons, List.not_mem_nil, or_false] at hi
  rcases hi with rfl | rfl | rfl
  · exact ⟨_, _, exec_cacheopClean f⟩
  · exact ⟨_, _, exec_cacheopFlush f⟩
  · exact ⟨_, _, exec_cacheopDrop f⟩
theorem mapStop_ok {α : Type} {c : Stop → Stop} {x : M α} {a : α} (h : x s = (.ok a, s1)) : mapStop c x s = (.ok a, s1) := by
  unfold mapStop
  rw [h]
/-- Whether a place lies on a mapped line. -/
def State.onMapped (s : State) (p : Place) : Bool := match p with
  | .dev pa => (s.mapOf (lineOf pa)).isSome
  | _ => false
theorem State.onMapped_of_dev {p : Place} (h : ∀ pa, p = .dev pa → s.mapOf (lineOf pa) = none) : s.onMapped p = false := by
  cases p with
  | dev pa => exact congrArg Option.isSome (h pa rfl)
  | _ => rfl

end Sys2Proof.Machine

open Sys2Proof Sys2Proof.Machine

/-- Settles O31: the line operations by where the line lies, the others by their own order of accesses. -/
theorem cacheWords : Obligations.CacheWords := by
  unfold Obligations.CacheWords
  refine ⟨?_, ?_, ?_, ?_, ?_⟩
  · intro f i s gid g k s1 s2 s3 vs dst p hi ht hroom hops hl ho
    obtain ⟨host, body, he⟩ := exec_lineOp hi
    refine ⟨?_, ?_⟩
    · rintro off rfl hw
      exact (he s).trans (lineOp_spad ht hroom hops hl ho hw)
    · rintro pa rfl hm hw
      exact (he s).trans (lineOp_mapped ht hroom hops hl ho hm hw)
  · intro f s gid g k s1 s2 s3 s4 vs dst pa ht hroom hops hl ho hm
    refine ⟨fun hs hd hw => ?_, fun c d hs hd hc hw => ?_, fun t hs hb hw => ?_, fun hw => ?_⟩
    · exact (exec_cacheopClean_eq f s).trans (lineOp_dev ht hroom hops hl ho hm (M.bind_step hs ((M.run_modify ..).trans (by rw [State.cleaned_of_uncached hd]))) hw)
    · exact (exec_cacheopClean_eq f s).trans (lineOp_dev ht hroom hops hl ho hm (M.bind_step hs ((M.run_modify ..).trans (by rw [State.cleaned_of_modified hd hc]))) hw)
    · exact (exec_cacheopFlush f s).trans (lineOp_dev ht hroom hops hl ho hm (M.bind_step hs hb) hw)
    · exact (exec_cacheopDrop f s).trans (lineOp_dev ht hroom hops hl ho hm (M.run_modify ..) hw)
  · intro f s gid g k s1 s2 s3 vs dst pa ht hroom hops hl ho
    exact ⟨fun hw => (exec_cacheopClean f s).trans (lineOp_hostm ht hroom hops hl ho hw), fun hw => (exec_cacheopFlush f s).trans (lineOp_hostm ht hroom hops hl ho hw),
      fun hw => (exec_cacheopDrop f s).trans (lineOp_hostm ht hroom hops hl ho hw)⟩
  · intro f s gid g k s1 s2 s3 s4 vs dst va p ht hroom hops hva hl
    subst hva
    refine ⟨?_, fun hm hst hw => ?_⟩
    · rintro pa rfl hm hw
      exact (exec_cacheopZero f s).trans <| runWord_ops (m := varMeta) ht hroom rfl rfl rfl hops <| M.bind_step hl <| M.get_step <|
        M.ite_step_pos (Option.isSome_iff_ne_none.mpr hm) hw
    · have hf := Bool.eq_false_iff.mp (State.onMapped_of_dev hm)
      exact (exec_cacheopZero f s).trans <| runWord_ops (m := varMeta) ht hroom rfl rfl rfl hops <| M.bind_step hl <| M.get_step <|
        M.ite_step_neg hf <| M.bind_step (mapStop_ok hst) hw
  · intro f s gid g k s1 s2 vs dst ht hroom hp hops
    exact ⟨fun hw => (exec_cacheopL1all f s).trans <| runWord_opsPriv (m := cacheMeta) ht hroom rfl (fun _ => hp) rfl hops <| M.bind_step (M.run_modify ..) hw,
      fun hw => (exec_cacheopL2all f s).trans <| runWord_opsPriv (m := cacheMeta) ht hroom rfl (fun _ => hp) rfl hops <| M.bind_step (M.run_modify ..) hw⟩

end

section
/-! PROOFS. System registers, tlbinv and cancel: O30. -/
namespace Sys2Proof.Machine

variable {s s1 s2 s3 : State} {k gid : Nat} {g : Gang} {vs : List SVal} {dst : Dest} {f : FmtA}

theorem sysrd_next {v : Nat} (ht : s.Turn gid g k f.hdr anyRole) (hroom : s.Room k f.hdr) (hp : immNat f.b = 0xC → s.privOf k = true)
    (hops : operands k [] (some (plainOp f.d)) s = (.ok (vs, dst), s1)) (hv : s1.sysRead k (immNat f.b) = v) (hl : later k f.hdr dst v s1 = (.ok (), s2)) :
    exec (.sysrd f) s = .next (movedNext gid g 1 s2) :=
  (exec_sysrd f s).trans <| runWord_opsPriv (m := { varMeta with priv := immNat f.b == 0xC }) ht hroom rfl (fun h => hp (eq_of_beq h)) rfl hops <|
    M.get_step (hv ▸ hl)

/-- A predicate image written: results still due for predicates are dropped, and the predicates are covered (R386). -/
def Thread.imagePreds (x t : Thread) (id sc : Nat) : Thread :=
  { x with pend := x.pend.map (dropWrites ((List.range 31).map Loc.pred)), varDest := x.varDest ++ (List.range 31).map fun p =>
    { oid := id, dc := x.counter sc, loc := .pred p, old := t.base (.pred p) } }
/-- What a value that its register takes does, once the result is issued as instruction id. -/
def sysStore (k n v id sc : Nat) (t : Thread) : M Unit := do
  if n = 3 then modT k fun x => x.imagePreds t id sc
  else pure ()
  if n = 0x30 then modTm t.team fun x => { x with tstat := wd (tstatMask v) }
  else modT k fun t => t.sysWrite n v

theorem issue_takes {n v id : Nat} {sc : Nat} {t : Thread} {o : Bool} (ho : sysTakes t n v = o) (hi : issueVar k sc dst (b2n !o) 1 none .time true none 15 s1 = (.ok id, s2)) :
    issueVar k sc dst (b2n !sysTakes t n v) 1 none .time true none 15 s1 = (.ok id, s2) := ho ▸ hi

section
variable (ht : s.Turn gid g k f.hdr anyRole) (hroom : s.Room k f.hdr) (hp : s.privOf k = true) (hops : operands k [plainOp f.a] (some (plainOp f.d)) s = (.ok (vs, dst), s1))
include ht hroom hp hops

/-- A value that the register does not take. -/
theorem syswr_refused {id : Nat} (ho : sysTakes (s1.thr k) (immNat f.b) (src vs 0).zx = false)
    (hi : issueVar k f.hdr.sc.toNat dst 1 1 none .time true none 15 s1 = (.ok id, s2)) : exec (.syswr f) s = .next (movedNext gid g 1 s2) :=
  (exec_syswr f s).trans <| runWord_opsPriv (m := { varMeta with priv := true }) ht hroom rfl (fun _ => hp) rfl hops <| M.bind_step (M.run_getT k s1) <|
    M.bind_step (issue_takes ho hi) <| M.ite_step_neg (Bool.eq_false_iff.mp ho) rfl
/-- A value that the register takes. -/
theorem syswr_taken {id : Nat} (ho : sysTakes (s1.thr k) (immNat f.b) (src vs 0).zx = true) (hi : issueVar k f.hdr.sc.toNat dst 0 1 none .time true none 15 s1 = (.ok id, s2))
    (hs : sysStore k (immNat f.b) (src vs 0).zx id f.hdr.sc.toNat (s1.thr k) s2 = (.ok (), s3)) : exec (.syswr f) s = .next (movedNext gid g 1 s3) :=
  (exec_syswr f s).trans <| runWord_opsPriv (m := { varMeta with priv := true }) ht hroom rfl (fun _ => hp) rfl hops <| M.bind_step (M.run_getT k s1) <|
    M.bind_step (issue_takes ho hi) <| M.ite_step_pos ho hs
end
theorem sysStore_other {n v id sc : Nat} {t : Thread} (h3 : n ≠ 3) (h30 : n ≠ 0x30) : sysStore k n v id sc t s = (.ok (), s.modThr k fun t => t.sysWrite n v) :=
  M.ite_step_neg h3 <| M.ite_step_neg h30 rfl
theorem sysStore_tstat {n v id sc : Nat} {t : Thread} (hn : n = 0x30) : sysStore k n v id sc t s = (.ok (), s.modTeam t.team fun t => { t with tstat := wd (tstatMask v) }) :=
  M.ite_step_neg (by omega) <| M.ite_step_pos hn rfl
theorem sysStore_preds {n v id sc : Nat} {t : Thread} (hn : n = 3) : sysStore k n v id sc t s = (.ok (), (s.modThr k (·.imagePreds t id sc)).modThr k fun t => t.sysWrite n v) :=
  M.ite_step_pos hn <| M.bind_step (M.run_modT ..) <| M.ite_step_neg (by omega) rfl
/-- What cancel does with the unit that it has found. -/
def cancelAct (k : Nat) (h : Hdr) (dst : Dest) (s : State) : Option UnitRef → M Unit
  | none => later k h dst 2
  | some u => if s.unitCount u = some 0 then later k h dst 1 else do
      later k h dst 0
      modify fun s => s.cancelUnit u
theorem Thread.sysWrite_preds (t : Thread) (v : Nat) : t.sysWrite 3 v = { t with preds := BitVec.ofNat 32 (setBits (low 32 v) 31 1 1) } := rfl

end Sys2Proof.Machine

open Sys2Proof Sys2Proof.Machine

/-- Settles O30: each word is its checks, its operands and its own effect; that a thread is privileged is as before once the operands are read. -/
theorem systemWords : Obligations.SystemWords := by
  unfold Obligations.SystemWords
  refine ⟨?_, ?_, ?_, ?_, ?_⟩
  · intro f hn s gid g k s1 s2 vs dst r ht hroom hops hv hl
    exact sysrd_next ht hroom (absurd · hn) hops (Option.some.inj hv) hl
  · intro f s gid g k s1 s2 vs dst r ht hroom hops hv hl
    obtain ⟨hp, hr⟩ := Option.ite_none_right_eq_some.mp hv
    refine sysrd_next ht hroom (fun _ => ?_) hops (Option.some.inj hr) hl
    exact ((operands_sameRank k _ _ _ _ hops).2 k).symm.trans hp
  · intro f s gid g k s1 s2 vs dst n v id ht hroom hp hops hn hv
    subst hn hv
    refine ⟨fun ho hi => syswr_refused ht hroom hp hops ho hi, fun ho h3 h30 hi => syswr_taken ht hroom hp hops ho hi (sysStore_other h3 h30), fun hn hi => ?_, fun hn hi => ?_⟩
    · exact syswr_taken ht hroom hp hops (by rw [hn]; rfl) hi (sysStore_tstat hn)
    · refine ⟨_, syswr_taken ht hroom hp hops (by rw [hn]; rfl) hi (sysStore_preds hn), rfl, rfl, fun t ht2 => ?_⟩
      rw [State.modThr_modThr, State.thr_of_some (tget_tmod_same _ ht2), hn, Thread.sysWrite_preds]
      exact ⟨rfl, rfl⟩
  · intro f s gid g k s1 s2 vs dst c ctx ht hroom hp hops hc hctx
    subst hc hctx
    have hword := fun {s2} hrest => (exec_tlbinv f s).trans <| runWord_opsPriv (m := { varMeta with priv := true }) (s2 := s2) ht hroom rfl (fun _ => hp) rfl hops hrest
    refine ⟨fun hbad hw => hword (M.ite_step_pos (by simpa [or_assoc] using hbad) hw), ?_, ?_, ?_⟩
    · rintro t hk h3 h32 hall rfl hw
      refine hword (M.ite_step_neg (by simp [hk, h3, h32]) ?_)
      simp only [hall]
      exact M.bind_step (M.run_modify ..) <| M.get_step <| M.ite_step_neg (by simp) hw
    · rintro t hk h3 h32 hall hg rfl hw
      refine hword (M.ite_step_neg (by simp [hk, h3, h32]) ?_)
      simp only [hall]
      exact M.bind_step (M.run_modify ..) <| M.get_step <| M.ite_step_neg (by rcases hg with hg | hg <;> simp [State.dropTlb, hg]) hw
    · rintro t hk h3 h32 hall hr hfe rfl hw
      refine hword (M.ite_step_neg (by simp [hk, h3, h32]) ?_)
      simp only [hall]
      exact M.bind_step (M.run_modify ..) <| M.get_step <| M.ite_step_pos (by simp [State.dropTlb, hr, hfe]) <| M.bind_step rfl <| M.bind_step hw rfl
  · intro f s gid g k s1 s2 vs dst u ht hroom hp hops hu
    subst hu
    have hword : ∀ {s2}, cancelAct k f.hdr dst s1 (if unused f.a then s1.unitOfThread k (immNat f.b) else s1.unitMirrored k (immNat f.b) (wd (src vs 0).zx)) s1 = (.ok (), s2) →
        exec (.cancel f) s = .next (movedNext gid g 1 s2) := fun {s2} hrest => (exec_cancel f s).trans <|
      runWord_opsPriv (m := { varMeta with priv := 2 ≤ immNat f.b || !unused f.a }) ht hroom rfl (fun h => hp (by simpa using h)) rfl hops <| M.get_step hrest
    refine ⟨fun hn hw => hword (by rw [hn]; exact hw), fun x hx hc hw => hword (by rw [hx]; exact M.ite_step_pos hc hw),
      fun x hx hc hw => hword (by rw [hx]; exact M.ite_step_neg hc (M.bind_step hw rfl))⟩

end

section
/-! PROOFS. Starts and signed commands: O59. -/
namespace Sys2Proof.Machine

/-! ### Bits and little-endian bytes -/

theorem ofLe_append (a b : Bytes) : ofLe (a ++ b) = ofLe a + 2 ^ (8 * a.length) * ofLe b := by
  induction a with
  | nil => simp [ofLe]
  | cons x r ih =>
    rw [List.cons_append, ofLe, ofLe, ih, List.length_cons, Nat.mul_succ, Nat.pow_add]
    ring
theorem ofLe_leBytes {n x : Nat} (h : x < 2 ^ (8 * n)) : ofLe (leBytes n x) = x := by
  induction n generalizing x with
  | zero =>
    obtain rfl : x = 0 := by simpa using h
    rfl
  | succ n ih =>
    rw [leBytes, ofLe, ih (by rw [Nat.mul_succ, Nat.pow_add] at h; exact Nat.div_lt_of_lt_mul (by omega)), BitVec.toNat_ofNat]
    exact Nat.mod_add_div x 256
theorem ofLe_leBytes_quad (w : Word) : ofLe (leBytes 8 w.toNat) = w.toNat := ofLe_leBytes w.isLt
/-- A field in the upper part of a number. -/
theorem bits_add_high {a k : Nat} (ha : a < 2 ^ k) (b i n : Nat) : bits (a + 2 ^ k * b) (k + i) n = bits b i n := by
  unfold bits
  rw [Nat.pow_add, ← Nat.div_div_eq_div_mul, Nat.add_mul_div_left _ _ (Nat.two_pow_pos k), Nat.div_eq_of_lt ha, Nat.zero_add]
/-- A field in the lower part of a number. -/
theorem bits_add_low {k i n : Nat} (h : i + n ≤ k) (a b : Nat) : bits (a + 2 ^ k * b) i n = bits a i n := by
  obtain ⟨j, rfl⟩ := Nat.exists_eq_add_of_le h
  unfold bits
  rw [Nat.add_assoc, Nat.pow_add, Nat.mul_assoc, Nat.add_mul_div_left _ _ (Nat.two_pow_pos i), Nat.pow_add, Nat.mul_assoc, Nat.add_mul_mod_self_left]
theorem bits_setBits_same (x i n v : Nat) : bits (setBits x i n v) i n = low n v := by
  have hx : x - bits x i n * 2 ^ i = x % 2 ^ i + 2 ^ i * (2 ^ n * (x / 2 ^ i / 2 ^ n)) := by
    have h1 := Nat.mod_add_div x (2 ^ i)
    have h2 := Nat.mod_add_div (x / 2 ^ i) (2 ^ n)
    unfold bits
    generalize x / 2 ^ i = y at *
    have h3 : 2 ^ i * y = y % 2 ^ n * 2 ^ i + 2 ^ i * (2 ^ n * (y / 2 ^ n)) := by
      conv_lhs => rw [← h2]
      ring
    omega
  unfold setBits
  have hb := bits_add_high (Nat.mod_lt x (Nat.two_pow_pos i)) (2 ^ n * (x / 2 ^ i / 2 ^ n) + low n v) 0 n
  rw [Nat.add_zero] at hb
  rw [hx, Nat.add_assoc, Nat.mul_comm (low n v), ← Nat.mul_add, hb]
  unfold bits low
  simp
theorem bitAt_setBits_same (x i v : Nat) : bitAt (setBits x i 1 v) i = (low 1 v == 1) := congrArg (· == 1) (bits_setBits_same x i 1 v)

/-! ### Commands -/

section
variable {s : State} {c : Signed} {root : Nat} {ok : State → Bool} {f : State → State}

theorem State.wake_awake (h : s.trust.sleeping = false) : s.wake = s := by
  unfold State.wake
  rw [h]
  rfl
/-- A refused command is counted. -/
theorem State.command_refused (hs : s.trust.sleeping = false) (h : Config.sigValid root c.msg c.sig = false ∨ c.count ≤ s.trust.count ∨ ok s = false) :
    s.command root c ok f = s.setTrust fun t => { t with cmdRefused := t.cmdRefused + 1 } := by
  unfold State.command
  rw [State.wake_awake hs]
  refine if_neg fun hc => ?_
  simp only [Bool.and_eq_true, decide_eq_true_eq] at hc
  obtain ⟨⟨hsig, hcount⟩, hok⟩ := hc
  rcases h with h | h | h
  · simp [h] at hsig
  · omega
  · simp [h] at hok
/-- A good command has its effect once its count is kept. -/
theorem State.command_taken (hs : s.trust.sleeping = false) (hsig : Config.sigValid root c.msg c.sig = true) (hc : s.trust.count < c.count) (hok : ok s = true) :
    s.command root c ok f = f (s.setTrust fun t => { t with count := c.count }) := by
  unfold State.command
  rw [State.wake_awake hs]
  exact if_pos (by simp [hsig, hc, hok])
end

/-! ### Starts -/

theorem failStart_ready (n m : Nat) : bitAt (low 7 n * 2 ^ 32 + if 3 ≤ m + 1 then 2 ^ 39 else 0) 39 = decide (2 ≤ m) ∧ bits (low 7 n * 2 ^ 32 + if 3 ≤ m + 1 then 2 ^ 39 else 0) 32 7 = low 7 n := by
  have hl : low 7 n < 128 := Nat.mod_lt _ (by decide)
  generalize low 7 n = a at *
  unfold bitAt bits
  split
  · simp only [show 2 ≤ m by omega, decide_true, beq_iff_eq]
    omega
  · simp only [show ¬ 2 ≤ m by omega, decide_false, beq_eq_false_iff_ne]
    omega
/-- What the slot tables of an image change. -/
theorem State.imageTables_eq (s : State) (l : List (Nat × Word × Quads)) : ∃ t, s.imageTables l = { s with fabric := { s.fabric with tables := t } } :=
  List.foldlRecOn (motive := fun u : State => ∃ t, u = { s with fabric := { s.fabric with tables := t } }) l _ ⟨_, rfl⟩ fun u hu e _ => by
    obtain ⟨t, rfl⟩ := hu
    split
    · exact ⟨_, rfl⟩
    · exact ⟨_, rfl⟩
/-- What the queue descriptors, budgets and fault rings of an image change. -/
theorem State.installQueues_eq (s : State) (l : List (Nat × QueueDesc)) : ∃ q, l.foldl (fun s e => s.installQueue e.1 e.2) s = { s with host := { s.host with queues := q } } ∧ (l = [] → q = s.host.queues) := by
  cases l with
  | nil => exact ⟨_, rfl, fun _ => rfl⟩
  | cons e r =>
    obtain ⟨q, hq⟩ := List.foldlRecOn (motive := fun u : State => ∃ q, u = { s with host := { s.host with queues := q } }) (e :: r) (fun s e => s.installQueue e.1 e.2) ⟨_, rfl⟩ fun u hu e _ => by
      obtain ⟨q, rfl⟩ := hu
      exact ⟨_, rfl⟩
    exact ⟨q, hq, nofun⟩
theorem State.setBudgets_eq (s : State) (l : List (Nat × BudgetVals)) : ∃ b, l.foldl (fun s e => s.setBudget e.1 e.2) s = { s with host := { s.host with budgets := b } } :=
  List.foldlRecOn (motive := fun u : State => ∃ b, u = { s with host := { s.host with budgets := b } }) l _ ⟨_, rfl⟩ fun u hu e _ => by
    obtain ⟨t, rfl⟩ := hu
    exact ⟨_, rfl⟩
theorem State.setRings_eq (s : State) (l : List (Nat × Nat)) : ∃ d, l.foldl (fun s e => s.setRing' e.1 e.2) s = { s with dies := d } :=
  List.foldlRecOn (motive := fun u : State => ∃ d, u = { s with dies := d }) l _ ⟨_, rfl⟩ fun u hu e _ => by
    obtain ⟨t, rfl⟩ := hu
    exact ⟨_, rfl⟩
theorem State.imageItems_eq (s : State) (st : StartInput) : ∃ q b n d l, s.imageItems st =
    { s with host := { s.host with queues := q, budgets := b, lanes := st.hostLanes, narrowed := n }, dies := d, trust := { s.trust with replaceReq := l } }
      ∧ (st.queues = [] → q = s.host.queues) := by
  obtain ⟨q, hq, hnil⟩ := s.installQueues_eq (st.queues.filter fun e => queueOk e.1 e.2)
  obtain ⟨b, hb⟩ := State.setBudgets_eq { s with host := { s.host with queues := q } } (st.budgets.filter fun e => budgetOk e.1 e.2)
  obtain ⟨d, hd⟩ := State.setRings_eq { s with host := { s.host with queues := q, budgets := b } } (st.faultRings.filter fun e => ringOk e.1 e.2)
  have hn : st.queues = [] → q = s.host.queues := fun h => hnil (by rw [h]; rfl)
  unfold State.imageItems
  dsimp only
  rw [hq, hb, hd]
  split
  · obtain ⟨l, hl, -⟩ := State.askReplace_eq { s with dies := d, host := { s.host with queues := q, budgets := b, lanes := st.hostLanes, narrowed := s.host.narrowed + b2n (decide (st.hostLanes < 16)) } } (64 + 26)
    exact ⟨q, b, _, d, l, hl, hn⟩
  · exact ⟨q, b, _, d, _, rfl, hn⟩
theorem State.linksUp_eq (s : State) (l : List Nat) : ∃ f, s.linksUp l = { s with fabric := f } :=
  List.foldlRecOn (motive := fun u : State => ∃ f, u = { s with fabric := f }) l _ ⟨_, rfl⟩ fun u hu e _ => by
    obtain ⟨t, rfl⟩ := hu
    exact ⟨_, rfl⟩

end Sys2Proof.Machine
end

section
/-! PROOFS. Starts and signed commands, continued: O59. -/
namespace Sys2Proof.Machine

variable {s : State} {c : Signed}

/-! ### Starts and functions -/

/-- A start's state with the identity and the parts of an image that are no tables. -/
def State.configured (s : State) (st : StartInput) : State :=
  { s with devno := st.devno, inPod := st.inPod, fabric := { s.fabric with present := st.present },
           belay := { s.belay with uplinks := st.uplinks.foldl (fun l e => tset l e.1 e.2) [] }, host := { s.host with ctxTable := some st.ctxTable },
           socket := { s.socket with config := st.guestQueues, expected := st.guestDigest } }
theorem deviceStart_next (s : State) (st : StartInput) : exec (.deviceStart st) s = .next (
    if !st.firmwareOk then s.restart.failStart 1
    else if !s.restart.imageOk st then (s.restart.setTrust fun t => { t with cmdRefused := t.cmdRefused + 1 }).failStart 2
    else (((s.restart.configured st).imageTables st.slotTables).imageItems st).setTrust fun t => { t with imageVersion := st.version, image := st.image, ready := 2 ^ 25 }) := rfl
theorem deviceStart_taken {st : StartInput} (hf : st.firmwareOk = true) (hi : s.imageOk st = true) : ∃ s', exec (.deviceStart st) s = .next s' ∧ s'.devno = st.devno ∧ s'.inPod = st.inPod ∧ s'.fabric.present = st.present ∧ s'.trust.ready = 2 ^ 25
    ∧ s'.trust.imageVersion = st.version ∧ s'.threads = [] ∧ (st.queues = [] → s'.host.queues = []) ∧ s'.host.ctxTable = some st.ctxTable ∧ s'.host.lanes = st.hostLanes ∧ s'.socket.config = st.guestQueues
    ∧ s'.trust.domains = [] ∧ s'.mem = s.mem ∧ s'.trust.ownerRoot = s.trust.ownerRoot ∧ s'.trust.count = s.trust.count := by
  have hi' : s.restart.imageOk st = true := hi
  obtain ⟨t, ht⟩ := (s.restart.configured st).imageTables_eq st.slotTables
  obtain ⟨q, b, n, d, l, he, hq⟩ := State.imageItems_eq ((s.restart.configured st).imageTables st.slotTables) st
  refine ⟨_, (deviceStart_next s st).trans (congrArg _ ((if_neg (by simp [hf])).trans (if_neg (by simp [hi'])))), ?_⟩
  rw [ht] at he hq
  rw [ht, he]
  exact ⟨rfl, rfl, rfl, rfl, rfl, rfl, hq, rfl, rfl, rfl, rfl, rfl, rfl, rfl⟩

/-- Links that come into service with a function of their own. -/
def State.linksUpIf (p : Prop) [Decidable p] (l : State → List Nat) (s : State) : State := if p then s.linksUp (l s) else s
theorem State.linksUpIf_eq (p : Prop) [Decidable p] (l : State → List Nat) (s : State) : ∃ f, s.linksUpIf p l = { s with fabric := f } := by
  unfold State.linksUpIf
  split
  · exact s.linksUp_eq _
  · exact ⟨_, rfl⟩
/-- A function that is ready, with its links. -/
def State.withFunction (s : State) (b : Nat) : State :=
  ((s.setReady b 1).linksUpIf (b = 28) fun t => (List.range 31).filter fun l => t.fabric.present.contains (32 * devGroup t.devno + (devPos t.devno + l + 1) % 32)).linksUpIf (b = 29)
    fun _ => (List.range 16).map (32 + ·)
theorem functionReady_next (s : State) (b : Nat) : exec (.functionReady b) s = .next (if !s.mayRaise b then s else
    if (s.withFunction b).started && !bitAt (s.withFunction b).trust.ready 39 then (s.withFunction b).setTrust fun t => { t with failedStarts := 0 } else s.withFunction b) := rfl
theorem functionReady_raised {b : Nat} (h : s.mayRaise b = true) : ∃ s', exec (.functionReady b) s = .next s' ∧ s'.trust.ready = setBits s.trust.ready b 1 1 ∧ s'.mem = s.mem := by
  refine ⟨_, (functionReady_next s b).trans (congrArg _ (if_neg (by simp [h]))), ?_⟩
  have hf : ∃ f, s.withFunction b = { s.setReady b 1 with fabric := f } := by
    obtain ⟨f, hf⟩ := State.linksUpIf_eq (b = 28) (fun t => (List.range 31).filter fun l => t.fabric.present.contains (32 * devGroup t.devno + (devPos t.devno + l + 1) % 32)) (s.setReady b 1)
    obtain ⟨f', hf'⟩ := State.linksUpIf_eq (b = 29) (fun _ => (List.range 16).map (32 + ·)) { s.setReady b 1 with fabric := f }
    exact ⟨f', by rw [State.withFunction, hf, hf']⟩
  obtain ⟨f, hf⟩ := hf
  rw [hf]
  split
  · exact ⟨rfl, rfl⟩
  · exact ⟨rfl, rfl⟩

/-! ### Commands under the owner root -/

theorem run_manage (c : Signed) (ok : State → Bool) (f : State → State) (s : State) : runEvent (modify fun s => s.manage c ok f) s = .next (s.command s.trust.ownerRoot c ok f) := rfl
theorem run_command (c : Signed) (ok : State → Bool) (f : State → State) (s : State) :
    runEvent (modify fun s => s.command s.trust.vendorRoot c ok f) s = .next (s.command s.trust.vendorRoot c ok f) := rfl
/-- The commands of Table 25-1 are commands under a root. -/
theorem exec_command {s : State} {i : Instr} {r : Nat} {c : Signed} {q dq x dc t v b l w es st a dd rv vr n} (hi : (i, r) ∈ [(Instr.queueDescriptorInstall c q dq, s.trust.ownerRoot), (.contextDescriptorWrite c x dc, s.trust.ownerRoot),
      (.tenantContextMapWrite c t v, s.trust.ownerRoot), (.budgetSet c t b, s.trust.ownerRoot), (.slotTableInstall c l w es, s.trust.ownerRoot), (.faultRingSet c st a, s.trust.ownerRoot), (.counterClear c, s.trust.ownerRoot),
      (.domainCommand c dd, s.trust.ownerRoot), (.revocation c rv, s.trust.ownerRoot), (.retentionSleep c, s.trust.ownerRoot), (.rootRotation c vr n, s.trust.vendorRoot)]) :
    ∃ ok f, exec i s = .next (s.command r c ok f) := by
  simp only [List.mem_cons, Prod.mk.injEq, List.not_mem_nil, or_false] at hi
  rcases hi with ⟨rfl, rfl⟩ | ⟨rfl, rfl⟩ | ⟨rfl, rfl⟩ | ⟨rfl, rfl⟩ | ⟨rfl, rfl⟩ | ⟨rfl, rfl⟩ | ⟨rfl, rfl⟩ | ⟨rfl, rfl⟩ | ⟨rfl, rfl⟩ | ⟨rfl, rfl⟩ | ⟨rfl, rfl⟩
  · exact ⟨_, _, (exec_queueDescriptorInstall c q dq s).trans (run_manage ..)⟩
  · exact ⟨_, _, (exec_contextDescriptorWrite c x dc s).trans (run_manage ..)⟩
  · exact ⟨_, _, (exec_tenantContextMapWrite c t v s).trans (run_manage ..)⟩
  · exact ⟨_, _, (exec_budgetSet c t b s).trans (run_manage ..)⟩
  · exact ⟨_, _, (exec_slotTableInstall c l w es s).trans (run_manage ..)⟩
  · exact ⟨_, _, (exec_faultRingSet c st a s).trans (run_manage ..)⟩
  · exact ⟨_, _, (exec_counterClear c s).trans (run_manage ..)⟩
  · exact ⟨_, _, (exec_domainCommand c dd s).trans (run_manage ..)⟩
  · exact ⟨_, _, (exec_revocation c rv s).trans (run_manage ..)⟩
  · exact ⟨_, _, (exec_retentionSleep c s).trans (run_manage ..)⟩
  · exact ⟨_, _, (exec_rootRotation c vr n s).trans (run_command ..)⟩

end Sys2Proof.Machine
end

section
/-! PROOFS. The effects of signed commands: O59. -/
namespace Sys2Proof.Machine

/-! ### Quads in memory -/

/-- The bytes of a list of quads. -/
def quadBytes (d : Quads) : Bytes := d.flatMap fun w => leBytes 8 w.toNat
theorem length_quadBytes (d : Quads) : (quadBytes d).length = 8 * d.length := by
  induction d with
  | nil => rfl
  | cons w r ih => rw [quadBytes, List.flatMap_cons, List.length_append, length_leBytes, ← quadBytes, ih, List.length_cons, Nat.mul_succ, Nat.add_comm]
theorem ofLe_quad_append (w : Word) (r : Bytes) : ofLe (leBytes 8 w.toNat ++ r) = w.toNat + 2 ^ 64 * ofLe r := by rw [ofLe_append, ofLe_leBytes_quad, length_leBytes]
/-- A field inside quad j of a list of quads. -/
theorem bits_quadBytes (d : Quads) (j i n : Nat) (h : i + n ≤ 64) : bits (ofLe (quadBytes d)) (64 * j + i) n = bits (d.getD j 0).toNat i n := by
  induction d generalizing j with
  | nil => simp [quadBytes, ofLe, bits]
  | cons w r ih =>
    rw [quadBytes, List.flatMap_cons, ofLe_quad_append, ← quadBytes]
    cases j with
    | zero => rw [Nat.mul_zero, Nat.zero_add, bits_add_low h, List.getD_cons_zero]
    | succ j => rw [Nat.mul_succ, Nat.add_comm (64 * j), Nat.add_assoc, bits_add_high w.isLt, ih, List.getD_cons_succ]
theorem bits_quad (w : Word) : bits w.toNat 0 64 = w.toNat := by
  unfold bits
  rw [Nat.pow_zero, Nat.div_one]
  exact Nat.mod_eq_of_lt w.isLt

variable {s : State} {c : Signed}

/-! ### The context table and the tenant context map -/

/-- The context that a descriptor installs (Table 24-8). -/
def installedCtx (d : Quads) : Option Ctx :=
  if bitAt (d.getD 2 0).toNat 55 then some { root := (d.getD 3 0).toNat, tenant := bits (d.getD 2 0).toNat 56 8, timeoutMs := bits (d.getD 2 0).toNat 32 16 } else none
theorem State.ctxAt_of_bytes {x b : Nat} {d : Quads} (hb : s.host.ctxTable = some b) (hx : x < 65536) (hm : memGetN s.mem (b + 32 * x) 32 = quadBytes d) : s.ctxAt x = installedCtx d := by
  have hl : low 16 x = x := Nat.mod_eq_of_lt hx
  have h55 : bitAt (ofLe (quadBytes d)) 183 = bitAt (d.getD 2 0).toNat 55 := congrArg (· == 1) (bits_quadBytes d 2 55 1 (by decide))
  have h3 : bits (ofLe (quadBytes d)) 192 64 = (d.getD 3 0).toNat := (bits_quadBytes d 3 0 64 (by decide)).trans (bits_quad _)
  have h56 : bits (ofLe (quadBytes d)) 184 8 = bits (d.getD 2 0).toNat 56 8 := bits_quadBytes d 2 56 8 (by decide)
  have h32 : bits (ofLe (quadBytes d)) 160 16 = bits (d.getD 2 0).toNat 32 16 := bits_quadBytes d 2 32 16 (by decide)
  unfold State.ctxAt installedCtx
  rw [hb, Option.bind_some, hl, hm]
  dsimp only
  rw [h55, h3, h56, h32]
theorem State.tmapAt_of_bytes {t b x : Nat} (hb : s.host.ctxTable = some b) (ht : t < 256) (hx : x < 2 ^ (8 * 8)) (hm : memGetN s.mem (b + ctxTableBytes + 8 * t) 8 = leBytes 8 x) : s.tmapAt t = x := by
  have hl : low 8 t = t := Nat.mod_eq_of_lt ht
  unfold State.tmapAt
  rw [hb, Option.elim_some, hl, hm, ofLe_leBytes hx]
/-- What ends for a context leaves its table. -/
theorem State.dropContext_ctxTable (s : State) (x : Nat) : (s.dropContext x).host.ctxTable = s.host.ctxTable := by
  unfold State.dropContext
  dsimp only
  split <;> rfl

theorem contextDescriptorWrite_taken {x b : Nat} {d : CtxWrite} (hok : ctxOk x d = true) (hd : d.length = 4) (hb : s.host.ctxTable = some b) (hm : Memory.wf s.mem = true)
    (he : exec (.contextDescriptorWrite c x d) s = .next { (s.setTrust fun t => { t with count := c.count }).dropContext x with mem := memPutN s.mem (s.host.ctxTable.getD 0 + 32 * x) (quadBytes (d.take 4)) }) :
    ∃ s', exec (.contextDescriptorWrite c x d) s = .next s' ∧ s'.ctxAt x = installedCtx d ∧ ∀ a, (a < b + 32 * x ∨ b + 32 * x + 32 ≤ a) → memGet s'.mem a = memGet s.mem a := by
  have hx : x < 65536 := by
    simp only [ctxOk, Bool.and_eq_true, decide_eq_true_eq] at hok
    omega
  have h4 : d.take 4 = d := List.take_of_length_le hd.le
  have hlen : (quadBytes d).length = 32 := by rw [length_quadBytes, hd]
  rw [h4, hb, Option.getD_some] at he
  refine ⟨_, he, State.ctxAt_of_bytes (b := b) ((State.dropContext_ctxTable _ x).trans hb) hx ?_, fun a ha => memGet_memPutN_of_out hm (by omega)⟩
  exact hlen ▸ memGetN_memPutN_same (b + 32 * x) (quadBytes d) hm

/-- The value of a tenant context map entry that names a context. -/
theorem mapEntry_fields {x : Nat} (hx : x < 2 ^ 16) : (wd (2 ^ 63 + x)).toNat = 2 ^ 63 + x ∧ bits (2 ^ 63 + x) 16 47 = 0 ∧ bitAt (2 ^ 63 + x) 63 = true ∧ low 16 (2 ^ 63 + x) = x := by
  refine ⟨?_, ?_, ?_, ?_⟩
  · rw [wd, BitVec.toNat_ofNat]
    omega
  · unfold bits
    omega
  · unfold bitAt bits
    rw [beq_iff_eq]
    omega
  · unfold low
    omega
/-- Whether a tenant context map entry is one that is taken (R431). -/
def State.tmapOk (tenant x : Nat) (s : State) : Bool :=
  tenant < 256 && bits x 16 47 == 0 && s.host.ctxTable.isSome && (!bitAt x 63 || (s.ctxAt (low 16 x)).elim false fun d => d.tenant == tenant)
theorem tenantContextMapWrite_next (s : State) (c : Signed) (t : Nat) (v : Word) : exec (.tenantContextMapWrite c t v) s = .next (s.command s.trust.ownerRoot c (State.tmapOk t v.toNat)
    fun s => { s with mem := memPutN s.mem (s.host.ctxTable.getD 0 + ctxTableBytes + 8 * t) (leBytes 8 v.toNat) }) := rfl
theorem State.tmapOk_eq {t x : Nat} (hx : x < 2 ^ 16) : s.tmapOk t (2 ^ 63 + x) = (decide (t < 256) && s.host.ctxTable.isSome && (s.ctxAt x).elim false fun d => d.tenant == t) := by
  obtain ⟨-, hf, hb, hl⟩ := mapEntry_fields hx
  unfold State.tmapOk
  rw [hf, hb, hl]
  simp

/-- What a device that wakes changes. -/
theorem State.wake_asleep (hs : s.trust.sleeping = true) : s.wake = { s with
    trust := { s.trust with sleeping := false }, cores := s.cores.map fun e => (e.1, { e.2 with clock := low 50 s.podTime, tbase := low 50 s.podTime }),
    records := if s.podTime / 2 ^ 48 = s.trust.sleepEpoch then s.records else [] } := by
  unfold State.wake
  rw [hs]
  rfl

/-! ### Confidential domains -/

theorem State.deregisterIn_trust (s : State) (p : Phaser → Bool) (core : Option Nat) (u : RegUnit) (b : Bool) : (s.deregisterIn p core u b).trust = s.trust := by
  refine List.foldlRecOn (motive := fun t : State => t.trust = s.trust) _ _ rfl fun t ht e _ => ?_
  split
  · refine Eq.trans ?_ ht
    change (State.sendBelay ..).trust = _
    unfold State.sendBelay
    split <;> rfl
  · exact ht
theorem State.revoked_domain {k : Nat} {d : Domain} (hs : tsorted 0 s.trust.domains = true) (hf : ∀ e, e ∈ s.host.launches → e.2.fin = true) : tget (s.revoked k d).trust.domains k = none := by
  have hls : s.host.launches.filter (fun e => !e.2.fin && d.tenants.contains e.2.tenant) = [] := List.filter_eq_nil_iff.mpr fun e he => by simp [hf e he]
  unfold State.revoked
  rw [hls]
  change tget (tdel (State.deregisterIn ..).trust.domains k) k = none
  rw [State.deregisterIn_trust]
  exact (tget_tdel k k hs).trans (if_pos rfl)

/-- What a revocation does with its domain. -/
def State.revoke (s : State) (d : RevokeCmd) : State :=
  match tget s.trust.domains d.domain with
  | none => s
  | some x =>
    if d.removed.contains s.devno then s.revoked d.domain x
    else
      let y : Domain := { x with members := x.members.filter fun m => !d.removed.contains m, removed := x.removed ++ d.removed, epoch := x.epoch + 1,
                                 secret := d.secret, prevSecret := x.secret, switchAt := s.now, sendSeq := [] }
      d.removed.foldl (fun s n => s.expel d.domain n) (s.setTrust fun t => { t with domains := tset t.domains d.domain y })
theorem revocation_next (s : State) (c : Signed) (d : RevokeCmd) : exec (.revocation c d) s =
    .next (s.command s.trust.ownerRoot c (fun s => (tget s.trust.domains d.domain).isSome) (·.revoke d)) := rfl
theorem State.revoke_self {d : RevokeCmd} {n : Nat} {x : Domain} (hd : tget s.trust.domains d.domain = some x) (hr : d.removed.contains s.devno = true) :
    (s.setTrust fun t => { t with count := n }).revoke d = (s.setTrust fun t => { t with count := n }).revoked d.domain x := by
  have hd' : tget (s.setTrust fun t => { t with count := n }).trust.domains d.domain = some x := hd
  unfold State.revoke
  rw [hd']
  exact if_pos hr
theorem State.revoke_none {d : RevokeCmd} {n : Nat} {x : Domain} (hd : tget s.trust.domains d.domain = some x) (hr : d.removed = []) :
    (s.setTrust fun t => { t with count := n }).revoke d = (s.setTrust fun t => { t with count := n }).setTrust fun t => { t with domains := tset t.domains d.domain { x with members := x.members, removed := x.removed, epoch := x.epoch + 1, secret := d.secret, prevSecret := x.secret, switchAt := s.now, sendSeq := [] } } := by
  have hd' : tget (s.setTrust fun t => { t with count := n }).trust.domains d.domain = some x := hd
  unfold State.revoke
  rw [hd', hr]
  simp only [List.contains_nil, Bool.not_false, List.filter_true, List.append_nil]
  rfl

/-! ### The anchor site and attestation -/

theorem anchorSiteReset_next (s : State) : exec .anchorSiteReset s = runEvent (do
    fenceGuest
    modify fun s => s.socket.queues.foldl (fun s e => e.2.packets.foldl (fun s p => s.retireGuest e.1 p 0x7000) s)
      (s.setSocket fun x => { x with records := x.records ++ x.queues.flatMap fun e => e.2.packets })
    modify fun s => (s.setSocket fun x => { x with ready := false, fenced := false, queues := [], xlates := [], pending := [], shootdowns := [], preempts := [] }).setReady 31 0) s := rfl
/-- The site is empty once its packets are done with. -/
def State.siteEmptied (s : State) : State :=
  ((s.socket.queues.foldl (fun s e => e.2.packets.foldl (fun s p => s.retireGuest e.1 p 0x7000) s)
      (s.setSocket fun x => { x with records := x.records ++ x.queues.flatMap fun e => e.2.packets })).setSocket
    fun x => { x with ready := false, fenced := false, queues := [], xlates := [], pending := [], shootdowns := [], preempts := [] }).setReady 31 0
theorem anchorSiteReset_of_fence {s1 : State} (h : fenceGuest s = (.ok (), s1)) : exec .anchorSiteReset s = .next s1.siteEmptied := by
  rw [anchorSiteReset_next]
  refine runEvent_of (r := .ok ()) (M.bind_step h ?_)
  rfl
theorem fenceGuest_of_off (h : s.socket.ready = false ∨ s.socket.fenced = true) : fenceGuest s = (.ok (), s) :=
  M.get_step <| M.ite_step_pos (by rcases h with h | h <;> simp [h]) rfl
theorem foldl_retireGuest_of_empty {l : Tbl GuestQueue} (h : ∀ e, e ∈ l → e.2.packets = []) (s : State) :
    l.foldl (fun s e => e.2.packets.foldl (fun s p => s.retireGuest e.1 p 0x7000) s) s = s :=
  List.foldlRecOn (motive := fun t : State => t = s) l _ rfl fun t ht e he => by rw [h e he, List.foldl_nil, ht]
theorem State.siteEmptied_of_empty (h : ∀ e, e ∈ s.socket.queues → e.2.packets = []) :
    s.siteEmptied = (s.setSocket fun x => { x with ready := false, fenced := false, queues := [], xlates := [], pending := [], shootdowns := [], preempts := [] }).setReady 31 0 := by
  have hf : s.socket.queues.flatMap (fun e => e.2.packets) = [] := List.flatMap_eq_nil_iff.mpr h
  have hs : (s.setSocket fun x => { x with records := x.records ++ x.queues.flatMap fun e => e.2.packets }) = s := by
    unfold State.setSocket
    dsimp only
    rw [hf, List.append_nil]
  unfold State.siteEmptied
  rw [foldl_retireGuest_of_empty h, hs]

theorem cut_append_left {a : Bytes} {n : Nat} (h : a.length = n) (b : Bytes) : cut (a ++ b) 0 n = a := by rw [cut, List.drop_zero, ← h, List.take_left]
theorem cut_append_right {a : Bytes} {m : Nat} (h : a.length = m) (b : Bytes) (i n : Nat) : cut (a ++ b) (m + i) n = cut b i n := by
  rw [cut, ← List.drop_drop, ← h, List.drop_left, cut]
/-- The fields of the attestation report that a verifier reads first (Table 25-2). -/
theorem State.report_fields (s : State) (n d : Nat) : (s.report n d).length = 256 ∧ cut (s.report n d) 0 48 = leBytes 48 n ∧ cut (s.report n d) 48 48 = leBytes 48 s.trust.image
    ∧ cut (s.report n d) 152 8 = leBytes 8 s.trust.ready := by
  unfold State.report
  dsimp only
  simp only [List.append_assoc]
  refine ⟨?_, cut_append_left (length_leBytes ..) _, (cut_append_right (length_leBytes ..) _ 0 48).trans (cut_append_left (length_leBytes ..) _), ?_⟩
  · simp only [List.length_append, length_leBytes]
  · exact (cut_append_right (length_leBytes ..) _ 104 8).trans <| (cut_append_right (length_leBytes ..) _ 56 8).trans <| (cut_append_right (length_leBytes ..) _ 8 8).trans <|
      (cut_append_right (length_leBytes ..) _ 6 8).trans <| (cut_append_right (length_leBytes ..) _ 5 8).trans <| (cut_append_right (length_leBytes ..) _ 4 8).trans <|
      (cut_append_right (length_leBytes ..) _ 0 8).trans <| cut_append_left (length_leBytes ..) _

/-! ### Each command that is taken, or refused for its contents -/

theorem State.failStart_trust (s : State) (n : Nat) : ∃ l, (s.failStart n).trust =
    { s.trust with failedStarts := s.trust.failedStarts + 1, ready := low 7 n * 2 ^ 32 + (if 3 ≤ s.trust.failedStarts + 1 then 2 ^ 39 else 0), replaceReq := l } := by
  obtain ⟨l, hl, -⟩ := (s.setTrust fun t => { t with failedStarts := s.trust.failedStarts + 1, ready := low 7 n * 2 ^ 32 + (if 3 ≤ s.trust.failedStarts + 1 then 2 ^ 39 else 0) }).askReplace_eq 96
  exact ⟨l, congrArg State.trust hl⟩

section
variable (hs : s.trust.sleeping = false)
include hs

theorem next_of_refused {i : Instr} {ok : State → Bool} {f : State → State} {root : Nat} (he : exec i s = .next (s.command root c ok f)) (hok : ok s = false) :
    exec i s = .next (s.setTrust fun t => { t with cmdRefused := t.cmdRefused + 1 }) := he.trans (congrArg _ (State.command_refused hs (.inr (.inr hok))))
theorem next_of_taken {i : Instr} {ok : State → Bool} {f : State → State} {root : Nat} (he : exec i s = .next (s.command root c ok f)) (hsig : Config.sigValid root c.msg c.sig = true)
    (hc : s.trust.count < c.count) (hok : ok s = true) : exec i s = .next (f (s.setTrust fun t => { t with count := c.count })) := he.trans (congrArg _ (State.command_taken hs hsig hc hok))

variable (hsig : Config.sigValid s.trust.ownerRoot c.msg c.sig = true) (hc : s.trust.count < c.count)
include hsig hc

theorem tenantContextMapWrite_taken {t x b : Nat} {d : Ctx} (ht : t < 256) (hd : s.ctxAt x = some d) (hdt : d.tenant = t) (hx : x < 2 ^ 16) (hb : s.host.ctxTable = some b) (hm : Memory.wf s.mem = true) :
    ∃ s', exec (.tenantContextMapWrite c t (wd (2 ^ 63 + x))) s = .next s'
      ∧ s'.tmapAt t = 2 ^ 63 + x ∧ ∀ a, (a < b + ctxTableBytes + 8 * t ∨ b + ctxTableBytes + 8 * t + 8 ≤ a) → memGet s'.mem a = memGet s.mem a := by
  have hv := (mapEntry_fields hx).1
  have he := tenantContextMapWrite_next s c t (wd (2 ^ 63 + x))
  rw [hv] at he
  refine ⟨_, next_of_taken hs he hsig hc (by rw [State.tmapOk_eq hx, hb, hd]; simp [ht, hdt]), ?_, fun a ha => ?_⟩
  · refine State.tmapAt_of_bytes hb ht (by omega) ?_
    change memGetN (memPutN s.mem (s.host.ctxTable.getD 0 + _ + _) _) _ _ = _
    rw [hb]
    exact length_leBytes 8 (2 ^ 63 + x) ▸ memGetN_memPutN_same _ _ hm
  · change memGet (memPutN s.mem (s.host.ctxTable.getD 0 + _ + _) _) _ = _
    rw [hb]
    exact memGet_memPutN_of_out hm (by rw [length_leBytes]; exact ha)
theorem slotTableInstall_taken {l : Nat} {w : Word} {es : Quads} {ds : List (Option SlotEntry)} (hl : l < 512) (hr : bits w.toNat 50 8 = 0) (hn : bits w.toNat 58 6 + 1 = es.length) (ha : low 50 w.toNat % 1000 = 0)
    (hd : es.mapM (fun e : Word => decodeSlot s.fabric.present e.toNat) = some ds) :
    ∃ s' t, exec (.slotTableInstall c l w es) s = .next s' ∧ tget s'.fabric.tables l = some t ∧ t.next.map (·.1) = some ds ∧ t.entries = ((tget s.fabric.tables l).map (·.entries)).getD [] := by
  refine ⟨_, _, next_of_taken hs ((exec_slotTableInstall c l w es s).trans (run_manage ..)) hsig hc (by simp [State.tableOk, hl, hr, hn, ha, hd]), tget_tset_same .., ?_, ?_⟩
  · exact congrArg (fun o : Option (List (Option SlotEntry)) => some (o.getD [])) hd
  · change (Option.getD (tget s.fabric.tables l) _).entries = _
    cases tget s.fabric.tables l <;> rfl
theorem domainCommand_taken {d : DomainCmd} (h1 : 1 ≤ d.domain) (h2 : d.domain ≤ 64) (hm : d.members.contains s.devno = true) (hr : bitAt s.trust.ready 39 = false) :
    ∃ s' x, exec (.domainCommand c d) s = .next s' ∧ tget s'.trust.domains d.domain = some x ∧ x.members = d.members ∧ x.epoch = d.epoch ∧ x.secret = d.secret ∧ x.tenants = d.tenants ∧ x.ranges = d.ranges ∧ x.removed = [] := by
  refine ⟨_, _, next_of_taken hs ((exec_domainCommand c d s).trans (run_manage ..)) hsig hc (by simp [h1, h2, hr, List.contains_iff_mem.mp hm]), tget_tset_same .., ?_⟩
  generalize Option.filter _ _ = same
  cases same <;> exact ⟨rfl, rfl, rfl, rfl, rfl, rfl⟩
end

end Sys2Proof.Machine

open Sys2Proof Sys2Proof.Machine

/-- Settles O59: a start takes its image or fails, a command is refused or has its own effect, and the rest is one step each. -/
theorem commandEvents : Obligations.CommandEvents := by
  unfold Obligations.CommandEvents
  refine ⟨fun s st hf => ?_, fun s st hf hi => ?_, fun s st hf hi => deviceStart_taken hf hi, fun s n => ?_, fun s n => ?_, fun s b hb => ?_, fun s b hb => functionReady_raised hb,
    fun s i r c q dq x dc t v b l w es st a dd rv vr n hs hbad hi => ?_, fun s c hs hsig hc => ?_, fun s c n hs hsig hc => ⟨?_, ?_⟩, fun s hs => ?_, fun s hs => ?_, fun s s1 hf => ?_, fun s hoff hq => ?_, fun s n d => ?_⟩
  · exact (deviceStart_next s st).trans (congrArg _ (if_pos (by simp [hf])))
  · have hi' : s.restart.imageOk st = false := hi
    exact (deviceStart_next s st).trans (congrArg _ ((if_neg (by simp [hf])).trans (if_pos (by simp [hi']))))
  · obtain ⟨l, hl⟩ := s.failStart_trust n
    rw [hl]
    exact ⟨rfl, failStart_ready n s.trust.failedStarts⟩
  · exact congrArg Host.Outcome.next (if_congr (by simp) rfl rfl)
  · exact (functionReady_next s b).trans (congrArg _ (if_pos (by simp [hb])))
  · obtain ⟨ok, f, he⟩ := exec_command hi
    exact he.trans (congrArg _ (State.command_refused hs (hbad.imp_right .inl)))
  · refine ⟨fun q d hq => ?_, fun q d hq => ?_, fun x d b hok hd hb hm => ?_, fun x d hbad => ?_, fun t x d b ht hd hdt hx hb hm => tenantContextMapWrite_taken hs hsig hc ht hd hdt hx hb hm, fun t x hbad hx => ?_,
      fun t b ht hb => ?_, fun l w es ds hl hr hn ha hd => slotTableInstall_taken hs hsig hc hl hr hn ha hd, fun d a hd ha => ?_, ?_, fun d h1 h2 hm hr => domainCommand_taken hs hsig hc h1 h2 hm hr, fun d hd => ?_,
      fun d x hd hr hso hf => ?_, fun d x hd hr => ?_, fun hm => ?_, fun hm => ?_⟩
    · exact ⟨_, next_of_taken hs ((exec_queueDescriptorInstall c q d s).trans (run_manage ..)) hsig hc hq, tget_tset_same .., rfl, rfl⟩
    · exact next_of_refused hs ((exec_queueDescriptorInstall c q d s).trans (run_manage ..)) hq
    · exact contextDescriptorWrite_taken hok hd hb hm (next_of_taken hs ((exec_contextDescriptorWrite c x d s).trans (run_manage ..)) hsig hc (by rw [hok, hb]; rfl))
    · exact next_of_refused hs ((exec_contextDescriptorWrite c x d s).trans (run_manage ..)) (by rcases hbad with h | h <;> simp [h])
    · have he := tenantContextMapWrite_next s c t (wd (2 ^ 63 + x))
      rw [(mapEntry_fields hx).1] at he
      refine next_of_refused hs he ?_
      rw [State.tmapOk_eq hx]
      rcases hbad with h | ⟨d, h, hd⟩ <;> simp [h]
      exact fun _ _ => hd
    · exact next_of_taken hs ((exec_budgetSet c t b s).trans (run_manage ..)) hsig hc (by simp [budgetOk, ht, hb])
    · exact next_of_taken hs ((exec_faultRingSet c d a s).trans (run_manage ..)) hsig hc (by simp [ringOk, hd, ha])
    · exact ⟨_, next_of_taken hs ((exec_counterClear c s).trans (run_manage ..)) hsig hc rfl, rfl, rfl, rfl, rfl, rfl, rfl, rfl, rfl, rfl, rfl⟩
    · exact next_of_refused hs ((exec_revocation c d s).trans (run_manage ..)) (by rw [hd]; rfl)
    · refine ⟨_, next_of_taken hs (revocation_next s c d) hsig hc (by rw [hd]; rfl), ?_⟩
      rw [State.revoke_self hd hr]
      exact State.revoked_domain hso hf
    · have he := next_of_taken hs (revocation_next s c d) hsig hc (by rw [hd]; rfl)
      rw [State.revoke_none hd hr] at he
      exact ⟨_, _, he, tget_tset_same .., rfl, rfl, rfl, rfl⟩
    · exact ⟨_, next_of_taken hs ((exec_retentionSleep c s).trans (run_manage ..)) hsig hc hm, rfl, rfl, rfl⟩
    · exact next_of_refused hs ((exec_retentionSleep c s).trans (run_manage ..)) hm
  · exact ⟨_, next_of_taken hs ((exec_rootRotation c false n s).trans (run_command ..)) hsig hc rfl, rfl, rfl, rfl⟩
  · exact ⟨_, next_of_taken hs ((exec_rootRotation c true n s).trans (run_command ..)) hsig hc rfl, rfl, rfl, rfl⟩
  · exact congrArg Host.Outcome.next (State.wake_awake hs)
  · refine ⟨_, congrArg Host.Outcome.next (State.wake_asleep hs), rfl, rfl, fun h => if_pos h, fun h => if_neg h⟩
  · exact ⟨_, anchorSiteReset_of_fence hf, rfl, rfl, rfl, bitAt_setBits_same ..⟩
  · exact (anchorSiteReset_of_fence (fenceGuest_of_off hoff)).trans (congrArg _ (State.siteEmptied_of_empty hq))
  · exact ⟨_, rfl, s.report_fields n d⟩

end

section
/-! PROOFS. The failure of a belay node may write device memory: O58. -/
namespace Sys2Proof.Machine

/-- A team whose only group has ended, the deregistration of that group being still on its way, with line 0 mapped over a scratchpad whose first byte is 1. -/
def leavingTeam : Team := { Team.blank with placed := true, groups := [Group.blank], spadSize := 128, spad := memPutN [] 0 [1], maps := [{ va := 0, lines := [0], off := 0 }] }
/-- The group's deregistration, on its way to the phaser of slot 0 in the node of stack 0. -/
def leavingMsg : BelayMsg :=
  { id := 0, th := none, dev := 0, unit := .group 0 0 0, handle := 0, op := .dereg false, node := 0, port := 0, path := [], at' := 0, held := false, covers := [] }
/-- The phaser with the group as its one registrant. -/
def leavingPhaser : Phaser := { Phaser.fresh 0 0 0 with regs := [{ dev := 0, unit := .group 0 0 0, sig := true, wait := true, since := 0, r := 0, counted := [], left := none }] }
def leavingState : State := { State.reset with teams := [(0, leavingTeam)], belay := { State.reset.belay with phasers := [(0, leavingPhaser)], msgs := [leavingMsg] } }
/-- Byte 0 of device memory after an outcome. -/
def byteAfter : Host.Outcome State Fault Refusal → Byte
  | .next s => memGet s.mem 0
  | _ => 0
/-- The node of stack 0 fails: the deregistration is lost with the phaser, so the team is done, and its mapped row is written back (R270, R326, R335). -/
theorem leaving_byteAfter : byteAfter (exec (.belayNodeFailure 0) leavingState) = 1 := by decide +kernel

end Sys2Proof.Machine

open Sys2Proof Sys2Proof.Machine

/-- Refutes O58: its last part has device memory as it was when a node fails. A team that is counted only for a deregistration on its way to that node is done once the node is lost, and its mapping is written back to device memory. -/
theorem not_belayEvents : ¬ Obligations.BelayEvents := by
  rintro ⟨-, -, -, -, -, -, -, -, -, -, -, -, -, -, -, -, -, -, hfail⟩
  obtain ⟨s', he, -, -, hm⟩ := hfail leavingState 0 (by decide)
  have hb := leaving_byteAfter
  rw [he] at hb
  exact absurd ((congrArg (memGet · 0) hm).symm.trans hb) (by decide)

end

section
/-! PROOFS. Engine progress: O52. -/
namespace Sys2Proof.Machine

variable {s s1 : State} {i id : Nat} {c : Cmd}

/-- What follows a unit of a bound command's work: after one that is done the next comes after a free delay. -/
def afterAddition (i id f : Nat) : Piece → M Unit
  | .done => modify fun s => s.modCmd i id fun c => { c with doneAt := s.now + f * Config.ticksPerCycle }
  | _ => pure ()
theorem stageAddition_of_bound (hc : s.cmd i id = some c) (hst : c.started = true) (hn : c.status = none) (hl : c.stall = none) (hb : c.bind.isSome = true) :
    exec (.stageAddition i id) s = .next (match tryPiece i c (workPiece i c) s.nextFree.2 with
      | (.ok .done, s') => s'.modCmd i id fun c => { c with doneAt := s'.now + s.nextFree.1 * Config.ticksPerCycle }
      | (_, s') => s') := by
  have hrun : exec (.stageAddition i id) s = .next ((tryPiece i c (workPiece i c) >>= afterAddition i id s.nextFree.1) s.nextFree.2).2 := by
    refine (exec_stageAddition i id s).trans (congrArg Host.Outcome.next (congrArg Prod.snd (M.get_step ?_)))
    rw [hc]
    exact M.ite_step_neg (by simp [hst, hn, hl, Option.isSome_iff_ne_none.mp hb]) <| M.bind_step rfl rfl
  rw [hrun, M.run_bind]
  rcases tryPiece i c (workPiece i c) s.nextFree.2 with ⟨_ | r, s'⟩
  · rfl
  · cases r <;> rfl
/-- A piece of work that holds is tried again in the next cycle. -/
theorem tryPiece_of_hold {m : M (Except EngFail Unit)} (h : asParty (partyEngine i) m s = (.error .hold, s1)) :
    tryPiece i c m s = (.ok .again, s1.modCmd i c.id fun c => { c with doneAt := s1.now + Config.ticksPerCycle }) := by
  unfold tryPiece
  rw [h]

/-! ### pinit -/

theorem State.modWaits_teams (s : State) (i : Nat) (f : Outst → Outst) : (s.modWaits i f).teams = s.teams :=
  List.foldlRecOn (motive := fun t : State => t.teams = s.teams) _ _ rfl fun _ ht _ _ => ht
theorem State.setRing_teams (s : State) (i h : Nat) (r : PitchRing) : (s.setRing i h r).teams = (s.modTeam i fun t => { t with rings := tset t.rings h r, spad := memPutN t.spad h r.bytes }).teams :=
  State.modWaits_teams ..
/-- A stage that pinit has reset. -/
def Stage.fresh (registry : Nat) : Stage := { state := 0, phase := 0, reason := 0, registry := registry, count := 0 }
theorem State.team_of_teams {s t : State} (h : t.teams = s.teams) (i : Nat) : t.team i = s.team i := by rw [State.team, State.team, h]
/-- A waiting pwait of a ring that is reset gets status 5. -/
def Outst.ringReset (h : Nat) (o : Outst) : Outst := match o.wait with
  | .stage off _ _ _ => if off = h then o.decide 5 else o
  | _ => o
/-- The effect of a pinit. -/
def State.pinitDone (s : State) (i : Nat) (p : PInit) : State :=
  ((s.modWaits i (Outst.ringReset p.h)).setRing i p.h
    { base := p.base, target := p.target, stages := List.replicate p.stages (Stage.fresh (liveMask ((s.modWaits i (Outst.ringReset p.h)).team i) p.mask)) })
theorem pinitEffect_next (s : State) (i id : Nat) : exec (.pinitEffect i id) s = .next (match (s.team i).inits.find? (·.id == id) with
    | none => s
    | some p => if !s.pinitReady i p then s
      else ((s.pinitDone i p).modTeam i fun t => { t with inits := t.inits.filter (·.id != id) }).finish p.th (.command id) 0 none) := rfl
/-- pinit resets every stage of its ring. -/
theorem pinitEffect_of_ready {p : PInit} (hi : (tget s.teams i).isSome = true) (hp : (s.team i).inits.find? (·.id == id) = some p) (hr : s.pinitReady i p = true) :
    ∃ s' m, exec (.pinitEffect i id) s = .next s' ∧ tget (s'.team i).rings p.h = some { base := p.base, target := p.target, stages := List.replicate p.stages (Stage.fresh m) } := by
  have he := pinitEffect_next s i id
  rw [hp] at he
  refine ⟨_, liveMask ((s.modWaits i (Outst.ringReset p.h)).team i) p.mask, he.trans (congrArg Host.Outcome.next (if_neg (by simp [hr]))), ?_⟩
  change tget (((s.pinitDone i p).modTeam i _).team i).rings p.h = _
  rw [State.team_modTeam_part (f := fun t => { t with inits := t.inits.filter (·.id != id) }) (·.rings) (fun _ => rfl), State.pinitDone, State.team_of_teams (State.setRing_teams ..),
    State.team_modTeam_same _ (by rw [State.modWaits_teams]; exact hi)]
  exact tget_tset_same ..

end Sys2Proof.Machine

open Sys2Proof Sys2Proof.Machine

/-- Settles O52: each event by whether it finds its command and what its piece of work answers. -/
theorem engineEvents : Obligations.EngineEvents := by
  unfold Obligations.EngineEvents
  refine ⟨fun s i h => ?_, fun s i c h => ?_, fun s i id h => ?_, fun s i id c hc hst hn hl hb => stageAddition_of_bound hc hst hn hl hb, fun s s1 i c m h => tryPiece_of_hold h, fun s i q h => ?_,
    fun s i q c st hq hs hl hd hk hst => ?_, fun s i id h => ?_, fun s i id p hp hr => ?_, fun s i id p hi hp hr hn => ?_⟩
  · refine (exec_mmaGroupRetire i s).trans (runEvent_of (r := .ok ()) (M.get_step ?_))
    rw [h]
    rfl
  · refine (exec_mmaGroupRetire i s).trans (congrArg Host.Outcome.next ?_)
    refine (congrArg Prod.snd (M.get_step (f := fun s => match s.mmaDue i with | none => pure () | some c => tryPiece i c (mmaGroup i c) >>= fun _ => pure ()) rfl)).trans ?_
    rw [h]
    exact M.snd_bind_pure ..
  · refine (exec_stageAddition i id s).trans (runEvent_of (r := .ok ()) (M.get_step ?_))
    rw [h]
    rfl
  · refine (exec_engineCommandCompletion i q s).trans (runEvent_of (r := .ok ()) (M.get_step ?_))
    rw [h]
    rfl
  · refine (exec_engineCommandCompletion i q s).trans (runEvent_of (r := .ok ()) (M.get_step ?_))
    rw [hq]
    refine M.ite_step_neg (by simp [hs, hl, hd]) <| M.ite_step_neg (by simpa using hk) ?_
    rw [hst]
    rfl
  · exact (pinitEffect_next s i id).trans (by rw [h])
  · exact (pinitEffect_next s i id).trans (by rw [hp]; exact congrArg Host.Outcome.next (if_pos (by simp [hr])))
  · obtain ⟨s', m, he, hg⟩ := pinitEffect_of_ready hi hp hr
    refine ⟨s', _, he, hg, rfl, rfl, List.length_replicate, fun st hst => ?_⟩
    obtain rfl := List.eq_of_mem_replicate hst
    exact ⟨rfl, rfl, rfl, rfl⟩

end

section
/-! PROOFS. A join may meet a second turn of its line: O53. -/
namespace Sys2Proof.Machine

/-- A device with one core, at which two turns of line 0 are listed: the acting party's own, and one of another party. -/
def twoTurns : State := { State.reset with cores := [(0, Core.reset)], turns := [(0, (0, 0)), (0, (1, 0))] }
theorem twoTurns_calm : twoTurns.Calm 0 0 where
  core := rfl
  victim := rfl
  agents _ _ h := nomatch h
  home := by decide
  agent st _ := Nat.zero_lt_succ _
  ways := by decide
  sectors := by decide
  peers := by decide
  answered := by decide
  turn := by decide
/-- Core 0's first-level copy of line 0 after an outcome. -/
def copyAfter : Host.Outcome State Fault Refusal → Option L1Line
  | .next s => s.l1Of 0 0
  | _ => none
/-- A join ends its own turn and then looks at the line's turn again, which is the other party's now: it holds. -/
theorem twoTurns_join : copyAfter (exec (.join 0 0 .addQ32 0) twoTurns) = none := by decide +kernel

end Sys2Proof.Machine

open Sys2Proof Sys2Proof.Machine

/-- Refutes O53: a join clears the way of its line twice, and the statement does not have the turns listed once for each line. Where another turn of the line stands behind the acting party's own, the join holds and fills no copy. -/
theorem not_coherenceEvents : ¬ Obligations.CoherenceEvents := by
  rintro ⟨-, hcalm, -⟩
  obtain ⟨-, -, s', he, hl, -⟩ := hcalm twoTurns 0 0 .addQ32 0 twoTurns_calm rfl rfl
  have hj := twoTurns_join
  rw [he] at hj
  exact absurd (hl.symm.trans hj) (by simp)

end

section
/-! PROOFS. Work queues, launches, mirrors and gates: O54. -/
namespace Sys2Proof.Machine

variable {s s1 : State} {q l : Nat} {w : WorkQueue}

/-! ### Tables -/

theorem mem_of_tget {α : Type} {t : Tbl α} {k : Nat} {v : α} (h : tget t k = some v) : (k, v) ∈ t := by
  induction t with
  | nil => cases h
  | cons e r ih =>
    obtain ⟨j, x⟩ := e
    unfold tget at h
    split at h
    · cases h
    · split at h
      · next hk =>
        cases h
        rw [hk]
        exact List.mem_cons_self
      · exact List.mem_cons_of_mem _ (ih h)
theorem tget_of_mem {α : Type} {t : Tbl α} {lo k : Nat} {v : α} (hs : tsorted lo t = true) (h : (k, v) ∈ t) : tget t k = some v ∧ lo ≤ k := by
  induction t generalizing lo with
  | nil => cases h
  | cons e r ih =>
    obtain ⟨j, x⟩ := e
    simp only [tsorted, Bool.and_eq_true, decide_eq_true_eq] at hs
    obtain ⟨hj, hr⟩ := hs
    rcases List.mem_cons.mp h with h | h
    · cases h
      exact ⟨by simp [tget], hj⟩
    · obtain ⟨hg, hk⟩ := ih hr h
      exact ⟨by rw [tget, if_neg (by omega), if_neg (by omega), hg], by omega⟩
/-- A table with a default, its keys rising, reads an entry that has been set. -/
theorem dget_dset_same {α : Type} [DecidableEq α] {d : α} {t : Tbl α} (hs : tsorted 0 t = true) (k : Nat) (v : α) : dget d (dset d t k v) k = v := by
  unfold dget dset
  split
  · next hv => rw [tget_tdel k k hs, if_pos rfl, hv, Option.getD_none]
  · rw [tget_tset_same, Option.getD_some]

theorem dget_dset_of_ne {α : Type} [DecidableEq α] {d v : α} {t : Tbl α} {k : Nat} (hv : v ≠ d) : dget d (dset d t k v) k = v := by
  unfold dget dset
  rw [if_neg hv, tget_tset_same, Option.getD_some]

/-! ### Kicks -/

theorem kickTail_next {h v : Nat} (hv : low 32 v = low 32 (h + 1)) : h + low 32 (low 32 v + 2 ^ 32 - low 32 h) = h + 1 := by
  rw [hv]
  unfold low
  omega
/-- A kick of an idle queue by one entry makes it fetch. -/
theorem State.kicked_next {v : Nat} (hs : s.trust.sleeping = false) (hq : tget s.host.queues q = some w) (hc : (s.ctxAt w.desc.ctx).isSome = true) (hi : w.state = .idle) (hb : bits v 32 31 = 0)
    (hv : low 32 v = low 32 (w.head + 1)) (hn : 1 ≤ w.size) (ht : w.tail = w.head) :
    ∃ w', tget (s.kicked q v false).host.queues q = some w' ∧ w'.tail = w.head + 1 ∧ w'.state = .fetch ∧ w'.head = w.head := by
  have hk : w.kickTail v = w.head + 1 := kickTail_next hv
  have hctx : ¬ ((s.ctxAt w.desc.ctx).isNone = true) := by simp [Option.isSome_iff_ne_none.mp hc]
  have hbad : ¬ ((decide (bits v 32 31 ≠ 0) || decide (w.size < w.kickTail v - w.head)) = true) := by
    simp [hb, hk]
    omega
  unfold State.kicked
  rw [State.wake_awake hs]
  dsimp only
  rw [hq]
  dsimp only
  rw [if_neg hctx, if_neg hbad]
  refine ⟨_, tget_tset_same .., ?_⟩
  rw [hk, ht, hi]
  simp
theorem State.kicked_of_noContext {v : Nat} {r : Bool} (hs : s.trust.sleeping = false) (hq : tget s.host.queues q = some w) (hc : s.ctxAt w.desc.ctx = none) : s.kicked q v r = s := by
  unfold State.kicked
  rw [State.wake_awake hs]
  dsimp only
  rw [hq]
  exact if_pos (by rw [hc]; rfl)

/-! ### Entries -/

/-- What becomes of the state after an action that answers a Boolean: one answer changes it. -/
def M.onAnswer (b : Bool) (f : State → State) : Except Stop Bool × State → State
  | (.ok r, s) => if r = b then f s else s
  | (.error _, s) => s
theorem snd_bind_answer {m : M Bool} {f : State → State} (s : State) : ((m >>= fun ok => if ok then Pure.pure () else modify f) s).2 = M.onAnswer false f (m s) := by
  rw [M.run_bind]
  rcases m s with ⟨_ | r, t⟩
  · rfl
  · cases r <;> rfl
theorem snd_bind_again {m : M Bool} {f : State → State} (s : State) : ((m >>= fun again => if again then modify f else Pure.pure ()) s).2 = M.onAnswer true f (m s) := by
  rw [M.run_bind]
  rcases m s with ⟨_ | r, t⟩
  · rfl
  · cases r <;> rfl
theorem queueFetch_of_due (hq : tget s.host.queues q = some w) (ho : s.queueOn = true) (hf : w.state = .fetch) (hp : w.packet = none) (ht : w.head < w.tail) :
    exec (.queueFetch q) s = .next (M.onAnswer false (fun s => s.modQueue q fun x => { x with state := .retry, retryAt := s.now, tries := 0 }) (consume q w s)) := by
  refine (exec_queueFetch q s).trans (congrArg Host.Outcome.next ?_)
  refine Eq.trans (congrArg Prod.snd ?_) (snd_bind_answer s)
  refine M.get_step ?_
  rw [hq]
  exact M.ite_step_pos (by simp [ho, hf, hp, ht]) rfl

theorem queueFetch_of_other (hq : tget s.host.queues q = some w) (hf : w.state ≠ .fetch) : exec (.queueFetch q) s = .next s := by
  refine (exec_queueFetch q s).trans (runEvent_of (r := .ok ()) (M.get_step ?_))
  rw [hq]
  exact M.ite_step_neg (by simp [hf]) rfl
theorem queueRetryRead_of_due (hq : tget s.host.queues q = some w) (hd : w.rereadDue s.now = true) :
    exec (.queueRetryRead q) s = .next (M.onAnswer false (fun s => s.modQueue q fun x => { x with tries := x.tries + 1 }) (consume q w s)) := by
  refine (exec_queueRetryRead q s).trans (congrArg Host.Outcome.next ?_)
  refine Eq.trans (congrArg Prod.snd ?_) (snd_bind_answer s)
  refine M.get_step ?_
  rw [hq]
  exact M.ite_step_pos hd rfl
theorem consume_of_other {b : Bytes} (hr : ringRead w (w.entryAt w.head) 128 s = (.ok b, s1)) (hb : (b.getD 0 0).toNat ≠ w.expected w.head) : consume q w s = (.ok false, s1) :=
  M.bind_step hr <| M.ite_step_pos hb rfl
theorem launchPacket_next (s : State) (q : Nat) (e : Quads) : exec (.launchPacket q e) s = .next (M.onAnswer true (fun s => s.modQueue q fun w => { w with packet := some e }) (launchPacket q e s)) :=
  (exec_launchPacket q e s).trans (congrArg Host.Outcome.next (snd_bind_again s))
theorem launchPacket_of_noQueue {e : Quads} (hq : tget s.host.queues q = none) : launchPacket q e s = (.ok false, s) :=
  M.get_step (by rw [hq]; rfl)
theorem phaserAllocation_next (s : State) (a : PhaserAlloc) : exec (.phaserAllocation a) s =
    .next (M.onAnswer true (fun s => { s with host := { s.host with allocs := s.host.allocs ++ [a] } }) (phaserAlloc a s)) :=
  (exec_phaserAllocation a s).trans (congrArg Host.Outcome.next (snd_bind_again s))

/-! ### Predecessors -/

/-- What becomes of a launch once the words of its predecessors are read or cannot be. -/
def waitAct (l : Nat) : Except QFail (List Nat) → M Unit
  | .error .wait => pure ()
  | .error .bad => modify fun s => s.endUnplaced l 3
  | .ok vs =>
    if vs.any fun v => low 32 v != 0 || bits v 61 3 == 0 then pure ()
    else
      let st := (vs.map fun v => bits v 61 3).foldl max 0
      if 1 < st then modify fun s => s.endUnplaced l st
      else modify fun s => s.modLaunch l fun x => { x with eligible := some s.now }
theorem waitPoll_of_read {x : Launch} {r : Except QFail (List Nat)} (hl : tget s.host.launches l = some x) (hf : x.fin = false) (he : x.eligible = none)
    (hr : waitWords x.ctx x.waits s = (.ok r, s1)) : exec (.waitPoll l) s = .next (waitAct l r s1).2 := by
  have hx : s.launch l = x := by rw [State.launch, hl, Option.getD_some]
  refine (exec_waitPoll l s).trans (congrArg Host.Outcome.next (congrArg Prod.snd (M.get_step ?_)))
  rw [hx]
  refine M.ite_step_neg (by simp [hf, he, hl]) (M.bind_step hr ?_)
  rcases r with (_ | _) | vs <;> rfl

/-! ### Mirrors -/

theorem mirrorWrite_of_tried {u : UnitRef} {r : Except QFail Unit} (hm : (s.mirrorOf u).1 ≠ 0) (hd : low 32 ((s.unitCount u).getD 0) ≠ 0 ∨ s.endsPassed u = true)
    (hw : qWrite8 (s.mirrorOf u).2 (s.mirrorOf u).1 (s.counterWord u) s = (.ok r, s1)) : exec (.mirrorWrite u) s = .next (match r with
      | .ok _ => { s1 with host := { s1.host with mirrors := s1.host.mirrors.filter (· != u) } }
      | .error .wait => s1
      | .error .bad => { s1 with host := { s1.host with mirrors := s1.host.mirrors.filter (· != u) }, trust := { s1.trust with mirrorSkipped := s1.trust.mirrorSkipped + 1 } }) := by
  refine (exec_mirrorWrite u s).trans (runEvent_of (r := .ok ()) (M.get_step <| M.ite_step_neg hm <| M.ite_step_neg (by rcases hd with h | h <;> simp [h]) <| M.bind_step hw ?_))
  rcases r with (_ | _) | _ <;> rfl
theorem mirrorWrite_of_early {u : UnitRef} (hm : (s.mirrorOf u).1 ≠ 0) (hc : low 32 ((s.unitCount u).getD 0) = 0) (he : s.endsPassed u = false) : exec (.mirrorWrite u) s = .next s :=
  (exec_mirrorWrite u s).trans (runEvent_of (r := .ok ()) (M.get_step <| M.ite_step_neg hm <| M.ite_step_pos (by simp [hc, he]) rfl))
theorem mirrorWrite_of_none {u : UnitRef} (hm : (s.mirrorOf u).1 = 0) : exec (.mirrorWrite u) s = .next { s with host := { s.host with mirrors := s.host.mirrors.filter (· != u) } } :=
  (exec_mirrorWrite u s).trans (runEvent_of (r := .ok ()) (M.get_step <| M.ite_step_pos hm rfl))

/-! ### Gates -/

/-- The same change, made once or more, of some threads. -/
theorem tget_foldl_modThr {f : Thread → Thread} (hf : ∀ t, f (f t) = f t) (ks : List Nat) (s : State) (k : Nat) :
    tget (ks.foldl (fun s k => s.modThr k f) s).threads k = if k ∈ ks then (tget s.threads k).map f else tget s.threads k := by
  induction ks generalizing s with
  | nil => simp
  | cons j r ih =>
    rw [List.foldl_cons, ih]
    have hmod : tget (s.modThr j f).threads k = if k = j then (tget s.threads k).map f else tget s.threads k := by
      by_cases hk : k = j
      · subst hk
        rw [if_pos rfl]
        rcases ht : tget s.threads k with _ | t
        · simp [State.modThr, tmod, ht]
        · exact tget_tmod_same f ht
      · rw [if_neg hk]
        exact tget_tmod_other s.threads f hk
    rw [hmod]
    by_cases hk : k = j <;> by_cases hr : k ∈ r <;> simp [hk, hr]
    · subst hk
      simp [hr, Function.comp_def, hf]
    · subst hk
      simp [hr]
theorem State.postEvent_keeps (s : State) (n a : Nat) (d : Word) : (s.postEvent n a d).mem = s.mem ∧ (s.postEvent n a d).threads = s.threads ∧ (s.postEvent n a d).host.budgets = s.host.budgets := by
  unfold State.postEvent
  split
  · exact ⟨rfl, rfl, rfl⟩
  · dsimp only
    split <;> exact ⟨rfl, rfl, rfl⟩
/-- A thread held behind its gate. -/
def Thread.gated (t : Thread) : Thread := { t with status := .held .gate }
/-- The Ready threads of a tenant. -/
def State.readyOf (s : State) (tenant : Nat) : List Nat := (s.threads.filter fun e => e.2.status == .ready && (s.launchOf e.1).tenant == tenant).map (·.1)
/-- A gate marked closed, of which the guest die is told. -/
def State.gateMarked (s : State) (tenant : Nat) : State :=
  ((s.modBudget tenant fun b => { b with closed := true, closedAt := s.now }).setSocket fun x => { x with gates := tset x.gates tenant s.now }).emit (.guestGate tenant true)
theorem State.closeGate_of_open {tenant : Nat} (h : s.gateClosed tenant = false) (p : Bool) :
    s.closeGate tenant p = ((s.readyOf tenant).foldl (fun s k => s.modThr k Thread.gated) (s.gateMarked tenant)).postEvent 3 tenant (wd (b2n p)) := if_neg (Bool.eq_false_iff.mp h)
theorem mem_readyOf {k tenant : Nat} {x : Thread} (hs : tsorted 0 s.threads = true) (hk : tget s.threads k = some x) :
    k ∈ s.readyOf tenant ↔ x.status = .ready ∧ (s.launchOf k).tenant = tenant := by
  unfold State.readyOf
  simp only [List.mem_map, List.mem_filter, Bool.and_eq_true, beq_iff_eq]
  constructor
  · rintro ⟨⟨j, y⟩, ⟨hm, hst, hl⟩, rfl⟩
    obtain rfl : y = x := Option.some.inj ((tget_of_mem hs hm).1.symm.trans hk)
    exact ⟨hst, hl⟩
  · rintro ⟨hst, hl⟩
    exact ⟨(k, x), ⟨mem_of_tget hk, hst, hl⟩, rfl⟩
theorem foldl_gated_keeps (ks : List Nat) (s : State) : (ks.foldl (fun s k => s.modThr k Thread.gated) s).mem = s.mem ∧ (ks.foldl (fun s k => s.modThr k Thread.gated) s).host = s.host :=
  List.foldlRecOn (motive := fun t : State => t.mem = s.mem ∧ t.host = s.host) ks _ ⟨rfl, rfl⟩ fun _ ht _ _ => ht
theorem gateClose_of_open {tenant : Nat} (hs : tsorted 0 s.threads = true) (h : s.gateClosed tenant = false) (p : Bool) : ∃ s', exec (.gateClose tenant p) s = .next s' ∧ s'.gateClosed tenant = true ∧ s'.mem = s.mem
    ∧ ∀ k x, tget s.threads k = some x → (s'.thr k).status = if x.status = .ready ∧ (s.launchOf k).tenant = tenant then .held .gate else x.status := by
  obtain ⟨hm, ht, hb⟩ := State.postEvent_keeps ((s.readyOf tenant).foldl (fun s k => s.modThr k Thread.gated) (s.gateMarked tenant)) 3 tenant (wd (b2n p))
  obtain ⟨hm', hh'⟩ := foldl_gated_keeps (s.readyOf tenant) (s.gateMarked tenant)
  refine ⟨_, (exec_gateClose tenant p s).trans (congrArg Host.Outcome.next (State.closeGate_of_open h p)), ?_, hm.trans hm', fun k x hk => ?_⟩
  · unfold State.gateClosed
    rw [hb, hh']
    have hne : ({ dget Budget.unset s.host.budgets tenant with closed := true, closedAt := s.now } : Budget) ≠ Budget.unset := fun he =>
      nomatch (show true = false from congrArg Budget.closed he)
    exact congrArg Budget.closed (dget_dset_of_ne hne)
  · rw [State.thr, ht, tget_foldl_modThr (f := Thread.gated) (fun _ => rfl)]
    change (Option.getD (if k ∈ s.readyOf tenant then (tget s.threads k).map Thread.gated else tget s.threads k) Thread.blank).status = _
    simp only [mem_readyOf hs hk, hk]
    split <;> rfl
theorem gateOpen_of_closed {tenant : Nat} (hs : tsorted 0 s.host.budgets = true) (h : s.gateClosed tenant = true) (hg : s.guestBytes tenant * 100 < 95 * bandwidthBytes (dget Budget.unset s.host.budgets tenant)) :
    ∃ s', exec (.gateOpen tenant) s = .next s' ∧ s'.gateClosed tenant = false ∧ s'.threads = s.threads ∧ s'.mem = s.mem := by
  refine ⟨_, (exec_gateOpen tenant s).trans (congrArg Host.Outcome.next (if_pos (by simp [h, hg]))), ?_, rfl, rfl⟩
  exact congrArg Budget.closed (dget_dset_same hs tenant _)

end Sys2Proof.Machine

open Sys2Proof Sys2Proof.Machine

/-- Settles O54: each event of the queue engine by what it finds, what its action answers, and which threads it holds. -/
theorem queueEvents : Obligations.QueueEvents := by
  unfold Obligations.QueueEvents
  have hfalse : ∀ (f : State → State) (r : Except Stop Bool × State), M.onAnswer false f r = match r with | (.ok false, s') => f s' | (_, s') => s' := by
    rintro f ⟨_ | b, t⟩
    · rfl
    · cases b <;> rfl
  have htrue : ∀ (f : State → State) (r : Except Stop Bool × State), M.onAnswer true f r = match r with | (.ok true, s') => f s' | (_, s') => s' := by
    rintro f ⟨_ | b, t⟩
    · rfl
    · cases b <;> rfl
  refine ⟨fun s q v => ⟨rfl, rfl⟩, fun s q w v hs hq hc hi hb hv hn ht => State.kicked_next hs hq hc hi hb hv hn ht, fun s q v w hq hc hs => State.kicked_of_noContext hs hq hc,
    fun s q w hq ho hf hp ht => (queueFetch_of_due hq ho hf hp ht).trans (congrArg _ (hfalse ..)), fun s q w hq hf => queueFetch_of_other hq hf,
    fun s q w hq hd => (queueRetryRead_of_due hq hd).trans (congrArg _ (hfalse ..)), fun s s1 q w b hr hb => consume_of_other hr hb, fun s q w hq => ?_,
    fun s q e => (launchPacket_next s q e).trans (congrArg _ (htrue ..)), fun s q e hq => ?_, fun s q m => rfl, fun s q i => rfl, fun s a => (phaserAllocation_next s a).trans (congrArg _ (htrue ..)),
    fun s h => rfl, fun s s' l x vs hl hf he hr => ⟨fun hv => ?_, fun hv hst => ?_, fun hv hst => ?_⟩, fun s s' l x hl hf he => ⟨fun hr => waitPoll_of_read hl hf he hr, fun hr => waitPoll_of_read hl hf he hr⟩,
    fun s u => rfl, fun s s' u r hm hd hw => ⟨?_, ?_, ?_⟩, fun s u hm hc he => mirrorWrite_of_early hm hc he, fun s u hm => mirrorWrite_of_none hm, fun s t p h => ?_,
    fun s t p hs h => gateClose_of_open hs h p, fun s t hs h hg => gateOpen_of_closed hs h hg, fun s v n hn hle => ?_, fun s o => ⟨rfl, rfl⟩⟩
  · refine (exec_queueStall q s).trans (congrArg Host.Outcome.next ?_)
    rw [M.run_modify, hq]
  · exact (launchPacket_next s q e).trans (by rw [launchPacket_of_noQueue hq]; rfl)
  · exact (waitPoll_of_read hl hf he hr).trans (congrArg (fun r : Except Stop Unit × State => Host.Outcome.next r.2) (M.ite_step_pos hv rfl))
  · exact (waitPoll_of_read hl hf he hr).trans (congrArg (fun r : Except Stop Unit × State => Host.Outcome.next r.2) (M.ite_step_neg (by simp [hv]) (M.ite_step_neg (by omega) rfl)))
  · exact (waitPoll_of_read hl hf he hr).trans (congrArg (fun r : Except Stop Unit × State => Host.Outcome.next r.2) (M.ite_step_neg (by simp [hv]) (M.ite_step_pos hst rfl)))
  · rintro rfl
    exact mirrorWrite_of_tried hm hd hw
  · rintro rfl
    exact mirrorWrite_of_tried hm hd hw
  · rintro rfl
    exact mirrorWrite_of_tried hm hd hw
  · exact congrArg Host.Outcome.next (if_pos h)
  · subst hn
    exact congrArg Host.Outcome.next (if_pos hle)

end

section
/-! PROOFS. Packets at their target, answers at their source, and SC accesses at their homes: O56. -/
namespace Sys2Proof.Machine

variable {s s1 s2 s3 : State} {p : Packet}

/-! ### A packet in its turn -/

/-- A packet waits behind those that wait already. -/
def State.stall (s : State) (p : Packet) : State := { s with fabric := { s.fabric with stalled := s.fabric.stalled ++ [p] } }
/-- What a packet leaves that has acted: it waits where its action says so, or was held. -/
def packetEnd (p : Packet) : Except Stop Bool × State → State
  | (.ok true, s) => s.stall p
  | (.error .hold, s) => s.stall p
  | (_, s) => s
/-- Whether a packet of class 0 waits that another one of its line and source has to follow. -/
def State.follows (s : State) (p : Packet) : Bool := s.fabric.stalled.any fun q => q.src == p.src && lineOf q.va == lineOf p.va && q.kind < 7
/-- The events of packets of class 0, with the kind number that each gives its packet. -/
def requestKinds (p : Packet) : List (Instr × Nat) :=
  [(.fabricRead p, 0), (.fabricWrite p, 1), (.fabricAtomic p, 2), (.bulkPiece p, 3), (.fabricInvalidate p, 5), (.fabricMergeRecall p, 6)]
/-- The events of packets of classes 1 and 2, with the kind number that each gives its packet. -/
def answerKinds (p : Packet) : List (Instr × Nat) :=
  [(.readResponse p, 7), (.atomicResponse p, 8), (.writeAcknowledgement p, 9), (.invalidateAcknowledgement p, 10), (.partialPacket p, 11)]
theorem exec_request {i : Instr} {n : Nat} (hi : (i, n) ∈ requestKinds p) (s : State) : n < 7 ∧ exec i s = .next (packetAt (asKind p n) s).2 := by
  simp only [requestKinds, List.mem_cons, Prod.mk.injEq, List.not_mem_nil, or_false] at hi
  rcases hi with ⟨rfl, rfl⟩ | ⟨rfl, rfl⟩ | ⟨rfl, rfl⟩ | ⟨rfl, rfl⟩ | ⟨rfl, rfl⟩ | ⟨rfl, rfl⟩ <;> exact ⟨by decide, rfl⟩
theorem exec_answer {i : Instr} {n : Nat} (hi : (i, n) ∈ answerKinds p) (s : State) : 7 ≤ n ∧ exec i s = .next (packetAt (asKind p n) s).2 := by
  simp only [answerKinds, List.mem_cons, Prod.mk.injEq, List.not_mem_nil, or_false] at hi
  rcases hi with ⟨rfl, rfl⟩ | ⟨rfl, rfl⟩ | ⟨rfl, rfl⟩ | ⟨rfl, rfl⟩ | ⟨rfl, rfl⟩ <;> exact ⟨by decide, rfl⟩
theorem packetAt_request (hk : p.kind < 7) (hf : s.follows p = false) : (packetAt p s).2 = packetEnd p (requestAct p (s.inName (partyPacket p))) := by
  have hb : (s.fabric.stalled.any fun q => q.src == p.src && lineOf q.va == lineOf p.va && q.kind < 7 && p.kind < 7) = false := by
    simpa only [State.follows, hk, decide_true, Bool.and_true] using hf
  change Prod.snd (if _ then _ else _) = _
  rw [hb, if_neg Bool.false_ne_true, if_pos hk]
  change Prod.snd (match requestAct p (s.inName (partyPacket p)) with | (.ok again, s') => _ | (.error .hold, s') => _ | (.error e, s') => _) = _
  rcases requestAct p (s.inName (partyPacket p)) with ⟨⟨_ | _⟩ | ⟨_ | _⟩, t⟩ <;> rfl
theorem packetAt_behind (hk : p.kind < 7) (hf : s.follows p = true) : (packetAt p s).2 = s.stall p := by
  have hb : (s.fabric.stalled.any fun q => q.src == p.src && lineOf q.va == lineOf p.va && q.kind < 7 && p.kind < 7) = true := by
    simpa only [State.follows, hk, decide_true, Bool.and_true] using hf
  change Prod.snd (if _ then _ else _) = _
  rw [hb, if_pos rfl]
  rfl
theorem packetAt_answer (hk : 7 ≤ p.kind) : (packetAt p s).2 = packetEnd p (answerAct p (s.inName (partyPacket p))) := by
  have hb : (s.fabric.stalled.any fun q => q.src == p.src && lineOf q.va == lineOf p.va && q.kind < 7 && p.kind < 7) = false := by
    simp [Nat.not_lt.mpr hk]
  change Prod.snd (if _ then _ else _) = _
  rw [hb, if_neg Bool.false_ne_true, if_neg (Nat.not_lt.mpr hk)]
  change Prod.snd (match answerAct p (s.inName (partyPacket p)) with | (.ok again, s') => _ | (.error .hold, s') => _ | (.error e, s') => _) = _
  rcases answerAct p (s.inName (partyPacket p)) with ⟨⟨_ | _⟩ | ⟨_ | _⟩, t⟩ <;> rfl
/-- A packet of class 0 that meets no waiting packet and acts to its end. -/
theorem exec_request_of {i : Instr} {n : Nat} (hi : (i, n) ∈ requestKinds p) (hs : s.fabric.stalled = []) (h : requestAct (asKind p n) (s.inName (partyPacket p)) = (.ok false, s1)) :
    exec i s = .next s1 := by
  obtain ⟨hn, he⟩ := exec_request hi s
  rw [he, packetAt_request hn (by rw [State.follows, hs]; rfl)]
  exact congrArg (fun r => Host.Outcome.next (packetEnd (asKind p n) r)) h
theorem exec_answer_of {i : Instr} {n : Nat} (hi : (i, n) ∈ answerKinds p) (h : answerAct (asKind p n) (s.inName (partyPacket p)) = (.ok false, s1)) : exec i s = .next s1 := by
  obtain ⟨hn, he⟩ := exec_answer hi s
  rw [he, packetAt_answer hn]
  exact congrArg (fun r => Host.Outcome.next (packetEnd (asKind p n) r)) h

/-! ### Packets of class 0 at their target (R309 to R312, R316) -/

section
variable {pa : Nat}

theorem readAct_done {b : Bytes} (hx : targetXlate p 1 s = (.ok (.ok (some (false, pa))), s1)) (hc : targetCheck p pa (low 3 p.op != 0) s1 = (.ok true, s2)) (ho : low 3 p.op ≠ 4)
    (hr : homeRead pa p.bytes s2 = (.ok b, s3)) (hp : s3.copyLeft p (lineOf pa) = true → peerRoom (lineOf pa) s3 = (.ok (), s3)) :
    readAct p s = (.ok false, (s3.notePeer p (lineOf pa)).respond p 7 0 b (s3.winRec (lineOf pa)) (if s3.copyLeft p (lineOf pa) then some (pa / 128 * 128) else none)) :=
  M.bind_step hx <| M.bind_step hc <| M.ite_step_neg (by decide) <| M.ite_step_neg ho <| M.bind_step hr <| M.get_step <| by
    by_cases h : s3.copyLeft p (lineOf pa) = true
    · exact M.ite_step_pos h (M.bind_step (hp h) rfl)
    · exact M.ite_step_neg h rfl
theorem readAct_conflict (hx : targetXlate p 1 s = (.ok (.ok (some (false, pa))), s1)) (hc : targetCheck p pa (low 3 p.op != 0) s1 = (.ok false, s2)) :
    readAct p s = (.ok false, s2.conflictPacket p pa (if low 3 p.op = 0 then 0 else 2)) :=
  M.bind_step hx <| M.bind_step hc <| M.ite_step_pos (by decide) rfl
theorem readAct_refused {st : Nat} (hx : targetXlate p 1 s = (.ok (.error st), s1)) : readAct p s = (.ok false, s1.refusePacket p st) := M.bind_step hx rfl

theorem writeAct_refused {k : RecKind} {st : Nat} (hx : targetXlate p 2 s = (.ok (.error st), s1)) : writeAct p k s = (.ok (some st), s1) := M.bind_step hx rfl
theorem writeAct_closed {k : RecKind} (hx : targetXlate p 2 s = (.ok (.ok (some (false, pa))), s1)) (hw : s1.targetMayWrite p (lineOf pa) = false) : writeAct p k s = (.ok (some 3), s1) :=
  M.bind_step hx <| M.get_step <| M.ite_step_pos (by rw [hw]; rfl) rfl
/-- Whether a record kind is one of a synchronising write. -/
def RecKind.isSync : RecKind → Bool
  | .sync _ _ => true
  | _ => false
theorem writeAct_conflict {k : RecKind} (hx : targetXlate p 2 s = (.ok (.ok (some (false, pa))), s1)) (hw : s1.targetMayWrite p (lineOf pa) = true)
    (hc : targetCheck p pa k.isSync s1 = (.ok false, s2)) : writeAct p k s = (.ok (some 4), s2) :=
  M.bind_step hx <| M.get_step <| M.ite_step_neg (by rw [hw]; decide) <| M.bind_step (by cases k <;> exact hc) <| M.ite_step_pos (by decide) rfl
theorem writeAct_done {k : RecKind} (hx : targetXlate p 2 s = (.ok (.ok (some (false, pa))), s1)) (hw : s1.targetMayWrite p (lineOf pa) = true)
    (hc : targetCheck p pa k.isSync s1 = (.ok true, s2)) (hs : homeWrite pa p.payload s2 = (.ok (), s3)) :
    writeAct p k s = (.ok (some 0), s3.recordWrite (lineOf pa) p.team p.stamp k) :=
  M.bind_step hx <| M.get_step <| M.ite_step_neg (by rw [hw]; decide) <| M.bind_step (by cases k <;> exact hc) <| M.ite_step_neg (by decide) <| M.bind_step hs rfl
/-- The record kind of a fabric store. -/
def storeKind (p : Packet) : RecKind := if low 3 p.op = 2 then .sync true 6 else .plain
theorem storeKind_plain (h : low 3 p.op ≠ 2) : storeKind p = .plain := if_neg h
theorem storeKind_sync (h : low 3 p.op = 2) : storeKind p = .sync true 6 := if_pos h
theorem requestAct_write {st : Nat} {k : RecKind} (hk : p.kind = 1) (hs : storeKind p = k) (h : writeAct p k s = (.ok (some st), s1)) :
    requestAct p s = (.ok false, s1.respond p 9 st [] WinRec.empty) := by
  subst hs
  unfold requestAct
  rw [hk]
  exact M.bind_step h rfl

theorem atomicAct_refused {st : Nat} (hx : targetXlate p 3 s = (.ok (.error st), s1)) : atomicAct p s = (.ok false, s1.refusePacket p st) := M.bind_step hx rfl
theorem atomicAct_done {v : Nat} (hx : targetXlate p 3 s = (.ok (.ok (some (false, pa))), s1)) (hw : s1.targetMayWrite p (lineOf pa) = true) (hf : (s1.cluster (homeCluster pa)).faulted = false)
    (hc : targetCheck p pa true s1 = (.ok true, s2)) (ho : bits p.op 8 3 ≠ 4) (hg : s1.mapOf (lineOf pa) = none → s1.groupBehind pa (fatmBytes p.op) = false)
    (ha : homeAtomic pa (fatmBytes p.op) (fatmOp p.op) (ofLe (cut p.payload 0 (fatmBytes p.op))) (ofLe (cut p.payload (fatmBytes p.op) (fatmBytes p.op))) p.team p.stamp
      (.sync (ordRel (bits p.op 8 3)) (if ordRel (bits p.op 8 3) then 6 else 0)) s2 = (.ok v, s3)) :
    atomicAct p s = (.ok false, s3.respond p 8 0 (leBytes (fatmBytes p.op) v) (s1.winRec (lineOf pa))) := by
  have hb : ((s1.mapOf (lineOf pa)).isNone && (if bits p.op 8 3 = 4 then s1.serviceFull (homeCluster pa) else s1.groupBehind pa (fatmBytes p.op))) = false := by
    rw [if_neg ho]
    cases hm : s1.mapOf (lineOf pa) with
    | none => rw [hg hm]; rfl
    | some x => rfl
  exact M.bind_step hx <| M.get_step <| M.ite_step_neg (by rw [hw]; decide) <| M.ite_step_neg (by rw [hf]; decide) <| M.bind_step hc <| M.ite_step_neg (by decide) <|
    M.ite_step_neg (by rw [hb]; decide) <| M.ite_step_neg ho <| M.bind_step ha rfl

theorem pieceAct_noCounter (hb : bitAt p.ext 127 = true) (ha : s.arrivalOf (low 64 p.ext) = none) : pieceAct p s = (.ok false, s.respond p 9 7 [] WinRec.empty) :=
  M.get_step <| M.ite_step_pos hb <| by
    rw [ha]
    rfl
theorem pieceAct_pad {a : Arrival} (hb : bitAt p.ext 127 = true) (ha : s.arrivalOf (low 64 p.ext) = some a) (hn : p.va + p.payload.length ≤ (s.team a.team).spadSize)
    (hc : s.controlBytes a.team p.va p.payload.length = false) :
    pieceAct p s = (.ok false, (((s.spadPut a.team p.va p.payload).padRecords a.team p.va p.payload.length p.team p.stamp .plain).countArrival a p.payload.length).respond p 9 0 [] WinRec.empty) :=
  M.get_step <| M.ite_step_pos hb <| by
    rw [ha]
    exact M.ite_step_neg (by simp [hc, hn]) rfl
theorem pieceAct_memory (hb : bitAt p.ext 127 = false) (ha : s.arrivalOf (low 64 p.ext) = none) (h : writeAct p .plain s = (.ok (some 0), s1)) :
    pieceAct p s = (.ok false, s1.respond p 9 0 [] WinRec.empty) :=
  M.get_step <| M.ite_step_neg (by rw [hb]; decide) <| M.bind_step h <| by
    rw [ha]
    rfl
theorem exec_recall_of {i : Instr} {n : Nat} (hi : (i, n) ∈ [(Instr.fabricInvalidate p, 5), (.fabricMergeRecall p, 6)]) (hs : s.fabric.stalled = [])
    (h : recallAct (asKind p n) (s.inName (partyPacket p)) = (.ok false, s1)) : exec i s = .next s1 := by
  simp only [List.mem_cons, Prod.mk.injEq, List.not_mem_nil, or_false] at hi
  rcases hi with ⟨rfl, rfl⟩ | ⟨rfl, rfl⟩
  · exact exec_request_of (p := p) (n := 5) (by simp [requestKinds]) hs h
  · exact exec_request_of (p := p) (n := 6) (by simp [requestKinds]) hs h
theorem recallAct_part {g : ChTag} {x : Int} {d : Bytes} (h : tget s.peerCopies (p.src * 2 ^ 40 + lineOf p.va) = some (.part g x d)) :
    recallAct p s = (.ok false, ({ s with peerCopies := tdel s.peerCopies (p.src * 2 ^ 40 + lineOf p.va) } : State).respond p 11 0 d WinRec.empty) :=
  M.get_step <| by
    dsimp only
    rw [h]
    rfl
theorem recallAct_none (h : tget s.peerCopies (p.src * 2 ^ 40 + lineOf p.va) = none ∨ tget s.peerCopies (p.src * 2 ^ 40 + lineOf p.va) = some .shared) :
    recallAct p s = (.ok false, ({ s with peerCopies := tdel s.peerCopies (p.src * 2 ^ 40 + lineOf p.va) } : State).respond p 10 0 [] WinRec.empty) :=
  M.get_step <| by
    dsimp only
    rcases h with h | h <;> rw [h] <;> rfl

end

/-! ### Answers at their source (R295, R309 to R312, R315) -/

/-- An action that never asks to wait. -/
def NeverWaits (m : M Bool) : Prop := M.Ensures (fun _ _ => True) (· = false) m
theorem anyState_isFrame : IsFrame fun _ _ => True := ⟨fun _ => trivial, fun _ _ => trivial⟩
theorem neverWaits_false : NeverWaits (pure false) := .pure anyState_isFrame rfl
theorem neverWaits_bind {α : Type} {m : M α} {f : α → M Bool} (hf : ∀ a, NeverWaits (f a)) : NeverWaits (m >>= f) :=
  M.Ensures.bind (P := fun _ => True) anyState_isFrame (fun _ _ _ _ => ⟨trivial, trivial⟩) fun a _ => hf a
theorem responseAct_neverWaits (p : Packet) : NeverWaits (responseAct p) := by
  refine .get_bind fun s => ?_
  split
  · exact neverWaits_false
  · have hend : ∀ f : State → State, NeverWaits (modify f >>= fun _ => pure false) := fun f => neverWaits_bind fun _ => neverWaits_false
    refine .ite (fun _ => .ite (fun _ => neverWaits_bind fun _ => ?_) fun _ => ?_) fun _ => hend _ <;>
      exact .ite (fun _ => hend _) fun _ => .ite (fun _ => neverWaits_bind fun _ => hend _) fun _ => neverWaits_bind fun _ => neverWaits_bind fun _ => hend _
theorem answerAct_neverWaits (p : Packet) : NeverWaits (answerAct p) := by
  refine .get_bind fun s => ?_
  split
  · exact responseAct_neverWaits p
  · exact responseAct_neverWaits p
  · split
    · exact neverWaits_bind fun _ => neverWaits_false
    · exact neverWaits_false
  · exact .ite (fun _ => neverWaits_bind fun _ => neverWaits_false) fun _ => neverWaits_false
  · exact .ite (fun _ => neverWaits_bind fun _ => neverWaits_false) fun _ => neverWaits_false
theorem answerAct_ends (p : Packet) (s t : State) : answerAct p s ≠ (.ok true, t) := fun h => nomatch (answerAct_neverWaits p s true t h).1

theorem responseAct_unknown (h : s.reqFor p = none) : responseAct p s = (.ok false, s) := M.get_step <| by
  rw [h]
  rfl
theorem responseAct_plain {r : FabReq} (h : s.reqFor p = some r) (hp : p.status ≠ 0 ∨ r.acq = false ∧ (r.atomic = true ∨ p.src = s.devno ∨ bitAt p.ext 6 = false)) :
    responseAct p s = (.ok false, s.endReq r.id p.status (ofLe p.payload) p.payload) := M.get_step <| by
  rw [h]
  by_cases hst : p.status = 0
  · obtain ⟨ha, hn⟩ := hp.resolve_left (fun hne => hne hst)
    refine M.ite_step_pos hst <| M.ite_step_neg (by simp [ha]) <| M.ite_step_pos ?_ rfl
    rcases hn with hn | hn | hn <;> simp [hn]
  · exact M.ite_step_neg hst rfl
theorem responseAct_copy {r : FabReq} (h : s.reqFor p = some r) (hst : p.status = 0) (ha : r.acq = false) (hat : r.atomic = false) (hd : p.src ≠ s.devno) (hb : bitAt p.ext 6 = true)
    (hroom : s.sliceCount (peerSlice (lineOf p.va)) < sliceLines) :
    responseAct p s = (.ok false, ({ s with peerCopies := tset s.peerCopies (p.src * 2 ^ 40 + lineOf p.va) .shared } : State).endReq r.id 0 (ofLe p.payload) p.payload) := M.get_step <| by
  rw [h]
  have hr : sliceRoom (peerSlice (lineOf p.va)) s = (.ok (), s) := M.get_step <| M.ite_step_pos hroom rfl
  refine M.ite_step_pos hst <| M.ite_step_neg (by simp [ha]) <| M.ite_step_neg (by simp [hat, hd, hb]) ?_
  rw [← hst]
  by_cases hc : (tget s.peerCopies (p.src * 2 ^ 40 + lineOf p.va)).isSome = true
  · exact M.ite_step_pos hc rfl
  · exact M.ite_step_neg hc (M.bind_step hr rfl)
theorem responseAct_acquire {r : FabReq} (h : s.reqFor p = some r) (hst : p.status = 0) (ha : r.acq = true) (ht : (tget s.threads r.th).isSome = true) (hat : r.atomic = true)
    (hq : acquireRec r.th (recOf p) 6 s = (.ok (), s1)) : responseAct p s = (.ok false, s1.endReq r.id 0 (ofLe p.payload) p.payload) := M.get_step <| by
  rw [h]
  refine M.ite_step_pos hst <| M.ite_step_pos (by rw [ha, ht]; rfl) <| M.bind_step hq <| M.ite_step_pos (by simp [hat]) ?_
  rw [← hst]
  rfl

theorem answerAct_written (hk : p.kind = 9) (s : State) : answerAct p s = (.ok false, (s.writeFor p).elim s fun id => s.endWrite id p.status) := M.get_step <| by
  rw [hk]
  dsimp only
  cases s.writeFor p <;> rfl
/-- Whether an answer of this packet's source for its line is awaited. -/
def State.awaits (s : State) (p : Packet) : Bool := s.peerAcks.any fun a => a.line == lineOf p.va && a.dev == p.src
theorem answerAct_invalidated (hk : p.kind = 10) (s : State) : answerAct p s = (.ok false, if s.awaits p then s.peerAnswered (lineOf p.va) p.src else s) := M.get_step <| by
  rw [hk]
  by_cases h : s.awaits p = true
  · rw [if_pos h]
    exact M.ite_step_pos h rfl
  · rw [if_neg h]
    exact M.ite_step_neg h rfl
theorem answerAct_partial (hk : p.kind = 11) (s : State) :
    answerAct p s = (.ok false, if s.awaits p then (s.takePartial (lineOf p.va) p.src p.payload).peerAnswered (lineOf p.va) p.src else s) := M.get_step <| by
  rw [hk]
  by_cases h : s.awaits p = true
  · rw [if_pos h]
    exact M.ite_step_pos h rfl
  · rw [if_neg h]
    exact M.ite_step_neg h rfl

/-! ### SC accesses at their homes (R234, R244) -/

theorem minBy_nil_of_any {l : List ScAccess} (h : l.any s.scReady = false) : minBy s.stampLt (l.filter s.scReady) = none := by
  rw [List.filter_eq_nil_iff.mpr (by simpa using h)]
  rfl
theorem caught_ok {α : Type} {m : M α} {a : α} (h : m s = (.ok a, s1)) : caught m s = (.ok (.ok a), s1) := by
  unfold caught
  rw [h]
theorem caught_error {α : Type} {m : M α} {e : Stop} (h : m s = (.error e, s1)) (he : e ≠ .hold) : caught m s = (.ok (.error e), s1) := by
  unfold caught
  rw [h]
  cases e with
  | hold => exact absurd rfl he
  | trap cls code a d1 d2 d3 => rfl
/-- An SC access has left its home. -/
def State.scLeft (s : State) (id : Nat) : State := { s with scHeld := s.scHeld.filter fun x => x.id != id }

section
variable {a : ScAccess}

/-- What is done for the access whose turn it is. -/
def scTurn (a : ScAccess) : M Unit := do
  let c ← caught (scCheck a)
  match c, a.reply with
  | .error e, _ =>
    modify fun s => s.scLeft a.id
    failSc a e
  | .ok false, some p => modify fun s => (s.scLeft a.id).conflictPacket p a.pa (if a.op = .load then 2 else 3)
  | .ok _, _ =>
    let r ← scAct a
    modify fun s => s.scLeft a.id
    match a.reply with
    | some p =>
      let load := a.op == .load
      modify fun s =>
        let copy := load && !a.host && s.copyLeft p (lineOf a.pa)
        (if copy then s.notePeer p (lineOf a.pa) else s).respond p (if load then 7 else 8) 0 (leBytes a.n r.1) r.2 (if copy then some (a.pa / 128 * 128) else none)
    | none => modify fun s => s.modOutst a.th a.oid fun o => { o with val := r.1, fixed := true }
theorem execScPerform_turn (h : minBy s.stampLt (s.scHeld.filter s.scReady) = some a) : execScPerform s = .next (scTurn a (s.inName (partySc a.id))).2 := by
  refine runEvent_of (r := (scTurn a (s.inName (partySc a.id))).1) (M.get_step ?_)
  rw [h]
  rfl
theorem scTurn_word {v : Nat} {r : WinRec} (hr : a.reply = none) (hc : scCheck a s = (.ok true, s1)) (ha : scAct a s1 = (.ok (v, r), s2)) :
    (scTurn a s).2 = (s2.scLeft a.id).modOutst a.th a.oid fun o => { o with val := v, fixed := true } := by
  refine congrArg Prod.snd (M.bind_step (out := (.ok (), _)) (caught_ok hc) ?_)
  rw [hr]
  exact M.bind_step ha (M.bind_step (M.run_modify ..) rfl)
theorem scTurn_error {e : Stop} (he : e ≠ .hold) (hc : scCheck a s = (.error e, s1)) : (scTurn a s).2 = (failSc a e (s1.scLeft a.id)).2 := by
  refine congrArg Prod.snd (M.bind_step (out := failSc a e (s1.scLeft a.id)) (caught_error hc he) ?_)
  cases a.reply <;> exact M.bind_step (M.run_modify ..) rfl
theorem scTurn_conflict (hr : a.reply = some p) (hc : scCheck a s = (.ok false, s1)) :
    (scTurn a s).2 = (s1.scLeft a.id).conflictPacket p a.pa (if a.op = .load then 2 else 3) := by
  refine congrArg Prod.snd (M.bind_step (out := (.ok (), _)) (caught_ok hc) ?_)
  rw [hr]
  rfl
theorem scTurn_packet {v : Nat} {r : WinRec} (hr : a.reply = some p) (ho : a.op ≠ .load) (hc : scCheck a s = (.ok true, s1)) (ha : scAct a s1 = (.ok (v, r), s2)) :
    (scTurn a s).2 = (s2.scLeft a.id).respond p 8 0 (leBytes a.n v) r := by
  have hl : (a.op == AtomOp.load) = false := beq_false_of_ne ho
  refine congrArg Prod.snd (M.bind_step (out := (.ok (), _)) (caught_ok hc) ?_)
  rw [hr]
  refine M.bind_step ha (M.bind_step (M.run_modify ..) ?_)
  simp only [hl]
  rfl
end

end Sys2Proof.Machine

open Sys2Proof Sys2Proof.Machine

/-- Settles O56. -/
theorem fabricPackets : Obligations.FabricPackets := by
  unfold Obligations.FabricPackets
  refine ⟨fun s p i n hi hf => ?_, fun s p i n hi hf => ?_, fun s s1 s2 s3 p pa b hs hx hc ho hr hp => ?_, fun s s1 s2 p pa hs hx hc => ?_, fun s s1 p st hs => ⟨fun hx => ?_, fun hx => ?_, fun hx => ?_⟩,
    fun s s1 s2 s3 p pa hs hx => ⟨fun hw => ?_, fun hw ho hc => ?_, fun hw ho hc hh => ?_, fun hw ho hc hh => ?_⟩, fun s s1 s2 s3 p pa v hs hx hw hf hc ho hg ha => ⟨s1.winRec (lineOf pa), ?_⟩,
    fun s p hs hb ha => ?_, fun s u p a hs hb ha hn hc hu => ?_, fun s s1 s2 s3 p pa hs hb ha hx hw hc hh => ?_, fun s u p i n hi hs hu => ⟨fun h => ?_, fun g x d h => ?_⟩,
    fun s p i n hi => ?_, fun s p h => ⟨?_, ?_⟩, fun s p r h hp => ⟨?_, ?_⟩, fun s u p r h hst ha hat hd hb hroom hu => ?_, fun s s' p r h hst ha ht hat hq => ?_, fun s u p hu => ?_,
    fun s u p hu => ⟨?_, ?_⟩, fun s h => ?_, fun s => rfl, fun s s1 s' a v r hm hr hc ha => ?_, fun s s1 a e hm he hc => ?_, fun s s1 a p hm hr hc => ?_, fun s s1 s' a p v r hm hr ho hc ha => ?_⟩
  · obtain ⟨hn, he⟩ := exec_request hi s
    rw [he, packetAt_request (p := asKind p n) hn hf]
    change Host.Outcome.next (packetEnd (asKind p n) (requestAct (asKind p n) (s.inName (partyPacket p)))) = _
    rcases requestAct (asKind p n) (s.inName (partyPacket p)) with ⟨⟨_ | _⟩ | ⟨_ | _⟩, t⟩ <;> rfl
  · obtain ⟨hn, he⟩ := exec_request hi s
    rw [he, packetAt_behind (p := asKind p n) hn hf]
    rfl
  · exact exec_request_of (p := p) (n := 0) (by simp [requestKinds]) hs (readAct_done hx hc ho hr hp)
  · exact exec_request_of (p := p) (n := 0) (by simp [requestKinds]) hs (readAct_conflict hx hc)
  · exact exec_request_of (p := p) (n := 0) (by simp [requestKinds]) hs (readAct_refused hx)
  · exact exec_request_of (p := p) (n := 1) (by simp [requestKinds]) hs (requestAct_write rfl rfl (writeAct_refused hx))
  · exact exec_request_of (p := p) (n := 2) (by simp [requestKinds]) hs (atomicAct_refused hx)
  · exact exec_request_of (p := p) (n := 1) (by simp [requestKinds]) hs (requestAct_write rfl rfl (writeAct_closed hx hw))
  · exact exec_request_of (p := p) (n := 1) (by simp [requestKinds]) hs (requestAct_write rfl (storeKind_plain ho) (writeAct_conflict hx hw hc))
  · exact exec_request_of (p := p) (n := 1) (by simp [requestKinds]) hs (requestAct_write rfl (storeKind_plain ho) (writeAct_done hx hw hc hh))
  · exact exec_request_of (p := p) (n := 1) (by simp [requestKinds]) hs (requestAct_write rfl (storeKind_sync ho) (writeAct_done hx hw hc hh))
  · exact exec_request_of (p := p) (n := 2) (by simp [requestKinds]) hs (atomicAct_done hx hw hf hc ho hg ha)
  · exact exec_request_of (p := p) (n := 3) (by simp [requestKinds]) hs (pieceAct_noCounter hb ha)
  · subst hu
    exact exec_request_of (p := p) (n := 3) (by simp [requestKinds]) hs (pieceAct_pad hb ha hn hc)
  · exact exec_request_of (p := p) (n := 3) (by simp [requestKinds]) hs (pieceAct_memory hb ha (writeAct_done hx hw hc hh))
  · subst hu
    exact exec_recall_of hi hs (recallAct_none h)
  · subst hu
    exact exec_recall_of hi hs (recallAct_part h)
  · obtain ⟨hn, he⟩ := exec_answer hi s
    rw [he, packetAt_answer (p := asKind p n) hn]
    change Host.Outcome.next (packetEnd (asKind p n) (answerAct (asKind p n) (s.inName (partyPacket p)))) = _
    rcases h : answerAct (asKind p n) (s.inName (partyPacket p)) with ⟨⟨_ | _⟩ | ⟨_ | _⟩, t⟩
    · rfl
    · rfl
    · rfl
    · exact absurd h (answerAct_ends _ _ t)
  · exact exec_answer_of (p := p) (n := 7) (by simp [answerKinds]) (responseAct_unknown h)
  · exact exec_answer_of (p := p) (n := 8) (by simp [answerKinds]) (responseAct_unknown h)
  · exact exec_answer_of (p := p) (n := 7) (by simp [answerKinds]) (responseAct_plain h hp)
  · exact exec_answer_of (p := p) (n := 8) (by simp [answerKinds]) (responseAct_plain h hp)
  · subst hu
    exact exec_answer_of (p := p) (n := 7) (by simp [answerKinds]) (responseAct_copy h hst ha hat hd hb hroom)
  · exact exec_answer_of (p := p) (n := 8) (by simp [answerKinds]) (responseAct_acquire h hst ha ht hat hq)
  · subst hu
    exact exec_answer_of (p := p) (n := 9) (by simp [answerKinds]) (answerAct_written rfl _)
  · subst hu
    exact exec_answer_of (p := p) (n := 10) (by simp [answerKinds]) (answerAct_invalidated rfl _)
  · subst hu
    exact exec_answer_of (p := p) (n := 11) (by simp [answerKinds]) (answerAct_partial rfl _)
  · refine runEvent_of (r := .ok ()) (M.get_step ?_)
    rw [minBy_nil_of_any h]
    rfl
  · rw [exec_scPerform, execScPerform_turn hm, scTurn_word hr hc ha]
    rfl
  · rw [exec_scPerform, execScPerform_turn hm, scTurn_error he hc]
    rfl
  · rw [exec_scPerform, execScPerform_turn hm, scTurn_conflict hr hc]
    rfl
  · rw [exec_scPerform, execScPerform_turn hm, scTurn_packet hr ho hc ha]
    rfl

end

section
/-! PROOFS. The end of teams and launches, and completion records, at the anchor socket. -/
namespace Sys2Proof.Machine

variable {s s1 : State}

/-! ### Counters of launches, teams and graphs -/

/-- What one step of a fold keeps, the fold keeps. -/
theorem State.foldl_same {β γ : Type} {part : State → γ} {f : State → β → State} (h : ∀ s b, part (f s b) = part s) (l : List β) (s : State) : part (l.foldl f s) = part s :=
  List.foldlRecOn (motive := fun t : State => part t = part s) l f rfl fun t ht b _ => (h t b).trans ht
/-- A state that differs from another one in the host's record alone. -/
def OnHost (s t : State) : Prop := ∃ h, t = { s with host := h }
theorem OnHost.refl (s : State) : OnHost s s := ⟨_, rfl⟩
theorem OnHost.trans {s t u : State} (h : OnHost s t) (h' : OnHost t u) : OnHost s u := by
  obtain ⟨_, rfl⟩ := h
  obtain ⟨_, rfl⟩ := h'
  exact ⟨_, rfl⟩
theorem State.owe_onHost (s : State) (u : UnitRef) : OnHost s (s.owe u) := (s.owe_eq u).elim fun _ h => ⟨_, h⟩
theorem State.jobCheck_onHost (s : State) (j : Nat) : OnHost s (s.jobCheck j) := by
  unfold State.jobCheck
  split
  · split
    · exact OnHost.trans ⟨_, rfl⟩ (State.owe_onHost _ _)
    · exact s.owe_onHost _
  · exact .refl s
theorem State.legCheck_onHost (s : State) (j : Nat) : OnHost s (s.legCheck j) := by
  unfold State.legCheck
  split
  · split
    · exact OnHost.trans (t := s.modLeg j _) ⟨_, rfl⟩ <| (State.owe_onHost _ _).trans <| OnHost.trans (t := State.modJob _ _ _) ⟨_, rfl⟩ (State.jobCheck_onHost _ _)
    · exact s.owe_onHost _
  · exact .refl s
theorem State.graphCheck_onHost (s : State) (j : Nat) : OnHost s (s.graphCheck j) := by
  unfold State.graphCheck
  split
  · split
    · exact OnHost.trans (t := s.modGraph j _) ⟨_, rfl⟩ <| (State.owe_onHost _ _).trans <| OnHost.trans (t := State.modLeg _ _ _) ⟨_, rfl⟩ (State.legCheck_onHost _ _)
    · exact s.owe_onHost _
  · exact .refl s
theorem State.launchCheck_onHost (s : State) (l : Nat) : OnHost s (s.launchCheck l) := by
  unfold State.launchCheck
  refine OnHost.trans (s.owe_onHost (.launch l)) ?_
  dsimp only
  split
  · refine OnHost.trans (t := State.modLaunch (s.owe (.launch l)) l fun x => { x with status := max x.status 1, fin := true }) ⟨_, rfl⟩ ?_
    split
    · exact OnHost.trans (t := State.modGraph _ _ _) ⟨_, rfl⟩ (State.graphCheck_onHost _ _)
    · exact .refl _
  · exact .refl _

/-! ### What the end of a team leaves to the socket -/

theorem OnHost.socket {s t : State} (h : OnHost s t) : t.socket = s.socket := by
  obtain ⟨_, rfl⟩ := h
  rfl
theorem State.deregister_socket (s : State) (core : Option Nat) (u : RegUnit) (b : Bool) : (s.deregister core u b).socket = s.socket :=
  State.foldl_same (part := State.socket) (fun t e => by
    split
    · change (State.sendBelay ..).socket = _
      unfold State.sendBelay
      split <;> rfl
    · rfl) _ s
theorem State.unmapAll_socket (s : State) (i : Nat) : (s.unmapAll i).socket = s.socket := by
  refine State.foldl_same (part := State.socket) (fun t m => ?_) _ s
  refine Eq.trans (b := (List.foldl _ t _).socket) rfl ?_
  refine State.foldl_same (part := State.socket) (fun u e => ?_) _ t
  rfl
theorem State.teamDone_socket (s : State) (i st : Nat) : (s.teamDone i st).socket = s.socket :=
  (State.launchCheck_onHost _ _).socket.trans <| (State.owe_onHost (s.modTeam i _) (.team i)).socket
theorem State.teamCheck_socket (s : State) (i : Nat) : (s.teamCheck i).socket = s.socket := by
  unfold State.teamCheck
  dsimp only
  split
  · exact (s.owe_onHost _).socket
  · split
    · split
      · exact (State.owe_onHost _ _).socket.trans (s.deregister_socket _ _ _)
      · exact (State.teamDone_socket _ _ _).trans (s.unmapAll_socket i)
    · split
      · exact s.teamDone_socket i _
      · exact (s.owe_onHost _).socket

/-! ### The fence of the guest die -/

/-- What of the socket says whether the guest die is fenced off, and what it lost when it was. -/
def State.fence (s : State) : Bool × Bool × List GuestXlate × Nat := (s.socket.fenced, s.socket.ready, s.socket.xlates, s.socket.fences)
/-- The fence of the guest die is as before. -/
def SameFence (s t : State) : Prop := t.fence = s.fence
theorem sameFence_isFrame : IsFrame SameFence where
  refl _ := rfl
  trans h h' := Eq.trans h' h
theorem sameFence_of_socket {t : State} (h : t.socket = s.socket) : SameFence s t := by
  unfold SameFence State.fence
  rw [h]
theorem M.Keeps.sameFence {α : Type} {m : M α} (h : M.Keeps SameParties m) : M.Keeps SameFence m := fun s => sameFence_of_socket (h s).socket
theorem tryTranslate_sameParties (a : Asker) (ctx va acc : Nat) : M.Keeps SameParties (tryTranslate a ctx va acc) := by
  intro s
  have h := translate_sameParties a ctx va acc s
  unfold tryTranslate
  split
  · rfl
  · exact h
theorem snoopOther_sameParties (h w : Bool) (n : Nat) : M.Keeps SameParties (snoopOther h w n) := by
  refine .get_bind fun s => .ite (fun _ => .ite (fun _ => ?_) fun _ => ?_) fun _ => sameParties_pure _ <;>
    exact .ite (fun _ => sameParties_error) fun _ => (sameParties_modify fun t => by simp).andThen fun _ => sameParties_error
theorem homeOwn_sameParties (l : Nat) : M.Keeps SameParties (homeOwn l) :=
  (sameParties_modify fun t => t.parties_gather l).andThen fun _ => (clearPeers_sameParties l).andThen fun _ => sameParties_modify fun t => by
    split
    · exact t.parties_mergeLine l true
    · rfl
    · exact t.parties_invalidateOthers none l
theorem State.putAt_socket (s : State) (pa : Nat) (b : Bytes) : (s.putAt pa b).socket = s.socket := by
  unfold State.putAt
  split <;> rfl
theorem outsideWrite_sameFence (pa : Nat) (b : Bytes) : M.Keeps SameFence (outsideWrite pa b) :=
  .bind sameFence_isFrame (.forM' sameFence_isFrame fun l => (M.Keeps.sameFence (homeOwn_sameParties l))) fun _ => .forM' sameFence_isFrame fun g => .modify fun t => by
    split
    · rfl
    · exact sameFence_of_socket (t.putAt_socket g.1 g.2)
theorem State.hostStore_socket (s : State) (pa : Nat) (b : Bytes) : (s.hostStore pa b).socket = s.socket :=
  State.foldl_same (part := State.socket) (fun t c => by split <;> rfl) _ s
theorem writeRecord_sameFence (p : GuestPacket) (st : Nat) (r : Word) : M.Keeps SameFence (writeRecord p st r) := by
  have hF := sameFence_isFrame
  have hmiss : M.Keeps SameFence (modify fun s => s.setSocket fun x => { x with faults := x.faults + 1 }) := .modify fun _ => rfl
  refine .ite (fun _ => .pure hF _) fun _ => .ite (fun _ => hmiss) fun _ => (M.Keeps.sameFence (tryTranslate_sameParties _ _ _ _)).bind hF fun x => ?_
  split
  · exact .modify fun t => sameFence_of_socket (t.hostStore_socket _ _)
  · exact .get_bind fun s => .ite (fun _ => hmiss) fun _ => (M.Keeps.sameFence (snoopOther_sameParties _ _ _)).bind hF fun _ => (M.Keeps.sameFence (snoopOther_sameParties _ _ _)).bind hF fun _ => outsideWrite_sameFence _ _
  · exact hmiss
theorem State.noteDone_socket (s : State) (i bit id : Nat) (sl : Option Nat) (st : Nat) : (s.noteDone i bit id sl st).socket = s.socket := by
  refine State.foldl_same (part := State.socket) (fun t k => ?_) _ s
  rfl
theorem State.retireGuest_fence (s : State) (q : Nat) (p : GuestPacket) (st : Nat) : SameFence s (s.retireGuest q p st) := by
  unfold State.retireGuest
  dsimp only
  refine Eq.trans (sameFence_of_socket (State.teamCheck_socket _ _)) ?_
  have hfinish : ∀ (l : List Nat) (w : Wait) (e : Option Nat) (t : State), (l.foldl (fun s k => s.finish k w st e) t).fence = t.fence := fun l w e t =>
    State.foldl_same (part := State.fence) (fun u k => by rfl) l t
  have hnote : ∀ (l : List (Nat × Nat × Nat)) (t : State), (l.foldl (fun s g => s.noteDone p.team 3 g.1 none st) t).fence = t.fence := fun l t => by
    refine State.foldl_same (part := State.fence) (fun u g => ?_) l t
    exact sameFence_of_socket (u.noteDone_socket p.team 3 g.1 none st)
  rw [hfinish, hnote]
  split <;> rfl
theorem flushQueue_sameFence (q n : Nat) : M.Keeps SameFence (flushQueue q n) := by
  have hF := sameFence_isFrame
  induction n with
  | zero => exact .pure hF _
  | succ n ih =>
    refine .get_bind fun s => ?_
    split
    · exact .pure hF _
    · split
      · exact .pure hF _
      · exact M.Keeps.bind hF (writeRecord_sameFence _ _ _) fun _ => M.Keeps.bind hF (.modify fun t => t.retireGuest_fence _ _ _) fun _ => ih
theorem flush_snd (q : Nat) (s : State) : (flush q s).2 = (flushQueue q 4096 (s.inName partyGuest)).2 := by
  unfold flush
  split
  · next h => exact (congrArg Prod.snd h).symm
  · rfl
theorem flush_sameFence (q : Nat) : M.Keeps SameFence (flush q) := fun s => by
  rw [flush_snd]
  exact flushQueue_sameFence q 4096 (s.inName partyGuest)

/-- The guest die is fenced off before its completions are delivered. -/
theorem fenceGuest_flush (hr : s.socket.ready = true) (hf : s.socket.fenced = false) :
    ∃ (u : State) (l : List Nat), u.fence = (true, false, [], s.socket.fences + 1) ∧ fenceGuest s = forM' l flush u := by
  refine ⟨_, _, ?_, M.get_step <| M.ite_step_neg (by simp [hr, hf]) <| M.bind_step (M.run_modify ..) <| M.bind_step (M.run_modify ..) <| M.get_step <| M.bind_step (M.run_modify ..) <|
    M.bind_step (M.run_modify ..) <| M.bind_step (M.run_modify ..) rfl⟩
  have hpre : ∀ (l : List (Nat × Nat × Nat × Bool)) (t : State), (l.foldl (fun s p => s.modTeam p.2.1 fun t => { t with preempt := t.preempt.map fun x => { x with guestAck := true } }) t).fence = t.fence := fun l t =>
    State.foldl_same (part := State.fence) (fun _ _ => by rfl) l t
  have hend : ∀ (l : List Shootdown) (t : State), (l.foldl (fun s d => s.endShootdown d.id) t).fence = t.fence := fun l t => by
    refine State.foldl_same (part := State.fence) (fun u d => ?_) l t
    exact (State.foldl_same (part := State.fence) (fun _ _ => by rfl) _ _).trans rfl
  exact (hpre _ _).trans (hend _ _)
theorem fenceGuest_fence (hr : s.socket.ready = true) (hf : s.socket.fenced = false) : (fenceGuest s).2.fence = (true, false, [], s.socket.fences + 1) := by
  obtain ⟨u, l, hu, he⟩ := fenceGuest_flush hr hf
  rw [he, ← hu]
  exact M.Keeps.forM' sameFence_isFrame flush_sameFence u

end Sys2Proof.Machine
end

section
/-! PROOFS. The guest die's messages, its packets and the coherent port: O55. -/
namespace Sys2Proof.Machine

variable {s s1 s2 : State} {q t : Nat}

/-! ### Messages that the hub takes -/

theorem guestOn_of_on (hr : s.socket.ready = true) (hf : s.socket.fenced = false) (m : M Unit) : guestOn m s = m s := M.get_step (M.ite_step_pos (by simp [hr, hf]) rfl)
theorem guestOn_of_off (h : s.socket.ready = false ∨ s.socket.fenced = true) (m : M Unit) : guestOn m s = (.ok (), s) :=
  M.get_step (M.ite_step_neg (by rcases h with h | h <;> simp [h]) rfl)
/-- A message of a guest die that is not fenced off does what is asked. -/
theorem guestEvent_on {m : M Unit} {r : Except Stop Unit} (hr : s.socket.ready = true) (hf : s.socket.fenced = false) (h : m s = (r, s1)) : runEvent (guestOn m) s = .next s1 :=
  runEvent_of ((guestOn_of_on hr hf m).trans h)
theorem guestEvent_off (h : s.socket.ready = false ∨ s.socket.fenced = true) (m : M Unit) : runEvent (guestOn m) s = .next s := runEvent_of (guestOn_of_off h m)
/-- An event that leaves a state as it is, whether its guest die is fenced off or not. -/
theorem guestEvent_idle {m : M Unit} {r : Except Stop Unit} (h : m s = (r, s)) : runEvent (guestOn m) s = .next s := by
  by_cases hr : s.socket.ready = true
  · cases hf : s.socket.fenced with
    | false => exact guestEvent_on hr hf h
    | true => exact guestEvent_off (.inr hf) m
  · exact guestEvent_off (.inl (Bool.not_eq_true _ ▸ hr)) m
/-- An action's end, taken apart. -/
theorem snd_of {α : Type} (m : M α) (s : State) : m s = ((m s).1, (m s).2) := rfl

/-! ### Completions in the order of their queue (R372) -/

theorem flushQueue_none (h : (tget s.socket.queues q).bind (·.packets.head?) = none) : ∀ n, flushQueue q n s = (.ok (), s)
  | 0 => rfl
  | _ + 1 => M.get_step (by rw [h]; rfl)
theorem flushQueue_notHeld {n : Nat} {p : GuestPacket} (h : (tget s.socket.queues q).bind (·.packets.head?) = some p) (hp : p.held = none) : flushQueue q (n + 1) s = (.ok (), s) :=
  M.get_step (by rw [h]; dsimp only; rw [hp]; rfl)
/-- The head of a queue whose completion stands: its record is written, and it is retired. -/
theorem flushQueue_held {n c r' : Nat} {r : Word} {p : GuestPacket} (h : (tget s.socket.queues q).bind (·.packets.head?) = some p) (hp : p.held = some (c, r', r)) :
    flushQueue q (n + 1) s = (do
      writeRecord p (c * 2 ^ 12 + r' * 2 ^ 8) r
      (modify fun s : State => s.retireGuest q p (c * 2 ^ 12 + r' * 2 ^ 8) : M Unit)
      flushQueue q n) s := M.get_step (by rw [h]; dsimp only; rw [hp])
theorem flush_of_ok (h : ∀ n, flushQueue q (n + 1) (s.inName partyGuest) = (.ok (), s1)) : flush q s = (.ok (), s1) := by
  have h' : asParty partyGuest (flushQueue q 4096) s = (.ok (), s1) := h 4095
  unfold flush
  rw [h']
theorem flush_of_hold (h : ∀ n, flushQueue q (n + 1) (s.inName partyGuest) = (.error .hold, s1)) : flush q s = (.ok (), s1) := by
  have h' : asParty partyGuest (flushQueue q 4096) s = (.error .hold, s1) := h 4095
  unfold flush
  rw [h']

/-! ### Translations (R375) -/

theorem answerXlate_wait {w : XlateWait} {p : GuestPacket} {c r a : Nat} (hp : s.guestPacket w.q w.ticket = some p)
    (hx : translate (hubAsker w.va.toNat 2) (s.tenantCtx p.tenant p.ctx) w.va.toNat w.acc s = (.ok (.error (.page c r a)), s1)) : answerXlate w s = (.ok true, s1) :=
  M.get_step (by rw [hp]; exact M.bind_step hx rfl)
theorem answerXlate_fail {w : XlateWait} {p : GuestPacket} {pa : Nat} (hp : s.guestPacket w.q w.ticket = some p)
    (hx : translate (hubAsker w.va.toNat 2) (s.tenantCtx p.tenant p.ctx) w.va.toNat w.acc s = (.ok (.ok (true, pa)), s1)) :
    answerXlate w s = (.ok false, (s1.modPacket w.q w.ticket fun p => { p with fatalAt := some s1.now }).emit (.guestAnswer 0 0 0 2)) :=
  M.get_step (by rw [hp]; exact M.bind_step hx rfl)
/-- The translation of a leaf that is handed out for a packet. -/
def leafXlate (id ctx va pa : Nat) (e : TlbEntry) : GuestXlate :=
  { id := id, ctx := ctx, va := va / 2 ^ e.size, size := e.size, pa := pa / 2 ^ e.size * 2 ^ e.size, r := e.r, w := e.w }
theorem answerXlate_leaf {w : XlateWait} {p : GuestPacket} {pa l : Nat} {e : TlbEntry} (hp : s.guestPacket w.q w.ticket = some p)
    (hx : translate (hubAsker w.va.toNat 2) (s.tenantCtx p.tenant p.ctx) w.va.toNat w.acc s = (.ok (.ok (false, pa)), s1))
    (hl : s1.tlbFind (hubAsker w.va.toNat 2) (s.tenantCtx p.tenant p.ctx) w.va.toNat = some (l, e)) :
    answerXlate w s = (.ok false, (State.setSocket { s1 with nextId := s1.nextId + 1 } fun y => { y with xlates := y.xlates ++ [leafXlate s1.nextId (s.tenantCtx p.tenant p.ctx) w.va.toNat pa e] }).emit
      (.guestAnswer (pa / 2 ^ e.size * 2 ^ e.size) e.size (b2n e.r + 2 * b2n e.w) 0)) := by
  have hl' : ({ s1 with nextId := s1.nextId + 1 } : State).tlbFind (hubAsker w.va.toNat 2) (s.tenantCtx p.tenant p.ctx) w.va.toNat = some (l, e) := hl
  refine M.get_step ?_
  rw [hp]
  refine M.bind_step hx <| M.bind_step (M.run_newId s1) <| M.get_step ?_
  dsimp only
  rw [hl']
  rfl

/-- An action whose hold is an answer: it waits. -/
def holdWaits (m : M Bool) : M Bool := fun s => match m s with
  | (.error .hold, s') => (.ok true, s')
  | r => r
theorem holdWaits_ok {m : M Bool} {b : Bool} (h : m s = (.ok b, s1)) : holdWaits m s = (.ok b, s1) := by
  unfold holdWaits
  rw [h]
theorem holdWaits_hold {m : M Bool} (h : m s = (.error .hold, s1)) : holdWaits m s = (.ok true, s1) := by
  unfold holdWaits
  rw [h]
section
variable {va : Word} {acc : Nat}

theorem translate_answered (hr : s.socket.ready = true) (hf : s.socket.fenced = false) (hp : (s.guestPacket q t).isSome = true)
    (h : holdWaits (asParty partyGuest (answerXlate ⟨q, t, va, acc⟩)) s = (.ok false, s1)) : exec (.translate q t va acc) s = .next s1 :=
  guestEvent_on hr hf <| M.get_step <| M.ite_step_neg (by simpa using Option.isSome_iff_ne_none.mp hp) <| M.bind_step h rfl
theorem translate_pending (hr : s.socket.ready = true) (hf : s.socket.fenced = false) (hp : (s.guestPacket q t).isSome = true)
    (h : holdWaits (asParty partyGuest (answerXlate ⟨q, t, va, acc⟩)) s = (.ok true, s1)) :
    exec (.translate q t va acc) s = .next ((s1.setSocket fun y => { y with pending := if y.pending.contains ⟨q, t, va, acc⟩ then y.pending else y.pending ++ [⟨q, t, va, acc⟩] }).emit (.guestAnswer 0 0 0 1)) :=
  guestEvent_on hr hf <| M.get_step <| M.ite_step_neg (by simpa using Option.isSome_iff_ne_none.mp hp) <| M.bind_step h rfl
end

/-! ### The coherent port (R375, R381) -/

/-- Whether the translations handed out cover a request. -/
def State.covers (s : State) (g : GuestAcc) (w : Bool) (p : GuestPacket) : Bool :=
  s.socket.xlates.any fun x => x.ctx == s.tenantCtx p.tenant p.ctx && x.pa ≤ g.pa && g.pa < x.pa + 2 ^ x.size && (if w then x.w else x.r)

section
variable {g : GuestAcc} {w : Bool} {r m : M Unit} {p : GuestPacket}

theorem portCheck_off (h : s.socket.ready = false ∨ s.socket.fenced = true) : portCheck g w r m s = (.ok (), s) :=
  M.get_step (M.ite_step_pos (by rcases h with h | h <;> simp [h]) rfl)
variable (hr : s.socket.ready = true) (hf : s.socket.fenced = false)
include hr hf

theorem portCheck_unknown (hp : s.guestPacket g.q g.ticket = none) : portCheck g w r m s = fenceGuest (s.emit (.guestGo true)) :=
  M.get_step <| M.ite_step_neg (by simp [hr, hf]) <| by rw [hp]; rfl
theorem portCheck_bad (hp : s.guestPacket g.q g.ticket = some p) (hb : s.gateBroken p.tenant = true ∨ s.covers g w p = false ∧ (w = true ∨ s.ringGuard g.pa 1 = false)) :
    portCheck g w r m s = fenceGuest (s.emit (.guestGo true)) := by
  refine M.get_step <| M.ite_step_neg (by simp [hr, hf]) ?_
  rw [hp]
  refine M.ite_step_pos ?_ rfl
  change (!(s.covers g w p || (!w && s.ringGuard g.pa 1)) || s.gateBroken p.tenant) = true
  rcases hb with hb | ⟨hc, hw | hw⟩
  · simp [hb]
  · subst hw
    simp [hc]
  · simp [hc, hw]
theorem portCheck_refused (hp : s.guestPacket g.q g.ticket = some p) (hg : s.gateBroken p.tenant = false) (hc : s.covers g w p = true)
    (hd : s.domainRange (g.pa / 64 * 64) 64 = true ∨ s.ctxGuard (g.pa / 64 * 64) 64 = true) : portCheck g w r m s = r s.countRefusal := by
  refine M.get_step <| M.ite_step_neg (by simp [hr, hf]) ?_
  rw [hp]
  refine M.ite_step_neg ?_ <| M.ite_step_pos (by rcases hd with hd | hd <;> simp [hd]) rfl
  change ¬ (!(s.covers g w p || (!w && s.ringGuard g.pa 1)) || s.gateBroken p.tenant) = true
  simp [hc, hg]
theorem portCheck_done (hp : s.guestPacket g.q g.ticket = some p) (hg : s.gateBroken p.tenant = false) (hc : s.covers g w p = true)
    (hd : s.domainRange (g.pa / 64 * 64) 64 = false) (hx : s.ctxGuard (g.pa / 64 * 64) 64 = false) (hm : m s = (.ok (), s1)) : portCheck g w r m s = (.ok (), s1.meterGuest p.tenant 64) := by
  refine M.get_step <| M.ite_step_neg (by simp [hr, hf]) ?_
  rw [hp]
  refine M.ite_step_neg ?_ <| M.ite_step_neg (by simp [hd, hx]) <| M.bind_step hm rfl
  change ¬ (!(s.covers g w p || (!w && s.ringGuard g.pa 1)) || s.gateBroken p.tenant) = true
  simp [hc, hg]
end

theorem orWait_of {r : PortReq} {m : M Unit} (h : ∀ e t, m s = (e, t) → e ≠ .error .hold) : orWait r m s = m s := by
  unfold orWait
  split
  · next t ht => exact absurd rfl (h _ t ht)
  · rfl
theorem orWait_hold {r : PortReq} {m : M Unit} (h : m s = (.error .hold, s1)) : orWait r m s = (.ok (), { s1 with portWait := s1.portWait ++ [r] }) := by
  unfold orWait
  rw [h]

theorem State.mergeSector_sectors (s : State) (n : Nat) (b : Bytes) : (s.mergeSector n b).sectors = s.sectors := by
  unfold State.mergeSector State.putAt
  split
  · split <;> rfl
  · rfl
/-- An eviction that is admitted: the guest die's data go to the line, and it holds the sector no more. -/
def State.evictDirty (s : State) (n : Nat) (b : Bytes) : State :=
  let x := s.sector n
  let s : State := s.emit .guestPull
  let s : State := if x.guest = .m then s.mergeSector n b else s
  s.setSector n { x with guest := .i }
theorem State.evictDirty_guest (hs : tsorted 0 s.sectors = true) (n : Nat) (b : Bytes) : ((s.evictDirty n b).sector n).guest = .i := by
  refine congrArg Sector.guest (dget_dset_same ?_ ..)
  split
  · rwa [State.mergeSector_sectors]
  · exact hs

/-! ### Acknowledgements -/

theorem M.snd_forM'_single {α : Type} (a : α) (f : α → M Unit) (s : State) : (forM' [a] f s).2 = (f a s).2 := M.snd_bind_pure (f a) () s

theorem State.endShootdown_keeps (s : State) (id : Nat) : (s.endShootdown id).socket = s.socket ∧ (s.endShootdown id).mem = s.mem := by
  have h : ((s.endShootdown id).socket, (s.endShootdown id).mem) = (s.socket, s.mem) := by
    refine Eq.trans (State.foldl_same (part := fun t => (t.socket, t.mem)) (fun t k => ?_) _ _) rfl
    rfl
  exact ⟨congrArg Prod.fst h, congrArg Prod.snd h⟩
/-- A Shootdown acknowledged: it and the translations that it covers are gone. -/
def State.shotDown (s : State) (id : Nat) (d : Shootdown) : State :=
  s.setSocket fun y => { y with shootdowns := y.shootdowns.filter (·.id != id),
                                xlates := y.xlates.filter fun x => !(x.id < id && (d.kind == 2 || (x.ctx == d.ctx && (d.kind == 1 || d.va / 2 ^ x.size == x.va)))) }
theorem shootdownAck_known {id : Nat} {d : Shootdown} (hr : s.socket.ready = true) (hf : s.socket.fenced = false) (h : s.socket.shootdowns.find? (·.id == id) = some d) :
    exec (.shootdownAck id) s = .next ((s.shotDown id d).endShootdown id) :=
  guestEvent_on (r := .ok ()) hr hf ((M.run_modify _ s).trans (by dsimp only; rw [h]; rfl))
/-- A deadline of the guest die: when it has passed, it is fenced off. -/
theorem fenceIf_step (c : Prop) [Decidable c] (s : State) :
    (if c then fenceGuest else pure () : M Unit) s = (((if c then fenceGuest else pure () : M Unit) s).1, if c then (fenceGuest s).2 else s) := by
  split <;> rfl
/-- A hello that is taken: the queues begin anew, and the ready bit is raised. -/
def State.helloed (s : State) (h : Hello) : State :=
  let q (e : Nat × Nat × Nat) : Nat × GuestQueue := (e.1, { base := e.2.1, size := e.2.2, posted := 0, nextTicket := 1, packets := [], late := [] })
  let narrow := h.lanes < 64
  let s : State := s.setSocket fun x => { x with ready := true, queues := x.config.map q, lanes := if narrow then 32 else 64, narrowed := x.narrowed + b2n narrow }
  let s : State := if narrow then s.askReplace (64 + 31) else s
  { s with trust := { s.trust with ready := setBits s.trust.ready 31 1 1 } }
theorem hello_taken {h : Hello} (hf : s.socket.fenced = false) (hr : s.socket.ready = false) (hb : bitAt s.trust.ready 39 = false) (hl : bitAt s.trust.ready 25 = true) (hv : h.version = 1)
    (hd : h.digest = s.socket.expected) : exec (.hello h) s = .next (s.helloed h) :=
  runEvent_of (r := .ok ()) ((M.run_modify _ s).trans (congrArg _ (if_neg (by simp [hf, hr, hb, hl, hv, hd]))))
theorem hello_other {h : Hello} (hv : h.version ≠ 1 ∨ h.digest ≠ s.socket.expected) : exec (.hello h) s = .next s :=
  runEvent_of (r := .ok ()) ((M.run_modify _ s).trans (congrArg _ (if_pos (by rcases hv with hv | hv <;> simp [hv]))))
theorem State.askReplace_socket (s : State) (n : Nat) : (s.askReplace n).socket = s.socket ∧ (s.askReplace n).mem = s.mem := by
  obtain ⟨l, hl, -⟩ := s.askReplace_eq n
  rw [hl]
  exact ⟨rfl, rfl⟩
theorem State.helloed_keeps (s : State) (h : Hello) : (s.helloed h).socket.ready = true ∧ bitAt (s.helloed h).trust.ready 31 = true ∧ (s.helloed h).mem = s.mem := by
  refine ⟨?_, bitAt_setBits_same _ 31 1, ?_⟩
  · unfold State.helloed
    dsimp only
    split
    · exact congrArg Socket.ready (State.askReplace_socket _ _).1
    · rfl
  · unfold State.helloed
    dsimp only
    split
    · exact (State.askReplace_socket _ _).2
    · rfl
/-- The packets of a team that the guest die has neither completed nor saved. -/
def State.openPackets (s : State) (team : Nat) : List (Nat × Nat × Nat) :=
  (s.team team).guest.filter fun g => (s.guestPacket g.2.1 g.2.2).elim false fun p => p.held.isNone && !p.saved
/-- What an acknowledgement of a pre-emption does to a packet. -/
def ackPacket (ended : Bool) (p : GuestPacket) : GuestPacket := if ended then { p with held := some (4, 0, 0) } else { p with saved := true }
/-- The acknowledgement of the pre-emption of a team, by the state at which it comes. -/
def ackBody (s : State) (i : Nat) (c : Bool) (l : GuestTickets) : M Unit := do
  if (s.openPackets i).any fun g => !l.contains (g.2.1, g.2.2) then fenceGuest
  else
    forM' (s.openPackets i) fun g => modify fun u => u.modPacket g.2.1 g.2.2 (ackPacket (c || decide (3 ≤ (s.team i).status)))
    if (s.team i).preempt.isSome then modTm i fun t => { t with preempt := t.preempt.map fun p => { p with guestAck := true } }
    else modify fun s => s.repost i
    forM' (((s.openPackets i).map (·.2.1)).eraseDups) flush
section
variable {id i t : Nat} {c : Bool} {l : GuestTickets}

theorem execPreemptAck_known (hr : s.socket.ready = true) (hf : s.socket.fenced = false) (h : s.socket.preempts.find? (·.1 == id) = some (id, i, t, c)) :
    exec (.preemptAck id l) s = .next (ackBody s i c l (s.setSocket fun y => { y with preempts := y.preempts.filter (·.1 != id) })).2 :=
  guestEvent_on hr hf (M.get_step (by rw [h]; exact M.bind_step (M.run_modify ..) (snd_of _ _)))
theorem ackBody_none (hg : (s.team i).guest = []) (hp : (s.team i).preempt.isSome = true) (u : State) :
    (ackBody s i c l u).2 = u.modTeam i fun t => { t with preempt := t.preempt.map fun p => { p with guestAck := true } } := by
  have ho : s.openPackets i = [] := by rw [State.openPackets, hg]; rfl
  unfold ackBody
  rw [ho]
  exact congrArg Prod.snd <| M.ite_step_neg (out := (.ok (), _)) (by simp) <| M.bind_step (M.forM'_nil ..) <| M.ite_step_pos hp <| M.bind_step (M.run_modTm ..) rfl
variable {n q k : Nat} {p : GuestPacket} (hg : (s.team i).guest = [(n, q, k)]) (hk : s.guestPacket q k = some p) (hh : p.held = none) (hs : p.saved = false)
include hg hk hh hs
theorem openPackets_one : s.openPackets i = [(n, q, k)] := by
  rw [State.openPackets, hg]
  simp [hk, hh, hs]
theorem ackBody_fence (hl : l.contains (q, k) = false) (u : State) : ackBody s i c l u = fenceGuest u := by
  unfold ackBody
  rw [openPackets_one hg hk hh hs]
  exact M.ite_step_pos (by simpa using hl) rfl
theorem ackBody_packet (hl : l.contains (q, k) = true) {u u1 : State}
    (hu : (if (s.team i).preempt.isSome then modTm i fun t => { t with preempt := t.preempt.map fun p => { p with guestAck := true } } else modify fun s => s.repost i : M Unit)
      (u.modPacket q k (ackPacket (c || decide (3 ≤ (s.team i).status)))) = (.ok (), u1)) : (ackBody s i c l u).2 = (flush q u1).2 := by
  unfold ackBody
  rw [openPackets_one hg hk hh hs]
  have hd : ([(n, q, k)].map (·.2.1)).eraseDups = [q] := by simp [List.eraseDups_cons]
  rw [hd]
  refine Eq.trans (congrArg Prod.snd (M.ite_step_neg (by simpa using hl) (M.bind_step (a := ()) (s1 := u.modPacket q k (ackPacket (c || decide (3 ≤ (s.team i).status)))) rfl ?_))) (M.snd_forM'_single q flush u1)
  split at hu
  · next hp => exact M.ite_step_pos hp (M.bind_step hu rfl)
  · next hp => exact M.ite_step_neg hp (M.bind_step hu rfl)
end

end Sys2Proof.Machine

open Sys2Proof Sys2Proof.Machine

/-- Settles O55. -/
theorem guestEvents : Obligations.GuestEvents := by
  unfold Obligations.GuestEvents
  refine ⟨fun s m hr hf => guestOn_of_on hr hf m, fun s m h => guestOn_of_off h m, fun s i q t r c rs va acc a f sid saved pid ten b h hi => ?_, fun s q t r c rs x hr hf hq hl hp => ?_,
    fun s q t r x p hr hf hq hl hp hs hh hfa => ?_, fun s s1 q x p c n r hq hx hp hw hn => ?_, fun s s1 q x p c n r hq hx hp hw => ?_, fun s q x p hq hx hp => ?_,
    fun s q t a acc f hr hf hp => ⟨fun ho => ?_, ?_⟩, fun s q t a acc p hp => ?_, fun s q t hp => ⟨fun ho => ?_, ?_⟩, fun s q t hr hf h => ?_, fun s u q t a acc p hr hf hp hfa hu => ?_,
    fun s s' q t a acc n p r hp hx => ?_, fun s q t p x hr hf hp hq hd => ?_, fun s s' q t va acc w r hr hf hp hw hx => ⟨fun h => ?_, fun h => ?_⟩,
    fun s s' w p x hp hx => ⟨fun h => ?_, fun h => ?_, fun pa e l h hl => ?_⟩, fun s id hr hf h => ?_, fun s id d hr hf h => ?_, fun s id l hr hf h => ⟨?_, ?_⟩, fun s id i t c l hr hf h hg hp => ?_,
    fun s u id i t c l n q k p hr hf h hg hk hh hs hu => ⟨fun hl => ?_, fun hl hp => ?_, fun hl hp => ?_⟩, fun s id a t c hr hf h => ?_, fun s t hr hf => ?_, fun s s' h hr hf => ?_,
    fun s h hf hr hb hl hv hd => ?_, fun s h hv => ?_, fun s hr hf => ?_, fun s pa hr hf => ?_, fun s n b hr hf hn => ⟨?_, ?_⟩, fun s n b hr hf hn hg => ?_, fun s n t hr hf hn => ?_,
    fun s g b => ⟨rfl, rfl, rfl, rfl, rfl, rfl, rfl, rfl, rfl⟩, fun s r m h => orWait_of h, fun s s' r m h => orWait_hold h, fun s g w r m h => portCheck_off h, fun s g w r m hr hf h => ?_,
    fun s s' g w r m p hr hf hp hg hc => ⟨fun hd => ?_, fun hd hx hm => ?_⟩, fun s g p hs hr hf hp hc hg hd hx => ?_, fun s g b h => ?_, fun s g b p hs hr hf hp hc hg hd hx hm hb => ?_⟩
  · simp only [List.mem_cons, List.not_mem_nil, or_false] at hi
    rcases hi with rfl | rfl | rfl | rfl | rfl | rfl | rfl | rfl | rfl | rfl | rfl | rfl | rfl <;> exact guestEvent_off h _
  · exact guestEvent_on hr hf <| M.get_step (by rw [hq]; exact M.ite_step_neg (by simp only [hl, Bool.false_eq_true, not_false_eq_true]) (by rw [hp]; exact snd_of _ _))
  · exact guestEvent_on hr hf <| M.get_step (by
      rw [hq]
      refine M.ite_step_neg (by simp only [hl, Bool.false_eq_true, not_false_eq_true]) ?_
      rw [hp]
      refine M.ite_step_neg (by simp [hs, hh]) ?_
      rw [hfa]
      exact M.bind_step (M.run_modify ..) (snd_of _ _))
  · have hhead : (tget (s.inName partyGuest).socket.queues q).bind (·.packets.head?) = some p := by
      change (tget s.socket.queues q).bind _ = _
      rw [hq]
      exact congrArg List.head? hx
    exact flush_of_ok fun m => (flushQueue_held hhead hp).trans (M.bind_step hw (M.bind_step (M.run_modify ..) (flushQueue_none hn m)))
  · have hhead : (tget (s.inName partyGuest).socket.queues q).bind (·.packets.head?) = some p := by
      change (tget s.socket.queues q).bind _ = _
      rw [hq]
      exact hx
    exact flush_of_hold fun m => (flushQueue_held hhead hp).trans (M.bind_error hw)
  · have hhead : (tget (s.inName partyGuest).socket.queues q).bind (·.packets.head?) = some p := by
      change (tget s.socket.queues q).bind _ = _
      rw [hq]
      exact hx
    exact flush_of_ok fun m => flushQueue_notHeld hhead hp
  · exact guestEvent_on hr hf <| M.get_step (by rw [hp]; exact M.ite_step_neg (by rw [ho]; exact Bool.false_ne_true) rfl)
  · exact guestEvent_on hr hf <| M.get_step (M.ite_step_pos (by rw [hp]; rfl) rfl)
  · exact guestEvent_idle (r := .ok ()) <| M.get_step (by rw [hp]; exact M.ite_step_pos rfl rfl)
  · exact guestEvent_idle (r := .ok ()) <| M.get_step (M.ite_step_neg (by rw [hp, ho]; exact Bool.false_ne_true) rfl)
  · exact guestEvent_idle (r := .ok ()) <| M.get_step (by rw [hp]; rfl)
  · refine guestEvent_on hr hf <| M.get_step (M.ite_step_pos ?_ (snd_of _ _))
    rcases h with ⟨p, hp, hl⟩ | hl
    · rw [hp, Option.elim_some, hl, Bool.true_or]
    · rw [hl, Bool.or_true]
  · subst hu
    exact guestEvent_on hr hf <| M.get_step (by rw [hp]; exact M.ite_step_neg (by rw [hfa]; decide) (M.bind_step (M.run_modify ..) (snd_of _ _)))
  · exact M.get_step (by rw [hp]; exact M.bind_step hx rfl)
  · exact guestEvent_on hr hf <| M.get_step (by rw [hp, hq]; exact M.ite_step_pos hd (M.bind_step (M.run_modify ..) (M.bind_step (M.run_modify ..) (snd_of _ _))))
  · subst hw h
    exact translate_answered hr hf hp (holdWaits_ok hx)
  · subst hw
    rcases h with rfl | rfl
    · exact translate_pending hr hf hp (holdWaits_ok hx)
    · exact translate_pending hr hf hp (holdWaits_hold hx)
  · obtain ⟨c, r, a, rfl⟩ := h
    exact answerXlate_wait hp hx
  · obtain ⟨pa, rfl⟩ := h
    exact answerXlate_fail hp hx
  · subst h
    refine ⟨_, answerXlate_leaf hp hx hl, rfl, ?_⟩
    change List.map _ (List.drop _ (s'.socket.xlates ++ [_])) = _
    rw [List.drop_left]
    rfl
  · exact guestEvent_on (r := .ok ()) hr hf ((M.run_modify _ s).trans (by dsimp only; rw [h]))
  · obtain ⟨hsock, hmem⟩ := (s.shotDown id d).endShootdown_keeps id
    refine ⟨_, shootdownAck_known hr hf h, by rw [hsock]; rfl, fun hk => ?_, fun x hx hid => ?_, hmem⟩ <;> rw [hsock]
    · simp [State.shotDown, State.setSocket, hk]
    · exact List.mem_filter.mpr ⟨hx, by simp [Nat.not_lt.mpr hid]⟩
  · exact guestEvent_on hr hf <| M.get_step (by rw [h]; rfl)
  · exact guestEvent_on hr hf <| M.get_step (by rw [h]; rfl)
  · rw [execPreemptAck_known hr hf h, ackBody_none hg hp]
  · subst hu
    rw [execPreemptAck_known hr hf h, ackBody_fence hg hk hh hs hl]
  · subst hu
    rw [execPreemptAck_known hr hf h, ackBody_packet hg hk hh hs hl (M.ite_step_pos hp (M.run_modTm ..))]
    rfl
  · subst hu
    rw [execPreemptAck_known hr hf h, ackBody_packet hg hk hh hs hl (M.ite_step_neg (by rw [hp]; decide) (M.run_modify ..))]
    rfl
  · exact guestEvent_on hr hf <| M.get_step (by rw [h]; exact fenceIf_step _ s)
  · exact guestEvent_on hr hf <| M.get_step (fenceIf_step _ s)
  · have hfence := fenceGuest_fence hr hf
    rw [h] at hfence
    simp only [State.fence, Prod.mk.injEq] at hfence
    obtain ⟨hfenced, hready, hx, hn⟩ := hfence
    exact ⟨hfenced, hready, hx, hn⟩
  · exact ⟨_, hello_taken hf hr hb hl hv hd, s.helloed_keeps h⟩
  · exact hello_other hv
  · exact guestEvent_on (r := .ok ()) hr hf rfl
  · exact guestEvent_on (r := .ok ()) hr hf rfl
  · exact guestEvent_on (r := .ok ()) hr hf ((M.run_modify _ s).trans (congrArg _ (if_neg (by rw [hn]; decide))))
  · exact guestEvent_on hr hf <| M.get_step (by rw [hn]; rfl)
  · exact guestEvent_on (r := .ok ()) hr hf ((M.run_modify _ s).trans (congrArg _ ((if_pos hn).trans (by dsimp only; rw [hg]; rfl))))
  · exact guestEvent_on hr hf <| M.get_step (by rw [hn]; exact fenceIf_step _ s)
  · rcases h with hp | ⟨p, hp, hb⟩
    · exact portCheck_unknown hr hf hp
    · exact portCheck_bad hr hf hp hb
  · exact portCheck_refused hr hf hp hg hc hd
  · exact portCheck_done hr hf hp hg hc hd hx hm
  · have he := portCheck_done (w := false) (r := pure ()) hr hf hp hg hc hd hx (M.run_modify (fun u => u.setSector (GuestAccSector g) { u.sector (GuestAccSector g) with guest := .i }) s)
    exact ⟨_, runEvent_of he, runEvent_of he, congrArg Sector.guest (dget_dset_same hs ..), rfl⟩
  · exact runEvent_of (portCheck_off h)
  · exact ⟨_, runEvent_of (portCheck_done (w := true) (r := pure ()) hr hf hp hg hc hd hx (M.run_modify (fun u => u.evictDirty (GuestAccSector g) b) s)), s.evictDirty_guest hs _ b⟩

end

section
/-! PROOFS. Links: flits, replays, censuses and identifications. -/
namespace Sys2Proof.Machine

variable {s s1 : State} {l : Nat}

/-! ### The links of a state -/

@[simp] theorem State.link_modLink_same (s : State) (l : Nat) (f : Link → Link) : (s.modLink l f).link l = f (s.link l) := by
  change (tget (tset _ l _) l).getD _ = _
  rw [tget_tset_same]
  rfl
theorem State.link_modLink_other (s : State) {l l' : Nat} (f : Link → Link) (h : l' ≠ l) : (s.modLink l f).link l' = s.link l' := by
  change (tget (tset _ l _) l').getD _ = _
  rw [tget_tset_other _ _ h]
  rfl
theorem State.modLink_modLink (s : State) (l : Nat) (f f' : Link → Link) : (s.modLink l f).modLink l f' = s.modLink l fun x => f' (f x) := by
  have h : tset (tset s.fabric.links l (f (s.link l))) l (f' ((s.modLink l f).link l)) = tset s.fabric.links l (f' (f (s.link l))) := by rw [tset_tset, State.link_modLink_same]
  change ({ s with fabric := { s.fabric with links := tset (tset s.fabric.links l (f (s.link l))) l (f' ((s.modLink l f).link l)) } } : State) = _
  rw [h]
  rfl
/-- What a change of a link leaves of every link as it was, the change of one link leaves so. -/
theorem State.link_modLink_part {β : Type} (part : Link → β) {f : Link → Link} (hf : ∀ x, part (f x) = part x) (s : State) (l l' : Nat) : part ((s.modLink l f).link l') = part (s.link l') := by
  by_cases h : l' = l
  · rw [h, State.link_modLink_same, hf]
  · rw [State.link_modLink_other s f h]
@[simp] theorem State.link_emit (s : State) (m : OutMsg) (l : Nat) : (s.emit m).link l = s.link l := rfl
/-- A state that differs from another one in its links, the packets in transit, the requests that have reached their homes, the free values drawn and what it sends. -/
def OnLinks (s t : State) : Prop := ∃ ls tr rq n o, t = { s with fabric := { s.fabric with links := ls, transit := tr, reqs := rq }, free := n, out := o }
theorem OnLinks.refl (s : State) : OnLinks s s := ⟨_, _, _, _, _, rfl⟩
theorem OnLinks.trans {s t u : State} (h : OnLinks s t) (h' : OnLinks t u) : OnLinks s u := by
  obtain ⟨_, _, _, _, _, rfl⟩ := h
  obtain ⟨_, _, _, _, _, rfl⟩ := h'
  exact ⟨_, _, _, _, _, rfl⟩
theorem OnLinks.foldl {β : Type} {f : State → β → State} (h : ∀ s b, OnLinks s (f s b)) (l : List β) (s : State) : OnLinks s (l.foldl f s) :=
  List.foldlRecOn (motive := fun t : State => OnLinks s t) l f (.refl s) fun t ht b _ => ht.trans (h t b)
theorem State.modLink_onLinks (s : State) (l : Nat) (f : Link → Link) : OnLinks s (s.modLink l f) := ⟨_, _, _, _, _, rfl⟩
theorem State.emit_onLinks (s : State) (m : OutMsg) : OnLinks s (s.emit m) := ⟨_, _, _, _, _, rfl⟩
theorem State.freeTransit_onLinks (s : State) (ps : List Packet) : OnLinks s (s.freeTransit ps) :=
  OnLinks.foldl (fun t p => by
    split
    · exact .refl t
    · exact OnLinks.trans (t := { t with fabric := { t.fabric with transit := t.fabric.transit.erase _ } }) ⟨_, _, _, _, _, rfl⟩ (State.modLink_onLinks _ _ _)) ps s
theorem State.leaveDevice_onLinks (s : State) (ps : List Packet) : OnLinks s (s.leaveDevice ps) :=
  OnLinks.foldl (fun _ _ => ⟨_, _, _, _, _, rfl⟩) _ s

/-! ### Flits sent (R347, R348, R352, R357) -/

/-- A link with one more flit sent on it. -/
def Link.numbered (x : Link) (f : Flit) (sent : Tbl Nat) : Link := { x.tell x.returns with txSeq := (x.txSeq + 1) % 4096, replay := x.replay ++ [f], sent := sent }
/-- The flit that a link sends next. -/
def Link.nextFlit (x : Link) (kind : Nat) (ps : List Packet) (info : List Nat) : Flit :=
  flitSigned { crc := 0, kind := kind, seq := x.txSeq, ack := x.lastGood, ret := x.returns, packets := ps, info := info }
theorem State.sendFlit_bare (s : State) (l kind : Nat) (info : List Nat) :
    s.sendFlit l kind [] info = (s.modLink l fun x => x.numbered ((s.link l).nextFlit kind [] info) (s.link l).sent).emit (.flit l ((s.link l).nextFlit kind [] info)) := rfl
theorem State.sendFlit_onLinks (s : State) (l kind : Nat) (ps : List Packet) (info : List Nat) : OnLinks s (s.sendFlit l kind ps info) :=
  (State.modLink_onLinks _ _ _).trans <| (State.freeTransit_onLinks _ ps).trans <| (State.leaveDevice_onLinks _ ps).trans (State.emit_onLinks _ _)
theorem State.special_onLinks (s : State) (l kind : Nat) : OnLinks s (s.special l kind) := by
  unfold State.special
  dsimp only
  split
  · exact (s.sendFlit_onLinks ..).trans <| (State.modLink_onLinks _ _ _).trans (State.emit_onLinks _ _)
  · split <;> exact (s.sendFlit_onLinks ..).trans (State.emit_onLinks _ _)
theorem State.oweFlit_onLinks (s : State) (l kind : Nat) : OnLinks s (s.oweFlit l kind) := by
  unfold State.oweFlit
  split
  · exact s.special_onLinks l kind
  · exact s.modLink_onLinks l _
/-- What of a link no flit that is sent on it changes. -/
def Link.received (x : Link) : Nat × Nat × Bool × Nat × List Nat := (x.nDamage, x.rxSeq, x.skipping, x.lastGood, x.owed)
theorem State.sendFlit_received (s : State) (l kind : Nat) (info : List Nat) : ((s.sendFlit l kind [] info).link l).received = (s.link l).received := by
  rw [State.sendFlit_bare, State.link_emit, State.link_modLink_same]
  rfl
theorem State.special_census (s : State) (l : Nat) : s.special l 2
    = ((s.sendFlit l 2 [] (s.link l).counts).modLink l fun y => { y with flitsSinceCensus := 0, censusAt := s.now, told := (s.link l).given }).emit (.census l (s.link l).counts) := rfl
theorem State.special_replay (s : State) (l : Nat) : s.special l 3 = (s.sendFlit l 3 [] [(s.link l).rxSeq]).emit (.replayRequest l (s.link l).rxSeq) := rfl
theorem State.oweFlit_sent (h : s.maySend l = true) (kind : Nat) : s.oweFlit l kind = s.special l kind := if_pos h
theorem State.oweFlit_owed (h : s.maySend l = false) (kind : Nat) :
    s.oweFlit l kind = s.modLink l fun x => if x.owed.contains kind then x else { x with owed := x.owed ++ [kind] } := if_neg (by rw [h]; exact Bool.false_ne_true)
theorem State.oweFlit_mem_owed (h : s.maySend l = false) (kind : Nat) : kind ∈ ((s.oweFlit l kind).link l).owed ∧ (s.oweFlit l kind).out = s.out := by
  rw [State.oweFlit_owed h]
  refine ⟨?_, rfl⟩
  rw [State.link_modLink_same]
  split
  · next hc => exact List.contains_iff_mem.mp hc
  · exact List.mem_append_right _ (List.mem_singleton.mpr rfl)
/-- A change of what a link counts or awaits leaves whether it may send. -/
theorem State.maySend_modLink {f : Link → Link} (hf : ∀ x, (f x).up = x.up ∧ (f x).wrong = x.wrong ∧ (f x).replay = x.replay ∧ (f x).resendFrom = x.resendFrom) (s : State) (l : Nat) :
    (s.modLink l f).maySend l = s.maySend l := by
  obtain ⟨hu, hw, hr, hn⟩ := hf (s.link l)
  simp only [State.maySend, State.carries, State.link_modLink_same, hu, hw, hr, hn]
  rfl

/-! ### Flits received (R348, R349) -/

/-- A link that has received a flit that it cannot take. -/
def Link.damaged (x : Link) : Link := { x with nDamage := x.nDamage + 1, skipping := true }
theorem State.flitIn_bad {f : Flit} (hu : (s.link l).up = true) (hb : flitOk f = false ∨ 5 ≤ f.kind ∨ f.seq ≠ (s.link l).rxSeq) :
    s.flitIn l f = if (s.link l).skipping && f.seq ≠ (s.link l).rxSeq then s.modLink l Link.damaged else (s.modLink l Link.damaged).oweFlit l 3 := by
  unfold State.flitIn
  dsimp only
  rw [hu]
  refine (if_neg Bool.false_ne_true).trans ((if_pos ?_).trans rfl)
  rcases hb with hb | hb | hb <;> simp [hb]
theorem State.special_replay_received (s : State) (l : Nat) : ((s.special l 3).link l).received = (s.link l).received := by
  rw [State.special_replay, State.link_emit, State.sendFlit_received]
/-- A special flit that is owed, or sent when it is a replay request, leaves what a link has received. -/
theorem State.oweFlit_replay_received (s : State) (l : Nat) : ((s.oweFlit l 3).link l).nDamage = (s.link l).nDamage ∧ ((s.oweFlit l 3).link l).skipping = (s.link l).skipping
    ∧ ((s.oweFlit l 3).link l).rxSeq = (s.link l).rxSeq := by
  cases h : s.maySend l with
  | true =>
    rw [State.oweFlit_sent h]
    have hr := s.special_replay_received l
    simp only [Link.received, Prod.mk.injEq] at hr
    obtain ⟨hd, hx, hs, -⟩ := hr
    exact ⟨hd, hs, hx⟩
  | false =>
    rw [State.oweFlit_owed h, State.link_modLink_same]
    split <;> exact ⟨rfl, rfl, rfl⟩

/-! ### What the packet area of a flit asks (R348, R352, R357) -/

/-- What of a link no request of its far end changes. -/
def Link.inOrder (x : Link) : Nat × Nat × Bool × List Flit := (x.rxSeq, x.lastGood, x.skipping, x.replay)
/-- A state with another number of wrong circuits, and with links that differ in nothing that is received in order. -/
def SameOrder (s t : State) : Prop := t.mem = s.mem ∧ t.agenda = s.agenda ∧ ∀ l, (t.link l).inOrder = (s.link l).inOrder
theorem sameOrder_modLink {f : Link → Link} (hf : ∀ x, (f x).inOrder = x.inOrder) (s : State) (l : Nat) : SameOrder s (s.modLink l f) :=
  ⟨rfl, rfl, fun l' => State.link_modLink_part Link.inOrder hf s l l'⟩
theorem State.replayFrom_sameOrder (s : State) (l n : Nat) : SameOrder s (s.replayFrom l n) := sameOrder_modLink (by intro _; rfl) s l
/-- The count of a lane that a census gives: modulo 2^32 the value nearest to the one held. -/
def Link.nearest (x : Link) (c : Counts) (n : Nat) : Nat := (((dget 0 x.freed n : Nat) : Int) + toS 32 (c.getD n 0 + 2 ^ 32 - low 32 (dget 0 x.freed n))).toNat
/-- A link with other counts of slots freed at its far end. -/
def Link.withFreed (x : Link) (freed : Tbl Nat) (n : Nat) : Link := { x with freed := freed, nResync := x.nResync + n }
theorem Link.withFreed_inOrder (x : Link) (freed : Tbl Nat) (n : Nat) : (x.withFreed freed n).inOrder = x.inOrder := rfl
/-- A link whose counts a census has brought into step with those of another one. -/
def Link.counted (x : Link) (c : Counts) (y : Link) : Link :=
  y.withFreed ((List.range 8).foldl (fun t n => dset 0 t n (x.nearest c n)) x.freed) ((List.range 8).filter fun n => x.nearest c n != dget 0 x.freed n).length
theorem State.countsIn_up (hu : (s.link l).up = true) (c : Counts) : s.countsIn l c = s.modLink l ((s.link l).counted c) := by
  unfold State.countsIn
  dsimp only
  rw [hu]
  rfl
theorem State.countsIn_down (hu : (s.link l).up = false) (c : Counts) : s.countsIn l c = s := by
  unfold State.countsIn
  dsimp only
  rw [hu]
  rfl
theorem Link.counted_inOrder (x : Link) (c : Counts) (y : Link) : (x.counted c y).inOrder = y.inOrder := y.withFreed_inOrder _ _
theorem State.countsIn_sameOrder (s : State) (l : Nat) (c : Counts) : SameOrder s (s.countsIn l c) := by
  cases hu : (s.link l).up with
  | true =>
    rw [State.countsIn_up hu]
    exact sameOrder_modLink ((s.link l).counted_inOrder c) s l
  | false =>
    rw [State.countsIn_down hu]
    exact ⟨rfl, rfl, fun _ => rfl⟩
theorem State.wrongCircuit_sameOrder (s : State) (l : Nat) : SameOrder s (s.wrongCircuit l) := sameOrder_modLink (f := fun x => { x with wrong := true, identFails := x.identFails + 1 }) (fun _ => rfl) s l
theorem State.identified_sameOrder (s : State) (l d n : Nat) : SameOrder s (s.identified l d n) := by
  unfold State.identified
  split
  · split
    · exact ⟨rfl, rfl, fun _ => rfl⟩
    · split
      · exact sameOrder_modLink (by intro _; rfl) s l
      · exact s.wrongCircuit_sameOrder l
  · exact ⟨rfl, rfl, fun _ => rfl⟩
theorem State.asked_sameOrder (s : State) (l : Nat) (f : Flit) : SameOrder s (s.asked l f) := by
  unfold State.asked
  split
  · exact s.countsIn_sameOrder l _
  · exact s.replayFrom_sameOrder l _
  · exact s.identified_sameOrder l _ _
  · exact ⟨rfl, rfl, fun _ => rfl⟩
/-- A link that has received the flit that it awaits. -/
def Link.took (x : Link) (f : Flit) (now : Nat) (freed given : Tbl Nat) : Link :=
  { x with rxSeq := (x.rxSeq + 1) % 4096, lastGood := f.seq, lastGoodAt := now, skipping := false, replay := ackedReplay f.ack x.replay, freed := freed, given := given }
theorem State.flitIn_good {f : Flit} (hu : (s.link l).up = true) (ho : flitOk f = true) (hk : f.kind < 5) (hq : f.seq = (s.link l).rxSeq) :
    ∃ freed given tr, s.flitIn l f = f.packets.foldl State.arrived
      (State.asked { s.modLink l (·.took f s.now freed given) with fabric := { (s.modLink l (·.took f s.now freed given)).fabric with transit := tr } } l f) := by
  refine ⟨_, _, _, (if_neg (by rw [hu]; decide)).trans ((if_neg ?_).trans rfl)⟩
  simp [ho, hq, hk]

/-! ### Packets that have crossed a link -/

section
variable {p : Packet} (hk : p.kind < 12) (hb : p.bytes ≤ 128)
theorem State.arrived_discarded (h : 12 ≤ p.kind ∨ 128 < p.bytes) : s.arrived p = { s with fabric := { s.fabric with discarded := s.fabric.discarded + 1 } } :=
  if_pos (by rcases h with h | h <;> simp [h])
include hk hb
theorem State.arrived_lost (h : s.fabric.lost.contains p.src = true ∨ s.fabric.lost.contains p.dst = true) : s.arrived p = { s with fabric := { s.fabric with drops := s.fabric.drops + 1 } } :=
  (if_neg (by simp [Nat.not_le.mpr hk, Nat.not_lt.mpr hb])).trans (if_pos (Bool.or_eq_true _ _ ▸ h))
theorem State.arrived_here (hd : p.dst = s.devno) (hs : p.sealed = none) (hsrc : s.fabric.lost.contains p.src = false) (hdst : s.fabric.lost.contains p.dst = false) :
    s.arrived p = { s with agenda := s.agenda ++ [packetEvent p] } := by
  have hc : s.sealCheck p = (true, s) := by rw [State.sealCheck, hs]
  refine (if_neg (by simp [Nat.not_le.mpr hk, Nat.not_lt.mpr hb])).trans <| (if_neg (by rw [hsrc, hdst]; decide)).trans <| (if_neg (not_not_intro hd)).trans ?_
  dsimp only
  rw [hc]
  rfl
end

/-! ### Replays (R348) -/

theorem State.replayFrom_link (s : State) (l n : Nat) : (s.replayFrom l n).link l = { s.link l with
    nReplay := (s.link l).nReplay + 1, replays := s.now :: (s.link l).replays.filter fun t => s.now ≤ t + usTicks,
    resendFrom := if (s.link l).replay.any (·.seq == n) then some n else (s.link l).resendFrom } := State.link_modLink_same ..
/-- A flit of the replay buffer as it is sent again. -/
def Link.refilled (x : Link) (f : Flit) : Flit := flitSigned { f with ack := x.lastGood, ret := x.returns, info := if f.kind = 2 then x.counts else f.info }
theorem State.linkTick_again {n : Nat} {f : Flit} {r : List Flit} (hc : s.carries l = true) (hr : (s.link l).resendFrom = some n) (ha : (s.link l).again n = f :: r) :
    s.linkTick l = (s.modLink l fun x => ({ x with resendFrom := r.head?.map (·.seq) } : Link).tell x.returns).emit (.flit l ((s.link l).refilled f)) := by
  have ht : s.linkTick l = (s.modLink l fun x => { x with resendFrom := r.head?.map (·.seq) }).resendFlit l f := by
    refine (if_neg (by rw [hc]; decide)).trans ?_
    dsimp only
    rw [hr]
    dsimp only
    rw [ha]
  rw [ht, State.resendFlit, State.link_modLink_same, State.modLink_modLink]
  rfl
theorem State.linkTick_still (hc : s.carries l = false) : s.linkTick l = s := if_pos (by rw [hc]; rfl)

/-! ### The census (R352) -/

theorem State.special_census_link (s : State) (l : Nat) :
    ((s.special l 2).link l).flitsSinceCensus = 0 ∧ ((s.special l 2).link l).censusAt = s.now ∧ ((s.special l 2).link l).told = (s.link l).given := by
  rw [State.special_census, State.link_emit, State.link_modLink_same]
  exact ⟨rfl, rfl, rfl⟩
theorem nearest_up {f c d : Nat} (hd : d < 2 ^ 31) (h : low 32 c = low 32 (f + d)) : ((f : Int) + toS 32 (c + 2 ^ 32 - low 32 f)).toNat = f + d := by
  have hl : low 32 (c + 2 ^ 32 - low 32 f) = d := by
    unfold low at *
    omega
  rw [toS, hl, if_pos (by omega)]
  omega
theorem nearest_down {f c d : Nat} (h0 : 0 < d) (hd : d ≤ 2 ^ 31) (hf : d ≤ f) (h : low 32 c = low 32 (f - d)) : ((f : Int) + toS 32 (c + 2 ^ 32 - low 32 f)).toNat = f - d := by
  have hl : low 32 (c + 2 ^ 32 - low 32 f) = 2 ^ 32 - d := by
    unfold low at *
    omega
  rw [toS, hl, if_neg (by omega)]
  omega
theorem tsorted_dset {α : Type} [DecidableEq α] {d : α} {t : Tbl α} (hs : tsorted 0 t = true) (k : Nat) (v : α) : tsorted 0 (dset d t k v) = true := by
  unfold dset
  split
  · exact tsorted_tdel k hs
  · exact tsorted_tset k v hs (Nat.zero_le k)
theorem dget_dset_other {α : Type} [DecidableEq α] {d : α} {t : Tbl α} (hs : tsorted 0 t = true) {k k' : Nat} (v : α) (h : k' ≠ k) : dget d (dset d t k v) k' = dget d t k' := by
  unfold dget dset
  split
  · rw [tget_tdel k k' hs, if_neg h]
  · rw [tget_tset_other t v h]
/-- A table whose entries at some keys are set, each to its key's value, gives that value at those keys. -/
theorem dget_foldl_dset {t : Tbl Nat} (hs : tsorted 0 t = true) (f : Nat → Nat) {n : Nat} (l : List Nat) :
    dget 0 (l.foldl (fun t n => dset 0 t n (f n)) t) n = if n ∈ l then f n else dget 0 t n := by
  induction l generalizing t with
  | nil => simp
  | cons a r ih =>
    rw [List.foldl_cons, ih (tsorted_dset hs a (f a))]
    by_cases hr : n ∈ r
    · simp [hr]
    · by_cases ha : n = a
      · subst ha
        simp [hr, dget_dset_same hs]
      · simp [hr, ha, dget_dset_other hs _ ha]
theorem State.countsIn_freed {c : Counts} {n : Nat} (hu : (s.link l).up = true) (hs : tsorted 0 (s.link l).freed = true) (hn : n < 8) :
    dget 0 ((s.countsIn l c).link l).freed n = (s.link l).nearest c n := by
  rw [State.countsIn_up hu, State.link_modLink_same]
  exact (dget_foldl_dset hs _ _).trans (if_pos (List.mem_range.mpr hn))

end Sys2Proof.Machine
end

section
/-! PROOFS. Circuit slots, send queues and drain markers. -/
namespace Sys2Proof.Machine

variable {s s1 : State} {l : Nat}

/-! ### Slots (R355, R356) -/

/-- A table whose entries at some keys are set, each to its key's value, has that value at those keys. -/
theorem tget_foldl_tset {α : Type} (f : Nat → α) {k : Nat} (ks : List Nat) (t : Tbl α) : tget (ks.foldl (fun t k => tset t k (f k)) t) k = if k ∈ ks then some (f k) else tget t k := by
  induction ks generalizing t with
  | nil => simp
  | cons a r ih =>
    rw [List.foldl_cons, ih, tget_tset]
    by_cases ha : k = a
    · simp [ha]
    · simp [ha]
theorem State.phase_setPhases {k : Nat} {ks : List Nat} (s : State) (f : Nat → CircuitPhase) (h : k ∈ ks) : (s.setPhases ks f).phase k = f k := by
  change (tget (ks.foldl (fun t k => tset t k (f k)) s.fabric.phases) k).getD _ = _
  rw [tget_foldl_tset, if_pos h]
  rfl
/-- The links of this device whose slots begin: no circuit of theirs is identified, and none is wrong (R357). -/
def State.guardLinks (s : State) (ks : List Nat) : State :=
  (s.fabric.links.map (·.1)).foldl (fun s l => if isGlobal l && ks.contains (s.ownKey l) then s.modLink l fun x => { x with identOk := false, wrong := false, owed := x.owed.filter (· != 4) } else s) s
theorem State.guardLinks_onLinks (s : State) (ks : List Nat) : OnLinks s (s.guardLinks ks) := OnLinks.foldl (fun t l => by
  split
  · exact t.modLink_onLinks l _
  · exact .refl t) _ s
/-- The phases of slots that begin. -/
def State.slotPhases (s : State) (ks : List Nat) : State := s.setPhases ks fun k => { slot := (s.phaseOf k).elim 0 (·.1 + 1), data := false }
/-- The send queues at the start of slots: those in use, with the slot's allowance. -/
def State.slotQueues (s : State) (ks : List Nat) : State :=
  { s with fabric := { s.fabric with sendQ := (s.fabric.sendQ.filter fun e => e.2.inUse).map fun e => (e.1, { e.2 with allow := s.slotAllow e.1, used := e.2.used.filter fun k => !ks.contains k }) } }
theorem exec_slotStart_begun (h : s.newSlots ≠ []) : exec .slotStart s = .next (((s.guardLinks s.newSlots).slotPhases s.newSlots).slotQueues s.newSlots) :=
  runEvent_of (r := .ok ()) ((M.run_modify _ s).trans (congrArg _ (if_neg (by simpa using h))))
theorem exec_slotStart_none (h : s.newSlots = []) : exec .slotStart s = .next s :=
  runEvent_of (r := .ok ()) ((M.run_modify _ s).trans (congrArg _ (if_pos (by rw [h]; rfl))))
theorem State.slotQueues_allow {ks : List Nat} {d : Nat} {q : SendQueue} (h : tget (s.slotQueues ks).fabric.sendQ d = some q) : q.allow = (s.slotQueues ks).slotAllow d := by
  obtain ⟨e, -, he⟩ := List.mem_map.mp (mem_of_tget h)
  cases he
  rfl
/-- A link whose data time begins: its circuit takes it up and is identified. -/
def State.beginData (s : State) (ks : List Nat) (l : Nat) : State :=
  if !isGlobal l || !ks.contains (s.ownKey l) then s
  else
    let s : State := s.takeUp l
    if (s.link l).up && (s.ownEntry l).isSome then (s.modLink l fun x => { x with lastGoodAt := s.now }).oweFlit l 4 else s
theorem State.takeUp_onLinks (s : State) (l : Nat) : OnLinks s (s.takeUp l) := by
  unfold State.takeUp
  split
  · exact s.modLink_onLinks l _
  · exact .refl s
theorem State.beginData_onLinks (s : State) (ks : List Nat) (l : Nat) : OnLinks s (s.beginData ks l) := by
  unfold State.beginData
  dsimp only
  split
  · exact .refl s
  · split
    · exact (s.takeUp_onLinks l).trans <| (State.modLink_onLinks _ _ _).trans (State.oweFlit_onLinks _ _ _)
    · exact s.takeUp_onLinks l
/-- The phases of circuits whose data time begins. -/
def State.dataPhases (s : State) (ks : List Nat) : State := s.setPhases ks fun k => { s.phase k with data := true }
theorem exec_dataTimeStart_eq (s : State) : exec .dataTimeStart s = .next (((s.dataPhases s.newData).fabric.links.map (·.1)).foldl (fun t l => t.beginData s.newData l) (s.dataPhases s.newData)) := rfl

/-! ### Send queues (R358, R360) -/

section
variable {d : Nat} {q : SendQueue}

theorem State.modSendQ_of_some (h : tget s.fabric.sendQ d = some q) (f : SendQueue → SendQueue) : s.modSendQ d f = { s with fabric := { s.fabric with sendQ := tset s.fabric.sendQ d (f q) } } := by
  rw [State.modSendQ, tmod_of_some f h]
theorem State.modSendQ_congr {f f' : SendQueue → SendQueue} (h : tget s.fabric.sendQ d = some q) (hf : f q = f' q) : s.modSendQ d f = s.modSendQ d f' := by
  rw [State.modSendQ_of_some h, State.modSendQ_of_some h, hf]
variable (h : tget s.fabric.sendQ d = some q)
include h

theorem sendQueueDepart_stays (hd : s.departs d q = false) : exec (.sendQueueDepart d) s = .next s :=
  runEvent_of (r := .ok ()) ((M.run_modify _ s).trans (by dsimp only; rw [h]; dsimp only; rw [hd]; rfl))
theorem sendQueueDepart_group (hd : s.departs d q = true) (hg : devGroup d = devGroup s.devno) :
    exec (.sendQueueDepart d) s = .next ((q.free ++ q.charged).foldl (fun s p => s.relay p) (s.modSendQ d fun q => { q with free := [], charged := [] })) :=
  runEvent_of (r := .ok ()) ((M.run_modify _ s).trans (by
    dsimp only
    rw [h]
    dsimp only
    rw [hd, if_neg (by decide), if_pos hg]))
theorem sendQueueDepart_apart (hd : s.departs d q = true) (hg : devGroup d ≠ devGroup s.devno) (hj : s.joins (devGroup d) = false) :
    exec (.sendQueueDepart d) s = .next ((q.free ++ q.charged).foldl (fun s p => s.dropAs p 1) (s.modSendQ d fun q => { q with free := [], charged := [] })) :=
  runEvent_of (r := .ok ()) ((M.run_modify _ s).trans (by
    dsimp only
    rw [h]
    dsimp only
    rw [hd, if_neg (by decide), if_neg hg, hj, if_pos (by decide)]))
variable {p : Packet} {r : List Packet} {k : Nat} (hd : s.departs d q = true) (hg : devGroup d ≠ devGroup s.devno) (hj : s.joins (devGroup d) = true) (hp : s.pathOf p = some k)
include hd hg hj hp

theorem sendQueueDepart_free (hf : q.free = p :: r) :
    exec (.sendQueueDepart d) s = .next ((s.modSendQ d fun q => { q with free := r, used := if (packetCharge p).isNone || q.used.contains k then q.used else q.used ++ [k] }).toPath p k) :=
  runEvent_of (r := .ok ()) ((M.run_modify _ s).trans (by
    dsimp only
    rw [h]
    dsimp only
    rw [hd, if_neg (by decide), if_neg hg, hj, if_neg (by decide), hf]
    dsimp only
    rw [hp]
    dsimp only
    rw [State.modSendQ_congr (f' := fun q => { q with free := r, used := if (packetCharge p).isNone || q.used.contains k then q.used else q.used ++ [k] }) h rfl]))
omit h hd hg hj hp in
theorem State.writeOf_toPath (s : State) (f : SendQueue → SendQueue) (hl : s.linkTo k ≠ none) : ((s.modSendQ d f).toPath p k).writeOf p = s.writeOf p := by
  have hl' : (s.modSendQ d f).linkTo k = s.linkTo k := rfl
  unfold State.toPath
  rw [hl']
  cases ht : s.linkTo k with
  | none => exact absurd ht hl
  | some l => rfl
theorem sendQueueDepart_charged {n : Nat} (hf : q.free = []) (hc : q.charged = p :: r) (hn : packetCharge p = some n) (hw : (s.writeOf p).isNone = true) (hl : s.linkTo k ≠ none) :
    exec (.sendQueueDepart d) s = .next ((s.modSendQ d fun q => { q with charged := r, allow := q.allow - n, used := if q.used.contains k then q.used else q.used ++ [k] }).toPath p k) :=
  runEvent_of (r := .ok ()) ((M.run_modify _ s).trans (by
    dsimp only
    rw [h]
    dsimp only
    rw [hd, if_neg (by decide), if_neg hg, hj, if_neg (by decide), hf, hc]
    dsimp only
    rw [hp]
    dsimp only
    rw [State.writeOf_toPath _ _ hl, Option.isNone_iff_eq_none.mp hw, hn]
    dsimp only
    rw [State.modSendQ_congr (f' := fun q => { q with charged := r, allow := q.allow - n, used := if q.used.contains k then q.used else q.used ++ [k] }) h rfl]))
end

/-! ### Drain markers (R361) -/

/-- The paths that a destination has used in its slots. -/
def State.usedAt (s : State) (d : Nat) : Option (List Nat) := (tget s.fabric.sendQ d).map (·.used)
/-- A state after which the send queues stand for the same destinations, with the same paths used, or fewer; memory and what reset and retirement count are as before. -/
structure Drained (s t : State) : Prop where
  mem : t.mem = s.mem
  trust : t.trust = s.trust
  retired : t.fabric.retired = s.fabric.retired
  phases : t.fabric.phases = s.fabric.phases
  sorted : tsorted 0 s.fabric.sendQ = true → tsorted 0 t.fabric.sendQ = true
  used : ∀ d u, t.usedAt d = some u → ∃ v, s.usedAt d = some v ∧ u ⊆ v
  service : ∀ l, (t.link l).up = (s.link l).up ∧ (t.link l).retired = (s.link l).retired
theorem Drained.refl (s : State) : Drained s s := ⟨rfl, rfl, rfl, rfl, id, fun _ u h => ⟨u, h, fun _ hx => hx⟩, fun _ => ⟨rfl, rfl⟩⟩
theorem Drained.trans {s t u : State} (h : Drained s t) (h' : Drained t u) : Drained s u where
  mem := h'.mem.trans h.mem
  trust := h'.trust.trans h.trust
  retired := h'.retired.trans h.retired
  phases := h'.phases.trans h.phases
  sorted := fun hs => h'.sorted (h.sorted hs)
  used := fun d x hx => by
    obtain ⟨v, hv, hxv⟩ := h'.used d x hx
    obtain ⟨w, hw, hvw⟩ := h.used d v hv
    exact ⟨w, hw, fun _ hy => hvw (hxv hy)⟩
  service := fun l => ⟨(h'.service l).1.trans (h.service l).1, (h'.service l).2.trans (h.service l).2⟩
theorem OnLinks.drained {t : State} (h : OnLinks s t) (hl : ∀ l, (t.link l).up = (s.link l).up ∧ (t.link l).retired = (s.link l).retired) : Drained s t := by
  obtain ⟨ls, tr, rq, n, o, rfl⟩ := h
  exact ⟨rfl, rfl, rfl, rfl, id, fun _ u h => ⟨u, h, fun _ hx => hx⟩, hl⟩
/-- Whether a link is in service, or was retired. -/
def Link.service (x : Link) : Bool × Bool := (x.up, x.retired)
theorem State.freeTransit_service (s : State) (ps : List Packet) (l : Nat) : ((s.freeTransit ps).link l).service = (s.link l).service := by
  refine State.foldl_same (part := fun t => (t.link l).service) (fun t p => ?_) ps s
  split
  · rfl
  · exact (State.link_modLink_part Link.service (fun x => by split <;> rfl) _ _ l).trans rfl
theorem State.leaveDevice_service (s : State) (ps : List Packet) (l : Nat) : ((s.leaveDevice ps).link l).service = (s.link l).service :=
  State.foldl_same (part := fun t => (t.link l).service) (fun _ _ => by rfl) _ s
theorem State.sendFlit_service (s : State) (l kind : Nat) (ps : List Packet) (info : List Nat) (l' : Nat) : ((s.sendFlit l kind ps info).link l').service = (s.link l').service :=
  (State.leaveDevice_service _ ps l').trans <| (State.freeTransit_service _ ps l').trans <| State.link_modLink_part Link.service (by intro; rfl) s l l'
theorem Link.service_eq {x y : Link} (h : x.service = y.service) : x.up = y.up ∧ x.retired = y.retired := ⟨congrArg Prod.fst h, congrArg Prod.snd h⟩
theorem State.sendFlit_drained (s : State) (l kind : Nat) (ps : List Packet) (info : List Nat) : Drained s (s.sendFlit l kind ps info) :=
  (s.sendFlit_onLinks l kind ps info).drained fun l' => Link.service_eq (s.sendFlit_service l kind ps info l')
theorem State.modLink_drained {f : Link → Link} (hf : ∀ x, (f x).service = x.service) (s : State) (l : Nat) : Drained s (s.modLink l f) :=
  (s.modLink_onLinks l f).drained fun l' => Link.service_eq (State.link_modLink_part Link.service hf s l l')
theorem tsorted_tmod {α : Type} {t : Tbl α} (hs : tsorted 0 t = true) (k : Nat) (f : α → α) : tsorted 0 (tmod t k f) = true := by
  unfold tmod
  split
  · exact hs
  · exact tsorted_tset k _ hs (Nat.zero_le k)
theorem State.usedAt_modSendQ (s : State) (d d' : Nat) (f : SendQueue → SendQueue) :
    (s.modSendQ d f).usedAt d' = if d' = d then (tget s.fabric.sendQ d).map fun q => (f q).used else s.usedAt d' := by
  change (tget (tmod _ d f) d').map _ = _
  split
  · next h =>
    subst h
    cases hq : tget s.fabric.sendQ d' with
    | none => simp [tmod, hq]
    | some q => rw [tget_tmod_same f hq]; rfl
  · next h => rw [tget_tmod_other _ _ h]; rfl
theorem State.modSendQ_drained {f : SendQueue → SendQueue} (hf : ∀ q, (f q).used ⊆ q.used) (s : State) (d : Nat) : Drained s (s.modSendQ d f) where
  mem := rfl
  trust := rfl
  retired := rfl
  phases := rfl
  sorted := fun hs => tsorted_tmod hs d f
  used := fun d' u h => by
    rw [State.usedAt_modSendQ] at h
    split at h
    · next he =>
      obtain ⟨q, hq, rfl⟩ := Option.map_eq_some_iff.mp h
      exact ⟨q.used, by rw [he, State.usedAt, hq]; rfl, hf q⟩
    · exact ⟨u, h, fun _ hx => hx⟩
  service := fun _ => ⟨rfl, rfl⟩
theorem Drained.foldl {β : Type} {f : State → β → State} (h : ∀ s b, Drained s (f s b)) (l : List β) (s : State) : Drained s (l.foldl f s) :=
  List.foldlRecOn (motive := fun t : State => Drained s t) l f (.refl s) fun t ht b _ => ht.trans (h t b)
theorem State.drainPath_drained (s : State) (d k : Nat) : Drained s (s.drainPath d k) := by
  unfold State.drainPath
  dsimp only
  refine (State.modSendQ_drained (f := fun q => { q with held := q.held ++ [s.drainTag k] }) (fun _ => List.Subset.refl _) s d).trans ?_
  split
  · exact State.modSendQ_drained (by intro q; exact List.Subset.refl _) _ d
  · split
    · exact State.sendFlit_drained _ _ _ _ _
    · exact State.modLink_drained (by intro x; rfl) _ _
/-- A destination that has used a path gets its marker there, and the path is used no more. -/
def State.drainDest (s : State) (k d : Nat) : State := (s.drainPath d k).modSendQ d fun q => { q with used := q.used.filter (· != k) }
theorem State.drainDest_drained (s : State) (k d : Nat) : Drained s (s.drainDest k d) :=
  (s.drainPath_drained d k).trans (State.modSendQ_drained (f := fun q => { q with used := q.used.filter (· != k) }) (fun _ => List.filter_subset_self _) _ d)
theorem State.drainDest_used (s : State) (k d : Nat) {u : List Nat} (h : (s.drainDest k d).usedAt d = some u) : k ∉ u := by
  rw [State.drainDest, State.usedAt_modSendQ, if_pos rfl] at h
  obtain ⟨q, -, rfl⟩ := Option.map_eq_some_iff.mp h
  simp
theorem drainStep_drained (k : Nat) (s : State) (e : Nat × SendQueue) : Drained s (if e.2.used.contains k then s.drainDest k e.1 else s) := by
  split
  · exact s.drainDest_drained k e.1
  · exact .refl s
theorem State.drainKey_drained (s : State) (k : Nat) : Drained s (s.drainKey k) := Drained.foldl (drainStep_drained k) _ s
/-- Where every destination that has used a path is listed with it, none has after each of those listed got its marker. -/
theorem foldl_drainDest_used (k : Nat) (l : List (Nat × SendQueue)) (s : State) (h : ∀ d u, s.usedAt d = some u → k ∈ u → ∃ q : SendQueue, (d, q) ∈ l ∧ q.used.contains k = true) (d : Nat) (u : List Nat)
    (hu : (l.foldl (fun s e => if e.2.used.contains k then s.drainDest k e.1 else s) s).usedAt d = some u) : k ∉ u := by
  induction l generalizing s with
  | nil =>
    intro hk
    obtain ⟨q, hq, -⟩ := h d u hu hk
    exact List.not_mem_nil hq
  | cons e r ih =>
    refine ih _ (fun d' v hv hk => ?_) hu
    obtain ⟨w, hw, hvw⟩ := (drainStep_drained k s e).used d' v hv
    obtain ⟨q, hq, hc⟩ := h d' w hw (hvw hk)
    rcases List.mem_cons.mp hq with rfl | hq
    · dsimp only at hv
      rw [if_pos hc] at hv
      exact absurd hk (s.drainDest_used k d' hv)
    · exact ⟨q, hq, hc⟩
theorem State.drainKey_used (s : State) (k : Nat) {d : Nat} {u : List Nat} (h : (s.drainKey k).usedAt d = some u) : k ∉ u := by
  refine foldl_drainDest_used k _ s (fun d v hv hk => ?_) d u h
  obtain ⟨q, hq, rfl⟩ := Option.map_eq_some_iff.mp hv
  exact ⟨q, mem_of_tget hq, List.contains_iff_mem.mpr hk⟩
theorem foldl_drainKey_used (ks : List Nat) (s : State) {k d : Nat} {u : List Nat} (hk : k ∈ ks) (h : (ks.foldl State.drainKey s).usedAt d = some u) : k ∉ u := by
  induction ks generalizing s with
  | nil => exact absurd hk List.not_mem_nil
  | cons a r ih =>
    rcases List.mem_cons.mp hk with rfl | hk
    · obtain ⟨v, hv, huv⟩ := (Drained.foldl State.drainKey_drained r (s.drainKey k)).used d u h
      exact fun hku => s.drainKey_used k hv (huv hku)
    · exact ih (s.drainKey a) hk h

end Sys2Proof.Machine
end

section
/-! PROOFS. Retired links and lost devices: O57. -/
namespace Sys2Proof.Machine

variable {s s1 : State} {l : Nat}

/-! ### Retired links (R363) -/

/-- A link out of service, before the paths that it carried are drained. -/
def State.outOfService (s : State) (l : Nat) : State :=
  let t : State := s.modLink l fun x => { x with up := false, retired := true, identOk := false }
  { t with fabric := { t.fabric with retired := t.fabric.retired + 1 } }
theorem State.link_outOfService (s : State) (l : Nat) : (s.outOfService l).link l = { s.link l with up := false, retired := true, identOk := false } :=
  s.link_modLink_same l fun x => { x with up := false, retired := true, identOk := false }
theorem State.retire_drained (s : State) (l : Nat) : ∃ t, Drained (s.outOfService l) t ∧ s.retire l = (t.askReplace 9).emit (.retireNotice l (t.link l).lastGood) := by
  refine ⟨if isGlobal l then (s.outOfService l).drainKey ((s.outOfService l).ownKey l) else s.outOfService l, ?_, ?_⟩
  · split
    · exact State.drainKey_drained _ _
    · exact .refl _
  · rfl
theorem State.retire_keeps (s : State) (l : Nat) : ((s.retire l).link l).up = false ∧ ((s.retire l).link l).retired = true ∧ (s.retire l).fabric.retired = s.fabric.retired + 1
    ∧ (s.retire l).mem = s.mem ∧ 9 ∈ (s.retire l).trust.replaceReq := by
  obtain ⟨t, ht, he⟩ := s.retire_drained l
  obtain ⟨r, hr, h9⟩ := t.askReplace_eq 9
  obtain ⟨hu, hret⟩ := ht.service l
  rw [State.link_outOfService] at hu hret
  rw [he, hr]
  exact ⟨hu, hret, ht.retired, ht.mem, h9⟩
theorem length_markersBehind (l : List Packet) (seen : Tbl Nat) : (markersBehind l seen).length = l.length := by
  induction l generalizing seen with
  | nil => rfl
  | cons p r ih =>
    unfold markersBehind
    split <;> simp [ih]
theorem markersBehind_of_none {l : List Packet} (h : ∀ p, p ∈ l → p.kind ≠ 4) (seen : Tbl Nat) : markersBehind l seen = l := by
  induction l generalizing seen with
  | nil => rfl
  | cons p r ih =>
    unfold markersBehind
    rw [if_neg (h p List.mem_cons_self), ih fun q hq => h q (List.mem_cons_of_mem _ hq)]

/-! ### Lost devices (R236, R364) -/

/-- The devices that have been lost, and their number. -/
def State.losses (s : State) : List Nat × Nat := (s.fabric.lost, s.fabric.lostCount)
theorem OnHost.losses {t : State} (h : OnHost s t) : t.losses = s.losses := by
  obtain ⟨_, rfl⟩ := h
  rfl
theorem OnLinks.losses {t : State} (h : OnLinks s t) : t.losses = s.losses := by
  obtain ⟨_, _, _, _, _, rfl⟩ := h
  rfl
theorem State.tellWrite_losses (s : State) (w : FabWrite) (st : Nat) : (s.tellWrite w st).losses = s.losses := by
  unfold State.tellWrite
  dsimp only
  split <;> rfl
theorem State.settleWrite_losses (s : State) (w : FabWrite) (st : Nat) : (s.settleWrite w st).losses = s.losses := by
  have hd : (if st = 1 then { s.tellWrite w st with fabric := { (s.tellWrite w st).fabric with drops := (s.tellWrite w st).fabric.drops + 1 } } else s.tellWrite w st).losses = s.losses := by
    split <;> exact s.tellWrite_losses w st
  unfold State.settleWrite
  dsimp only
  split
  · exact hd
  · refine (State.launchCheck_onHost _ _).losses.trans (Eq.trans ?_ hd)
    split <;> rfl
theorem State.endOne_losses (s : State) (id st : Nat) : (s.endOne id st).losses = s.losses := by
  unfold State.endOne
  split
  · rfl
  · exact s.settleWrite_losses _ st
theorem State.bulkCheck_losses (s : State) (id : Nat) : (s.bulkCheck id).losses = s.losses := by
  unfold State.bulkCheck
  split
  · rfl
  · split
    · exact State.endOne_losses _ _ _
    · rfl
theorem State.pieceEnd_losses (s : State) (b st n : Nat) : (s.pieceEnd b st n).losses = s.losses := State.bulkCheck_losses _ _
theorem State.stopBulk_losses (s : State) (id : Nat) : (s.stopBulk id).losses = s.losses := State.bulkCheck_losses _ _
theorem State.endWrite_losses (s : State) (id st : Nat) : (s.endWrite id st).losses = s.losses := by
  unfold State.endWrite
  split
  · rfl
  · split
    · exact s.settleWrite_losses _ st
    · exact (State.pieceEnd_losses _ _ _ _).trans (s.settleWrite_losses _ st)
theorem State.endReq_losses (s : State) (id st v : Nat) : (s.endReq id st v).losses = s.losses := by
  unfold State.endReq
  split
  · rfl
  · dsimp only
    split
    · split <;> exact (State.endOne_losses _ _ _).trans rfl
    · split <;> rfl
/-- A packet that is dropped for a lost device counts as one (R364). -/
def State.countDrop (s : State) (st : Nat) : State := if st = 1 then { s with fabric := { s.fabric with drops := s.fabric.drops + 1 } } else s
theorem State.countDrop_losses (s : State) (st : Nat) : (s.countDrop st).losses = s.losses := by
  unfold State.countDrop
  split <;> rfl
theorem State.dropRequest_losses (s : State) (p : Packet) (id st : Nat) : ((if p.kind = 0 then s.countDrop st else s).endReq id st 0).losses = s.losses := by
  refine (State.endReq_losses _ _ _ _).trans ?_
  split
  · exact s.countDrop_losses st
  · rfl
theorem State.dropAs_losses (s : State) (p : Packet) (st : Nat) : (s.dropAs p st).losses = s.losses := by
  unfold State.dropAs
  dsimp only
  split
  · split
    · exact s.dropRequest_losses p _ st
    · rfl
  · split
    · exact s.dropRequest_losses p _ st
    · rfl
  · split
    · exact s.endWrite_losses _ st
    · rfl
  · split
    · exact s.endWrite_losses _ st
    · rfl
  · exact s.countDrop_losses st
theorem State.strand_losses (s : State) (p : Packet) : (s.strand p).losses = s.losses := (s.freeTransit_onLinks [p]).losses
theorem State.resend_losses (s : State) (p : Packet) : (s.resend p).losses = s.losses := by
  unfold State.resend
  dsimp only
  split
  · rfl
  · split
    · rfl
    · split
      · exact s.dropAs_losses _ 1
      · exact s.strand_losses _
theorem State.reroute_losses (s : State) (l n : Nat) : (s.reroute l n).losses = s.losses :=
  (State.foldl_same (part := State.losses) (fun t p => t.resend_losses p) _ _).trans rfl
theorem State.peerAnswered_losses (s : State) (l d : Nat) : (s.peerAnswered l d).losses = s.losses := by
  unfold State.peerAnswered
  dsimp only
  split
  · rfl
  · split <;> split <;> rfl
theorem State.dropRegs_losses (s : State) (k d : Nat) : (s.dropRegs k d).losses = s.losses := by
  unfold State.dropRegs
  split
  · rfl
  · dsimp only
    exact (State.foldl_same (part := State.losses) (fun t c => by rfl) _ _).trans rfl

theorem State.loseDevice_same {d : Nat} (h : d = s.devno ∨ s.fabric.lost.contains d = true) : s.loseDevice d = s :=
  if_pos (by rcases h with h | h <;> rw [h] <;> simp)
theorem State.loseDevice_losses {d : Nat} (hd : d ≠ s.devno) (hl : s.fabric.lost.contains d = false) : (s.loseDevice d).losses = (s.fabric.lost ++ [d], s.fabric.lostCount + 1) := by
  unfold State.loseDevice
  rw [if_neg (by rw [hl]; simp [hd])]
  extract_lets _ marked _ _ unqueued dropped _ _ unlinked near rerouted _ _ cleared ended stopped written forgotten answered
  have hdropped : dropped.losses = unqueued.losses := State.foldl_same (part := State.losses) (fun t p => t.dropAs_losses p 1) _ _
  have hunlinked : unlinked.losses = dropped.losses := State.foldl_same (part := State.losses) (fun t l => by
    refine (State.foldl_same (part := State.losses) (fun t p => ?_) _ _).trans rfl
    split
    · exact t.dropAs_losses p 1
    · exact t.strand_losses p) _ _
  have hrerouted : rerouted.losses = unlinked.losses := by
    unfold rerouted
    split
    · exact State.reroute_losses _ _ _
    · rfl
  have hended : ended.losses = cleared.losses := State.foldl_same (part := State.losses) (fun t id => t.endReq_losses id 1 0) _ _
  have hstopped : stopped.losses = ended.losses := State.foldl_same (part := State.losses) State.stopBulk_losses _ _
  have hwritten : written.losses = stopped.losses := State.foldl_same (part := State.losses) (fun t id => t.endWrite_losses id 1) _ _
  have hanswered : answered.losses = forgotten.losses := State.foldl_same (part := State.losses) (fun t (a : PeerAck) => t.peerAnswered_losses a.line d) _ _
  calc (List.foldl (fun s k => s.dropRegs k d) answered _).losses = answered.losses := State.foldl_same (part := State.losses) (fun t k => t.dropRegs_losses k d) _ _
    _ = forgotten.losses := hanswered
    _ = (written.fabric.lost, written.fabric.lostCount) := rfl
    _ = written.losses := rfl
    _ = cleared.losses := hwritten.trans (hstopped.trans hended)
    _ = rerouted.losses := rfl
    _ = unqueued.losses := hrerouted.trans (hunlinked.trans hdropped)
    _ = (s.fabric.lost ++ [d], s.fabric.lostCount + 1) := rfl

end Sys2Proof.Machine
end

section
/-! PROOFS. The events of the links: O57. -/
namespace Sys2Proof.Machine

variable {s s1 : State} {l : Nat}

theorem exec_modify (f : State → State) (s : State) : runEvent (modify f) s = .next (f s) := runEvent_of (r := .ok ()) (M.run_modify f s)

/-! ### Flits -/

theorem flitReceive_down (f : Flit) (hu : (s.link l).up = false) : exec (.flitReceive l f) s = .next s :=
  (exec_modify _ s).trans (congrArg _ (if_pos (by rw [hu]; rfl)))
theorem OnLinks.agenda {t : State} (h : OnLinks s t) : t.agenda = s.agenda := by
  obtain ⟨_, _, _, _, _, rfl⟩ := h
  rfl
theorem OnLinks.mem {t : State} (h : OnLinks s t) : t.mem = s.mem := by
  obtain ⟨_, _, _, _, _, rfl⟩ := h
  rfl
theorem State.damaged_replay (s : State) (l : Nat) : let t := (s.modLink l Link.damaged).oweFlit l 3
    (t.link l).nDamage = (s.link l).nDamage + 1 ∧ (t.link l).skipping = true ∧ (t.link l).rxSeq = (s.link l).rxSeq ∧ t.agenda = s.agenda ∧ t.mem = s.mem
    ∧ (s.maySend l = true → .replayRequest l (s.link l).rxSeq ∈ t.out) ∧ (s.maySend l = false → 3 ∈ (t.link l).owed) := by
  have hm : (s.modLink l Link.damaged).maySend l = s.maySend l := State.maySend_modLink (f := Link.damaged) (fun _ => ⟨rfl, rfl, rfl, rfl⟩) s l
  obtain ⟨hd, hk, hr⟩ := (s.modLink l Link.damaged).oweFlit_replay_received l
  have ho := (s.modLink_onLinks l Link.damaged).trans (State.oweFlit_onLinks _ l 3)
  rw [State.link_modLink_same] at hd hk hr
  refine ⟨hd, hk, hr, ho.agenda, ho.mem, fun h => ?_, fun h => (State.oweFlit_mem_owed (hm.trans h) 3).1⟩
  rw [State.oweFlit_sent (hm.trans h), State.special_replay, State.link_modLink_same]
  exact List.mem_append_right _ (List.mem_singleton.mpr rfl)
theorem flitReceive_bad {f : Flit} (hu : (s.link l).up = true) (hb : flitOk f = false ∨ 5 ≤ f.kind ∨ f.seq ≠ (s.link l).rxSeq) :
    ∃ s', exec (.flitReceive l f) s = .next s' ∧ (s'.link l).nDamage = (s.link l).nDamage + 1 ∧ (s'.link l).skipping = true
      ∧ (s'.link l).rxSeq = (s.link l).rxSeq ∧ s'.agenda = s.agenda ∧ s'.mem = s.mem ∧ ((s.link l).skipping = true → f.seq ≠ (s.link l).rxSeq → s'.out = s.out)
      ∧ ((s.link l).skipping = false ∨ f.seq = (s.link l).rxSeq → (s.maySend l = true → .replayRequest l (s.link l).rxSeq ∈ s'.out) ∧ (s.maySend l = false → 3 ∈ (s'.link l).owed)) := by
  have he : exec (.flitReceive l f) s = .next (s.flitIn l f) := exec_modify _ s
  rw [State.flitIn_bad hu hb] at he
  by_cases hc : ((s.link l).skipping && decide (f.seq ≠ (s.link l).rxSeq)) = true
  · rw [if_pos hc] at he
    refine ⟨_, he, ?_, ?_, ?_, rfl, rfl, fun _ _ => rfl, fun h => absurd hc ?_⟩
    · rw [State.link_modLink_same]; rfl
    · rw [State.link_modLink_same]; rfl
    · rw [State.link_modLink_same]; rfl
    · rcases h with h | h <;> simp [h]
  · rw [if_neg hc] at he
    obtain ⟨hd, hk, hr, ha, hm, hsent, howed⟩ := s.damaged_replay l
    exact ⟨_, he, hd, hk, hr, ha, hm, fun h h' => absurd (by simp [h, h']) hc, fun _ => ⟨hsent, howed⟩⟩
theorem flitReceive_good {f : Flit} (hu : (s.link l).up = true) (ho : flitOk f = true) (hk : f.kind < 5) (hq : f.seq = (s.link l).rxSeq) :
    ∃ t : State, exec (.flitReceive l f) s = .next (f.packets.foldl State.arrived t)
      ∧ (t.link l).rxSeq = ((s.link l).rxSeq + 1) % 4096 ∧ (t.link l).lastGood = f.seq ∧ (t.link l).skipping = false ∧ (t.link l).replay = ackedReplay f.ack (s.link l).replay ∧ t.mem = s.mem ∧ t.agenda = s.agenda := by
  obtain ⟨freed, given, tr, h⟩ := State.flitIn_good hu ho hk hq
  have he : exec (.flitReceive l f) s = .next (s.flitIn l f) := exec_modify _ s
  obtain ⟨hm, ha, hl⟩ := State.asked_sameOrder { s.modLink l (·.took f s.now freed given) with fabric := { (s.modLink l (·.took f s.now freed given)).fabric with transit := tr } } l f
  have hin := (hl l).trans (congrArg Link.inOrder (s.link_modLink_same l (·.took f s.now freed given)))
  simp only [Link.inOrder, Prod.mk.injEq] at hin
  obtain ⟨hr, hg, hs, hp⟩ := hin
  exact ⟨_, he.trans (congrArg _ h), hr, hg, hs, hp, hm, ha⟩
theorem replayRequest_link (s : State) (l n : Nat) : ∃ s', exec (.replayRequest l n) s = .next s' ∧ (s'.link l).nReplay = (s.link l).nReplay + 1 ∧ (s'.link l).replay = (s.link l).replay ∧ s'.mem = s.mem ∧ s'.out = s.out
      ∧ ((s.link l).replay.any (·.seq == n) = true → (s'.link l).resendFrom = some n) := by
  refine ⟨s.replayFrom l n, exec_modify _ s, ?_, ?_, rfl, rfl, fun h => ?_⟩ <;> rw [State.replayFrom_link]
  exact if_pos h
theorem linkTick_resent {n : Nat} {f : Flit} {r : List Flit} (hc : s.carries l = true) (hr : (s.link l).resendFrom = some n) (ha : (s.link l).again n = f :: r) :
    (s.linkTick l).out = s.out ++ [.flit l ((s.link l).refilled f)] ∧ ((s.linkTick l).link l).resendFrom = r.head?.map (·.seq) ∧ ((s.linkTick l).link l).replay = (s.link l).replay := by
  rw [State.linkTick_again hc hr ha, State.link_emit, State.link_modLink_same]
  exact ⟨rfl, rfl, rfl⟩

/-! ### Censuses and identifications -/

theorem censusSend_down (hu : (s.link l).up = false) : exec (.censusSend l) s = .next s := (exec_modify _ s).trans (congrArg _ (if_neg (by rw [hu]; decide)))
theorem censusSend_up (hu : (s.link l).up = true) : exec (.censusSend l) s = .next (s.oweFlit l 2) := (exec_modify _ s).trans (congrArg _ (if_pos hu))
theorem censusSend_sent (hu : (s.link l).up = true) (hm : s.maySend l = true) :
    ∃ s', exec (.censusSend l) s = .next s' ∧ (s'.link l).flitsSinceCensus = 0 ∧ (s'.link l).censusAt = s.now ∧ (s'.link l).told = (s.link l).given ∧ s'.mem = s.mem := by
  obtain ⟨hf, ha, ht⟩ := s.special_census_link l
  exact ⟨_, (censusSend_up hu).trans (congrArg _ (State.oweFlit_sent hm 2)), hf, ha, ht, (s.special_onLinks l 2).mem⟩
theorem census_counts {c : Counts} {n : Nat} (hu : (s.link l).up = true) (hs : tsorted 0 (s.link l).freed = true) (hn : n < 8) : ∃ s', exec (.census l c) s = .next s' ∧ s'.mem = s.mem
      ∧ (∀ d, d < 2 ^ 31 → low 32 (c.getD n 0) = low 32 (dget 0 (s.link l).freed n + d) → dget 0 (s'.link l).freed n = dget 0 (s.link l).freed n + d)
      ∧ (∀ d, 0 < d → d ≤ 2 ^ 31 → d ≤ dget 0 (s.link l).freed n → low 32 (c.getD n 0) = low 32 (dget 0 (s.link l).freed n - d) → dget 0 (s'.link l).freed n = dget 0 (s.link l).freed n - d) := by
  obtain ⟨hm, -⟩ := s.countsIn_sameOrder l c
  have hf := State.countsIn_freed (c := c) hu hs hn
  exact ⟨_, exec_modify _ s, hm, fun d hd h => hf.trans (nearest_up hd h), fun d h0 hd hle h => hf.trans (nearest_down h0 hd hle h)⟩
section
variable {d n : Nat} {e : SlotEntry} (he : s.ownEntry l = some e) (hd : s.ownData l = true) (hi : (s.link l).identOk = false) (hw : (s.link l).wrong = false)
include he hd hi hw
theorem State.identified_of : s.identified l d n = if e.peer = d && e.plink = n then s.modLink l fun x => { x with identOk := true, identFails := 0 } else s.wrongCircuit l := by
  unfold State.identified
  rw [he]
  exact if_neg (by rw [hd, hi, hw]; decide)
theorem identification_right (hp : e.peer = d) (hl : e.plink = n) : exec (.identification l d n) s = .next (s.modLink l fun x => { x with identOk := true, identFails := 0 }) := by
  refine (exec_modify _ s).trans (congrArg _ ?_)
  rw [State.identified_of he hd hi hw]
  exact if_pos (by simp [hp, hl])
theorem identification_wrong (h : e.peer ≠ d ∨ e.plink ≠ n) : exec (.identification l d n) s = .next (s.wrongCircuit l) := by
  refine (exec_modify _ s).trans (congrArg _ ?_)
  rw [State.identified_of he hd hi hw]
  exact if_neg (by rcases h with h | h <;> simp [h])
end
theorem State.wrongCircuit_link (s : State) (l : Nat) : (s.wrongCircuit l).link l = { s.link l with wrong := true, identFails := (s.link l).identFails + 1 } :=
  s.link_modLink_same l fun x => { x with wrong := true, identFails := x.identFails + 1 }

/-! ### Slots -/

theorem State.setPhases_nil (s : State) (f : Nat → CircuitPhase) : s.setPhases [] f = s := rfl
theorem State.beginData_nil (s : State) (l : Nat) : s.beginData [] l = s := if_pos (by simp)
theorem dataTimeStart_none (h : s.newData = []) : exec .dataTimeStart s = .next s := by
  rw [exec_dataTimeStart_eq, h, State.dataPhases, State.setPhases_nil, List.foldl_fixed' fun l => s.beginData_nil l]
/-- The paths whose data time ends are drained, and carry data no more. -/
def State.endPaths (s : State) (ks : List Nat) : State := (ks.foldl State.drainKey s).setPhases ks fun k => { s.phase k with data := false }
theorem exec_dataTimeEnd_eq (s : State) : exec .dataTimeEnd s = .next (s.endPaths s.endData) := exec_modify _ s
theorem dataTimeEnd_none (h : s.endData = []) : exec .dataTimeEnd s = .next s := by
  rw [exec_dataTimeEnd_eq, h, State.endPaths, State.setPhases_nil]
  rfl
theorem OnLinks.tables {t : State} (h : OnLinks s t) : t.fabric.tables = s.fabric.tables := by
  obtain ⟨_, _, _, _, _, rfl⟩ := h
  rfl
theorem OnLinks.phaseOf {t : State} (h : OnLinks s t) (k : Nat) : t.phaseOf k = s.phaseOf k := by
  obtain ⟨_, _, _, _, _, rfl⟩ := h
  rfl
theorem slotStart_begins (h : s.newSlots ≠ []) : ∃ s', exec .slotStart s = .next s' ∧ s'.mem = s.mem ∧ s'.fabric.tables = s.fabric.tables ∧ (∀ d q, tget s'.fabric.sendQ d = some q → q.allow = s'.slotAllow d)
      ∧ ∀ k, k ∈ s.newSlots → s'.phase k = { slot := (s.phaseOf k).elim 0 (·.1 + 1), data := false } := by
  have hg := s.guardLinks_onLinks s.newSlots
  refine ⟨_, exec_slotStart_begun h, hg.mem, hg.tables, fun d q hq => State.slotQueues_allow hq, fun k hk => ?_⟩
  exact (State.phase_setPhases (s.guardLinks s.newSlots) _ hk).trans (by rw [hg.phaseOf])
theorem State.beginDatas_onLinks (s : State) (ks ls : List Nat) : OnLinks s (ls.foldl (fun t l => t.beginData ks l) s) := OnLinks.foldl (fun t l => t.beginData_onLinks ks l) ls s
theorem OnLinks.sendQ {t : State} (h : OnLinks s t) : t.fabric.sendQ = s.fabric.sendQ := by
  obtain ⟨_, _, _, _, _, rfl⟩ := h
  rfl
theorem OnLinks.phase {t : State} (h : OnLinks s t) (k : Nat) : t.phase k = s.phase k := by
  obtain ⟨_, _, _, _, _, rfl⟩ := h
  rfl
theorem dataTimeStart_begins (s : State) : ∃ s', exec .dataTimeStart s = .next s' ∧ s'.mem = s.mem ∧ s'.fabric.sendQ = s.fabric.sendQ ∧ ∀ k, k ∈ s.newData → s'.phase k = { s.phase k with data := true } := by
  have ho := (s.dataPhases s.newData).beginDatas_onLinks s.newData ((s.dataPhases s.newData).fabric.links.map (·.1))
  exact ⟨_, exec_dataTimeStart_eq s, ho.mem, ho.sendQ, fun k hk => (ho.phase k).trans (State.phase_setPhases s _ hk)⟩
theorem State.drainKeys_drained (s : State) (ks : List Nat) : Drained s (ks.foldl State.drainKey s) := Drained.foldl State.drainKey_drained ks s
theorem dataTimeEnd_drains (s : State) : ∃ s', exec .dataTimeEnd s = .next s' ∧ s'.mem = s.mem ∧ (∀ k, k ∈ s.endData → (s'.phase k).data = false)
      ∧ (tsorted 0 s.fabric.sendQ = true → ∀ e, e ∈ s'.fabric.sendQ → ∀ k, k ∈ s.endData → k ∉ e.2.used) := by
  have hd := s.drainKeys_drained s.endData
  refine ⟨_, exec_dataTimeEnd_eq s, hd.mem, fun k hk => ?_, fun hs e he k hk => ?_⟩
  · rw [State.endPaths, State.phase_setPhases _ _ hk]
  · refine foldl_drainKey_used (d := e.1) s.endData s hk ?_
    rw [State.usedAt, (tget_of_mem (hd.sorted hs) he).1]
    rfl

/-! ### Send queues, drain markers and slot tables -/

theorem sendQueueDepart_none {d : Nat} (h : tget s.fabric.sendQ d = none) : exec (.sendQueueDepart d) s = .next s := (exec_modify _ s).trans (by rw [h])
theorem drainReturn_erases {d n : Nat} {q : SendQueue} (h : tget s.fabric.sendQ d = some q) :
    ∃ s', exec (.drainReturn d n) s = .next s' ∧ tget s'.fabric.sendQ d = some { q with held := q.held.erase n } ∧ s'.mem = s.mem := by
  refine ⟨_, exec_modify _ s, ?_, rfl⟩
  rw [State.modSendQ_of_some h]
  exact tget_tset_same _ _ _
theorem slotTableSwitch_early {t : SlotTable} (h : tget s.fabric.tables l = some t) (hd : t.switchDue s.podTime = false) : exec (.slotTableSwitch l) s = .next s :=
  (exec_modify _ s).trans (by rw [h]; dsimp only; rw [hd]; rfl)
theorem slotTableSwitch_due {t : SlotTable} {es} {n : Nat} (h : tget s.fabric.tables l = some t) (hd : t.switchDue s.podTime = true) (hn : t.next = some (es, n)) :
    ∃ s', exec (.slotTableSwitch l) s = .next s' ∧ tget s'.fabric.tables l = some { entries := es, start := n, next := none, nextAt := 0 } ∧ (tsorted 0 s.fabric.phases = true → s'.phase l = { slot := 0, data := false }) := by
  have he : exec (.slotTableSwitch l) s = .next { s with fabric := { s.fabric with tables := tset s.fabric.tables l { entries := es, start := n, next := none, nextAt := 0 }, phases := tdel s.fabric.phases l } } :=
    (exec_modify _ s).trans (by rw [h]; dsimp only; rw [hd, hn]; rfl)
  refine ⟨_, he, tget_tset_same _ _ _, fun hs => ?_⟩
  change (tget (tdel s.fabric.phases l) l).getD _ = _
  rw [tget_tdel l l hs, if_pos rfl]
  rfl

/-! ### Retired and restored links -/

theorem linkRetire_sound (h : s.retireDue l = false) : exec (.linkRetire l) s = .next s := (exec_modify _ s).trans (congrArg _ (if_neg (by rw [h]; decide)))
theorem linkRetire_due (h : s.retireDue l = true) : ∃ s', exec (.linkRetire l) s = .next s' ∧ (s'.link l).up = false ∧ (s'.link l).retired = true ∧ s'.fabric.retired = s.fabric.retired + 1 ∧ s'.mem = s.mem ∧ 9 ∈ s'.trust.replaceReq :=
  ⟨s.retire l, (exec_modify _ s).trans (congrArg _ (if_pos h)), s.retire_keeps l⟩
theorem retireNotice_own {n : Nat} (h : l < 64) : exec (.retireNotice l n) s = .next ((if (s.link l).retired then s else s.retire l).reroute l n) :=
  (exec_modify _ s).trans (congrArg _ ((if_neg (by omega)).trans (if_neg (by omega))))
theorem retireNotice_key {t : State} {k n : Nat} (hk : k < 960) (ht : t = s.drainKey k) :
    exec (.retireNotice (64 + k) n) s = .next { t with fabric := { t.fabric with away := t.fabric.away.filter (· != k) ++ [k] } } := by
  refine (exec_modify _ s).trans (congrArg _ ((if_neg (by omega)).trans ((if_pos (by omega)).trans ?_)))
  rw [ht, Nat.add_sub_cancel_left]
theorem linkRestore_key {k : Nat} (hk : k < 960) : exec (.linkRestore (64 + k)) s = .next { s with fabric := { s.fabric with away := s.fabric.away.filter (· != k) } } := by
  refine (exec_modify _ s).trans (congrArg _ ((if_neg (by omega)).trans ((if_pos (by omega)).trans ?_)))
  rw [Nat.add_sub_cancel_left]
theorem farLink_ends {a b : Nat} (hb : b < 32) : ((1024 + 32 * a + b - 1024) / 32, (1024 + 32 * a + b - 1024) % 32) = (a, b) := by
  rw [Prod.mk.injEq]
  omega
theorem retireNotice_far {a b n : Nat} (hb : b < 32) : exec (.retireNotice (1024 + 32 * a + b) n) s = .next { s with fabric := { s.fabric with farDown := s.fabric.farDown.filter (· != (a, b)) ++ [(a, b)] } } := by
  refine (exec_modify _ s).trans (congrArg _ ((if_pos (by omega)).trans ?_))
  rw [farLink_ends hb]
theorem linkRestore_far {a b : Nat} (hb : b < 32) : exec (.linkRestore (1024 + 32 * a + b)) s = .next { s with fabric := { s.fabric with farDown := s.fabric.farDown.filter (· != (a, b)) } } := by
  refine (exec_modify _ s).trans (congrArg _ ((if_pos (by omega)).trans ?_))
  rw [farLink_ends hb]
theorem linkRestore_serving (h : l < 64) (hr : (s.link l).retired = false) : exec (.linkRestore l) s = .next s :=
  (exec_modify _ s).trans (congrArg _ ((if_neg (by omega)).trans ((if_neg (by omega)).trans (if_neg (by rw [hr]; decide)))))
/-- A link begun anew: of the one before it, only its counts and what waits for it are kept. -/
def Link.restored (x : Link) (now : Nat) : Link :=
  { Link.reset with up := true, lastGoodAt := now, censusAt := now, nReplay := x.nReplay, nDamage := x.nDamage, nResync := x.nResync, waiting := x.waiting }
theorem linkRestore_retired (h : l < 64) (hr : (s.link l).retired = true) : ∃ s', exec (.linkRestore l) s = .next s' ∧ (s'.link l).up = true ∧ (s'.link l).retired = false ∧ (s'.link l).rxSeq = 0 ∧ (s'.link l).txSeq = 0 ∧ (s'.link l).waiting = (s.link l).waiting
      ∧ (s'.link l).nDamage = (s.link l).nDamage := by
  have he : exec (.linkRestore l) s = .next (s.modLink l fun x => x.restored s.now) :=
    (exec_modify _ s).trans (congrArg _ ((if_neg (by omega)).trans ((if_neg (by omega)).trans (if_pos hr))))
  refine ⟨_, he, ?_⟩
  rw [State.link_modLink_same]
  exact ⟨rfl, rfl, rfl, rfl, rfl, rfl⟩

/-! ### Lost devices -/

theorem deviceLost_again {d : Nat} (h : d = s.devno ∨ s.fabric.lost.contains d = true) : exec (.deviceLost d) s = .next s := (exec_modify _ s).trans (congrArg _ (State.loseDevice_same h))
theorem deviceLost_once {d : Nat} (hd : d ≠ s.devno) (hl : s.fabric.lost.contains d = false) :
    ∃ s', exec (.deviceLost d) s = .next s' ∧ s'.fabric.lost = s.fabric.lost ++ [d] ∧ s'.fabric.lostCount = s.fabric.lostCount + 1 := by
  have h := State.loseDevice_losses hd hl
  exact ⟨s.loseDevice d, exec_modify _ s, congrArg Prod.fst h, congrArg Prod.snd h⟩
theorem peerAckTimeout_late {d : Nat} (h : (s.peerAcks.any fun a => a.dev == d && a.line == l && s.ackLate a) = true) : exec (.peerAckTimeout d l) s = exec (.deviceLost d) s := by
  have hl : exec (.deviceLost d) s = .next (s.loseDevice d) := exec_modify _ s
  exact (exec_modify _ s).trans ((congrArg _ (if_pos h)).trans hl.symm)
theorem peerAckTimeout_early {d : Nat} (h : (s.peerAcks.any fun a => a.dev == d && a.line == l && s.ackLate a) = false) : exec (.peerAckTimeout d l) s = .next s :=
  (exec_modify _ s).trans (congrArg _ (if_neg (by rw [h]; decide)))

end Sys2Proof.Machine
open Sys2Proof Sys2Proof.Machine

/-- Settles O57, by the links and the send queues that each event changes. -/
theorem linkEvents : Obligations.LinkEvents :=
  ⟨fun _ _ f h => flitReceive_down f h,
   fun _ _ _ hu hb => flitReceive_bad hu hb,
   fun _ _ _ hu ho hk hq => flitReceive_good hu ho hk hq,
   fun _ _ hk hb hd hs hsrc hdst => State.arrived_here hk hb hd hs hsrc hdst,
   fun _ _ h => State.arrived_discarded h,
   fun _ _ hk hb h => State.arrived_lost hk hb h,
   replayRequest_link,
   fun _ _ _ _ _ hc hr ha => linkTick_resent hc hr ha,
   fun _ _ h => State.linkTick_still h,
   fun _ _ h => censusSend_down h,
   fun _ _ hu hm => ⟨_, censusSend_up hu, State.oweFlit_mem_owed hm 2⟩,
   fun _ _ hu hm => censusSend_sent hu hm,
   fun _ _ _ _ hu hs hn => census_counts hu hs hn,
   fun _ _ _ _ _ he hd hi hw => ⟨identification_right he hd hi hw, identification_wrong he hd hi hw⟩,
   fun s _ => exec_modify _ s,
   fun s l => by rw [State.wrongCircuit_link]; exact ⟨rfl, rfl, rfl⟩,
   fun _ => ⟨exec_slotStart_none, dataTimeStart_none, dataTimeEnd_none⟩,
   fun _ h => slotStart_begins h,
   dataTimeStart_begins,
   dataTimeEnd_drains,
   fun _ _ h => sendQueueDepart_none h,
   fun _ _ _ h hd => sendQueueDepart_stays h hd,
   fun _ _ _ h hd hg => sendQueueDepart_group h hd hg,
   fun _ _ _ h hd hg hj => sendQueueDepart_apart h hd hg hj,
   fun _ _ _ _ _ _ h hd hg hj hp => ⟨sendQueueDepart_free h hd hg hj hp, fun _ => sendQueueDepart_charged h hd hg hj hp⟩,
   fun s _ => exec_modify _ s,
   fun _ _ _ _ h => drainReturn_erases h,
   fun _ _ _ h hd => slotTableSwitch_early h hd,
   fun _ _ _ _ _ h hd hn => slotTableSwitch_due h hd hn,
   fun _ _ h => linkRetire_sound h,
   fun _ _ h => linkRetire_due h,
   fun _ _ _ h => retireNotice_own h,
   fun _ _ _ => rfl,
   fun l => ⟨length_markersBehind l [], fun h => markersBehind_of_none h []⟩,
   fun _ _ _ _ hk ht => retireNotice_key hk ht,
   fun _ _ hk => linkRestore_key hk,
   fun _ _ _ _ hb => ⟨retireNotice_far hb, linkRestore_far hb⟩,
   fun _ _ h hr => linkRestore_serving h hr,
   fun _ _ h hr => linkRestore_retired h hr,
   fun _ _ h => deviceLost_again h,
   fun _ _ hd hl => deviceLost_once hd hl,
   fun _ _ _ h => peerAckTimeout_late h,
   fun _ _ _ h => peerAckTimeout_early h⟩

end

section
/-! PROOFS. Placement and pre-emption: O51. -/
namespace Sys2Proof.Machine

variable {s s1 s2 : State} {i : Nat}

theorem M.forM'_modify {α : Type} (f : α → State → State) (l : List α) (s : State) : forM' l (fun a => modify (f a)) s = (.ok (), l.foldl (fun s a => f a s) s) := by
  induction l generalizing s with
  | nil => rfl
  | cons a r ih => exact M.bind_step (M.run_modify (f a) s) (ih _)

/-- An event that runs as a part of it does from another state leaves what that part leaves. -/
theorem runEvent_same {m m' : M Unit} (h : m s = m' s1) : runEvent m s = .next (m' s1).2 := runEvent_of h

/-! ### Placement and tasks -/

theorem teamPlacement_new {l c slot inc : Nat} {bases : List Nat} (h : s.nextPlacement = some (l, none, c, slot, inc, bases)) : exec .teamPlacement s = .next (s.placeTeam l c slot inc bases) :=
  (exec_modify _ s).trans (by rw [h])
theorem teamPlacement_none (h : s.nextPlacement = none) : exec .teamPlacement s = .next s := (exec_modify _ s).trans (by rw [h])
theorem taskBind_oldest {u : State} {q} {r} {g j : Nat} (hd : s.bindDue i = true) (hq : (s.team i).taskQ = q :: r) (hf : s.freeTaskSlot i = some (g, j))
    (hu : u = (s.setThr (s.slotKey i g j) ((s.newThread i g j q.entry).putAll ((digits 4 64 (ofLe q.args)).zipIdx.map fun e => (Loc.slice (64 + e.2), e.1)))).modTeam i (fun x => { x with taskQ := r })) :
    exec (.taskBind i) s = .next (u.modThr (u.slotKey i g j) fun t => { t with status := u.headStatus (u.slotKey i g j) }) :=
  (exec_modify _ s).trans (by
    rw [if_pos hd, hq, hf]
    dsimp only
    rw [hu])

/-! ### A pre-emption that is asked for (R415, R417) -/

/-- A thread at rest is held for its team's pre-emption. -/
def Thread.holdRest (t : Thread) : Thread := if (t.status == .ready || t.status == .held .gate) && t.atRest then { t with status := .held .preempt } else t
theorem Thread.holdRest_twice (t : Thread) : t.holdRest.holdRest = t.holdRest := by
  by_cases h : ((t.status == .ready || t.status == .held .gate) && t.atRest) = true
  · have he : t.holdRest = { t with status := .held .preempt } := if_pos h
    rw [he]
    rfl
  · have he : t.holdRest = t := if_neg h
    rw [he, he]
theorem Thread.holdRest_ready {t : Thread} (hs : t.status = .ready) (hr : t.atRest = true) : t.holdRest.status = .held .preempt := by
  have he : t.holdRest = { t with status := .held .preempt } := if_pos (by rw [hs, hr]; rfl)
  rw [he]
/-- A team whose pre-emption has been asked for, with its threads at rest held. -/
def State.asksPreempt (s : State) (i now : Nat) (ks : List Nat) : State :=
  ks.foldl (fun s k => s.modThr k Thread.holdRest) (s.modTeam i fun t => { t with preempt := some { at' := now, guestAck := true, entered := false, saveStamp := 0 } })
theorem State.asksPreempt_keeps (s : State) (i now : Nat) (ks : List Nat) :
    (s.asksPreempt i now ks).teams = (s.modTeam i fun t => { t with preempt := some { at' := now, guestAck := true, entered := false, saveStamp := 0 } }).teams ∧ (s.asksPreempt i now ks).mem = s.mem :=
  ⟨State.foldl_same (part := State.teams) (by intro _ _; rfl) ks _, (State.foldl_same (part := State.mem) (by intro _ _; rfl) ks _).trans rfl⟩
theorem State.asksPreempt_thr {now k : Nat} {ks : List Nat} {t : Thread} (hk : k ∈ ks) (ht : tget s.threads k = some t) (hs : t.status = .ready) (hr : t.atRest = true) :
    ((s.asksPreempt i now ks).thr k).status = .held .preempt := by
  have h : tget (s.asksPreempt i now ks).threads k = some t.holdRest := by
    rw [State.asksPreempt, tget_foldl_modThr Thread.holdRest_twice, if_pos hk]
    exact congrArg _ ht
  rw [State.thr, h]
  exact Thread.holdRest_ready hs hr
section
variable {v w : Nat} (hp : (s.team i).placed = true) (hf : (s.team i).fin = false) (hn : (s.team i).preempt = none) (hv : vectorOf i 21 s = (.ok (.at' v), s1)) (hw : vectorOf i 22 s1 = (.ok (.at' w), s2))
include hp hf hn hv hw
theorem requestPreempt_refused (h : v = 0 ∨ w = 0 ∨ (s.launch (s.team i).launch).save = 0 ∨ s.armed i = true) : requestPreempt i s = refusePreempt i s2 := by
  refine M.get_step (M.ite_step_neg (by rw [hp, hf, hn]; decide) (M.bind_step hv (M.bind_step hw (M.ite_step_pos ?_ rfl))))
  rcases h with h | h | h | h <;> simp [h]
theorem requestPreempt_taken (h0 : v ≠ 0) (h1 : w ≠ 0) (h2 : (s.launch (s.team i).launch).save ≠ 0) (h3 : s.armed i = false) (hg : (s.team i).guest = []) :
    requestPreempt i s = (.ok (), s2.asksPreempt i s.now (s.threadsOf i)) := by
  refine M.get_step (M.ite_step_neg (by rw [hp, hf, hn]; decide) (M.bind_step hv (M.bind_step hw (M.ite_step_neg ?_ ?_))))
  · simpa [h0, h1, h3] using h2
  · dsimp only
    rw [hg]
    refine M.bind_step (M.run_modify _ _) (M.ite_step_pos rfl ?_)
    exact M.forM'_modify (fun k s => s.modThr k Thread.holdRest) _ _
end
theorem preemptionRequest_eq (s : State) (i : Nat) : exec (.preemptionRequest i) s = .next (requestPreempt i s).2 := runEvent_of rfl
theorem preemptionRequest_judged {v w : Nat} (hp : (s.team i).placed = true) (hf : (s.team i).fin = false) (hn : (s.team i).preempt = none) (hv : vectorOf i 21 s = (.ok (.at' v), s1)) (hw : vectorOf i 22 s1 = (.ok (.at' w), s2)) :
    ((v = 0 ∨ w = 0 ∨ (s.launch (s.team i).launch).save = 0 ∨ s.armed i = true) → exec (.preemptionRequest i) s = .next (refusePreempt i s2).2)
    ∧ (v ≠ 0 → w ≠ 0 → (s.launch (s.team i).launch).save ≠ 0 → s.armed i = false → (s.team i).guest = [] → (tget s2.teams i).isSome = true →
      ∃ s', exec (.preemptionRequest i) s = .next s' ∧ (s'.team i).preempt = some { at' := s.now, guestAck := true, entered := false, saveStamp := 0 } ∧ s'.mem = s2.mem
        ∧ ∀ k t, k ∈ s.threadsOf i → tget s2.threads k = some t → t.status = .ready → t.atRest = true → (s'.thr k).status = .held .preempt) := by
  refine ⟨fun h => runEvent_same (requestPreempt_refused hp hf hn hv hw h), fun h0 h1 h2 h3 hg ht => ?_⟩
  · obtain ⟨hteams, hmem⟩ := s2.asksPreempt_keeps i s.now (s.threadsOf i)
    refine ⟨_, runEvent_of (requestPreempt_taken hp hf hn hv hw h0 h1 h2 h3 hg), ?_, hmem, fun k t hk hkt hs hr => State.asksPreempt_thr hk hkt hs hr⟩
    have h : (s2.asksPreempt i s.now (s.threadsOf i)).team i = _ := (congrArg (fun t => (tget t i).getD Team.blank) hteams).trans (State.team_modTeam_same _ ht)
    rw [h]
theorem preemptionRequest_idle (h : (s.team i).placed = false ∨ (s.team i).fin = true ∨ (s.team i).preempt.isSome = true) : exec (.preemptionRequest i) s = .next s :=
  runEvent_of (r := .ok ()) (M.get_step (M.ite_step_pos (by rcases h with h | h | h <;> simp [h]) rfl))


/-! ### A pre-emption that is entered, refused or out of time (R415, R417) -/

theorem State.postEvent_counts (s : State) (n a : Nat) (d : Word) : (s.postEvent n a d).host.evTail + (s.postEvent n a d).host.evDrop = s.host.evTail + s.host.evDrop + 1 ∧ (s.postEvent n a d).teams = s.teams := by
  unfold State.postEvent
  split
  · exact ⟨rfl, rfl⟩
  · refine ⟨?_, ?_⟩
    · dsimp only
      split <;> exact Nat.add_right_comm _ _ _
    · dsimp only
      split <;> rfl
/-- The pre-emption of a team is refused, and the host told with a value that the spec leaves free. -/
def State.refused (s : State) (i : Nat) : State :=
  let t := s.nextFree.2.modTeam i fun t => { t with preempt := none }
  t.postEvent 4 (t.tagOf i) (wd s.nextFree.1)
theorem refusePreempt_run (i : Nat) (s : State) : refusePreempt i s = (.ok (), s.refused i) := rfl
theorem State.refused_keeps (s : State) (i : Nat) : (s.refused i).teams = tmod s.teams i (fun t => { t with preempt := none }) ∧ (s.refused i).mem = s.mem
    ∧ (s.refused i).host.evTail + (s.refused i).host.evDrop = s.host.evTail + s.host.evDrop + 1 := by
  obtain ⟨he, ht⟩ := (s.nextFree.2.modTeam i fun t => { t with preempt := none }).postEvent_counts 4 ((s.nextFree.2.modTeam i fun t => { t with preempt := none }).tagOf i) (wd s.nextFree.1)
  exact ⟨ht, (State.postEvent_keeps _ _ _ _).1, he⟩
/-- A held thread that goes on; behind its tenant's closed gate it stays held there. -/
def State.goesOn (s : State) (k : Nat) (t : Thread) : Thread := if t.status == .held .preempt then { t with status := if s.gateClosed (s.launchOf k).tenant then .held .gate else .ready } else t
/-- The threads of a team go on unchanged. -/
def State.released (s : State) (i : Nat) : State := (s.threadsOf i).foldl (fun t k => t.modThr k (s.goesOn k)) s
theorem dropPreempt_run (i : Nat) (s : State) : dropPreempt i s = (.ok (), ((s.refused i).released i).repost i) :=
  M.bind_step (refusePreempt_run i s) (M.get_step (M.bind_step (M.forM'_modify (fun k t => t.modThr k ((s.refused i).goesOn k)) _ _) (M.run_modify _ _)))
theorem State.released_keeps (s : State) (i : Nat) : (s.released i).teams = s.teams ∧ (s.released i).mem = s.mem ∧ (s.released i).host = s.host :=
  ⟨State.foldl_same (part := State.teams) (by intro _ _; rfl) _ s, State.foldl_same (part := State.mem) (by intro _ _; rfl) _ s, State.foldl_same (part := State.host) (by intro _ _; rfl) _ s⟩
theorem State.postEntry_keeps (s : State) (q : Nat) (p : GuestPacket) : ((s.postEntry q p).teams, (s.postEntry q p).host) = (s.teams, s.host) := by
  unfold State.postEntry
  split <;> rfl
theorem State.repost_keeps (s : State) (i : Nat) : (s.repost i).teams = s.teams ∧ (s.repost i).host = s.host := by
  have h : ((s.repost i).teams, (s.repost i).host) = (s.teams, s.host) := State.foldl_same (part := fun t => (t.teams, t.host)) (fun t e => by
    split
    · rfl
    · exact State.postEntry_keeps _ _ _) _ s
  exact ⟨congrArg Prod.fst h, congrArg Prod.snd h⟩
theorem State.repost_none (h : (s.team i).guest = []) : s.repost i = s := by
  rw [State.repost, h]
  rfl
theorem State.refused_team (s : State) (i : Nat) : ((s.refused i).team i).preempt = none ∧ ((s.refused i).team i).guest = (s.team i).guest := by
  have h : (s.refused i).team i = (s.modTeam i fun t => { t with preempt := none }).team i := State.team_of_teams (s.refused_keeps i).1 i
  rw [h]
  refine ⟨?_, State.team_modTeam_part (f := fun t => { t with preempt := none }) Team.guest (fun _ => rfl) s i i⟩
  cases ht : tget s.teams i with
  | none =>
    change ((tget (tmod s.teams i _) i).getD Team.blank).preempt = none
    rw [tmod, ht]
    dsimp only
    rw [ht]
    rfl
  | some t => rw [State.team_modTeam_same _ (by rw [ht]; rfl)]
theorem preemptionTimeout_due {p : Preempt} (hp : (s.team i).preempt = some p) (he : p.entered = false) (hpl : (s.team i).placed = true) (ht : p.at' + preemptLimit ≤ s.now) :
    ∃ s', exec (.preemptionTimeout i) s = .next s' ∧ (s'.team i).preempt = none ∧ ((s.team i).guest = [] → s'.mem = s.mem) ∧ s'.host.evTail + s'.host.evDrop = s.host.evTail + s.host.evDrop + 1 := by
  have hx : exec (.preemptionTimeout i) s = .next (((s.refused i).released i).repost i) := runEvent_of (r := .ok ()) (M.get_step (by
    rw [hp]
    exact M.ite_step_pos (by simp [he, hpl, ht]) (dropPreempt_run i s)))
  obtain ⟨-, hm, hc⟩ := s.refused_keeps i
  obtain ⟨hrt, hrm, hrh⟩ := (s.refused i).released_keeps i
  obtain ⟨hot, hoh⟩ := ((s.refused i).released i).repost_keeps i
  obtain ⟨hn, hg⟩ := s.refused_team i
  refine ⟨_, hx, ?_, fun h => ?_, ?_⟩
  · rw [State.team_of_teams (hot.trans hrt)]
    exact hn
  · rw [State.repost_none (by rw [State.team_of_teams hrt, hg, h]), hrm, hm]
  · rw [hoh, hrh]
    exact hc
theorem preemptionTimeout_early {p : Preempt} (hp : (s.team i).preempt = some p) (h : p.entered = true ∨ s.now < p.at' + preemptLimit) : exec (.preemptionTimeout i) s = .next s :=
  runEvent_of (r := .ok ()) (M.get_step (by
    rw [hp]
    exact M.ite_step_neg (by rcases h with h | h <;> simp [h]) rfl))
theorem preemptionEntry_idle (h : s.entryDue i = false) : exec (.preemptionEntry i) s = .next s :=
  runEvent_of (r := .ok ()) (M.get_step (by
    rw [h]
    rfl))
theorem preemptionEntry_due {v : Vector'} (hd : s.entryDue i = true) (hv : vectorOf i 22 s = (.ok v, s1)) :
    (s.armed i = false → v ≠ .at' 0 → v ≠ .wait → exec (.preemptionEntry i) s = .next (forM' (s.threadsOf i) (fun k => takeTrap k ⟨21, 0, 0, 0, 0, 0, (s.thr k).pc, false⟩)
      (s1.modTeam i fun t => { t with preempt := t.preempt.map fun p => { p with entered := true } })).2)
    ∧ (s.armed i = true ∨ v = .at' 0 → exec (.preemptionEntry i) s = .next (dropPreempt i s1).2)
    ∧ (s.armed i = false → v = .wait → exec (.preemptionEntry i) s = .next s1) := by
  refine ⟨fun ha h0 hw => ?_, fun h => ?_, fun ha hw => ?_⟩
  · refine runEvent_same (M.get_step (M.ite_step_pos hd (M.bind_step hv (M.ite_step_neg (by rw [hd]; decide) (M.ite_step_neg ?_ (M.ite_step_neg hw (M.bind_step (M.run_modify _ _) rfl)))))))
    simp [ha, h0]
  · refine runEvent_same (M.get_step (M.ite_step_pos hd (M.bind_step hv (M.ite_step_neg (by rw [hd]; decide) (M.ite_step_pos ?_ rfl)))))
    rcases h with h | h <;> simp [h]
  · refine runEvent_of (r := .ok ()) (M.get_step (M.ite_step_pos hd (M.bind_step hv (M.ite_step_neg (by rw [hd]; decide) (M.ite_step_neg ?_ (M.ite_step_pos hw rfl))))))
    simp [ha, hw]
theorem placementPreempt_early {l : Nat} (h : s.roomLate (s.launch l) = false) : exec (.placementPreempt l) s = .next s :=
  runEvent_of (r := .ok ()) (M.get_step (M.ite_step_neg (by rw [h]; decide) rfl))
theorem placementPreempt_late {l : Nat} {u : State} (h : s.roomLate (s.launch l) = true) (hu : u = s.modLaunch l (fun x => { x with roomSince := some s.now })) :
    (∀ i, s.victimFor l = some i → exec (.placementPreempt l) s = .next (requestPreempt i u).2) ∧ (s.victimFor l = none → exec (.placementPreempt l) s = .next u) := by
  subst hu
  refine ⟨fun i hv => ?_, fun hv => ?_⟩
  · refine runEvent_same (M.get_step (M.ite_step_pos h (M.bind_step (M.run_modify _ _) ?_)))
    rw [hv]
  · refine runEvent_of (r := .ok ()) (M.get_step (M.ite_step_pos h (M.bind_step (M.run_modify _ _) ?_)))
    rw [hv]
    rfl


/-! ### Save and resume (R416, R418) -/

/-- A team that has been saved: it has left its core, and its Saved threads wait under keys that no core has. -/
def State.savedTeam (s : State) (i : Nat) (blk : TeamBlock) : State :=
  ((s.threadsOf i).foldl (fun s k => s.rekey k (savedKey i (s.slotIndex k)) (s.thr k)) s).modTeam i fun t => { t with
    placed := false, block := some blk, spad := [], rings := [], acc := [], taskQ := [],
    preempt := t.preempt.map fun p => { p with saveStamp := (s.core (s.team i).core).clock } }
theorem State.rekeys_keep (f : State → Nat → Nat) (g : State → Nat → Thread) (ks : List Nat) (s : State) :
    (ks.foldl (fun s k => s.rekey k (f s k) (g s k)) s).teams = s.teams ∧ (ks.foldl (fun s k => s.rekey k (f s k) (g s k)) s).mem = s.mem :=
  ⟨State.foldl_same (part := State.teams) (by intro _ _; rfl) ks s, State.foldl_same (part := State.mem) (by intro _ _; rfl) ks s⟩
theorem State.savedTeam_keeps {blk : TeamBlock} (h : (tget s.teams i).isSome = true) : (s.savedTeam i blk).mem = s.mem ∧ (s.savedTeam i blk).team i = { s.team i with
    placed := false, block := some blk, spad := [], rings := [], acc := [], taskQ := [],
    preempt := (s.team i).preempt.map fun p => { p with saveStamp := (s.core (s.team i).core).clock } } := by
  obtain ⟨ht, hm⟩ := State.rekeys_keep (fun s k => savedKey i (s.slotIndex k)) (fun s k => s.thr k) (s.threadsOf i) s
  refine ⟨hm, ?_⟩
  rw [State.savedTeam, State.team_modTeam_same _ (by rw [ht]; exact h), State.team_of_teams ht]
theorem teamSave_idle (h : s.saveDue i = false) : exec (.teamSave i) s = .next s := runEvent_of (r := .ok ()) (M.get_step (M.ite_step_pos (by rw [h]; rfl) rfl))
theorem teamSave_due {r : Except EngFail Unit} (hd : s.saveDue i = true) (hw : engWriteSpan i (s.blockAddr i) (s.blockOf i).bytes (s.unmapAll i) = (.ok r, s1)) :
    (r = .ok () → (tget s1.teams i).isSome = true → ∃ s', exec (.teamSave i) s = .next s' ∧ s'.mem = s1.mem ∧ (s'.team i).placed = false ∧ (s'.team i).spad = [] ∧ (s'.team i).block = some (s.blockOf i)
      ∧ (s'.team i).taskQ = [] ∧ (s'.team i).rings = [] ∧ ∀ p, (s1.team i).preempt = some p → (s'.team i).preempt = some { p with saveStamp := (s1.core (s1.team i).core).clock })
    ∧ (∀ d t, r = .error (.stall d t) → exec (.teamSave i) s = .next s1) ∧ (∀ c x, r = .error (.fatal c x) → exec (.teamSave i) s = .next (s1.fatalTeam i)) := by
  have hn : ¬ (!s.saveDue i) = true := by rw [hd]; decide
  refine ⟨fun hr ht => ?_, fun d t hr => ?_, fun c x hr => ?_⟩ <;> subst hr
  · have he : exec (.teamSave i) s = .next (s1.savedTeam i (s.blockOf i)) :=
      runEvent_of (r := .ok ()) (M.get_step (M.ite_step_neg hn (M.bind_step (M.run_modify _ _) (M.bind_step hw rfl))))
    obtain ⟨hm, hteam⟩ := State.savedTeam_keeps (blk := s.blockOf i) ht
    refine ⟨_, he, hm, ?_⟩
    rw [hteam]
    exact ⟨rfl, rfl, rfl, rfl, rfl, fun p hp => by rw [hp]; rfl⟩
  · exact runEvent_of (r := .ok ()) (M.get_step (M.ite_step_neg hn (M.bind_step (M.run_modify _ _) (M.bind_step hw rfl))))
  · exact runEvent_of (r := .ok ()) (M.get_step (M.ite_step_neg hn (M.bind_step (M.run_modify _ _) (M.bind_step hw rfl))))
/-- What a team's block gives back when the team is on a core again. -/
def Team.resumed (t : Team) (b : TeamBlock) (back : Nat × Barrier → Nat × Barrier) : Team :=
  { t with preempt := none, block := none, carabiner := b.carabiner, acc := b.acc, taskQ := b.taskQ, barriers := b.barriers.map back, tstat := wd (setBits t.tstat.toNat 2 1 1) }
/-- The barriers of a block as they stand in the team's slots. -/
def State.backIn (s : State) (i : Nat) (e : Nat × Barrier) : Nat × Barrier := (e.1, { e.2 with arrived := e.2.arrived.map (s.indexKey i) })
/-- A saved team on a core again, its threads Ready at a handler. -/
def State.resumedTeam (s : State) (i c slot inc : Nat) (bases : List Nat) (b : TeamBlock) (ks : List Nat) (v : Nat) : State :=
  (ks.foldl (fun s k => s.resumeThread i k v) ((s.seat i c slot inc bases).modTeam i fun t => t.resumed b ((s.seat i c slot inc bases).backIn i))).repost i
theorem State.seat_team {c slot inc : Nat} {bases : List Nat} (h : (tget s.teams i).isSome = true) : ∃ t, tget (s.seat i c slot inc bases).teams i = some t ∧ t.placed = true ∧ t.core = c ∧ t.guest = (s.team i).guest := by
  obtain ⟨t, ht⟩ := Option.isSome_iff_exists.mp h
  refine ⟨_, tget_tmod_same _ ht, rfl, rfl, ?_⟩
  rw [State.team, ht]
  rfl

theorem State.resumeThread_keeps (s : State) (i k v : Nat) : ((s.resumeThread i k v).teams, (s.resumeThread i k v).mem) = (s.teams, s.mem) := rfl
theorem bitAt_eq_testBit (n j : Nat) : bitAt n j = n.testBit j := by
  rw [Nat.testBit_eq_decide_div_mod_eq, bitAt, bits, pow_one]
  rfl
theorem bitAt_wd {n j : Nat} (hj : j < 64) : bitAt (wd n).toNat j = bitAt n j := by
  rw [bitAt_eq_testBit, bitAt_eq_testBit, wd, BitVec.toNat_ofNat, Nat.testBit_mod_two_pow, decide_eq_true hj, Bool.true_and]
theorem State.resumedTeam_keeps {c slot inc v : Nat} {bases ks : List Nat} {b : TeamBlock} (h : (tget s.teams i).isSome = true) (hg : (s.team i).guest = []) :
    (s.resumedTeam i c slot inc bases b ks v).mem = s.mem ∧ ∃ t : Team, (s.resumedTeam i c slot inc bases b ks v).team i = t.resumed b ((s.seat i c slot inc bases).backIn i) ∧ t.placed = true ∧ t.core = c := by
  obtain ⟨t, ht, hp, hc, hgt⟩ := State.seat_team (c := c) (slot := slot) (inc := inc) (bases := bases) h
  have hk := State.foldl_same (part := fun t : State => (t.teams, t.mem)) (fun s k => s.resumeThread_keeps i k v) ks
    ((s.seat i c slot inc bases).modTeam i fun t => t.resumed b ((s.seat i c slot inc bases).backIn i))
  have hteam : (ks.foldl (fun s k => s.resumeThread i k v) ((s.seat i c slot inc bases).modTeam i fun t => t.resumed b ((s.seat i c slot inc bases).backIn i))).team i
      = t.resumed b ((s.seat i c slot inc bases).backIn i) := by
    rw [State.team_of_teams (congrArg Prod.fst hk), State.team_modTeam_same _ (by rw [ht]; rfl), State.team, ht]
    rfl
  have hr := State.repost_none (i := i) (by rw [hteam]; exact hgt.trans hg)
  refine ⟨?_, t, ?_, hp, hc⟩
  · rw [State.resumedTeam, hr]
    exact congrArg Prod.snd hk
  · rw [State.resumedTeam, hr, hteam]
theorem teamResume_none (h : (s.team i).block = none) : exec (.teamResume i) s = .next s :=
  runEvent_of (r := .ok ()) (M.get_step (by
    rw [h]
    rfl))
theorem teamResume_due {b : TeamBlock} {c slot inc : Nat} {bases : List Nat} {p : Preempt} {r : Option (Option Nat)} (hb : (s.team i).block = some b) (hroom : s.roomFor (s.launch (s.team i).launch) = some (c, slot, inc, bases))
    (hp : (s.team i).preempt = some p) (hpl : (s.team i).placed = false) (hf : (s.team i).fin = false) (hc : clkLt p.saveStamp s.podFloor = true) (hr : resumeReads i b s = (.ok r, s1)) (ht : (tget s1.teams i).isSome = true) :
    (r = none → exec (.teamResume i) s = .next s1)
    ∧ (∀ v, r = some (some v) → (s1.team i).guest = [] → ∃ t, exec (.teamResume i) s = .next t ∧ t.mem = s1.mem ∧ (t.team i).placed = true ∧ (t.team i).core = c ∧ (t.team i).block = none ∧ (t.team i).preempt = none
      ∧ (t.team i).taskQ = b.taskQ ∧ (t.team i).carabiner = b.carabiner ∧ bitAt (t.team i).tstat.toNat 2 = true) := by
  have hn : ¬ ((s.team i).placed || (s.team i).fin || !clkLt p.saveStamp s.podFloor) = true := by simp [hpl, hf, hc]
  refine ⟨fun h => ?_, fun v h hg => ?_⟩ <;> subst h
  · exact runEvent_of (r := .ok ()) (M.get_step (by
      rw [hb, hroom, hp]
      exact M.ite_step_neg hn (M.bind_step hr rfl)))
  · have he : exec (.teamResume i) s = .next (s1.resumedTeam i c slot inc bases b (s.threadsOf i) v) := runEvent_of (r := .ok ()) (M.get_step (by
      rw [hb, hroom, hp]
      exact M.ite_step_neg hn (M.bind_step hr (M.bind_step (M.run_modify _ _) (M.get_step (M.bind_step (M.run_modify _ _) (M.bind_step (M.forM'_modify (fun k s => s.resumeThread i k v) _ _) (M.bind_step (M.run_modify _ _) rfl))))))))
    obtain ⟨hm, t, hteam, hpt, hct⟩ := State.resumedTeam_keeps (c := c) (slot := slot) (inc := inc) (v := v) (bases := bases) (ks := s.threadsOf i) (b := b) ht hg
    refine ⟨_, he, hm, ?_⟩
    rw [hteam]
    refine ⟨hpt, hct, rfl, rfl, rfl, rfl, ?_⟩
    rw [Team.resumed]
    exact (bitAt_wd (by decide)).trans (bitAt_setBits_same _ 2 1)

end Sys2Proof.Machine
open Sys2Proof Sys2Proof.Machine

/-- Settles O51, by what each event leaves of the team it names. -/
theorem placementEvents : Obligations.PlacementEvents :=
  ⟨fun _ _ _ _ _ _ h => teamPlacement_new h,
   fun _ h => teamPlacement_none h,
   fun _ _ _ _ _ _ _ hd hq hf hu => taskBind_oldest hd hq hf hu,
   preemptionRequest_eq,
   fun _ _ _ _ _ _ hp hf hn hv hw => preemptionRequest_judged hp hf hn hv hw,
   fun _ _ h => preemptionRequest_idle h,
   fun _ _ _ _ hd hv => preemptionEntry_due hd hv,
   fun _ _ h => preemptionEntry_idle h,
   fun _ _ _ hp h => preemptionTimeout_early hp h,
   fun _ _ _ hp he hpl ht => preemptionTimeout_due hp he hpl ht,
   fun _ _ _ h hu => placementPreempt_late h hu,
   fun _ _ h => placementPreempt_early h,
   fun _ _ _ _ hd hw => teamSave_due hd hw,
   fun _ _ h => teamSave_idle h,
   fun _ _ h => teamResume_none h,
   fun _ _ _ _ _ _ _ _ _ _ hb hroom hp hpl hf hc hr ht => teamResume_due hb hroom hp hpl hf hc hr ht⟩

end

section
/-! PROOFS. Lines of device memory: what the coherence order has of them. -/
namespace Sys2Proof.Machine

variable {s s1 t : State} {c line l : Nat}

/-! ### The parts of a line -/

/-- The dirty data of an entry of a core. -/
def dirtyCopy : Option L1Line → Option Bytes
  | some (.m d) => some d
  | _ => none
/-- The dirty data of an agent's entry. -/
def dirtyAgent : Option AgentCopy → Option Bytes
  | some (.dirty d) => some d
  | _ => none
/-- The dirty data of a line at a core: in its first level, or in its victim buffer. -/
def State.copyData (s : State) (c l : Nat) : Option Bytes := (dirtyCopy (s.l1Of c l)).or (dirtyCopy (tget (s.core c).victim l))
/-- The dirty data of a line at the agent of a core's stack. -/
def State.agentData (s : State) (c l : Nat) : Option Bytes := (foreignStack c l).bind fun st => dirtyAgent (tget s.agents (agentKey st l))
theorem State.lineView_mapped {i off : Nat} (h : s.mapOf l = some (i, off)) : s.lineView l = s.spadGet i off 128 := by
  unfold State.lineView
  rw [h]
theorem State.lineView_owned (hm : s.mapOf l = none) (h : (s.dirOf l).under = .owned c) : s.lineView l = ((s.copyData c l).or (s.agentData c l)).getD (s.memLine l) := by
  unfold State.lineView State.copyData State.agentData
  rw [hm]
  dsimp only
  rw [h]
  dsimp only
  split
  · next d hd => simp [hd, dirtyCopy]
  · next hd =>
    have h1 : dirtyCopy (s.l1Of c l) = none := by
      unfold dirtyCopy
      split
      · next d he => exact absurd he (hd d)
      · rfl
    rw [h1]
    split
    · next d hv => simp [hv, dirtyCopy]
    · next hv =>
      have h2 : dirtyCopy (tget (s.core c).victim l) = none := by
        unfold dirtyCopy
        split
        · next d he => exact absurd he (hv d)
        · rfl
      rw [h2]
      cases foreignStack c l with
      | none => rfl
      | some st =>
        dsimp only [Option.bind_some]
        rcases tget s.agents (agentKey st l) with _ | _ | d <;> rfl
theorem State.lineView_home (hm : s.mapOf l = none) (h : ∀ c, (s.dirOf l).under ≠ .owned c) : s.lineView l = s.memLine l := by
  unfold State.lineView
  rw [hm]
  dsimp only
  split
  · next c hc => exact absurd hc (h c)
  · rfl
/-- The parts of a line from which the coherence order has its bytes are the same in two states. -/
structure SameLine (l : Nat) (s t : State) : Prop where
  teams : t.teams = s.teams
  dir : t.dirOf l = s.dirOf l
  copy : ∀ c, t.copyData c l = s.copyData c l
  agent : ∀ c, t.agentData c l = s.agentData c l
  mem : t.memLine l = s.memLine l
theorem SameLine.mapOf (h : SameLine l s t) : t.mapOf l = s.mapOf l := by
  unfold State.mapOf
  rw [h.dir]
  split
  · rw [State.team_of_teams h.teams]
  · rfl
theorem SameLine.lineView (h : SameLine l s t) : t.lineView l = s.lineView l := by
  rcases hm : s.mapOf l with _ | ⟨i, off⟩
  · have ht : t.mapOf l = none := h.mapOf.trans hm
    by_cases hc : ∃ c, (s.dirOf l).under = .owned c
    · obtain ⟨c, hc⟩ := hc
      rw [State.lineView_owned hm hc, State.lineView_owned ht (by rw [h.dir]; exact hc), h.copy, h.agent, h.mem]
    · rw [not_exists] at hc
      rw [State.lineView_home hm hc, State.lineView_home ht (by rw [h.dir]; exact hc), h.mem]
  · rw [State.lineView_mapped hm, State.lineView_mapped (h.mapOf.trans hm), State.spadGet, State.spadGet, State.team_of_teams h.teams]
theorem SameLine.refl (l : Nat) (s : State) : SameLine l s s := ⟨rfl, rfl, fun _ => rfl, fun _ => rfl, rfl⟩
theorem SameLine.trans {u : State} (h : SameLine l s t) (h' : SameLine l t u) : SameLine l s u :=
  ⟨h'.teams.trans h.teams, h'.dir.trans h.dir, fun c => (h'.copy c).trans (h.copy c), fun c => (h'.agent c).trans (h.agent c), h'.mem.trans h.mem⟩
theorem devByte_of_lineView {a : Nat} (h : t.lineView (lineOf a) = s.lineView (lineOf a)) : t.devByte a = s.devByte a := by rw [State.devByte, State.devByte, h]

/-! ### The first-level caches -/

theorem State.core_modCore (s : State) (c c' : Nat) (f : Core → Core) : (s.modCore c f).core c' = if c' = c then f (s.core c) else s.core c' := by
  change (tget (tset s.cores c _) c').getD _ = _
  rw [tget_tset]
  split <;> rfl
theorem State.victim_setL1 (s : State) (c l c' : Nat) (x : Option L1Line) : ((s.setL1 c l x).core c').victim = (s.core c').victim := by
  rw [State.setL1, State.core_modCore]
  split
  · next h => rw [h]
  · rfl
theorem State.l1Of_setL1 (hs : tsorted 0 (s.core c).l1 = true) (x : Option L1Line) (c' l' : Nat) : (s.setL1 c l x).l1Of c' l' = if c' = c ∧ l' = l then x else s.l1Of c' l' := by
  rw [State.l1Of, State.setL1, State.core_modCore]
  by_cases hc : c' = c
  · subst hc
    rw [if_pos rfl]
    cases x with
    | none => simpa [State.l1Of] using tget_tdel l l' hs
    | some v => simpa [State.l1Of] using tget_tset (s.core c').l1 l l' v
  · rw [if_neg hc, if_neg fun h => hc h.1]
    rfl
theorem State.setL1_sorted (hs : ∀ c, tsorted 0 (s.core c).l1 = true) (c l : Nat) (x : Option L1Line) (c' : Nat) : tsorted 0 ((s.setL1 c l x).core c').l1 = true := by
  rw [State.setL1, State.core_modCore]
  split
  · cases x with
    | none => exact tsorted_tdel l (hs c)
    | some v => exact tsorted_tset l v (hs c) (Nat.zero_le l)
  · exact hs c'
theorem State.copyData_setL1_other (hs : tsorted 0 (s.core c).l1 = true) (x : Option L1Line) {c' l' : Nat} (h : ¬ (c' = c ∧ l' = l)) : (s.setL1 c l x).copyData c' l' = s.copyData c' l' := by
  rw [State.copyData, State.copyData, State.l1Of_setL1 hs, if_neg h, State.victim_setL1]
theorem State.tidy_setL1 (h : s.Tidy) (x : Option L1Line) (hx : x = none ∨ tget (s.core c).victim l = none) : (s.setL1 c l x).Tidy where
  dir := h.dir
  agents := h.agents
  mem := h.mem
  l1 := State.setL1_sorted h.l1 c l x
  victim := fun c' => by
    rw [State.victim_setL1]
    exact h.victim c'
  apart := fun c' l' hl => by
    rw [State.victim_setL1]
    rw [State.l1Of_setL1 (h.l1 c)] at hl
    split at hl
    · next he =>
      obtain ⟨rfl, rfl⟩ := he
      exact hx.resolve_left hl
    · exact h.apart c' l' hl
/-- States that hold the same tables are tidy alike. -/
theorem State.Tidy.congr (h : s.Tidy) (hd : t.dir = s.dir) (ha : t.agents = s.agents) (hm : t.mem = s.mem) (hc : t.cores = s.cores) : t.Tidy := by
  have hcore (c : Nat) : t.core c = s.core c := by rw [State.core, State.core, hc]
  exact ⟨hd ▸ h.dir, ha ▸ h.agents, hm ▸ h.mem, fun c => hcore c ▸ h.l1 c, fun c => hcore c ▸ h.victim c, fun c l hl => by
    rw [State.l1Of, hcore] at hl
    rw [hcore]
    exact h.apart c l hl⟩

/-! ### What stands of a line while its core asks for it -/

/-- A step on the way of core c's request for a line: the tables of the caches stay tables, and of every line what the coherence order has stays as it was; of the line itself, every entry. -/
structure Beside (c line : Nat) (s t : State) : Prop where
  tidy : t.Tidy
  teams : t.teams = s.teams
  dir : t.dir = s.dir
  agents : t.agents = s.agents
  peerCopies : t.peerCopies = s.peerCopies
  mem : t.mem = s.mem
  own : t.l1Of c line = s.l1Of c line
  victim : tget (t.core c).victim line = tget (s.core c).victim line
  copy : ∀ c' l, t.copyData c' l = s.copyData c' l
def Aside (c line : Nat) (s t : State) : Prop := s.Tidy → Beside c line s t
theorem Beside.sameLine (h : Beside c line s t) (l : Nat) : SameLine l s t :=
  ⟨h.teams, by rw [State.dirOf, State.dirOf, h.dir], fun c' => h.copy c' l, fun c' => by rw [State.agentData, State.agentData, h.agents], by rw [State.memLine, State.memLine, h.mem]⟩
theorem aside_isFrame (c line : Nat) : IsFrame (Aside c line) where
  refl := fun _ h => ⟨h, rfl, rfl, rfl, rfl, rfl, rfl, rfl, fun _ _ => rfl⟩
  trans := fun hst htu hs => by
    have h := hst hs
    have h' := htu h.tidy
    exact ⟨h'.tidy, h'.teams.trans h.teams, h'.dir.trans h.dir, h'.agents.trans h.agents, h'.peerCopies.trans h.peerCopies, h'.mem.trans h.mem, h'.own.trans h.own, h'.victim.trans h.victim,
      fun c' l => (h'.copy c' l).trans (h.copy c' l)⟩
/-- A change of none of the tables of the caches. -/
theorem aside_of_same (hte : t.teams = s.teams) (hd : t.dir = s.dir) (ha : t.agents = s.agents) (hp : t.peerCopies = s.peerCopies) (hm : t.mem = s.mem) (hc : t.cores = s.cores) : Aside c line s t := fun h => by
  have hcore (c : Nat) : t.core c = s.core c := by rw [State.core, State.core, hc]
  exact ⟨h.congr hd ha hm hc, hte, hd, ha, hp, hm, by rw [State.l1Of, State.l1Of, hcore], by rw [hcore], fun c' l => by rw [State.copyData, State.copyData, State.l1Of, State.l1Of, hcore]⟩
/-- Core c's first-level entry of another line goes, silently or into the victim buffer. -/
theorem aside_evict_silent {vl : Nat} (hvl : vl ≠ line) (hd : dirtyCopy (s.l1Of c vl) = none) : Aside c line s (s.setL1 c vl none) := fun h => by
  refine ⟨State.tidy_setL1 h none (.inl rfl), rfl, rfl, rfl, rfl, rfl, ?_, by rw [State.victim_setL1], fun c' l => ?_⟩
  · rw [State.l1Of_setL1 (h.l1 c), if_neg fun he => hvl he.2.symm]
  · by_cases he : c' = c ∧ l = vl
    · obtain ⟨rfl, rfl⟩ := he
      rw [State.copyData, State.copyData, State.l1Of_setL1 (h.l1 c'), if_pos ⟨rfl, rfl⟩, State.victim_setL1, hd]
      rfl
    · exact State.copyData_setL1_other (h.l1 c) none he
/-- Core c's first-level entry of a line in its victim buffer. -/
def State.evictL1 (s : State) (c vl : Nat) (v : L1Line) : State := (s.setL1 c vl none).modCore c fun x => { x with victim := tset x.victim vl v }
theorem State.l1Of_evictL1 (s : State) (c vl : Nat) (v : L1Line) (c' l : Nat) : (s.evictL1 c vl v).l1Of c' l = (s.setL1 c vl none).l1Of c' l := by
  rw [State.l1Of, State.evictL1, State.core_modCore]
  split
  · next h => rw [h]; rfl
  · rfl
theorem State.victim_evictL1 (s : State) (c vl : Nat) (v : L1Line) (c' l : Nat) : tget ((s.evictL1 c vl v).core c').victim l = if c' = c ∧ l = vl then some v else tget (s.core c').victim l := by
  rw [State.evictL1, State.core_modCore]
  by_cases hc : c' = c
  · subst hc
    rw [if_pos rfl, tget_tset, State.victim_setL1]
    simp
  · rw [if_neg hc, State.victim_setL1, if_neg fun h => hc h.1]
theorem State.tidy_evictL1 (h : s.Tidy) {vl : Nat} {v : L1Line} : (s.evictL1 c vl v).Tidy := by
  have h' := State.tidy_setL1 (c := c) (l := vl) h none (.inl rfl)
  refine ⟨h.dir, h.agents, h.mem, fun c' => ?_, fun c' => ?_, fun c' l hl => ?_⟩
  · rw [State.evictL1, State.core_modCore]
    split
    · exact h'.l1 c
    · exact h'.l1 c'
  · rw [State.evictL1, State.core_modCore]
    split
    · exact tsorted_tset vl v (h'.victim c) (Nat.zero_le vl)
    · exact h'.victim c'
  · rw [State.l1Of_evictL1] at hl
    rw [State.victim_evictL1]
    split
    · next he =>
      obtain ⟨rfl, rfl⟩ := he
      rw [State.l1Of_setL1 (h.l1 c'), if_pos ⟨rfl, rfl⟩] at hl
      exact absurd rfl hl
    · rw [← State.victim_setL1 s c vl c' none]
      exact h'.apart c' l hl
theorem aside_evict_victim {vl : Nat} {v : L1Line} (hvl : vl ≠ line) (hv : s.l1Of c vl = some v) : Aside c line s (s.evictL1 c vl v) := fun h => by
  refine ⟨State.tidy_evictL1 h, rfl, rfl, rfl, rfl, rfl, ?_, ?_, fun c' l => ?_⟩
  · rw [State.l1Of_evictL1, State.l1Of_setL1 (h.l1 c), if_neg fun he => hvl he.2.symm]
  · rw [State.victim_evictL1, if_neg fun he => hvl he.2.symm]
  · rw [State.copyData, State.copyData, State.l1Of_evictL1, State.l1Of_setL1 (h.l1 c), State.victim_evictL1]
    by_cases he : c' = c ∧ l = vl
    · obtain ⟨rfl, rfl⟩ := he
      rw [if_pos ⟨rfl, rfl⟩, if_pos ⟨rfl, rfl⟩, hv, h.apart c' l (by rw [hv]; nofun)]
      cases v <;> rfl
    · rw [if_neg he, if_neg he]


/-! ### Actions that make a place or wait (R280, R283, R292, R295) -/

/-- An action that gives no answer. -/
def M.Fails {α : Type} (m : M α) : Prop := ∀ s a t, m s ≠ (.ok a, t)
section
variable {α β : Type} {m : M α} {R : State → State → Prop} {P : α → Prop}
theorem M.Fails.bind {f : α → M β} (hf : ∀ a, M.Fails (f a)) : M.Fails (m >>= f) := fun s b t h => by
  obtain ⟨a, s1, -, hb⟩ := M.bind_eq_ok.mp h
  exact hf a s1 b t hb
theorem M.Fails.ite {p : Prop} [Decidable p] {n : M α} (hm : M.Fails m) (hn : M.Fails n) : M.Fails (if p then m else n) := by
  split
  · exact hm
  · exact hn
theorem M.Fails.ensures (h : M.Fails m) : M.Ensures R P m := fun s a t he => absurd he (h s a t)
theorem throw_fails {e : Stop} : M.Fails (throw e : M α) := fun _ _ _ h => by cases h
theorem waitLine_fails (l : Nat) : M.Fails (waitLine l : M α) := .bind fun _ => throw_fails
end
theorem snoopSector_aside (w : Bool) (n : Nat) : M.Ensures (Aside c line) (fun _ => True) (snoopSector w n) := by
  refine .get_bind fun _ => .ite (fun _ => M.Fails.ensures ?_) fun _ => .pure (aside_isFrame c line) trivial
  refine .ite (.bind fun _ => ?_) ?_ <;> exact .ite (.bind fun _ => waitLine_fails _) (waitLine_fails _)
theorem snoopSectors_aside (pa n : Nat) (w : Bool) : M.Ensures (Aside c line) (fun _ => True) (snoopSectors pa n w) := .forM' (aside_isFrame c line) fun n _ => snoopSector_aside w n
theorem lineFree_aside (l : Nat) : M.Ensures (Aside c line) (fun _ => True) (lineFree l) :=
  .get_bind fun _ => .ite (fun _ => throw_fails.ensures) fun _ => .ite (fun _ => (waitLine_fails l).ensures) fun _ => .modify (fun _ => aside_of_same rfl rfl rfl rfl rfl rfl) trivial
theorem clearPeers_aside (l : Nat) : M.Ensures (Aside c line) (fun _ => True) (clearPeers l) :=
  .bind (aside_isFrame c line) (lineFree_aside l) fun _ _ => .get_bind fun _ => .ite (fun _ => .pure (aside_isFrame c line) trivial) fun _ => (M.Fails.bind fun _ => waitLine_fails l).ensures
/-- A way in the first level for a line that core c does not hold. -/
theorem l1Room_aside (hs : s.Tidy) {t : State} (h : l1Room c line s = (.ok (), t)) : Beside c line s t := by
  obtain ⟨_, _, hget, h⟩ := M.bind_eq_ok.mp h
  cases hget
  rcases ite_eq_iff.mp ((M.run_ite ..).symm.trans h) with ⟨-, h⟩ | ⟨hn, h⟩
  · cases h
    exact (aside_isFrame c line).refl s hs
  · have hfree : Aside c line s { s with free := s.free + 1 } := aside_of_same rfl rfl rfl rfl rfl rfl
    have hl : s.l1Of c line = none := by simpa using (by simpa using hn : _ ∧ _).1
    obtain ⟨f, s1, hf, h⟩ := M.bind_eq_ok.mp h
    cases (M.run_freeM s).symm.trans hf
    refine (aside_isFrame c line).trans hfree ?_ hs
    rcases hv : (setLines (s.core c).l1 line)[Config.freeNat s.free % 16]? with _ | ⟨vl, v⟩
    · rw [hv] at h
      cases h
      exact (aside_isFrame c line).refl _
    · rw [hv] at h
      have hmem : (vl, v) ∈ (s.core c).l1 := (List.mem_filter.mp (List.mem_of_getElem? hv)).1
      have hvl : s.l1Of c vl = some v := (tget_of_mem (hs.l1 c) hmem).1
      have hne : vl ≠ line := fun he => by
        rw [he, hl] at hvl
        cases hvl
      have hput (h : (if 32 ≤ (s.core c).victim.length then holdM else modify fun s => s.evictL1 c vl v : M Unit) { s with free := s.free + 1 } = (.ok (), t)) :
          Aside c line { s with free := s.free + 1 } t := by
        rcases ite_eq_iff.mp ((M.run_ite ..).symm.trans h) with ⟨-, h⟩ | ⟨-, h⟩
        · cases h
        · cases h
          exact aside_evict_victim hne hvl
      cases v with
      | s =>
        cases h
        exact aside_evict_silent hne (congrArg dirtyCopy hvl)
      | e =>
        cases h
        exact aside_evict_silent hne (congrArg dirtyCopy hvl)
      | m d => exact hput h
      | c g sigma d => exact hput h

end Sys2Proof.Machine
end

section
/-! PROOFS. The frame of stores and loads: O47. -/
namespace Sys2Proof.Machine

variable {s t u : State} {c line l : Nat}

/-! ### A line that its core can take, or holds alone -/

theorem State.Quiet.of_beside (hq : s.Quiet c line) (h : Beside c line s t) : t.Quiet c line := by
  obtain ⟨hm, hv, ha, hh, hf, hd⟩ := hq
  have hcount (sl : Nat) : t.sliceCount sl = s.sliceCount sl := by rw [State.sliceCount, State.sliceCount, h.dir, h.agents, h.peerCopies]
  refine ⟨(h.sameLine line).mapOf.trans hm, h.victim.trans hv, fun st d => by rw [h.agents]; exact ha st d, by rw [hcount]; exact hh, fun st hst => by rw [hcount]; exact hf st hst, ?_⟩
  rw [(h.sameLine line).dir, h.own]
  exact hd
theorem State.Quiet.holders (hq : s.Quiet c line) : ∀ o, o ∈ (s.dirOf line).holders → o = c := by
  obtain ⟨-, -, -, -, -, ⟨hd, -⟩ | ⟨hd, -⟩⟩ := hq <;> rw [hd]
  · exact fun o ho => absurd ho List.not_mem_nil
  · exact fun o ho => List.mem_singleton.mp ho
theorem State.Quiet.agentDirty (hq : s.Quiet c line) (st : Nat) : dirtyAgent (tget s.agents (agentKey st line)) = none := by
  obtain ⟨-, -, ha, -⟩ := hq
  rcases h : tget s.agents (agentKey st line) with _ | _ | d
  · rfl
  · rfl
  · exact absurd h (ha st d)
theorem State.Quiet.agentData (hq : s.Quiet c line) (c' : Nat) : s.agentData c' line = none := by
  rw [State.agentData]
  cases foreignStack c' line with
  | none => rfl
  | some st => exact hq.agentDirty st
theorem State.Quiet.copyData (hq : s.Quiet c line) : s.copyData c line = dirtyCopy (s.l1Of c line) := by
  obtain ⟨-, hv, -⟩ := hq
  rw [State.copyData, hv]
  exact Option.or_none
/-- Of a quiet line the coherence order has what its core holds of it, or the home. -/
theorem State.Quiet.lineView (hq : s.Quiet c line) : s.lineView line = (dirtyCopy (s.l1Of c line)).getD (s.memLine line) := by
  obtain ⟨hm, -, -, -, -, ⟨hd, hl⟩ | ⟨hd, -⟩⟩ := id hq
  · rw [State.lineView_home hm (by rw [hd]; nofun), hl]
    rfl
  · rw [State.lineView_owned hm (by rw [hd]; rfl), hq.copyData, hq.agentData, Option.or_none]
theorem State.Quiet.length_lineView (hq : s.Quiet c line) : (s.lineView line).length = 128 := by
  rw [hq.lineView]
  obtain ⟨-, -, -, -, -, ⟨-, hl⟩ | ⟨-, hl | ⟨d, hl, hlen⟩⟩⟩ := hq <;> rw [hl]
  · exact length_memGetN ..
  · exact length_memGetN ..
  · exact hlen
theorem State.Quiet.cleanAgents (hq : s.Quiet c line) : s.cleanAgents line = s := by
  obtain ⟨-, -, ha, -⟩ := hq
  refine List.foldl_fixed' (fun st => ?_) _
  rcases h : tget s.agents (agentKey st line) with _ | _ | d
  · rw [State.cleanAgent, h]
  · rw [State.cleanAgent, h]
  · exact absurd h (ha st d)
theorem State.Quiet.settle (hq : s.Quiet c line) : s.settle c line = s := by
  have hu : s.unbusy line = s := by
    obtain ⟨-, -, -, -, -, ⟨hd, -⟩ | ⟨hd, -⟩⟩ := hq <;> rw [State.unbusy, hd]
  obtain ⟨-, hv, -⟩ := id hq
  rw [State.settle, hv]
  rw [if_neg (by decide), hu, hq.cleanAgents]
theorem State.Quiet.copyRoom (hq : s.Quiet c line) : copyRoom c line s = (.ok (), s) := by
  obtain ⟨-, -, -, hh, hf, -⟩ := hq
  have hroom {sl : Nat} (h : s.sliceCount sl < sliceLines) : sliceRoom sl s = (.ok (), s) := M.get_step (M.ite_step_pos h rfl)
  have hhome : homeRoom line s = (.ok (), s) := by
    by_cases hd : s.dirOf line ≠ .uncached
    · exact M.get_step (M.ite_step_pos hd rfl)
    · exact M.get_step (M.ite_step_neg hd (hroom hh))
  refine M.bind_step hhome (M.get_step ?_)
  cases hst : foreignStack c line with
  | none => rfl
  | some st =>
    by_cases ha : (tget s.agents (agentKey st line)).isSome = true
    · exact M.ite_step_pos ha rfl
    · exact M.ite_step_neg ha (hroom (hf st hst))

/-! ### A line's state at its home -/

theorem dirtyAgent_follow {a : Tbl AgentCopy} (hs : tsorted 0 a = true) (hn : ∀ st, dirtyAgent (tget a (agentKey st line)) = none) (d : LineState) :
    tsorted 0 (followAgents a line d) = true ∧ ∀ k, dirtyAgent (tget (followAgents a line d) k) = dirtyAgent (tget a k) := by
  refine List.foldlRecOn (motive := fun x : Tbl AgentCopy => tsorted 0 x = true ∧ ∀ k, dirtyAgent (tget x k) = dirtyAgent (tget a k)) _ _ ⟨hs, fun _ => rfl⟩ fun x ⟨hx, hk⟩ st _ => ?_
  have hst := (hk (agentKey st line)).trans (hn st)
  split
  · split
    · exact ⟨hx, hk⟩
    · refine ⟨tsorted_tset _ _ hx (Nat.zero_le _), fun k => ?_⟩
      rw [tget_tset]
      split
      · next h => rw [h, hn st]; rfl
      · exact hk k
  · refine ⟨tsorted_tdel _ hx, fun k => ?_⟩
    rw [tget_tdel _ _ hx]
    split
    · next h => rw [h, hn st]; rfl
    · exact hk k
section
variable (hs : s.Tidy) (hn : ∀ st, dirtyAgent (tget s.agents (agentKey st line)) = none) (d : LineState)
include hs
theorem State.dirOf_setDir_same : (s.setDir line d).dirOf line = d := dget_dset_same hs.dir line d
include hn
theorem State.tidy_setDir : (s.setDir line d).Tidy := ⟨tsorted_dset hs.dir line d, (dirtyAgent_follow hs.agents hn d).1, hs.mem, hs.l1, hs.victim, hs.apart⟩
theorem sameLine_setDir (hl : l ≠ line) : SameLine l s (s.setDir line d) :=
  ⟨rfl, dget_dset_other hs.dir d hl, fun _ => rfl, fun c' => congrArg (fun f => (foreignStack c' l).bind f) (funext fun st => (dirtyAgent_follow hs.agents hn d).2 (agentKey st l)), rfl⟩
end
theorem sameLine_setL1 (hs : s.Tidy) (x : Option L1Line) (hl : l ≠ line) : SameLine l s (s.setL1 c line x) :=
  ⟨rfl, rfl, fun _ => State.copyData_setL1_other (hs.l1 c) x fun h => hl h.2, fun _ => rfl, rfl⟩
/-- A line that core c has taken with data of its own. -/
def State.taken (s : State) (c line : Nat) (d : Bytes) : State := (s.setL1 c line (some (.m d))).setDir line (.owned c)
section
variable (hs : s.Tidy) (hq : s.Quiet c line) (d : Bytes)
include hs hq
theorem State.tidy_taken : (s.taken c line d).Tidy := by
  obtain ⟨-, hv, -⟩ := id hq
  exact State.tidy_setDir (State.tidy_setL1 hs _ (.inr hv)) (fun st => hq.agentDirty st) _
omit hq in
theorem State.l1Of_taken : (s.taken c line d).l1Of c line = some (.m d) := (State.l1Of_setL1 (hs.l1 c) (some (.m d)) c line).trans (if_pos ⟨rfl, rfl⟩)
theorem State.dirOf_taken : (s.taken c line d).dirOf line = .owned c := by
  obtain ⟨-, hv, -⟩ := id hq
  exact State.dirOf_setDir_same (State.tidy_setL1 hs _ (.inr hv)) _
theorem sameLine_taken (hl : l ≠ line) : SameLine l s (s.taken c line d) := by
  obtain ⟨-, hv, -⟩ := id hq
  exact (sameLine_setL1 hs _ hl).trans (sameLine_setDir (State.tidy_setL1 hs _ (.inr hv)) (fun st => hq.agentDirty st) _ hl)
end
theorem State.mapOf_owned {c' : Nat} (h : s.dirOf line = .owned c') : s.mapOf line = none := by rw [State.mapOf, h]
theorem State.mapOf_uncached (h : s.dirOf line = .uncached) : s.mapOf line = none := by rw [State.mapOf, h]
theorem State.lineView_dirty {d : Bytes} (hd : s.dirOf line = .owned c) (hl : s.l1Of c line = some (.m d)) : s.lineView line = d := by
  rw [State.lineView_owned (State.mapOf_owned hd) (by rw [hd]; rfl), State.copyData, hl]
  rfl

/-- A line whose data its holder has given up to the home (R282). -/
structure Homed (line : Nat) (s t : State) : Prop where
  tidy : t.Tidy
  agents : t.agents = s.agents
  others : ∀ l, l ≠ line → SameLine l s t
  mem : t.memLine line = s.lineView line
theorem State.memLine_putLine {d : Bytes} (hm : Memory.wf s.mem = true) (hd : d.length = 128) : (s.putLine line d).memLine line = d := by
  rw [State.memLine, State.putLine, ← hd, memGetN_memPutN_same _ _ hm]
theorem memLine_other {m : List Host.Cell} {a : Nat} {b : Bytes} (hm : Memory.wf m = true) (hb : a % 128 + b.length ≤ 128) (hl : l ≠ lineOf a) : memGetN (memPutN m a b) (128 * l) 128 = memGetN m (128 * l) 128 := by
  rw [memGetN_eq_map, memGetN_eq_map]
  refine List.map_congr_left fun i hi => memGet_memPutN_of_out hm ?_
  have hi := List.mem_range.mp hi
  unfold lineOf at hl
  omega
theorem lineOf_line (line : Nat) : lineOf (128 * line) = line := Nat.mul_div_cancel_left line (by decide)
theorem State.tidy_putLine (hs : s.Tidy) (d : Bytes) : (s.putLine line d).Tidy := ⟨hs.dir, hs.agents, memPutN_wf _ _ hs.mem, hs.l1, hs.victim, hs.apart⟩
theorem sameLine_putLine {d : Bytes} (hs : s.Tidy) (hd : d.length = 128) (hl : l ≠ line) : SameLine l s (s.putLine line d) :=
  ⟨rfl, rfl, fun _ => rfl, fun _ => rfl, memLine_other hs.mem (by omega) (by rw [lineOf_line]; exact hl)⟩
theorem homed_invalidate (hs : s.Tidy) (hq : s.Quiet c line) : Homed line s (s.invalidateOthers none line) := by
  have hview := hq.lineView
  obtain ⟨-, hv, -, -, -, hd⟩ := id hq
  rcases hd with ⟨hd, hl⟩ | ⟨hd, hl⟩
  · have he : s.invalidateOthers none line = s := by rw [State.invalidateOthers, hd]; rfl
    rw [hl] at hview
    rw [he]
    exact ⟨hs, rfl, fun l _ => SameLine.refl l s, hview.symm⟩
  · have he : s.invalidateOthers none line = s.invalidateAt c line := by rw [State.invalidateOthers, hd]; rfl
    rw [he, State.invalidateAt, hq.cleanAgents]
    rcases hl with hl | ⟨d, hl, hlen⟩
    · rw [hl] at hview ⊢
      dsimp only
      rw [State.victim_setL1, hv]
      exact ⟨State.tidy_setL1 hs _ (.inl rfl), rfl, fun l h => sameLine_setL1 hs none h, hview.symm⟩
    · rw [hl] at hview ⊢
      dsimp only
      rw [State.victim_setL1]
      change Homed line s (match tget (s.core c).victim line with | some (.m d) => _ | _ => _)
      rw [hv]
      refine ⟨State.tidy_setL1 (State.tidy_putLine hs d) _ (.inl rfl), rfl, fun l h => (sameLine_putLine hs hlen h).trans (sameLine_setL1 (State.tidy_putLine hs d) none h), ?_⟩
      exact (State.memLine_putLine hs.mem hlen).trans hview.symm
theorem State.invalidateOthers_own (hq : s.Quiet c line) : s.invalidateOthers (some c) line = s := by
  have h := hq.holders
  rw [State.invalidateOthers]
  obtain ⟨-, -, -, -, -, ⟨hd, -⟩ | ⟨hd, -⟩⟩ := hq <;> rw [hd]
  · rfl
  · exact if_pos rfl
/-- A line in the first level of core c. -/
theorem fillL1_ok (hs : s.Tidy) {x : L1Line} (h : fillL1 c line x s = (.ok (), t)) : ∃ u, Beside c line s u ∧ t = u.setL1 c line (some x) := by
  obtain ⟨_, u, hr, h⟩ := M.bind_eq_ok.mp h
  cases h
  exact ⟨u, l1Room_aside hs hr, rfl⟩
/-- The data with which core c takes a line. -/
def State.takenData (s : State) (c line : Nat) : Bytes := match s.l1Of c line with
  | some (.m d) => d
  | _ => s.memLine line
theorem State.Quiet.takenData (hq : s.Quiet c line) : s.takenData c line = s.lineView line := by
  rw [hq.lineView, State.takenData]
  rcases s.l1Of c line with _ | _ | _ | d | _ <;> rfl
/-- A request to write a line that is neither mapped nor in the Churn state, a sector of it held by another party or not. -/
def ownPlain (c line : Nat) (held : Bool) : M Bool :=
  if held then do
    modify fun s => (s.invalidateOthers none line).setDir line .uncached
    return false
  else do
    copyRoom c line
    l1Room c line
    modify fun s => s.invalidateOthers (some c) line
    let s ← get
    fillL1 c line (.m (s.takenData c line))
    modify fun s => s.setDir line (.owned c)
    return true
/-- What a request to write a line leaves: the line taken by its core, or its data at the home (R282, R293). -/
def Owned (c line : Nat) (s : State) (held : Bool) (t : State) : Prop := ∃ u, Beside c line s u
    ∧ (held = true ∧ t = u.taken c line (s.lineView line) ∨ held = false ∧ t = (u.invalidateOthers none line).setDir line .uncached)
theorem ownPlain_quiet (hs : s.Tidy) (hq : s.Quiet c line) {out held : Bool} (h : ownPlain c line out s = (.ok held, t)) : Owned c line s held t := by
  have hb := (aside_isFrame c line).refl s hs
  cases out with
  | true =>
    cases h
    exact ⟨s, hb, .inr ⟨rfl, rfl⟩⟩
  | false =>
    obtain ⟨_, s1, hc, hroom⟩ := M.bind_eq_ok.mp h
    cases hq.copyRoom.symm.trans hc
    obtain ⟨_, s2, hr, hinv⟩ := M.bind_eq_ok.mp hroom
    have h2 := l1Room_aside hs hr
    have hq2 := hq.of_beside h2
    obtain ⟨_, s3, hm, hget⟩ := M.bind_eq_ok.mp hinv
    have h3 : s3 = s2.invalidateOthers (some c) line := by cases hm; rfl
    rw [State.invalidateOthers_own hq2] at h3
    rw [h3] at hget
    obtain ⟨_, _, hg, hfill⟩ := M.bind_eq_ok.mp hget
    cases hg
    obtain ⟨_, s4, hf, hset⟩ := M.bind_eq_ok.mp hfill
    obtain ⟨u, hu, rfl⟩ := fillL1_ok h2.tidy hf
    cases hset
    have hdata : s2.takenData c line = s.lineView line := hq2.takenData.trans (h2.sameLine line).lineView
    exact ⟨u, (aside_isFrame c line).trans (fun _ => h2) (fun _ => hu) hs, .inl ⟨rfl, by rw [← hdata]; rfl⟩⟩
theorem readOwn_quiet (hs : s.Tidy) (hq : s.Quiet c line) {held : Bool} (h : readOwn c line s = (.ok held, t)) : Owned c line s held t := by
  obtain ⟨_, s0, hm, hclear⟩ := M.bind_eq_ok.mp h
  have hs0 : s0 = s.settle c line := by cases hm; rfl
  rw [hq.settle] at hs0
  rw [hs0] at hclear
  obtain ⟨_, s1, hc, hrest⟩ := M.bind_eq_ok.mp hclear
  have h1 : Beside c line s s1 := (clearPeers_aside line _ _ _ hc).2 hs
  have hq1 := hq.of_beside h1
  obtain ⟨_, _, hg, hrest⟩ := M.bind_eq_ok.mp hrest
  cases hg
  have hplain : ownPlain c line (s1.lineHeld line) s1 = (.ok held, t) := by
    obtain ⟨-, -, -, -, -, ⟨hd, -⟩ | ⟨hd, -⟩⟩ := id hq1 <;> rw [hd] at hrest <;> exact hrest
  obtain ⟨u, hu, hcase⟩ := ownPlain_quiet h1.tidy hq1 hplain
  rw [(h1.sameLine line).lineView] at hcase
  exact ⟨u, (aside_isFrame c line).trans (fun _ => h1) (fun _ => hu) hs, hcase⟩

/-! ### Bytes within a line -/

theorem patch_getD {d b : Bytes} {off : Nat} (h : off + b.length ≤ d.length) (i : Nat) : (patch d off b).getD i 0 = if off ≤ i ∧ i < off + b.length then b.getD (i - off) 0 else d.getD i 0 := by
  have hlen : (d.take off).length = off := by rw [List.length_take]; omega
  simp only [patch, List.getD_eq_getElem?_getD, List.append_assoc]
  rcases Nat.lt_or_ge i off with hlt | hge
  · rw [List.getElem?_append_left (by omega), List.getElem?_take, if_pos hlt, if_neg (by omega)]
  · rw [List.getElem?_append_right (by omega), hlen]
    rcases Nat.lt_or_ge i (off + b.length) with hin | hout
    · rw [List.getElem?_append_left (by omega), if_pos ⟨hge, hin⟩]
    · rw [List.getElem?_append_right (by omega), List.getElem?_drop, if_neg (by omega)]
      congr 2
      omega
theorem memGetN_getD (m : List Host.Cell) (a : Nat) {i n : Nat} (hi : i < n) : (memGetN m a n).getD i 0 = memGet m (a + i) := by
  rw [memGetN_eq_map, List.getD_eq_getElem?_getD, List.getElem?_map, List.getElem?_range hi]
  rfl
/-- Bytes written to the line that holds an address, and every other line as it was. -/
def Written (pa : Nat) (b : Bytes) (s t : State) : Prop :=
  (∀ i, i < 128 → (t.lineView (lineOf pa)).getD i 0 = if pa % 128 ≤ i ∧ i < pa % 128 + b.length then b.getD (i - pa % 128) 0 else (s.lineView (lineOf pa)).getD i 0)
    ∧ ∀ l, l ≠ lineOf pa → t.lineView l = s.lineView l
theorem Written.devByte {pa : Nat} {b : Bytes} (h : Written pa b s t) (hb : pa % 128 + b.length ≤ 128) (a : Nat) : t.devByte a = if pa ≤ a ∧ a < pa + b.length then b.getD (a - pa) 0 else s.devByte a := by
  obtain ⟨hview, hothers⟩ := h
  by_cases hl : lineOf a = lineOf pa
  · rw [State.devByte, State.devByte, hl, hview _ (Nat.mod_lt a (by decide))]
    unfold lineOf at hl
    by_cases hin : pa ≤ a ∧ a < pa + b.length
    · rw [if_pos hin, if_pos (by omega)]
      congr 1
      omega
    · rw [if_neg hin, if_neg (by omega)]
  · rw [devByte_of_lineView (hothers _ hl), if_neg (by unfold lineOf at hl; omega)]

/-! ### Stores (R282, R290) -/

theorem written_taken {pa : Nat} {b : Bytes} (hs : u.Tidy) (hq : u.Quiet c (lineOf pa)) (hb : pa % 128 + b.length ≤ 128) (hu : ∀ l, u.lineView l = s.lineView l) :
    Written pa b s ((u.taken c (lineOf pa) (s.lineView (lineOf pa))).setL1 c (lineOf pa) (some (.m (patch (s.lineView (lineOf pa)) (pa % 128) b)))) := by
  have ht := State.tidy_taken hs hq (s.lineView (lineOf pa))
  have hd : ((u.taken c (lineOf pa) (s.lineView (lineOf pa))).setL1 c (lineOf pa) (some (.m (patch (s.lineView (lineOf pa)) (pa % 128) b)))).dirOf (lineOf pa) = .owned c :=
    State.dirOf_taken hs hq (s.lineView (lineOf pa))
  have hlen := hq.length_lineView
  rw [hu] at hlen
  refine ⟨fun i _ => ?_, fun l hl => ((sameLine_setL1 ht _ hl).lineView.trans (sameLine_taken hs hq _ hl).lineView).trans (hu l)⟩
  have hl := (State.l1Of_setL1 (ht.l1 c) (some (.m (patch (s.lineView (lineOf pa)) (pa % 128) b))) c (lineOf pa)).trans (if_pos ⟨rfl, rfl⟩)
  rw [State.lineView_dirty hd hl, patch_getD (by rw [hlen]; exact hb)]
/-- Bytes written to memory. -/
def State.wrote (s : State) (pa : Nat) (b : Bytes) : State := { s with mem := memPutN s.mem pa b }
theorem written_uncached {pa : Nat} {b : Bytes} (hd : u.dirOf (lineOf pa) = .uncached) (hm : Memory.wf u.mem = true) (hb : pa % 128 + b.length ≤ 128) (hline : u.memLine (lineOf pa) = s.lineView (lineOf pa))
    (hothers : ∀ l, l ≠ lineOf pa → u.lineView l = s.lineView l) : Written pa b s (u.putAt pa b) := by
  have hput : u.putAt pa b = u.wrote pa b := by rw [State.putAt, State.mapOf_uncached hd, State.wrote]
  have hd' : (u.wrote pa b).dirOf (lineOf pa) = .uncached := hd
  rw [hput]
  refine ⟨fun i hi => ?_, fun l hl => ?_⟩
  · have hmem : 128 * lineOf pa + pa % 128 = pa := Nat.div_add_mod pa 128
    have hline : (s.lineView (lineOf pa)).getD i 0 = memGet u.mem (128 * lineOf pa + i) := by rw [← hline, State.memLine, memGetN_getD _ _ hi]
    have hafter : ((u.wrote pa b).memLine (lineOf pa)).getD i 0 = memGet (memPutN u.mem pa b) (128 * lineOf pa + i) := memGetN_getD _ _ hi
    rw [State.lineView_home (State.mapOf_uncached hd') (by rw [hd']; nofun), hafter, hline, memGet_memPutN _ _ _ hm]
    by_cases hin : pa % 128 ≤ i ∧ i < pa % 128 + b.length
    · rw [if_pos hin, if_pos (by omega)]
      congr 1
      omega
    · rw [if_neg hin, if_neg (by omega)]
  · have hsame : SameLine l u (u.wrote pa b) := ⟨rfl, rfl, fun _ => rfl, fun _ => rfl, memLine_other hm hb hl⟩
    exact hsame.lineView.trans (hothers l hl)
theorem written_home {pa : Nat} {b : Bytes} (hs : u.Tidy) (hq : u.Quiet c (lineOf pa)) (hb : pa % 128 + b.length ≤ 128) (hu : ∀ l, u.lineView l = s.lineView l) :
    Written pa b s (((u.invalidateOthers none (lineOf pa)).setDir (lineOf pa) .uncached).putAt pa b) := by
  have hv := homed_invalidate hs hq
  have hn (st : Nat) : dirtyAgent (tget (u.invalidateOthers none (lineOf pa)).agents (agentKey st (lineOf pa))) = none := by
    rw [hv.agents]
    exact hq.agentDirty st
  exact written_uncached (State.dirOf_setDir_same hv.tidy _) hv.tidy.mem hb (hv.mem.trans (hu _)) fun l hl => ((sameLine_setDir hv.tidy hn .uncached hl).lineView.trans (hv.others l hl).lineView).trans (hu l)
/-- A store of core c to a quiet line: the line is taken and its data changed there, or the home's bytes are. -/
theorem coreStore_ok {pa : Nat} {b : Bytes} (hs : s.Tidy) (hq : s.Quiet c (lineOf pa)) (h : coreStore c pa b s = (.ok (), t)) : ∃ u v, Beside c (lineOf pa) s u ∧ SameParties s v
    ∧ (v = u.taken c (lineOf pa) (s.lineView (lineOf pa)) ∧ t = v.setL1 c (lineOf pa) (some (.m (patch (s.lineView (lineOf pa)) (pa % 128) b)))
      ∨ v = (u.invalidateOthers none (lineOf pa)).setDir (lineOf pa) .uncached ∧ t = v.putAt pa b) := by
  obtain ⟨_, s1, hsnoop, hrest⟩ := M.bind_eq_ok.mp h
  have h1 : Beside c (lineOf pa) s s1 := (snoopSectors_aside pa b.length true _ _ _ hsnoop).2 hs
  obtain ⟨held, s2, hown, hput⟩ := M.bind_eq_ok.mp hrest
  obtain ⟨u, hu, hcase⟩ := readOwn_quiet h1.tidy (hq.of_beside h1) hown
  have hp : SameParties s s2 := sameParties_isFrame.trans ((snoopSectors_sameParties pa b.length true).ensures _ _ _ hsnoop).2 ((readOwn_sameParties c (lineOf pa)).ensures _ _ _ hown).2
  refine ⟨u, s2, (aside_isFrame c (lineOf pa)).trans (fun _ => h1) (fun _ => hu) hs, hp, ?_⟩
  rw [(h1.sameLine _).lineView] at hcase
  rcases hcase with ⟨rfl, rfl⟩ | ⟨rfl, rfl⟩
  · have hl := State.l1Of_taken (c := c) (line := lineOf pa) hu.tidy (s.lineView (lineOf pa))
    cases hput
    dsimp only
    rw [if_pos rfl, hl]
    exact .inl ⟨rfl, rfl⟩
  · cases hput
    exact .inr ⟨rfl, rfl⟩
theorem coreStore_written {pa : Nat} {b : Bytes} (hs : s.Tidy) (hq : s.Quiet c (lineOf pa)) (hb : pa % 128 + b.length ≤ 128) (h : coreStore c pa b s = (.ok (), t)) : Written pa b s t := by
  obtain ⟨u, _, hu, -, ⟨rfl, rfl⟩ | ⟨rfl, rfl⟩⟩ := coreStore_ok hs hq h
  · exact written_taken hu.tidy (hq.of_beside hu) hb fun l => (hu.sameLine l).lineView
  · exact written_home hu.tidy (hq.of_beside hu) hb fun l => (hu.sameLine l).lineView
theorem coreStore_parties {pa : Nat} {b : Bytes} (hs : s.Tidy) (hq : s.Quiet c (lineOf pa)) (h : coreStore c pa b s = (.ok (), t)) : SameParties s t := by
  obtain ⟨u, v, hu, hp, ⟨-, rfl⟩ | ⟨rfl, rfl⟩⟩ := coreStore_ok hs hq h
  · exact hp
  · have hd := State.dirOf_setDir_same (line := lineOf pa) (homed_invalidate hu.tidy (hq.of_beside hu)).tidy .uncached
    rw [State.putAt, State.mapOf_uncached hd]
    exact hp

/-! ### Loads (R282) -/

/-- A line that core c has taken to read, alone or not. -/
def State.takenClean (s : State) (c line : Nat) (x : L1Line) (d : LineState) : State := (s.setL1 c line (some x)).setDir line d
theorem State.agentData_setDir (hs : s.Tidy) (hq : s.Quiet c line) (d : LineState) (c' : Nat) : (s.setDir line d).agentData c' line = none := by
  rw [State.agentData]
  cases foreignStack c' line with
  | none => rfl
  | some st => exact ((dirtyAgent_follow hs.agents hq.agentDirty d).2 _).trans (hq.agentDirty st)
theorem State.mapOf_shared {v : List Nat} (h : s.dirOf line = .shared v) : s.mapOf line = none := by rw [State.mapOf, h]
theorem lineView_takenClean {x : L1Line} {d : LineState} (hs : s.Tidy) (hq : s.Quiet c line) (hd : s.dirOf line = .uncached) (hx : dirtyCopy (some x) = none) (ho : d = .owned c ∨ d = .shared [c]) (l : Nat) :
    (s.takenClean c line x d).lineView l = s.lineView l := by
  obtain ⟨-, hv, -⟩ := id hq
  have h1 := State.tidy_setL1 (c := c) (l := line) hs (some x) (.inr hv)
  by_cases hl : l = line
  · subst hl
    have hdir : (s.takenClean c l x d).dirOf l = d := State.dirOf_setDir_same h1 d
    rw [State.lineView_home (State.mapOf_uncached hd) (by rw [hd]; nofun)]
    rcases ho with rfl | rfl
    · have hcopy : (s.takenClean c l x (.owned c)).copyData c l = none := by
        have h : (s.setL1 c l (some x)).copyData c l = none := by rw [State.copyData, State.l1Of_setL1 (hs.l1 c), if_pos ⟨rfl, rfl⟩, hx, State.victim_setL1, hv]; rfl
        exact h
      have hagent : (s.takenClean c l x (.owned c)).agentData c l = none := State.agentData_setDir hs hq (.owned c) c
      rw [State.lineView_owned (State.mapOf_owned hdir) (by rw [hdir]; rfl), hcopy, hagent]
      rfl
    · rw [State.lineView_home (State.mapOf_shared hdir) (by rw [hdir]; nofun)]
      rfl
  · exact ((sameLine_setDir h1 hq.agentDirty d hl).lineView).trans (sameLine_setL1 hs _ hl).lineView
/-- A request to read a line that its core does not hold, and that no one else holds: a sector of it owned by another party, or a copy of it there. -/
def readPlain (c line : Nat) (out held : Bool) : M Bool :=
  if out then return false
  else do
    copyRoom c line
    l1Room c line
    modify fun s => ([] : List Nat).foldl (fun s o => s.recallShared o line) s
    if !held then
      fillL1 c line .e
      modify fun s => s.setDir line (.owned c)
    else
      fillL1 c line .s
      modify fun s => s.setDir line (.shared [c])
    return true
/-- What a request to read a quiet line leaves: the coherence order has every line as it had it. -/
theorem readPlain_quiet (hs : s.Tidy) (hq : s.Quiet c line) (hd : s.dirOf line = .uncached) {out part held : Bool} (h : readPlain c line out part s = (.ok held, t)) (l : Nat) : t.lineView l = s.lineView l := by
  cases out with
  | true =>
    cases h
    rfl
  | false =>
    obtain ⟨_, s1, hc, hroom⟩ := M.bind_eq_ok.mp h
    cases hq.copyRoom.symm.trans hc
    obtain ⟨_, s2, hr, hrecall⟩ := M.bind_eq_ok.mp hroom
    have h2 := l1Room_aside hs hr
    obtain ⟨_, s3, hm, hfill⟩ := M.bind_eq_ok.mp hrecall
    have h3 : s3 = s2 := by cases hm; rfl
    rw [h3] at hfill
    have hend {x : L1Line} {d : LineState} {u : State} (hx : dirtyCopy (some x) = none) (ho : d = .owned c ∨ d = .shared [c]) (hf : fillL1 c line x s2 = (.ok (), u)) (ht : t = u.setDir line d) : t.lineView l = s.lineView l := by
      obtain ⟨v, hv, rfl⟩ := fillL1_ok h2.tidy hf
      have hsv : Beside c line s v := (aside_isFrame c line).trans (fun _ => h2) (fun _ => hv) hs
      rw [ht]
      exact (lineView_takenClean hv.tidy (hq.of_beside hsv) ((hsv.sameLine line).dir.trans hd) hx ho l).trans (hsv.sameLine l).lineView
    cases part with
    | true =>
      obtain ⟨_, u, hf, hset⟩ := M.bind_eq_ok.mp hfill
      cases hset
      exact hend rfl (.inr rfl) hf rfl
    | false =>
      obtain ⟨_, u, hf, hset⟩ := M.bind_eq_ok.mp hfill
      cases hset
      exact hend rfl (.inl rfl) hf rfl
theorem readShared_quiet (hs : s.Tidy) (hq : s.Quiet c line) {held : Bool} (h : readShared c line s = (.ok held, t)) : ∀ l, t.lineView l = s.lineView l := by
  obtain ⟨_, s0, hm, hget⟩ := M.bind_eq_ok.mp h
  have hs0 : s0 = s.settle c line := by cases hm; rfl
  rw [hq.settle] at hs0
  rw [hs0] at hget
  obtain ⟨_, _, hg, hrest⟩ := M.bind_eq_ok.mp hget
  cases hg
  obtain ⟨-, -, -, -, -, ⟨hd, hl⟩ | ⟨-, hl | ⟨d, hl, -⟩⟩⟩ := id hq <;> rw [hl] at hrest
  · obtain ⟨_, s1, hfree, hrest⟩ := M.bind_eq_ok.mp hrest
    rw [hd] at hrest
    have h1 : Beside c line s s1 := (lineFree_aside line _ _ _ hfree).2 hs
    have hplain : readPlain c line (s.lineOwnedOut line) (s.heldOutside line) s1 = (.ok held, t) := hrest
    exact fun l => (readPlain_quiet h1.tidy (hq.of_beside h1) ((h1.sameLine line).dir.trans hd) hplain l).trans (h1.sameLine l).lineView
  · cases hrest
    exact fun _ => rfl
  · cases hrest
    exact fun _ => rfl
theorem cut_bytes {pa n : Nat} (hlen : (s.lineView (lineOf pa)).length = 128) (hn : pa % 128 + n ≤ 128) : cut (s.lineView (lineOf pa)) (pa % 128) n = (List.range n).map fun i => s.devByte (pa + i) := by
  refine List.ext_getElem (by simp [cut, hlen]; omega) fun i _ hi => ?_
  have hin : i < n := by simpa using hi
  have hl : lineOf (pa + i) = lineOf pa := by unfold lineOf; omega
  have hm : (pa + i) % 128 = pa % 128 + i := by omega
  rw [List.getElem_map, List.getElem_range, State.devByte, hl, hm, List.getD_eq_getElem _ _ (by omega)]
  simp [cut]
theorem coreLoad_quiet {pa n : Nat} {b : Bytes} (hs : s.Tidy) (hq : s.Quiet c (lineOf pa)) (hn : pa % 128 + n ≤ 128) (h : coreLoad c pa n s = (.ok b, t)) :
    b = (List.range n).map (fun i => s.devByte (pa + i)) ∧ ∀ a, t.devByte a = s.devByte a := by
  obtain ⟨_, s1, hsnoop, hrest⟩ := M.bind_eq_ok.mp h
  have h1 : Beside c (lineOf pa) s s1 := (snoopSectors_aside pa n false _ _ _ hsnoop).2 hs
  obtain ⟨held, s2, hread, hcut⟩ := M.bind_eq_ok.mp hrest
  have hview (l : Nat) : s2.lineView l = s.lineView l := (readShared_quiet h1.tidy (hq.of_beside h1) hread l).trans (h1.sameLine l).lineView
  cases hcut
  exact ⟨by rw [hview, cut_bytes hq.length_lineView hn], fun a => devByte_of_lineView (hview _)⟩

end Sys2Proof.Machine
end

section
/-! PROOFS. The effect of a store at each place: O47. -/
namespace Sys2Proof.Machine

variable {s s1 t : State} {k : Nat} {p : Place} {b : Bytes} {o : Order}

theorem ownOrder_ok {n : Nat} (h : ownOrder k p n s = (.ok (), s1)) : s1 = s := by
  obtain ⟨_, _, hg, h⟩ := M.bind_eq_ok.mp h
  cases hg
  rcases ite_eq_iff.mp ((M.run_ite ..).symm.trans h) with ⟨-, h⟩ | ⟨-, h⟩ <;> cases h
  rfl
theorem storePlace_ok (h : storePlace k p b o s = (.ok (), t)) : putPlace k p b o s = (.ok (), t) := by
  obtain ⟨_, s1, hown, h⟩ := M.bind_eq_ok.mp h
  cases ownOrder_ok hown
  obtain ⟨_, s2, hord, h⟩ := M.bind_eq_ok.mp h
  cases order_ok hord
  exact h
/-- The clock of a core set, as taking a serial does, or left as it was. -/
def Stamped (c : Nat) (s t : State) : Prop := t = s ∨ ∃ n, t = s.modCore c fun x => { x with clock := n }
/-- The effect of a store with its stamp. -/
def putEffect (k : Nat) (p : Place) (b : Bytes) (w : Nat) (kind : RecKind) : M Unit := do
  let s ← get
  match p with
  | .spad off => modify fun t => (t.spadPut (s.thr k).team off b).padRecords (s.thr k).team off b.length (t.tagOf (s.thr k).team) w kind
  | .hostm pa => modify fun s => s.hostStore pa b
  | .dev pa =>
    coreStore (keyCore k) pa b
    modify fun t => t.recordWrite (lineOf pa) (t.tagOf (s.thr k).team) w kind
theorem putPlace_ok (h : putPlace k p b o s = (.ok (), t)) : ∃ w kind s1, Stamped (keyCore k) s s1 ∧ putEffect k p b w kind s1 = (.ok (), t) := by
  rcases ho : o.rel with _ | sc
  · rw [putPlace, ho] at h
    obtain ⟨w, s1, hw, hrest⟩ := M.bind_eq_ok.mp h
    cases hw
    exact ⟨_, .plain, s, .inl rfl, hrest⟩
  · rw [putPlace, ho] at h
    obtain ⟨w, s1, hw, hrest⟩ := M.bind_eq_ok.mp h
    have hs1 := congrArg Prod.snd ((takeSerial_eq (keyCore k) s).symm.trans hw)
    exact ⟨w, .sync true sc, s1, .inr ⟨_, hs1.symm⟩, hrest⟩


/-! ### Stamps -/

theorem aside_clock {c c' line n : Nat} : Aside c line s (s.modCore c' fun x => { x with clock := n }) := fun h => by
  have hl1 (d : Nat) : ((s.modCore c' fun x => { x with clock := n }).core d).l1 = (s.core d).l1 := by
    rw [State.core_modCore]
    split
    · next he => rw [he]
    · rfl
  have hvictim (d : Nat) : ((s.modCore c' fun x => { x with clock := n }).core d).victim = (s.core d).victim := by
    rw [State.core_modCore]
    split
    · next he => rw [he]
    · rfl
  refine ⟨⟨h.dir, h.agents, h.mem, fun d => by rw [hl1]; exact h.l1 d, fun d => by rw [hvictim]; exact h.victim d, fun d l hl => ?_⟩, rfl, rfl, rfl, rfl, rfl, by rw [State.l1Of, State.l1Of, hl1], by rw [hvictim],
    fun d l => by rw [State.copyData, State.copyData, State.l1Of, State.l1Of, hl1, hvictim]⟩
  rw [State.l1Of, hl1] at hl
  rw [hvictim]
  exact h.apart d l hl
theorem Stamped.aside {c c' line : Nat} (h : Stamped c' s t) : Aside c line s t := by
  rcases h with rfl | ⟨n, rfl⟩
  · exact (aside_isFrame c line).refl _
  · exact aside_clock
theorem Stamped.parties {c : Nat} (h : Stamped c s t) : SameParties s t ∧ t.mem = s.mem := by
  rcases h with rfl | ⟨n, rfl⟩ <;> exact ⟨rfl, rfl⟩
theorem State.thr_of_threads {s t : State} (h : t.threads = s.threads) (k : Nat) : t.thr k = s.thr k := by rw [State.thr, State.thr, h]

/-! ### The scratchpad and host memory -/

/-- The records of the lines that stand in rows of a scratchpad are set, and nothing else. -/
theorem State.padRecords_keeps (s : State) (i off n tag w : Nat) (kind : RecKind) : ((s.padRecords i off n tag w kind).mem, (s.padRecords i off n tag w kind).parties) = (s.mem, s.parties) :=
  State.foldl_same (part := fun t => (t.mem, t.parties)) (by intro _ _; rfl) _ s
theorem storePlace_spad {off i : Nat} (hi : i = (s.thr k).team) (ht : (tget s.teams i).isSome = true) (hm : Memory.wf (s.team i).spad = true) (h : storePlace k (.spad off) b o s = (.ok (), t)) :
    t.mem = s.mem ∧ t.hostMem = s.hostMem ∧ t.threads = s.threads ∧ (∀ j, j ≠ i → t.team j = s.team j)
      ∧ ∀ a, memGet (t.team i).spad a = if off ≤ a ∧ a < off + b.length then b.getD (a - off) 0 else memGet (s.team i).spad a := by
  obtain ⟨w, kind, s1, hst, he⟩ := putPlace_ok (storePlace_ok h)
  obtain ⟨hp, hmem⟩ := hst.parties
  have hthr : (s1.thr k).team = i := by rw [State.thr_of_threads hp.threads, hi]
  have hput : t = (s1.spadPut i off b).padRecords i off b.length (s1.tagOf i) w kind := by
    cases he
    rw [hthr]
  have hk := (s1.spadPut i off b).padRecords_keeps i off b.length (s1.tagOf i) w kind
  have hpad : SameParties (s1.spadPut i off b) t := by rw [hput]; exact congrArg Prod.snd hk
  have htm : t.mem = s1.mem := by rw [hput]; exact congrArg Prod.fst hk
  have hteam (j : Nat) : s1.team j = s.team j := State.team_of_teams hp.teams j
  refine ⟨htm.trans hmem, hpad.hostMem.trans hp.hostMem, hpad.threads.trans hp.threads, fun j hj => ?_, fun a => ?_⟩
  · rw [State.team_of_teams hpad.teams, State.spadPut, State.team_modTeam_other _ hj, hteam]
  · rw [State.team_of_teams hpad.teams, State.spadPut, State.team_modTeam_same _ (by rw [hp.teams]; exact ht), hteam]
    exact memGet_memPutN _ _ _ hm
theorem State.hostStore_keeps (s : State) (pa : Nat) (b : Bytes) : (s.hostStore pa b).mem = s.mem ∧ (s.hostStore pa b).threads = s.threads ∧ (s.hostStore pa b).teams = s.teams ∧ (s.hostStore pa b).hostMem = memPutN s.hostMem pa b := by
  have h : ∀ l : List Nat, ((l.foldl (fun s c => if (s.l1Of c (hostLine pa)).isSome then s.setL1 c (hostLine pa) none else s) s).mem,
      (l.foldl (fun s c => if (s.l1Of c (hostLine pa)).isSome then s.setL1 c (hostLine pa) none else s) s).parties) = (s.mem, s.parties) := fun l =>
    State.foldl_same (part := fun t => (t.mem, t.parties)) (fun t c => by split <;> rfl) l s
  have hp : SameParties s _ := congrArg Prod.snd (h (s.cores.map (·.1)))
  exact ⟨congrArg Prod.fst (h _), hp.threads, hp.teams, congrArg (fun m => memPutN m pa b) hp.hostMem⟩
theorem storePlace_host {pa : Nat} (hm : Memory.wf s.hostMem = true) (h : storePlace k (.hostm pa) b o s = (.ok (), t)) :
    t.mem = s.mem ∧ t.threads = s.threads ∧ t.teams = s.teams ∧ ∀ a, memGet t.hostMem a = if pa ≤ a ∧ a < pa + b.length then b.getD (a - pa) 0 else memGet s.hostMem a := by
  obtain ⟨w, kind, s1, hst, he⟩ := putPlace_ok (storePlace_ok h)
  obtain ⟨hp, hmem⟩ := hst.parties
  have he' : t = s1.hostStore pa b := by cases he; rfl
  obtain ⟨h1, h2, h3, h4⟩ := s1.hostStore_keeps pa b
  rw [he']
  exact ⟨h1.trans hmem, h2.trans hp.threads, h3.trans hp.teams, fun a => by rw [h4, hp.hostMem, memGet_memPutN _ _ _ hm]⟩

/-! ### Device memory -/

theorem storePlace_dev {pa : Nat} (hs : s.Tidy) (hq : s.Quiet (keyCore k) (lineOf pa)) (hb : pa % 128 + b.length ≤ 128) (h : storePlace k (.dev pa) b o s = (.ok (), t)) :
    t.hostMem = s.hostMem ∧ t.threads = s.threads ∧ t.teams = s.teams ∧ ∀ a, t.devByte a = if pa ≤ a ∧ a < pa + b.length then b.getD (a - pa) 0 else s.devByte a := by
  obtain ⟨w, kind, s1, hst, he⟩ := putPlace_ok (storePlace_ok h)
  have h1 : Beside (keyCore k) (lineOf pa) s s1 := hst.aside hs
  have hq1 := hq.of_beside h1
  obtain ⟨_, _, hg, hrest⟩ := M.bind_eq_ok.mp he
  cases hg
  obtain ⟨_, s2, hstore, hrec⟩ := M.bind_eq_ok.mp hrest
  have hp : SameParties s s2 := sameParties_isFrame.trans hst.parties.1 (coreStore_parties h1.tidy hq1 hstore)
  have hw := (coreStore_written h1.tidy hq1 hb hstore).devByte hb
  cases hrec
  refine ⟨hp.hostMem, hp.threads, hp.teams, fun a => ?_⟩
  have hrecord (w tag : Nat) : SameLine (lineOf a) s2 (s2.recordWrite (lineOf pa) tag w kind) := ⟨rfl, rfl, fun _ => rfl, fun _ => rfl, rfl⟩
  rw [devByte_of_lineView (hrecord w _).lineView, hw, devByte_of_lineView (h1.sameLine _).lineView]

end Sys2Proof.Machine
open Sys2Proof Sys2Proof.Machine

/-- Settles O47, by what the coherence order has of each line before and after the store. -/
theorem memoryFrame : Obligations.MemoryFrame :=
  ⟨fun _ _ _ _ _ _ _ hi ht hm h => storePlace_spad hi ht hm h,
   fun _ _ _ _ _ _ hm h => storePlace_host hm h,
   fun _ _ _ _ _ _ hs hq hb h => storePlace_dev hs hq hb h,
   fun c pa n s _ _ hs hq hn h => by
    obtain ⟨hb, hd⟩ := coreLoad_quiet hs hq hn h
    have hp : SameParties s _ := ((coreLoad_sameParties c pa n).ensures s _ _ h).2
    exact ⟨hb, hp.hostMem, hp.threads, hp.teams, hd⟩⟩

end
